-- ==== Sys2Proof/Word.lean ====
section
/-! DEFINITION. The bit-vector names the manual uses (R10, R55, R110). -/
namespace Sys2Proof

abbrev Byte := BitVec 8
/-- A scalar register, a CSR, a witness. -/
abbrev Word := BitVec 64
/-- A handle: buffer index [71:56] and offset [55:0] (R55). -/
abbrev Handle := BitVec 72
/-- A device physical address (R67). -/
abbrev Dpa := BitVec 48

end Sys2Proof
end

