-- ==== Sys2Proof/Machine/Fp.lean ====
section
/-! DEFINITION. Formats, exact values and rounding (R22–R30, R39–R44, R46, R49). Values are dyadic: mantissa times a power
of two; a value is narrowed to a code once, here. -/
namespace Sys2Proof.Machine
open Sys2Proof

/-- The formats of R22. -/
inductive Fmt where
  | f32 | bf16 | f16 | e4m3 | e5m2 | e2m1 | q8 | q4 | i8 | i16 | i32 | i64 | n8 | n16 | n32 | n64
  deriving DecidableEq, Repr

/-- Format codes (R32); NONE and the reserved codes name no format. -/
def Fmt.ofCode (c : Nat) : Option Fmt :=
  match c with
  | 1 => some .f32 | 2 => some .bf16 | 3 => some .f16 | 4 => some .e4m3 | 5 => some .e5m2 | 6 => some .e2m1
  | 7 => some .q8 | 8 => some .q4 | 9 => some .i8 | 10 => some .i16 | 11 => some .i32 | 12 => some .i64
  | 13 => some .n8 | 14 => some .n16 | 15 => some .n32 | 16 => some .n64 | _ => none

def Fmt.code : Fmt → Nat
  | .f32 => 1 | .bf16 => 2 | .f16 => 3 | .e4m3 => 4 | .e5m2 => 5 | .e2m1 => 6 | .q8 => 7 | .q4 => 8
  | .i8 => 9 | .i16 => 10 | .i32 => 11 | .i64 => 12 | .n8 => 13 | .n16 => 14 | .n32 => 15 | .n64 => 16

/-- Element width in bits (R22, R216). -/
def Fmt.width : Fmt → Nat
  | .f32 | .i32 | .n32 => 32
  | .bf16 | .f16 | .i16 | .n16 => 16
  | .e4m3 | .e5m2 | .q8 | .i8 | .n8 => 8
  | .e2m1 | .q4 => 4
  | .i64 | .n64 => 64

def Fmt.isFloat : Fmt → Bool
  | .f32 | .bf16 | .f16 | .e4m3 | .e5m2 => true
  | _ => false
def Fmt.isSigned : Fmt → Bool
  | .i8 | .i16 | .i32 | .i64 => true
  | _ => false
def Fmt.isNat : Fmt → Bool
  | .n8 | .n16 | .n32 | .n64 => true
  | _ => false
def Fmt.isInt (f : Fmt) : Bool := f.isSigned || f.isNat
def Fmt.isQ : Fmt → Bool
  | .q8 | .q4 => true
  | _ => false
/-- Group- or block-scaled formats (R28, R29). -/
def Fmt.isScaled (f : Fmt) : Bool := f.isQ || f == .e2m1

/-- Sticky flags as FSTAT lays them out (R46). -/
abbrev Flags := BitVec 6
def flNX : Flags := 1
def flUF : Flags := 2
def flOF : Flags := 4
def flDZ : Flags := 8
def flIV : Flags := 16
def flSA : Flags := 32
def flagIf (b : Bool) (f : Flags) : Flags := if b then f else 0

/-- Parameters of a binary float format (R23): mantissa bits, bias, the largest finite code without its sign. -/
structure FpParams where
  width : Nat
  man   : Nat
  bias  : Nat
  maxCode : Nat
  inf   : Option Nat
  nan   : Option Nat
  deriving DecidableEq, Repr

def Fmt.params : Fmt → FpParams
  | .bf16 => ⟨16, 7, 127, 0x7F7F, some 0x7F80, some 0x7FC0⟩
  | .f16  => ⟨16, 10, 15, 0x7BFF, some 0x7C00, some 0x7E00⟩
  | .e4m3 => ⟨8, 3, 7, 0x7E, none, some 0x7F⟩
  | .e5m2 => ⟨8, 2, 15, 0x7B, some 0x7C, some 0x7E⟩
  | .e2m1 => ⟨4, 1, 1, 0x7, none, none⟩
  | _     => ⟨32, 23, 127, 0x7F7FFFFF, some 0x7F800000, some 0x7FC00000⟩

/-- A value: a NaN (signalling or quiet), an infinity, or ± `m` × 2^`e` (a zero keeps its sign). -/
inductive Val where
  | nan (sig : Bool)
  | inf (neg : Bool)
  | fin (neg : Bool) (m : Nat) (e : Int)
  deriving DecidableEq, Repr

def Val.zero : Val := .fin false 0 0
def Val.isNaN : Val → Bool
  | .nan _ => true
  | _ => false
def Val.isSig : Val → Bool
  | .nan s => s
  | _ => false
def Val.isInf : Val → Bool
  | .inf _ => true
  | _ => false
def Val.isZero : Val → Bool
  | .fin _ m _ => m == 0
  | _ => false
def Val.negSign : Val → Bool
  | .fin n _ _ => n
  | .inf n => n
  | .nan _ => false
def Val.isFinite : Val → Bool
  | .fin .. => true
  | _ => false

/-- The value a float code denotes (R24, R25, R23). -/
def decodeFloat (f : Fmt) (code : Nat) : Val :=
  let p := f.params
  let neg := code / 2 ^ (p.width - 1) % 2 == 1
  let mag := code % 2 ^ (p.width - 1)
  let ex := mag / 2 ^ p.man
  let mant := mag % 2 ^ p.man
  if mag > p.maxCode then
    if p.inf == some mag then .inf neg
    else .nan (match f with
      | .e4m3 => false
      | _ => mant / 2 ^ (p.man - 1) == 0)
  else if ex = 0 then .fin neg mant (1 - (p.bias : Int) - p.man)
  else .fin neg (2 ^ p.man + mant) ((ex : Int) - p.bias - p.man)

/-- Two's complement value of the low `n` bits. -/
def signedOf (n code : Nat) : Int :=
  let c := code % 2 ^ n
  if c < 2 ^ (n - 1) then (c : Int) else (c : Int) - 2 ^ n

def Val.ofInt (i : Int) : Val := .fin (i < 0) i.natAbs 0

/-- The integer an In or Nn code denotes (R27). -/
def decodeInt (f : Fmt) (code : Nat) : Int :=
  if f.isSigned then signedOf f.width code else ((code % 2 ^ f.width : Nat) : Int)

/-- decode(code, f) of an elementwise format; an E2M1 code without its scales (R24, R26, R27). -/
def decodeElem (f : Fmt) (code : Nat) : Val :=
  if f.isInt then .ofInt (decodeInt f code) else decodeFloat f code

/-- The exact product under the rules of R30. -/
def Val.mul (a b : Val) : Val :=
  match a, b with
  | .nan x, .nan y => .nan (x || y)
  | .nan x, _ => .nan x
  | _, .nan y => .nan y
  | .inf x, .inf y => .inf (x ^^ y)
  | .inf x, .fin y m _ => if m = 0 then .nan true else .inf (x ^^ y)
  | .fin x m _, .inf y => if m = 0 then .nan true else .inf (x ^^ y)
  | .fin x m e, .fin y n k => .fin (x ^^ y) (m * n) (if m * n = 0 then 0 else e + k)

/-- The product of factors under R30: NaN factors first, then a zero with an infinity. -/
def Val.prod (l : List Val) : Val :=
  if l.any Val.isNaN then .nan (l.any Val.isSig)
  else if l.any Val.isZero && l.any Val.isInf then .nan true
  else l.foldl Val.mul (.fin false 1 0)

/-- A product with an integer factor of a Q form (R28, R262): where a factor is zero, `i` counts as positive (R30). -/
def Val.qprod (i : Int) (l : List Val) : Val :=
  Val.prod (.ofInt (if l.any Val.isZero then i.natAbs else i) :: l)

def Val.neg : Val → Val
  | .nan s => .nan s
  | .inf n => .inf (!n)
  | .fin n m e => .fin (!n) m e

/-- Signed mantissa of a finite value at exponent `k`, exact when `k` is no larger than its own exponent. -/
def Val.scaled (v : Val) (k : Int) : Int :=
  match v with
  | .fin n m e => let x : Int := (m * 2 ^ (e - k).toNat : Nat); if n then -x else x
  | _ => 0

def Val.expo : Val → Int
  | .fin _ m e => if m = 0 then 0 else e
  | _ => 0

/-- The exact sum with the sign rule of R41; `rdn` when the sum is rounded toward −infinity. Opposite infinities give a
signalling NaN, so that its consumer sets IV (R161, R225). -/
def Val.add (rdn : Bool) (a b : Val) : Val :=
  match a, b with
  | .nan x, .nan y => .nan (x || y)
  | .nan x, _ => .nan x
  | _, .nan y => .nan y
  | .inf x, .inf y => if x = y then .inf x else .nan true
  | .inf x, _ => .inf x
  | _, .inf y => .inf y
  | .fin x m e, .fin y n f =>
    if m = 0 ∧ n = 0 then .fin (if x = y then x else rdn) 0 0
    else if m = 0 then .fin y n f
    else if n = 0 then .fin x m e
    else
      let k := min e f
      let s := (Val.fin x m e).scaled k + (Val.fin y n f).scaled k
      if s = 0 then .fin rdn 0 0 else .fin (s < 0) s.natAbs k

/-- Rounding modes (R39); SR carries its draw u (R44). -/
inductive Rnd where
  | rne | rtz | rdn | rup
  | sr (u : Nat)
  deriving DecidableEq, Repr

/-- sr_mix (R43). -/
def srMix (seed idx : BitVec 64) : BitVec 64 :=
  let x := seed ^^^ (idx * 0x9E3779B97F4A7C15)
  let x := (x ^^^ (x >>> 30)) * 0xBF58476D1CE4E5B9
  let x := (x ^^^ (x >>> 27)) * 0x94D049BB133111EB
  x ^^^ (x >>> 31)

/-- The draw u of R44. -/
def srDraw (seed : BitVec 64) (idx : Nat) : Nat := (srMix seed (BitVec.ofNat 64 idx)).toNat / 2 ^ 32

/-- The mode a code of R39 selects, with the draw SR would use; none for the reserved codes. -/
def Rnd.ofCode (c u : Nat) : Option Rnd :=
  match c with
  | 0 => some .rne | 1 => some .rtz | 2 => some .rdn | 3 => some .rup | 4 => some (.sr u) | _ => none

/-- Does the magnitude `t` + `r`/`d` (0 ≤ r < d) round up to t + 1? (R39, R44) -/
def roundsUp (rm : Rnd) (neg : Bool) (t r d : Nat) : Bool :=
  match rm with
  | .rne => 2 * r > d || (2 * r == d && t % 2 == 1)
  | .rtz => false
  | .rdn => neg && r != 0
  | .rup => !neg && r != 0
  | .sr u => decide (u < r * 2 ^ 32 / d)

/-- floor(log2(num / den)) of a positive fraction. -/
def floorLog2 (num den : Nat) : Int :=
  let l : Int := (num.log2 : Int) - den.log2
  let ge : Bool := if 0 ≤ l then decide (den * 2 ^ l.toNat ≤ num) else decide (den ≤ num * 2 ^ (-l).toNat)
  if ge then l else l - 1

/-- num / den = (t + r/d) × 2^q, exactly. -/
def atQuantum (num den : Nat) (q : Int) : Nat × Nat × Nat :=
  let n := num * 2 ^ (-q).toNat
  let d := den * 2 ^ q.toNat
  (n / d, n % d, d)

/-- A magnitude rounded down and up in `f` with an unbounded exponent and the subnormal spacing at the bottom (R40): the
code of the lower neighbour, and the remainder towards the next code. Codes of magnitudes count upward by one. -/
def neighbours (p : FpParams) (num den : Nat) : Nat × Nat × Nat :=
  if num = 0 then (0, 0, 1) else
  let emin : Int := 1 - (p.bias : Int)
  let e := max (floorLog2 num den) emin
  let (t, r, d) := atQuantum num den (e - p.man)
  ((e - emin).toNat * 2 ^ p.man + t, r, d)

/-- The overflow table of R40. -/
def overflowCode (p : FpParams) (rm : Rnd) (neg : Bool) : Nat :=
  match p.inf with
  | none => p.maxCode
  | some i =>
    match rm with
    | .rne | .sr _ => i
    | .rtz => p.maxCode
    | .rdn => if neg then i else p.maxCode
    | .rup => if neg then p.maxCode else i

/-- round(x, f, mode) of the exact ± num/den (R40, R41, R44) with OF, UF and NX (R46). `sticky` says that the true value
lies strictly between num/den and every code boundary above it. -/
def roundFrac (f : Fmt) (rm : Rnd) (neg : Bool) (num den : Nat) (sticky : Bool := false) : Nat × Flags :=
  let p := f.params
  let sign := if neg then 2 ^ (p.width - 1) else 0
  let (n', d') := if sticky then (2 * num + 1, 2 * den) else (num, den)
  let (lo, r, d) := neighbours p n' d'
  let c := if roundsUp rm neg lo r d then lo + 1 else lo
  if c > p.maxCode then (sign + overflowCode p rm neg, flOF ||| flNX)
  else
    let inexact := r != 0
    (sign + c, flagIf inexact flNX ||| flagIf (inexact && decide (c < 2 ^ p.man)) flUF)

/-- A finite magnitude as a fraction. -/
def fracOf (m : Nat) (e : Int) : Nat × Nat := (m * 2 ^ e.toNat, 2 ^ (-e).toNat)

/-- A value narrowed to a float format: the float and E4M3 rows of R49, which R161 and R225 share. -/
def roundVal (f : Fmt) (rm : Rnd) (v : Val) : Nat × Flags :=
  let p := f.params
  match v with
  | .nan s =>
    match p.nan with
    | some c => (c, flagIf s flIV)
    | none => (0, flIV)
  | .inf n =>
    let sign := if n then 2 ^ (p.width - 1) else 0
    match p.inf with
    | some i => (sign + i, 0)
    | none => (sign + p.maxCode, flIV)
  | .fin n m e => let (a, b) := fracOf m e; roundFrac f rm n a b

/-- round_int(± num/den, mode) (R42) and whether it is inexact. -/
def roundIntFrac (rm : Rnd) (neg : Bool) (num den : Nat) : Int × Bool :=
  let t := num / den
  let r := num % den
  let m := if roundsUp rm neg t r den then t + 1 else t
  (if neg then -(m : Int) else m, r != 0)

/-- The range of In and Nn (R27). -/
def intMin (f : Fmt) : Int := if f.isSigned then -(2 ^ (f.width - 1) : Nat) else 0
def intMax (f : Fmt) : Int := if f.isSigned then (2 ^ (f.width - 1) : Nat) - 1 else (2 ^ f.width : Nat) - 1

/-- The low bits of an integer as a code: wrap(x, n). -/
def wrapCode (n : Nat) (x : Int) : Nat := (x % (2 ^ n : Nat)).toNat

/-- sat(x, f) as a code, SA when clamped (R49). -/
def satCode (f : Fmt) (x : Int) : Nat × Flags :=
  if x < intMin f then (wrapCode f.width (intMin f), flSA)
  else if intMax f < x then (wrapCode f.width (intMax f), flSA)
  else (wrapCode f.width x, 0)

/-- convert() of an element value into an elementwise format (R49). `srcInt`: the source is In or Nn; `sat`: the saturate
bit, used between integer formats only. The rounding of a float, Q or E2M1 source to an integer sets NX when inexact (R46). -/
def convertVal (f : Fmt) (rm : Rnd) (srcInt sat : Bool) (v : Val) : Nat × Flags :=
  if f.isInt then
    match v with
    | .nan _ => (0, flIV)
    | .inf n => (wrapCode f.width (if n then intMin f else intMax f), flIV)
    | .fin n m e =>
      let (a, b) := fracOf m e
      let (i, inexact) := roundIntFrac rm n a b
      if srcInt && !sat then (wrapCode f.width i, 0)
      else
        let (c, fl) := satCode f i
        (c, fl ||| flagIf inexact flNX)
  else roundVal f rm v

/-- What asks for a sum under profile 0, whose order may depend on it (R160). -/
inductive SumOf where
  | vrsum (f : Fmt)
  | vdot (a b : Fmt)
  | mma (kind : Nat)
  | coll (f : Fmt)
  deriving DecidableEq, Repr

/-- Comparison of two values that are not NaN: a < b, with −0 = +0. -/
def Val.lt (a b : Val) : Bool :=
  match a, b with
  | .inf x, .inf y => x && !y
  | .inf x, .fin .. => x
  | .fin .., .inf y => !y
  | .fin x m e, .fin y n f =>
    let k := min e f
    decide ((Val.fin x m e).scaled k < (Val.fin y n f).scaled k)
  | _, _ => false
def Val.eqv (a b : Val) : Bool := !a.isNaN && !b.isNaN && !a.lt b && !b.lt a

/-- a < b with −0 less than +0 (R226). -/
def Val.ltZ (a b : Val) : Bool := a.lt b || (a.isZero && b.isZero && a.negSign && !b.negSign)

/-- Minimum and maximum of two codes of one float format (R226), the home-slice rule (R340). -/
def floatMinMax (f : Fmt) (isMax : Bool) (x y : Nat) : Nat × Flags :=
  let a := decodeFloat f x
  let b := decodeFloat f y
  if a.isNaN || b.isNaN then (f.params.nan.getD 0, flagIf (a.isSig || b.isSig) flIV)
  else if isMax then (if a.ltZ b then y else x, 0)
  else (if b.ltZ a then y else x, 0)

/-- The exact quotient in the sense of VDIV (R225): value cases first, the finite quotient as a fraction. -/
def floatDiv (f : Fmt) (a b : Val) : Nat × Flags :=
  match a, b with
  | .fin x m e, .fin y n k =>
    if n = 0 then
      if m = 0 then roundVal f .rne (.nan true)
      else ((roundVal f .rne (.inf (x ^^ y))).1, flDZ)
    else
      let (p, q) := fracOf m e
      let (r, s) := fracOf n k
      roundFrac f .rne (x ^^ y) (p * s) (q * r)
  | .fin x _ _, .inf y => roundVal f .rne (.fin (x ^^ y) 0 0)
  | .inf x, .fin y _ _ => roundVal f .rne (.inf (x ^^ y))
  | .inf _, .inf _ => roundVal f .rne (.nan true)
  | _, _ => roundVal f .rne (.nan (a.isSig || b.isSig))

end Sys2Proof.Machine
end

