-- ==== Sys2Proof/Config.lean ====
section
/-! DEFINITION. What the manual leaves to the part. Each `opaque` constant has no body: nothing can be proved of its
value (log 7). -/
namespace Sys2Proof.Config
open Sys2Proof Sys2Proof.Machine

/-- Fresh unspecified words: applied to `State.freeCtr` (log 7). -/
opaque freeWord : Nat → BitVec 64
/-- A fresh unspecified string of bytes packed in a number: registers not named live after a PPT yield (R109, log 10), the
opaque part of a save image (R493), data another device holds (log 15). -/
opaque freeBits : Nat → Nat → Nat

/-- Profile 0 (R160): the part's own result of one sum, and the flags of its own intermediate steps. -/
opaque profile0 : SumOf → (acc : Val) → (p : List Val) → (index : Nat) → Nat
opaque profile0Flags : SumOf → (acc : Val) → (p : List Val) → (index : Nat) → BitVec 6

/-- The code an .A form returns when it meets the bound of R243: by opcode, format and source code. -/
opaque approx : (fn fmt code : Nat) → Nat

/-- SHA3-512 (R507), ML-DSA-87 verification (R506) and signing (R508), which the manual names and does not define
(log 13). -/
opaque sha3_512 : List (BitVec 8) → BitVec 512
opaque mldsaVerify : (key msg sig : List (BitVec 8)) → Bool
opaque mldsaSign : (key msg : List (BitVec 8)) → List (BitVec 8)
/-- The fused serial number and keys (R506–R508). -/
opaque serial : BitVec 64
opaque fusedKey : List (BitVec 8)
opaque romKey : List (BitVec 8)
opaque publicKey : List (BitVec 8)

/-- The MSC set of a line (R2, R355): the manual gives 16 ways and the capacity, not the index (log 11). -/
opaque mscIndex : Nat → Nat
/-- 768 MiB per storage die in lines of 128 bytes and 16 ways (R2). -/
def mscSets : Nat := 768 * 2 ^ 20 / 128 / 16
def mscSet (line : Nat) : Nat := mscIndex line % mscSets

/-- Energy counters (R176, R177), island voltages and frequencies (R178, R179): the manual gives them no figures (log 14). -/
opaque energy : Nat → BitVec 64
opaque island : (island when_ : Nat) → BitVec 64

end Sys2Proof.Config
end

