-- ==== Sys2Proof/Machine/Dot.lean ====
section
/-! DEFINITION. Sums of products under the numerics profiles (R157–R161) and the sums of VRSUM, VDOT and the MMA family. -/
namespace Sys2Proof.Machine
open Sys2Proof

/-- Infinities of both signs among the terms. -/
def bothInfs (p : List Val) : Bool := p.any (· == .inf true) && p.any (· == .inf false)

/-- R161 over the products of one chunk: some special value that decides the sum, if there is one. Infinities of both signs
set IV beside a quiet NaN too. -/
def specialOf (p : List Val) : Option Val :=
  if p.any Val.isNaN then some (.nan (p.any Val.isSig || bothInfs p))
  else if bothInfs p then some (.nan true)
  else if p.any (· == .inf true) then some (.inf true)
  else if p.any (· == .inf false) then some (.inf false)
  else none

/-- floor(log2 |v|) of a nonzero finite value. -/
def Val.log2 : Val → Int
  | .fin _ m e => (m.log2 : Int) + e
  | _ => 0

def maxInt : List Int → Int
  | [] => 0
  | [x] => x
  | x :: xs => max x (maxInt xs)
def minInt : List Int → Int
  | [] => 0
  | [x] => x
  | x :: xs => min x (minInt xs)

/-- The exact sum of finite values as an integer at exponent `k`. -/
def sumAt (k : Int) (p : List Val) : Int := p.foldl (fun s v => s + v.scaled k) 0

/-- A finite value truncated toward zero to a multiple of 2^k, and whether that discarded anything (R158). -/
def truncAt (k : Int) : Val → Int × Bool
  | .fin n m e =>
    if k ≤ e then ((Val.fin n m e).scaled k, false)
    else
      let d := 2 ^ (k - e).toNat
      let t : Int := (m / d : Nat)
      (if n then -t else t, m % d != 0)
  | _ => (0, false)

/-- chunk_sum (R158): the exact sum, or with `w` the sum of terms truncated below 2^(emax − w + 1); and NX of the
truncation. -/
def chunkSum (w : Option Nat) (p : List Val) : Val × Bool :=
  match specialOf p with
  | some v => (v, false)
  | none =>
    let nz := p.filter (fun v => !v.isZero)
    if nz.isEmpty then (.fin (p.all Val.negSign && !p.isEmpty) 0 0, false)
    else
      match w with
      | none =>
        let k := minInt (nz.map Val.expo)
        let s := sumAt k nz
        (.fin (s < 0) s.natAbs (if s = 0 then 0 else k), false)
      | some w =>
        let k := maxInt (nz.map Val.log2) - w + 1
        let ts := nz.map (truncAt k)
        let s : Int := ts.foldl (fun a t => a + t.1) 0
        (.fin (s < 0) s.natAbs (if s = 0 then 0 else k), ts.any Prod.snd)

/-- Splits into chunks of `n`, the last one short (R158). -/
def chunksOf {α : Type} (n : Nat) : Nat → List α → List (List α)
  | 0, _ => []
  | _, [] => []
  | fuel + 1, xs => xs.take n :: chunksOf n fuel (xs.drop n)

/-- round_rne(acc + t, F32) on codes. -/
def addF32 (acc : Nat) (t : Val) : Nat × Flags := roundVal .f32 .rne ((decodeFloat .f32 acc).add false t)

/-- The chunks of dot() from chunk number `c` on. -/
def dotChunks (seed : BitVec 64) (w : Option Nat) (sr : Bool) (e : Nat) : Nat → List (List Val) → Nat × Flags → Nat × Flags
  | _, [], a => a
  | c, p :: ps, (acc, fl) =>
    let (s, nx) := chunkSum w p
    let (t, f1) := roundVal .f32 (if sr then .sr (srDraw seed (e * 65536 + c)) else .rne) s
    let (a', f2) := addF32 acc (decodeFloat .f32 t)
    dotChunks seed w sr e (c + 1) ps (a', fl ||| f1 ||| f2 ||| flagIf nx flNX)

/-- |a − b| ≤ c for finite values given with their signs. -/
def within (a b : Val) (c : Int → Int → Bool) : Bool :=
  let k := min a.expo b.expo
  c (a.scaled k - b.scaled k) k

/-- The bound of R160 and R438 on a candidate result of a sum: |r − x| ≤ n × 2^−23 × Σ |term|. -/
def meetsBound (n : Nat) (terms : List Val) (r : Val) : Bool :=
  let k := minInt ((r :: terms).map Val.expo)
  let x := sumAt k terms
  let mag := terms.foldl (fun s v => s + ((v.scaled k).natAbs : Int)) 0
  r.isFinite && decide (((r.scaled k - x).natAbs : Int) * 2 ^ 23 ≤ n * mag)

/-- No order of these terms makes any rounding inexact: all are multiples of one power of two, and the sum of their
magnitudes keeps within 24 bits of it. -/
def exactInAnyOrder (p : List Val) : Bool :=
  let k := minInt ((p.filter (fun v => !v.isZero)).map Val.expo)
  decide (-149 ≤ k) && decide (p.foldl (fun s v => s + (v.scaled k).natAbs) 0 < 2 ^ 24)

/-- The F32 code of a sum a + Σ p in an order the part chooses: the part's choice where it meets the bound with factor `n`,
else the exact sum rounded once (log 7). Special values, a sum of zeros and a zero result of an exact zero sum are those of
R161 and R41. NX says whether the code differs from the exact sum. -/
def sum0 (op : SumOf) (n : Nat) (a : Val) (p : List Val) (e : Nat) : Nat × Flags :=
  let x := (chunkSum none (a :: p)).1
  let best := roundVal .f32 .rne x
  let r := Config.profile0 op a p e % 2 ^ 32
  let v := decodeFloat .f32 r
  if x.isFinite && !(a :: p).all Val.isZero && meetsBound n (a :: p) v && !(v.isZero && x.isZero) then
    let k := min x.expo v.expo
    (r, flagIf (x.scaled k != v.scaled k) flNX)
  else best

/-- Profile 0 (R160). NX and UF of the part's own steps are free unless every order is exact; UF comes with NX only (R46). IV is
free where a quiet NaN stands beside infinities of both signs, which may or may not meet in one chunk (R161). A sum that holds a NaN
or an infinity sets no NX, UF or OF for its other terms (log 7). -/
def dot0 (op : SumOf) (acc : Nat) (p : List Val) (e : Nat) : Nat × Flags :=
  let a := decodeFloat .f32 acc
  let terms := a :: p
  let own := Config.profile0Flags op a p e
  let r := sum0 op ((p.length + 15) / 16 + 1) a p e
  if terms.any Val.isNaN then (r.1, if terms.any Val.isSig then flIV else if bothInfs terms then own &&& flIV else 0)
  else if terms.any Val.isInf || (r.2 == 0 && exactInAnyOrder terms) then r
  else (r.1, r.2 ||| (if (own ||| r.2).getLsbD 0 then own &&& (flNX ||| flUF) else 0))

/-- dot(acc, p, K, np, e) (R158), on the code of the accumulator. Profile 5 acts as profile 1 here (R159). -/
def dot (op : SumOf) (seed : BitVec 64) (np : Nat) (acc : Nat) (p : List Val) (e : Nat) : Nat × Flags :=
  match np with
  | 0 => dot0 op acc p e
  | 3 => p.foldl (fun (a, fl) v => let (a', f) := addF32 a v; (a', fl ||| f)) (acc, 0)
  | 2 => dotChunks seed (some 48) false e 0 (chunksOf 32 p.length p) (acc, 0)
  | 4 => dotChunks seed none false e 0 (chunksOf 64 p.length p) (acc, 0)
  | 6 => dotChunks seed (some 40) true e 0 (chunksOf 16 p.length p) (acc, 0)
  | _ => dotChunks seed (some 40) false e 0 (chunksOf 16 p.length p) (acc, 0)

/-- Profile 5 on block-scaled operands (R159): `blocks` holds for each block its exact products and its two scales. -/
def dotBlocks (op : SumOf) (seed : BitVec 64) (acc : Nat) (blocks : List (List Val × Val × Val)) (tx ty : Val) (e : Nat) : Nat × Flags :=
  let r := blocks.map (fun (p, sx, sy) => Val.prod [(chunkSum none p).1, sx, sy])
  let (u, f1) := dot op seed 1 0 r e
  let (a, f2) := addF32 acc (Val.prod [decodeFloat .f32 u, tx, ty])
  (a, f1 ||| f2)

end Sys2Proof.Machine
end

