-- ==== Sys2Proof/Syntax.lean ====
section
/-! DEFINITION. Instructions as syntax: one constructor of `Instr` for each row of the opcode table. A slot instruction
(`SlotInstr`) is an `Instr` under a guard. The 14 commands to the engines keep their register fields beside the constructor,
in `EngineOps`, and the 99 steps without an encoding keep what they act on in `EventArg`: compiled Lean cannot build a value
of a constructor with fields beyond the 245th, and both hold plain data either way (log 4). -/
namespace Sys2Proof

/-- The guard fields of a slot word (R113, R114): predicate number, negation, iteration qualifier (R115). -/
structure Guard where
  g : BitVec 4
  n : BitVec 1
  q : BitVec 2
  deriving DecidableEq, Repr

/-- The slot classes of R122: V serves V0 and V1. -/
inductive SlotClass where
  | S | V | M | L | G
  deriving DecidableEq, Repr

/-- The places of a bundle in the order of R110; TCAUSE.SLOT (R477) numbers them 0 to 7 in this order. -/
inductive Slot where
  | header | S | V0 | V1 | M | L | G | X
  deriving DecidableEq, Repr

/-- Why a word is no instruction (R121 checks 5 and 7). -/
inductive DecodeError where
  | illegalOpcode | reservedEncoding
  deriving DecidableEq, Repr

/-- The bundle header (R111). -/
structure Header where
  pm    : BitVec 7
  fa    : BitVec 1
  np    : BitVec 4
  sv    : BitVec 1
  stamp : BitVec 11
  xr    : BitVec 3
  lql   : BitVec 3
  low   : BitVec 2
  deriving DecidableEq, Repr

/-- Fields D, A and B of an engine command (R328, R377, R419, R435, R461). -/
structure EngineOps where
  d : BitVec 5
  a : BitVec 5
  b : BitVec 5
  deriving DecidableEq, Repr

/-- What a step without an encoding acts on: numbers that name its subject, a register value, bytes. The docstring of
each meaning says which it reads. -/
structure EventArg where
  n : Nat := 0
  m : Nat := 0
  k : Nat := 0
  v : BitVec 64 := 0
  bytes : List (BitVec 8) := []
  deriving DecidableEq, Repr

/-- One constructor for each row of spec/opcode_table.json. -/
inductive Instr where
  -- class S (R123)
  | add (d : BitVec 5) (a : BitVec 5) (b : BitVec 5)  -- R183
  | sub (d : BitVec 5) (a : BitVec 5) (b : BitVec 5)  -- R183
  | mul (d : BitVec 5) (a : BitVec 5) (b : BitVec 5)  -- R183
  | mulh (d : BitVec 5) (a : BitVec 5) (b : BitVec 5)  -- R183
  | mulhn (d : BitVec 5) (a : BitVec 5) (b : BitVec 5)  -- R183
  | div (d : BitVec 5) (a : BitVec 5) (b : BitVec 5)  -- R183
  | divn (d : BitVec 5) (a : BitVec 5) (b : BitVec 5)  -- R183
  | rem (d : BitVec 5) (a : BitVec 5) (b : BitVec 5)  -- R183
  | remn (d : BitVec 5) (a : BitVec 5) (b : BitVec 5)  -- R183
  | and (d : BitVec 5) (a : BitVec 5) (b : BitVec 5)  -- R183
  | or (d : BitVec 5) (a : BitVec 5) (b : BitVec 5)  -- R183
  | xor (d : BitVec 5) (a : BitVec 5) (b : BitVec 5)  -- R183
  | andn (d : BitVec 5) (a : BitVec 5) (b : BitVec 5)  -- R183
  | sll (d : BitVec 5) (a : BitVec 5) (b : BitVec 5)  -- R183
  | srl (d : BitVec 5) (a : BitVec 5) (b : BitVec 5)  -- R183
  | sra (d : BitVec 5) (a : BitVec 5) (b : BitVec 5)  -- R183
  | min (d : BitVec 5) (a : BitVec 5) (b : BitVec 5)  -- R183
  | max (d : BitVec 5) (a : BitVec 5) (b : BitVec 5)  -- R183
  | minn (d : BitVec 5) (a : BitVec 5) (b : BitVec 5)  -- R183
  | maxn (d : BitVec 5) (a : BitVec 5) (b : BitVec 5)  -- R183
  | clz (d : BitVec 5) (a : BitVec 5)  -- R183
  | ctz (d : BitVec 5) (a : BitVec 5)  -- R183
  | popc (d : BitVec 5) (a : BitVec 5)  -- R183
  | adds (d : BitVec 5) (a : BitVec 5) (b : BitVec 5) (t : BitVec 1)  -- R184
  | subs (d : BitVec 5) (a : BitVec 5) (b : BitVec 5) (t : BitVec 1)  -- R184
  | sext (d : BitVec 5) (a : BitVec 5) (w : BitVec 2)  -- R183
  | zext (d : BitVec 5) (a : BitVec 5) (w : BitVec 2)  -- R183
  | bfx (d : BitVec 5) (a : BitVec 5) (b : BitVec 5) (x : BitVec 1)  -- R185
  | bfi (d : BitVec 5) (a : BitVec 5) (b : BitVec 5)  -- R185
  | mov (d : BitVec 5) (a : BitVec 5)  -- R183
  | addi (d : BitVec 5) (a : BitVec 5) (i : BitVec 7)  -- R186
  | muli (d : BitVec 5) (a : BitVec 5) (i : BitVec 7)  -- R186
  | andi (d : BitVec 5) (a : BitVec 5) (i : BitVec 7)  -- R186
  | ori (d : BitVec 5) (a : BitVec 5) (i : BitVec 7)  -- R186
  | xori (d : BitVec 5) (a : BitVec 5) (i : BitVec 7)  -- R186
  | slli (d : BitVec 5) (a : BitVec 5) (i : BitVec 7)  -- R186
  | srli (d : BitVec 5) (a : BitVec 5) (i : BitVec 7)  -- R186
  | srai (d : BitVec 5) (a : BitVec 5) (i : BitVec 7)  -- R186
  | mini (d : BitVec 5) (a : BitVec 5) (i : BitVec 7)  -- R186
  | maxi (d : BitVec 5) (a : BitVec 5) (i : BitVec 7)  -- R186
  | li (d : BitVec 5) (i : BitVec 7)  -- R186
  | lih (d : BitVec 5) (a : BitVec 5) (i : BitVec 7)  -- R186
  | cmpeq (d : BitVec 5) (a : BitVec 5) (b : BitVec 5)  -- R187
  | cmpne (d : BitVec 5) (a : BitVec 5) (b : BitVec 5)  -- R187
  | cmplt (d : BitVec 5) (a : BitVec 5) (b : BitVec 5)  -- R187
  | cmple (d : BitVec 5) (a : BitVec 5) (b : BitVec 5)  -- R187
  | cmpltn (d : BitVec 5) (a : BitVec 5) (b : BitVec 5)  -- R187
  | cmplen (d : BitVec 5) (a : BitVec 5) (b : BitVec 5)  -- R187
  | cmpeqi (d : BitVec 5) (a : BitVec 5) (i : BitVec 7)  -- R187
  | cmpnei (d : BitVec 5) (a : BitVec 5) (i : BitVec 7)  -- R187
  | cmplti (d : BitVec 5) (a : BitVec 5) (i : BitVec 7)  -- R187
  | cmplei (d : BitVec 5) (a : BitVec 5) (i : BitVec 7)  -- R187
  | cmpgti (d : BitVec 5) (a : BitVec 5) (i : BitVec 7)  -- R187
  | cmpgei (d : BitVec 5) (a : BitVec 5) (i : BitVec 7)  -- R187
  | pand (d : BitVec 5) (a : BitVec 5) (b : BitVec 5)  -- R188
  | por (d : BitVec 5) (a : BitVec 5) (b : BitVec 5)  -- R188
  | pxor (d : BitVec 5) (a : BitVec 5) (b : BitVec 5)  -- R188
  | pandn (d : BitVec 5) (a : BitVec 5) (b : BitVec 5)  -- R188
  | pnot (d : BitVec 5) (a : BitVec 5)  -- R188
  | pmov (d : BitVec 5) (a : BitVec 5)  -- R188
  | pset (d : BitVec 5) (v : BitVec 2)  -- R188
  | ptos (d : BitVec 5)  -- R188
  | spred (a : BitVec 5) (b : BitVec 5)  -- R188
  | hmk (d : BitVec 5) (a : BitVec 5) (b : BitVec 5)  -- R189
  | hadd (d : BitVec 5) (a : BitVec 5) (b : BitVec 5)  -- R189
  | haddi (d : BitVec 5) (a : BitVec 5) (i : BitVec 7)  -- R189
  | hidx (d : BitVec 5) (a : BitVec 5)  -- R189
  | hoff (d : BitVec 5) (a : BitVec 5)  -- R189
  | hseto (d : BitVec 5) (a : BitVec 5) (b : BitVec 5)  -- R189
  | hmov (d : BitVec 5) (a : BitVec 5)  -- R189
  | hchk (d : BitVec 5) (a : BitVec 5) (b : BitVec 5) (c : BitVec 2)  -- R191
  | b (o : BitVec 17)  -- R200
  | bx (a : BitVec 5)  -- R200
  | call (o : BitVec 17)  -- R204
  | callx (a : BitVec 5)  -- R204
  | bempty (o : BitVec 15) (w : BitVec 2)  -- R200
  | loop (l : BitVec 3) (a : BitVec 5) (n : BitVec 7)  -- R206
  | lstrd (l : BitVec 3) (a : BitVec 5) (b : BitVec 5)  -- R209
  | lbrk (l : BitVec 3)  -- R211
  | launch (d : BitVec 5) (a : BitVec 5) (b : BitVec 5)  -- R95
  | ppt (r : BitVec 17)  -- R215
  | frame (a : BitVec 5) (b : BitVec 5) (m : BitVec 1)  -- R198
  | wmrg (d : BitVec 5) (a : BitVec 5) (b : BitVec 5) (x : BitVec 1)  -- R412
  | wwait (a : BitVec 5)  -- R414
  | wtest (d : BitVec 5) (a : BitVec 5)  -- R415
  | tlread (d : BitVec 5) (a : BitVec 5) (m : BitVec 2)  -- R418
  | fence (p : BitVec 8) (s : BitVec 8)  -- R417
  | whzn (d : BitVec 5) (m : BitVec 2)  -- R413
  | csrr (d : BitVec 5) (c : BitVec 7)  -- R192
  | csrw (d : BitVec 5) (a : BitVec 5) (c : BitVec 7)  -- R192
  | csrs (d : BitVec 5) (a : BitVec 5) (c : BitVec 7)  -- R192
  | csrc (d : BitVec 5) (a : BitVec 5) (c : BitVec 7)  -- R192
  | rdts (d : BitVec 5)  -- R197
  | trap (a : BitVec 5) (n : BitVec 7)  -- R487
  | tbegin (a : BitVec 5) (b : BitVec 5)  -- R277
  | trec (t : BitVec 8) (r : BitVec 5) (k : BitVec 2)  -- R282
  | trecp (t : BitVec 8) (r : BitVec 5)  -- R282
  | tend (d : BitVec 5)  -- R285
  | trev (a : BitVec 5) (b : BitVec 5)  -- R288
  | tpop (t : BitVec 8) (r : BitVec 5) (k : BitVec 2)  -- R289
  | tpopp (t : BitVec 8) (r : BitVec 5)  -- R289
  -- class V (R124)
  | vaddF (d : BitVec 5) (a : BitVec 5) (b : BitVec 5) (t : BitVec 2)  -- R225
  | vsubF (d : BitVec 5) (a : BitVec 5) (b : BitVec 5) (t : BitVec 2)  -- R225
  | vmulF (d : BitVec 5) (a : BitVec 5) (b : BitVec 5) (t : BitVec 2)  -- R225
  | vfma (d : BitVec 5) (a : BitVec 5) (b : BitVec 5) (t : BitVec 2)  -- R225
  | vfms (d : BitVec 5) (a : BitVec 5) (b : BitVec 5) (t : BitVec 2)  -- R225
  | vfnma (d : BitVec 5) (a : BitVec 5) (b : BitVec 5) (t : BitVec 2)  -- R225
  | vdiv (d : BitVec 5) (a : BitVec 5) (b : BitVec 5) (t : BitVec 2)  -- R225
  | vminF (d : BitVec 5) (a : BitVec 5) (b : BitVec 5) (t : BitVec 2)  -- R226
  | vmaxF (d : BitVec 5) (a : BitVec 5) (b : BitVec 5) (t : BitVec 2)  -- R226
  | vabsF (d : BitVec 5) (a : BitVec 5) (t : BitVec 2)  -- R226
  | vnegF (d : BitVec 5) (a : BitVec 5) (t : BitVec 2)  -- R226
  | vcmpeqF (d : BitVec 5) (a : BitVec 5) (b : BitVec 5) (t : BitVec 2)  -- R227
  | vcmpltF (d : BitVec 5) (a : BitVec 5) (b : BitVec 5) (t : BitVec 2)  -- R227
  | vcmpleF (d : BitVec 5) (a : BitVec 5) (b : BitVec 5) (t : BitVec 2)  -- R227
  | vcmpun (d : BitVec 5) (a : BitVec 5) (b : BitVec 5) (t : BitVec 2)  -- R227
  | vscalb (d : BitVec 5) (a : BitVec 5) (b : BitVec 5) (t : BitVec 2)  -- R228
  | vrint (d : BitVec 5) (a : BitVec 5) (r : BitVec 3) (t : BitVec 2)  -- R229
  | vaddI (u : BitVec 1) (d : BitVec 5) (a : BitVec 5) (b : BitVec 5) (w : BitVec 2)  -- R230
  | vsubI (u : BitVec 1) (d : BitVec 5) (a : BitVec 5) (b : BitVec 5) (w : BitVec 2)  -- R230
  | vadds (u : BitVec 1) (d : BitVec 5) (a : BitVec 5) (b : BitVec 5) (w : BitVec 2)  -- R230
  | vsubs (u : BitVec 1) (d : BitVec 5) (a : BitVec 5) (b : BitVec 5) (w : BitVec 2)  -- R230
  | vmulI (u : BitVec 1) (d : BitVec 5) (a : BitVec 5) (b : BitVec 5) (w : BitVec 2)  -- R230
  | vmulh (u : BitVec 1) (d : BitVec 5) (a : BitVec 5) (b : BitVec 5) (w : BitVec 2)  -- R230
  | vminI (u : BitVec 1) (d : BitVec 5) (a : BitVec 5) (b : BitVec 5) (w : BitVec 2)  -- R230
  | vmaxI (u : BitVec 1) (d : BitVec 5) (a : BitVec 5) (b : BitVec 5) (w : BitVec 2)  -- R230
  | vcmpeqI (u : BitVec 1) (d : BitVec 5) (a : BitVec 5) (b : BitVec 5) (w : BitVec 2)  -- R230
  | vcmpltI (u : BitVec 1) (d : BitVec 5) (a : BitVec 5) (b : BitVec 5) (w : BitVec 2)  -- R230
  | vcmpleI (u : BitVec 1) (d : BitVec 5) (a : BitVec 5) (b : BitVec 5) (w : BitVec 2)  -- R230
  | vand (u : BitVec 1) (d : BitVec 5) (a : BitVec 5) (b : BitVec 5) (w : BitVec 2)  -- R230
  | vor (u : BitVec 1) (d : BitVec 5) (a : BitVec 5) (b : BitVec 5) (w : BitVec 2)  -- R230
  | vxor (u : BitVec 1) (d : BitVec 5) (a : BitVec 5) (b : BitVec 5) (w : BitVec 2)  -- R230
  | vnot (u : BitVec 1) (d : BitVec 5) (a : BitVec 5) (w : BitVec 2)  -- R230
  | vsll (u : BitVec 1) (d : BitVec 5) (a : BitVec 5) (b : BitVec 5) (w : BitVec 2)  -- R230
  | vsrl (u : BitVec 1) (d : BitVec 5) (a : BitVec 5) (b : BitVec 5) (w : BitVec 2)  -- R230
  | vsra (u : BitVec 1) (d : BitVec 5) (a : BitVec 5) (b : BitVec 5) (w : BitVec 2)  -- R230
  | vabsI (d : BitVec 5) (a : BitVec 5) (w : BitVec 2)  -- R230
  | vnegI (d : BitVec 5) (a : BitVec 5) (w : BitVec 2)  -- R230
  | cvt (d : BitVec 5) (a : BitVec 5) (b : BitVec 5)  -- R234
  | qnt (d : BitVec 5) (a : BitVec 5) (b : BitVec 5)  -- R235
  | dqnt (d : BitVec 5) (a : BitVec 5) (b : BitVec 5)  -- R236
  | vmov (d : BitVec 5) (a : BitVec 5)  -- R237
  | vbcast (d : BitVec 5) (a : BitVec 5) (f : BitVec 5)  -- R238
  | vbcastl (d : BitVec 5) (a : BitVec 5) (b : BitVec 5)  -- R238
  | vperm (d : BitVec 5) (a : BitVec 5) (b : BitVec 5)  -- R238
  | vrot (d : BitVec 5) (a : BitVec 5) (b : BitVec 5)  -- R238
  | vsel (d : BitVec 5) (a : BitVec 5) (b : BitVec 5)  -- R238
  | vrsum (d : BitVec 5) (a : BitVec 5)  -- R239
  | vrmax (d : BitVec 5) (a : BitVec 5)  -- R239
  | vrmin (d : BitVec 5) (a : BitVec 5)  -- R239
  | vdot (d : BitVec 5) (a : BitVec 5) (b : BitVec 5) (s : BitVec 2)  -- R240
  | vext (d : BitVec 5) (a : BitVec 5) (b : BitVec 5)  -- R238
  | vins (d : BitVec 5) (a : BitVec 5) (b : BitVec 5)  -- R238
  | vzip (d : BitVec 5) (a : BitVec 5) (b : BitVec 5) (h : BitVec 1)  -- R238
  | vunzip (d : BitVec 5) (a : BitVec 5) (b : BitVec 5) (o : BitVec 1)  -- R238
  | exp2 (c : BitVec 1) (d : BitVec 5) (a : BitVec 5) (t : BitVec 2)  -- R241
  | log2 (c : BitVec 1) (d : BitVec 5) (a : BitVec 5) (t : BitVec 2)  -- R241
  | rcp (c : BitVec 1) (d : BitVec 5) (a : BitVec 5) (t : BitVec 2)  -- R241
  | rsq (c : BitVec 1) (d : BitVec 5) (a : BitVec 5) (t : BitVec 2)  -- R241
  | sqrt (c : BitVec 1) (d : BitVec 5) (a : BitVec 5) (t : BitVec 2)  -- R241
  | sin (c : BitVec 1) (d : BitVec 5) (a : BitVec 5) (t : BitVec 2)  -- R241
  | cos (c : BitVec 1) (d : BitVec 5) (a : BitVec 5) (t : BitVec 2)  -- R241
  | tanh (c : BitVec 1) (d : BitVec 5) (a : BitVec 5) (t : BitVec 2)  -- R241
  | mpush (a : BitVec 5)  -- R222
  -- class M (R126)
  | mmaBf16 (d : BitVec 5) (a : BitVec 5) (b : BitVec 5) (t : BitVec 1)  -- R260
  | mmaFp8 (d : BitVec 5) (a : BitVec 5) (b : BitVec 5) (v : BitVec 1) (u : BitVec 1)  -- R260
  | mmaE2m1 (d : BitVec 5) (a : BitVec 5) (b : BitVec 5)  -- R260
  | mmaInt8 (d : BitVec 5) (a : BitVec 5) (b : BitVec 5) (s : BitVec 1) (t : BitVec 1)  -- R261
  | mmaQ8 (d : BitVec 5) (a : BitVec 5) (b : BitVec 5)  -- R262
  | mmaQ4 (d : BitVec 5) (a : BitVec 5) (b : BitVec 5)  -- R262
  | mmazBf16 (d : BitVec 5) (a : BitVec 5) (b : BitVec 5) (t : BitVec 1)  -- R259
  | mmazFp8 (d : BitVec 5) (a : BitVec 5) (b : BitVec 5) (v : BitVec 1) (u : BitVec 1)  -- R259
  | mmazE2m1 (d : BitVec 5) (a : BitVec 5) (b : BitVec 5)  -- R259
  | mmazInt8 (d : BitVec 5) (a : BitVec 5) (b : BitVec 5) (s : BitVec 1) (t : BitVec 1)  -- R259
  | mmazQ8 (d : BitVec 5) (a : BitVec 5) (b : BitVec 5)  -- R259
  | mmazQ4 (d : BitVec 5) (a : BitVec 5) (b : BitVec 5)  -- R259
  | mzero (d : BitVec 5) (t : BitVec 2)  -- R264
  | mld (d : BitVec 5) (a : BitVec 5)  -- R266
  | mst (d : BitVec 5) (a : BitVec 5) (b : BitVec 5)  -- R266
  | mrowv (d : BitVec 5) (a : BitVec 5) (b : BitVec 5)  -- R265
  | mvrow (d : BitVec 5) (a : BitVec 5) (b : BitVec 5)  -- R265
  | mcvt (d : BitVec 5) (a : BitVec 5) (s : BitVec 1) (r : BitVec 3) (t : BitVec 2)  -- R267
  | mrec (d : BitVec 5) (a : BitVec 5) (b : BitVec 5)  -- R249
  | mrecr (d : BitVec 5) (a : BitVec 5) (b : BitVec 5) (m : BitVec 2)  -- R249
  | mmov (d : BitVec 5) (a : BitVec 5)  -- R264
  -- class L (R127)
  | ldl (d : BitVec 5) (a : BitVec 5) (l : BitVec 5) (z : BitVec 2)  -- R303
  | stl (d : BitVec 5) (a : BitVec 5) (b : BitVec 5) (z : BitVec 2)  -- R303
  | ldlv (d : BitVec 5) (a : BitVec 5) (b : BitVec 5) (v : BitVec 1)  -- R304
  | stlv (d : BitVec 5) (a : BitVec 5) (b : BitVec 5) (v : BitVec 1)  -- R305
  | ldlx (d : BitVec 5) (a : BitVec 5) (b : BitVec 5)  -- R306
  | stlx (d : BitVec 5) (a : BitVec 5) (b : BitVec 5)  -- R306
  | ldlw (d : BitVec 5) (a : BitVec 5) (b : BitVec 5) (z : BitVec 2)  -- R307
  | ldlvw (d : BitVec 5) (a : BitVec 5) (b : BitVec 5) (v : BitVec 1)  -- R307
  | ldc (d : BitVec 5) (a : BitVec 5) (l : BitVec 5) (z : BitVec 2)  -- R320
  | ldcw (d : BitVec 5) (a : BitVec 5) (b : BitVec 5) (z : BitVec 2)  -- R320
  | spat (d : BitVec 5) (a : BitVec 5)  -- R316
  | sgo (d : BitVec 5)  -- R316
  | sstop (d : BitVec 5)  -- R316
  | qpop (d : BitVec 5) (a : BitVec 5) (l : BitVec 5)  -- R316
  | qpops (d : BitVec 5) (a : BitVec 5) (l : BitVec 5)  -- R316
  | qstat (d : BitVec 5) (a : BitVec 5) (l : BitVec 5)  -- R316
  | laadd (d : BitVec 5) (a : BitVec 5) (b : BitVec 5) (w : BitVec 1) (z : BitVec 1)  -- R312
  | lamin (d : BitVec 5) (a : BitVec 5) (b : BitVec 5) (w : BitVec 1) (z : BitVec 1)  -- R312
  | lamax (d : BitVec 5) (a : BitVec 5) (b : BitVec 5) (w : BitVec 1) (z : BitVec 1)  -- R312
  | laand (d : BitVec 5) (a : BitVec 5) (b : BitVec 5) (w : BitVec 1) (z : BitVec 1)  -- R312
  | laor (d : BitVec 5) (a : BitVec 5) (b : BitVec 5) (w : BitVec 1) (z : BitVec 1)  -- R312
  | laxor (d : BitVec 5) (a : BitVec 5) (b : BitVec 5) (w : BitVec 1) (z : BitVec 1)  -- R312
  | laswp (d : BitVec 5) (a : BitVec 5) (b : BitVec 5) (w : BitVec 1) (z : BitVec 1)  -- R312
  | lacas (d : BitVec 5) (a : BitVec 5) (b : BitVec 5) (w : BitVec 1) (z : BitVec 1)  -- R312
  | lafadd (d : BitVec 5) (a : BitVec 5) (b : BitVec 5) (w : BitVec 1)  -- R312
  | lafmin (d : BitVec 5) (a : BitVec 5) (b : BitVec 5) (w : BitVec 1)  -- R312
  | lafmax (d : BitVec 5) (a : BitVec 5) (b : BitVec 5) (w : BitVec 1)  -- R312
  | wld (d : BitVec 5) (a : BitVec 5) (b : BitVec 5) (v : BitVec 1)  -- R323
  | wldx (d : BitVec 5) (a : BitVec 5) (l : BitVec 5) (z : BitVec 2)  -- R323
  | wlds (d : BitVec 5) (a : BitVec 5) (b : BitVec 5)  -- R323
  | wsnext (d : BitVec 5) (a : BitVec 5) (l : BitVec 5)  -- R325
  | sinv (a : BitVec 5) (b : BitVec 5)  -- R321
  -- class G (R128)
  | ldg (d : BitVec 5) (a : BitVec 5) (l : BitVec 5) (z : BitVec 2)  -- R332
  | stg (d : BitVec 5) (a : BitVec 5) (b : BitVec 5) (z : BitVec 2)  -- R332
  | ldgv (d : BitVec 5) (a : BitVec 5) (b : BitVec 5) (v : BitVec 1)  -- R332
  | stgv (d : BitVec 5) (a : BitVec 5) (b : BitVec 5) (v : BitVec 1)  -- R332
  | ldgx (d : BitVec 5) (a : BitVec 5) (b : BitVec 5)  -- R332
  | stgx (d : BitVec 5) (a : BitVec 5) (b : BitVec 4)  -- R332
  | ldgw (d : BitVec 5) (a : BitVec 5) (b : BitVec 5) (z : BitVec 2)  -- R332
  | ldgvw (d : BitVec 5) (a : BitVec 5) (b : BitVec 5) (v : BitVec 1)  -- R332
  | ldgxw (d : BitVec 5) (a : BitVec 5) (b : BitVec 5) (m : BitVec 2)  -- R332
  | strc (d : BitVec 5) (a : BitVec 5) (b : BitVec 5) (z : BitVec 2)  -- R335
  | strcv (d : BitVec 5) (a : BitVec 5) (b : BitVec 5) (v : BitVec 1)  -- R335
  | stred (d : BitVec 5) (a : BitVec 5) (b : BitVec 5) (t : BitVec 2)  -- R341
  | pref (a : BitVec 5) (b : BitVec 5) (f : BitVec 1)  -- R349
  | gaadd (d : BitVec 5) (a : BitVec 5) (b : BitVec 5) (w : BitVec 1) (z : BitVec 1)  -- R340
  | gamin (d : BitVec 5) (a : BitVec 5) (b : BitVec 5) (w : BitVec 1) (z : BitVec 1)  -- R340
  | gamax (d : BitVec 5) (a : BitVec 5) (b : BitVec 5) (w : BitVec 1) (z : BitVec 1)  -- R340
  | gaand (d : BitVec 5) (a : BitVec 5) (b : BitVec 5) (w : BitVec 1) (z : BitVec 1)  -- R340
  | gaor (d : BitVec 5) (a : BitVec 5) (b : BitVec 5) (w : BitVec 1) (z : BitVec 1)  -- R340
  | gaxor (d : BitVec 5) (a : BitVec 5) (b : BitVec 5) (w : BitVec 1) (z : BitVec 1)  -- R340
  | gaswp (d : BitVec 5) (a : BitVec 5) (b : BitVec 5) (w : BitVec 1) (z : BitVec 1)  -- R340
  | gacas (d : BitVec 5) (a : BitVec 5) (b : BitVec 5) (w : BitVec 1) (z : BitVec 1)  -- R340
  | gafadd (d : BitVec 5) (a : BitVec 5) (b : BitVec 5) (w : BitVec 1)  -- R340
  | gafmin (d : BitVec 5) (a : BitVec 5) (b : BitVec 5) (w : BitVec 1)  -- R340
  | gafmax (d : BitVec 5) (a : BitVec 5) (b : BitVec 5) (w : BitVec 1)  -- R340
  | mscwb (d : BitVec 5) (a : BitVec 5) (b : BitVec 5)  -- R350
  | mscinv (d : BitVec 5) (a : BitVec 5) (b : BitVec 5)  -- R350
  | vround (d : BitVec 5) (a : BitVec 5) (l : BitVec 5) (o : BitVec 1)  -- R462
  -- rows of the slot classes without an operand
  | ret  -- R205
  | exit  -- R214
  | nop  -- R199
  | rett  -- R488
  | minv  -- R222
  | mpop  -- R222
  | sinva  -- R321
  -- commands to the engines: operands in EngineOps
  | copy  -- R345
  | copyl  -- R345
  | copyg  -- R345
  | skrd  -- R352
  | skpat  -- R351
  | gtt  -- R379
  | ggo  -- R380
  | gsave  -- R382
  | grestore  -- R383
  | gstat  -- R384
  | coll  -- R435
  | embr  -- R419
  | vprep  -- R461
  | vstat  -- R462
  -- steps without an encoding: operands in EventArg
  | idleBundle  -- R118
  | emptyStampedBundle  -- R153
  | nullifiedBundle  -- R149
  | fixedLatencyWrite  -- R137
  | landing  -- R144
  | loadDataArrival  -- R146
  | droopTrip  -- R165
  | stretchEnd  -- R165
  | halfIssueEnd  -- R165
  | throttleStepChange  -- R171
  | rampDwell  -- R174
  | enrgUpdate  -- R177
  | schedulingRound  -- R86
  | contextStart  -- R92
  | wsLoadDone  -- R83
  | yieldWindowExpiry  -- R99
  | contextSaveDone  -- R99
  | contextRestore  -- R495
  | cstail  -- R79
  | csctlEn  -- R78
  | csstatErrClear  -- R85
  | contextRelease  -- R486
  | launchRetire  -- R499
  | coalesceExpiry  -- R105
  | unmap  -- R74
  | migrate  -- R75
  | bufferServiceResume  -- R74
  | matrixOccupancyStart  -- R252
  | matrixOccupancyEnd  -- R257
  | matrixCompletion  -- R252
  | streamElement  -- R316
  | wldsComplete  -- R323
  | wsReadRelease  -- R326
  | copyPerformed  -- R346
  | copyFailure  -- R347
  | pageRequestTimeout  -- R71
  | storePerformed  -- R333
  | homeAtomic  -- R340
  | mscRead  -- R336
  | pinEnable  -- R354
  | pinLoadDone  -- R354
  | pinRelease  -- R354
  | pinFade  -- R354
  | budgetPeriod  -- R357
  | absh  -- R359
  | gttLoad  -- R379
  | ggoArm  -- R380
  | timetableStart  -- R371
  | timetableEntry  -- R370
  | rowPass  -- R372
  | saveModeEntry  -- R382
  | gougeRestore  -- R383
  | stateWindowAccess  -- R390
  | selfRefreshRequest  -- R392
  | powerDownRequest  -- R393
  | activeRequest  -- R392
  | parkDone  -- R392
  | remoteAccess  -- R432
  | remoteQuery  -- R433
  | queryAnswer  -- R433
  | completionMark  -- R430
  | deviceFailed  -- R431
  | remoteErrorTimeout  -- R431
  | flitRetry  -- R426
  | domainJoin  -- R430
  | routeEnable  -- R434
  | collPerformed  -- R440
  | embrEntry  -- R423
  | hostMemAccess  -- R444
  | veneerEnable  -- R449
  | standbyUpdate  -- R450
  | veneerDissolve  -- R450
  | groupJoinDone  -- R450
  | deltaWrite  -- R453
  | deltaLogRelease  -- R455
  | stagingDelta  -- R456
  | prepared  -- R459
  | commit  -- R459
  | committed  -- R459
  | rolledback  -- R465
  | resolveDecision  -- R465
  | rebuildShare  -- R470
  | deferredFault  -- R480
  | handlerStart  -- R481
  | heldSnapshotReplay  -- R489
  | firmwareLoad  -- R505
  | firmwareVerifyDone  -- R506
  | fullServiceEntry  -- R504
  | attestationRequest  -- R507
  | attestationDone  -- R508
  | fatalError  -- R509
  | partReset  -- R503
  | registerWrite  -- R11
  | targetCycleEnd  -- R154
  | temperatureOrCurrentLimit  -- R172
  | queryHoldExpiry  -- R433
  | deltaAcknowledgement  -- R459
  | resolveVglcrReport  -- R465
  | markReceived  -- R431
  deriving DecidableEq, Repr

/-- A slot word decoded: its guard, its engine operands (zero for the other rows) and its instruction. -/
structure SlotInstr where
  gd  : Guard
  ops : EngineOps
  i   : Instr
  deriving DecidableEq, Repr

end Sys2Proof
end

