-- ==== Sys2Proof/WellFormed.lean ====
section
/-! DEFINITION. Which instructions are well formed: register numbers within their kind and no reserved modifier
(R119 and the entries). The fields of a constructor are as wide as the word holds them, so this is all there is to check. -/
namespace Sys2Proof

/-- A register field of a kind with `n` registers (R119). -/
def inKind {w : Nat} (n : Nat) (f : BitVec w) : Bool := decide (f.toNat < n)

/-- The format codes VBCAST may name (R238). -/
def bcastFmt (f : BitVec 5) : Bool :=
  (decide (1 ≤ f.toNat) && decide (f.toNat ≤ 5)) || (decide (9 ≤ f.toNat) && decide (f.toNat ≤ 16))

/-- Every field names a register of its kind and every modifier is assigned. -/
def instrOk : Instr → Bool
  | .sext _ _ w => inKind 3 w
  | .zext _ _ w => inKind 3 w
  | .cmpeq d _ _ => inKind 16 d
  | .cmpne d _ _ => inKind 16 d
  | .cmplt d _ _ => inKind 16 d
  | .cmple d _ _ => inKind 16 d
  | .cmpltn d _ _ => inKind 16 d
  | .cmplen d _ _ => inKind 16 d
  | .cmpeqi d _ _ => inKind 16 d
  | .cmpnei d _ _ => inKind 16 d
  | .cmplti d _ _ => inKind 16 d
  | .cmplei d _ _ => inKind 16 d
  | .cmpgti d _ _ => inKind 16 d
  | .cmpgei d _ _ => inKind 16 d
  | .pand d a b => inKind 16 d && inKind 16 a && inKind 16 b
  | .por d a b => inKind 16 d && inKind 16 a && inKind 16 b
  | .pxor d a b => inKind 16 d && inKind 16 a && inKind 16 b
  | .pandn d a b => inKind 16 d && inKind 16 a && inKind 16 b
  | .pnot d a => inKind 16 d && inKind 16 a
  | .pmov d a => inKind 16 d && inKind 16 a
  | .pset d v => inKind 16 d && inKind 2 v
  | .hmk d _ _ => inKind 16 d
  | .hadd d a _ => inKind 16 d && inKind 16 a
  | .haddi d a _ => inKind 16 d && inKind 16 a
  | .hidx _ a => inKind 16 a
  | .hoff _ a => inKind 16 a
  | .hseto d a _ => inKind 16 d && inKind 16 a
  | .hmov d a => inKind 16 d && inKind 16 a
  | .hchk d a _ _ => inKind 16 d && inKind 16 a
  | .loop l _ n => inKind 6 l && decide (1 ≤ n.toNat) && decide (n.toNat ≤ 64)
  | .lstrd l a _ => inKind 6 l && inKind 16 a
  | .lbrk l => inKind 6 l
  | .launch _ _ b => inKind 16 b
  | .wtest d _ => inKind 16 d
  | .whzn _ m => inKind 3 m
  | .tbegin a _ => inKind 16 a
  | .trec _ _ k => inKind 2 k
  | .trecp _ r => inKind 16 r
  | .trev a _ => inKind 16 a
  | .tpop _ _ k => inKind 2 k
  | .tpopp _ r => inKind 16 r
  | .vaddF _ _ _ t => inKind 3 t
  | .vsubF _ _ _ t => inKind 3 t
  | .vmulF _ _ _ t => inKind 3 t
  | .vfma _ _ _ t => inKind 3 t
  | .vfms _ _ _ t => inKind 3 t
  | .vfnma _ _ _ t => inKind 3 t
  | .vdiv _ _ _ t => inKind 3 t
  | .vminF _ _ _ t => inKind 3 t
  | .vmaxF _ _ _ t => inKind 3 t
  | .vabsF _ _ t => inKind 3 t
  | .vnegF _ _ t => inKind 3 t
  | .vcmpeqF _ _ _ t => inKind 3 t
  | .vcmpltF _ _ _ t => inKind 3 t
  | .vcmpleF _ _ _ t => inKind 3 t
  | .vcmpun _ _ _ t => inKind 3 t
  | .vscalb _ _ _ t => inKind 3 t
  | .vrint _ _ r t => inKind 5 r && inKind 3 t
  | .vbcast _ _ f => bcastFmt f
  | .exp2 _ _ _ t => inKind 3 t
  | .log2 _ _ _ t => inKind 3 t
  | .rcp _ _ _ t => inKind 3 t
  | .rsq _ _ _ t => inKind 3 t
  | .sqrt _ _ _ t => inKind 3 t
  | .sin _ _ _ t => inKind 3 t
  | .cos _ _ _ t => inKind 3 t
  | .tanh _ _ _ t => inKind 3 t
  | .mmaBf16 d a b _ => inKind 16 d && inKind 8 a && inKind 8 b
  | .mmaFp8 d a b _ _ => inKind 16 d && inKind 8 a && inKind 8 b
  | .mmaE2m1 d a b => inKind 16 d && inKind 8 a && inKind 8 b
  | .mmaInt8 d a b _ _ => inKind 16 d && inKind 8 a && inKind 8 b
  | .mmaQ8 d a b => inKind 16 d && inKind 8 a && inKind 8 b
  | .mmaQ4 d a b => inKind 16 d && inKind 8 a && inKind 8 b
  | .mmazBf16 d a b _ => inKind 16 d && inKind 8 a && inKind 8 b
  | .mmazFp8 d a b _ _ => inKind 16 d && inKind 8 a && inKind 8 b
  | .mmazE2m1 d a b => inKind 16 d && inKind 8 a && inKind 8 b
  | .mmazInt8 d a b _ _ => inKind 16 d && inKind 8 a && inKind 8 b
  | .mmazQ8 d a b => inKind 16 d && inKind 8 a && inKind 8 b
  | .mmazQ4 d a b => inKind 16 d && inKind 8 a && inKind 8 b
  | .mzero d t => inKind 16 d && inKind 3 t
  | .mld d a => inKind 16 d && inKind 8 a
  | .mst _ a b => inKind 16 a && inKind 8 b
  | .mrowv _ a _ => inKind 16 a
  | .mvrow d _ _ => inKind 16 d
  | .mcvt d a _ r t => inKind 16 d && inKind 16 a && inKind 5 r && inKind 3 t
  | .mrec d _ _ => inKind 8 d
  | .mrecr d a _ m => inKind 8 d && inKind 8 a && inKind 3 m
  | .mmov d a => inKind 16 d && inKind 16 a
  | .ldc _ a _ _ => inKind 16 a
  | .ldcw _ a _ _ => inKind 16 a
  | .spat d _ => inKind 4 d
  | .sgo d => inKind 4 d
  | .sstop d => inKind 4 d
  | .qpop _ a _ => inKind 4 a
  | .qpops _ a _ => inKind 4 a
  | .qstat _ a _ => inKind 4 a
  | .sinv a _ => inKind 16 a
  | .ldg _ a _ _ => inKind 16 a
  | .stg _ a _ _ => inKind 16 a
  | .ldgv _ a _ _ => inKind 16 a
  | .stgv _ a _ _ => inKind 16 a
  | .ldgx _ a _ => inKind 16 a
  | .stgx _ a _ => inKind 16 a
  | .ldgw _ a _ _ => inKind 16 a
  | .ldgvw _ a _ _ => inKind 16 a
  | .ldgxw _ a _ m => inKind 16 a && inKind 3 m
  | .strc _ a _ _ => inKind 16 a
  | .strcv _ a _ _ => inKind 16 a
  | .stred _ a _ t => inKind 16 a && inKind 3 t
  | .pref a _ _ => inKind 16 a
  | .gaadd _ a _ _ _ => inKind 16 a
  | .gamin _ a _ _ _ => inKind 16 a
  | .gamax _ a _ _ _ => inKind 16 a
  | .gaand _ a _ _ _ => inKind 16 a
  | .gaor _ a _ _ _ => inKind 16 a
  | .gaxor _ a _ _ _ => inKind 16 a
  | .gaswp _ a _ _ _ => inKind 16 a
  | .gacas _ a _ _ _ => inKind 16 a
  | .gafadd _ a _ _ => inKind 16 a
  | .gafmin _ a _ _ => inKind 16 a
  | .gafmax _ a _ _ => inKind 16 a
  | .mscwb _ a _ => inKind 16 a
  | .mscinv _ a _ => inKind 16 a
  | _ => true

/-- The operand fields of an engine command; every other row carries none here (R119, R328, R377, R419, R435, R461). -/
def opsOk (i : Instr) (e : EngineOps) : Bool :=
  match i with
  | .copy => decide (e.d.toNat % 2 = 0) && decide (e.a.toNat < 16) && decide (e.b.toNat < 16)
  | .copyl => decide (e.d.toNat % 2 = 0) && decide (e.a.toNat < 16)
  | .copyg => decide (e.d.toNat % 2 = 0) && decide (e.b.toNat < 16)
  | .skrd => decide (e.d.toNat % 2 = 0) && decide (e.a.toNat < 16)
  | .skpat => decide (e.d.toNat < 4) && decide (e.b.toNat = 0)
  | .gtt => decide (e.d.toNat % 2 = 0) && decide (e.a.toNat < 16) && decide (e.b.toNat = 0)
  | .ggo => decide (e.d.toNat % 2 = 0) && decide (e.b.toNat = 0)
  | .gsave => decide (e.d.toNat % 2 = 0) && decide (e.a.toNat = 0) && decide (e.b.toNat = 0)
  | .grestore => decide (e.d.toNat % 2 = 0) && decide (e.b.toNat = 0)
  | .gstat => true
  | .coll => decide (e.d.toNat % 2 = 0) && decide (e.a.toNat < 16) && decide (e.b.toNat < 16)
  | .embr => decide (e.d.toNat % 2 = 0) && decide (e.a.toNat < 16) && decide (e.b.toNat < 16)
  | .vprep => decide (e.d.toNat % 2 = 0) && decide (e.a.toNat = 0) && decide (e.b.toNat = 0)
  | .vstat => true
  | _ => decide (e = ⟨0, 0, 0⟩)

/-- A well-formed slot instruction. -/
def wellFormed (x : SlotInstr) : Bool := instrOk x.i && opsOk x.i x.ops

end Sys2Proof
end

