-- ==== Sys2Proof/Decode.lean ====
section
/-! DEFINITION. From words to instructions and back (04_encoding). `decodeSlot` is total: a word is an instruction of its
class, or an unassigned opcode (R122), or a reserved encoding (R119). The encoder is written from the same tables. -/
namespace Sys2Proof

/-- G, N and IQ of a slot word (R113). -/
def guardOf (w : Nat) : Guard :=
  ⟨BitVec.ofNat 4 (w / 268435456), BitVec.ofNat 1 (w / 134217728), BitVec.ofNat 2 (w / 33554432)⟩

/-- A slot word from its guard, opcode and the value of bits [16:0] (R113); an opcode pair's low bit may come with the
rest, as bit 17. -/
def slotWord (gd : Guard) (op rest : Nat) : Nat :=
  gd.g.toNat * 268435456 + gd.n.toNat * 134217728 + gd.q.toNat * 33554432 + op * 131072 + rest

/-- The control word of CVT, QNT and DQNT (R231): destination format and group or block size code. -/
def ctlFmt (x : BitVec 32) : Nat := x.toNat % 32
def ctlGs (x : BitVec 32) : Nat := x.toNat / 32 % 8
def ctlRm (x : BitVec 32) : Nat := x.toNat / 4096 % 8
def ctlTs (x : BitVec 32) : Nat := x.toNat / 65536

/-- The group and block codes allowed with a format (R33). -/
def gsAllowed (fmt gs : Nat) : Bool :=
  if fmt = 7 ∨ fmt = 8 then decide (1 ≤ gs ∧ gs ≤ 3)
  else if fmt = 6 then decide (4 ≤ gs ∧ gs ≤ 6)
  else decide (gs = 0)

/-- The checks of R233's first row for each of the three conversions (R234–R236). -/
def cvtWordOk (x : BitVec 32) : Bool :=
  ((decide (1 ≤ ctlFmt x ∧ ctlFmt x ≤ 5)) || decide (9 ≤ ctlFmt x ∧ ctlFmt x ≤ 16)) && ctlGs x == 0 && ctlTs x == 0 && decide (ctlRm x < 5)
def qntWordOk (x : BitVec 32) : Bool :=
  decide (6 ≤ ctlFmt x ∧ ctlFmt x ≤ 8) && gsAllowed (ctlFmt x) (ctlGs x) && (ctlTs x == 0 || ctlFmt x == 6) && decide (ctlRm x < 5)
def dqntWordOk (x : BitVec 32) : Bool :=
  decide (1 ≤ ctlFmt x ∧ ctlFmt x ≤ 3) && ctlGs x == 0 && ctlTs x == 0 && decide (ctlRm x < 5)

/-- The S class: what opcode `op` reads from a word `w` (numbers as in the opcode table). -/
def makeS (op w : Nat) : Except DecodeError Instr :=
  match op with
  | 0x00 => if w % 4 = 0 then .ok (.add (BitVec.ofNat 5 (w / 4096)) (BitVec.ofNat 5 (w / 128)) (BitVec.ofNat 5 (w / 4))) else .error .reservedEncoding
  | 0x01 => if w % 4 = 0 then .ok (.sub (BitVec.ofNat 5 (w / 4096)) (BitVec.ofNat 5 (w / 128)) (BitVec.ofNat 5 (w / 4))) else .error .reservedEncoding
  | 0x02 => if w % 4 = 0 then .ok (.mul (BitVec.ofNat 5 (w / 4096)) (BitVec.ofNat 5 (w / 128)) (BitVec.ofNat 5 (w / 4))) else .error .reservedEncoding
  | 0x03 => if w % 4 = 0 then .ok (.mulh (BitVec.ofNat 5 (w / 4096)) (BitVec.ofNat 5 (w / 128)) (BitVec.ofNat 5 (w / 4))) else .error .reservedEncoding
  | 0x04 => if w % 4 = 0 then .ok (.mulhn (BitVec.ofNat 5 (w / 4096)) (BitVec.ofNat 5 (w / 128)) (BitVec.ofNat 5 (w / 4))) else .error .reservedEncoding
  | 0x05 => if w % 4 = 0 then .ok (.div (BitVec.ofNat 5 (w / 4096)) (BitVec.ofNat 5 (w / 128)) (BitVec.ofNat 5 (w / 4))) else .error .reservedEncoding
  | 0x06 => if w % 4 = 0 then .ok (.divn (BitVec.ofNat 5 (w / 4096)) (BitVec.ofNat 5 (w / 128)) (BitVec.ofNat 5 (w / 4))) else .error .reservedEncoding
  | 0x07 => if w % 4 = 0 then .ok (.rem (BitVec.ofNat 5 (w / 4096)) (BitVec.ofNat 5 (w / 128)) (BitVec.ofNat 5 (w / 4))) else .error .reservedEncoding
  | 0x08 => if w % 4 = 0 then .ok (.remn (BitVec.ofNat 5 (w / 4096)) (BitVec.ofNat 5 (w / 128)) (BitVec.ofNat 5 (w / 4))) else .error .reservedEncoding
  | 0x09 => if w % 4 = 0 then .ok (.and (BitVec.ofNat 5 (w / 4096)) (BitVec.ofNat 5 (w / 128)) (BitVec.ofNat 5 (w / 4))) else .error .reservedEncoding
  | 0x0A => if w % 4 = 0 then .ok (.or (BitVec.ofNat 5 (w / 4096)) (BitVec.ofNat 5 (w / 128)) (BitVec.ofNat 5 (w / 4))) else .error .reservedEncoding
  | 0x0B => if w % 4 = 0 then .ok (.xor (BitVec.ofNat 5 (w / 4096)) (BitVec.ofNat 5 (w / 128)) (BitVec.ofNat 5 (w / 4))) else .error .reservedEncoding
  | 0x0C => if w % 4 = 0 then .ok (.andn (BitVec.ofNat 5 (w / 4096)) (BitVec.ofNat 5 (w / 128)) (BitVec.ofNat 5 (w / 4))) else .error .reservedEncoding
  | 0x0D => if w % 4 = 0 then .ok (.sll (BitVec.ofNat 5 (w / 4096)) (BitVec.ofNat 5 (w / 128)) (BitVec.ofNat 5 (w / 4))) else .error .reservedEncoding
  | 0x0E => if w % 4 = 0 then .ok (.srl (BitVec.ofNat 5 (w / 4096)) (BitVec.ofNat 5 (w / 128)) (BitVec.ofNat 5 (w / 4))) else .error .reservedEncoding
  | 0x0F => if w % 4 = 0 then .ok (.sra (BitVec.ofNat 5 (w / 4096)) (BitVec.ofNat 5 (w / 128)) (BitVec.ofNat 5 (w / 4))) else .error .reservedEncoding
  | 0x10 => if w % 4 = 0 then .ok (.min (BitVec.ofNat 5 (w / 4096)) (BitVec.ofNat 5 (w / 128)) (BitVec.ofNat 5 (w / 4))) else .error .reservedEncoding
  | 0x11 => if w % 4 = 0 then .ok (.max (BitVec.ofNat 5 (w / 4096)) (BitVec.ofNat 5 (w / 128)) (BitVec.ofNat 5 (w / 4))) else .error .reservedEncoding
  | 0x12 => if w % 4 = 0 then .ok (.minn (BitVec.ofNat 5 (w / 4096)) (BitVec.ofNat 5 (w / 128)) (BitVec.ofNat 5 (w / 4))) else .error .reservedEncoding
  | 0x13 => if w % 4 = 0 then .ok (.maxn (BitVec.ofNat 5 (w / 4096)) (BitVec.ofNat 5 (w / 128)) (BitVec.ofNat 5 (w / 4))) else .error .reservedEncoding
  | 0x14 => if w % 128 = 0 then .ok (.clz (BitVec.ofNat 5 (w / 4096)) (BitVec.ofNat 5 (w / 128))) else .error .reservedEncoding
  | 0x15 => if w % 128 = 0 then .ok (.ctz (BitVec.ofNat 5 (w / 4096)) (BitVec.ofNat 5 (w / 128))) else .error .reservedEncoding
  | 0x16 => if w % 128 = 0 then .ok (.popc (BitVec.ofNat 5 (w / 4096)) (BitVec.ofNat 5 (w / 128))) else .error .reservedEncoding
  | 0x17 => if w / 2 % 2 = 0 then .ok (.adds (BitVec.ofNat 5 (w / 4096)) (BitVec.ofNat 5 (w / 128)) (BitVec.ofNat 5 (w / 4)) (BitVec.ofNat 1 (w / 1))) else .error .reservedEncoding
  | 0x18 => if w / 2 % 2 = 0 then .ok (.subs (BitVec.ofNat 5 (w / 4096)) (BitVec.ofNat 5 (w / 128)) (BitVec.ofNat 5 (w / 4)) (BitVec.ofNat 1 (w / 1))) else .error .reservedEncoding
  | 0x19 => if w / 4 % 32 = 0 ∧ w / 1 % 4 < 3 then .ok (.sext (BitVec.ofNat 5 (w / 4096)) (BitVec.ofNat 5 (w / 128)) (BitVec.ofNat 2 (w / 1))) else .error .reservedEncoding
  | 0x1A => if w / 4 % 32 = 0 ∧ w / 1 % 4 < 3 then .ok (.zext (BitVec.ofNat 5 (w / 4096)) (BitVec.ofNat 5 (w / 128)) (BitVec.ofNat 2 (w / 1))) else .error .reservedEncoding
  | 0x1B => if w / 2 % 2 = 0 then .ok (.bfx (BitVec.ofNat 5 (w / 4096)) (BitVec.ofNat 5 (w / 128)) (BitVec.ofNat 5 (w / 4)) (BitVec.ofNat 1 (w / 1))) else .error .reservedEncoding
  | 0x1C => if w % 4 = 0 then .ok (.bfi (BitVec.ofNat 5 (w / 4096)) (BitVec.ofNat 5 (w / 128)) (BitVec.ofNat 5 (w / 4))) else .error .reservedEncoding
  | 0x1D => if w % 128 = 0 then .ok (.mov (BitVec.ofNat 5 (w / 4096)) (BitVec.ofNat 5 (w / 128))) else .error .reservedEncoding
  | 0x20 => .ok (.addi (BitVec.ofNat 5 (w / 4096)) (BitVec.ofNat 5 (w / 128)) (BitVec.ofNat 7 (w / 1)))
  | 0x21 => .ok (.muli (BitVec.ofNat 5 (w / 4096)) (BitVec.ofNat 5 (w / 128)) (BitVec.ofNat 7 (w / 1)))
  | 0x22 => .ok (.andi (BitVec.ofNat 5 (w / 4096)) (BitVec.ofNat 5 (w / 128)) (BitVec.ofNat 7 (w / 1)))
  | 0x23 => .ok (.ori (BitVec.ofNat 5 (w / 4096)) (BitVec.ofNat 5 (w / 128)) (BitVec.ofNat 7 (w / 1)))
  | 0x24 => .ok (.xori (BitVec.ofNat 5 (w / 4096)) (BitVec.ofNat 5 (w / 128)) (BitVec.ofNat 7 (w / 1)))
  | 0x25 => .ok (.slli (BitVec.ofNat 5 (w / 4096)) (BitVec.ofNat 5 (w / 128)) (BitVec.ofNat 7 (w / 1)))
  | 0x26 => .ok (.srli (BitVec.ofNat 5 (w / 4096)) (BitVec.ofNat 5 (w / 128)) (BitVec.ofNat 7 (w / 1)))
  | 0x27 => .ok (.srai (BitVec.ofNat 5 (w / 4096)) (BitVec.ofNat 5 (w / 128)) (BitVec.ofNat 7 (w / 1)))
  | 0x28 => .ok (.mini (BitVec.ofNat 5 (w / 4096)) (BitVec.ofNat 5 (w / 128)) (BitVec.ofNat 7 (w / 1)))
  | 0x29 => .ok (.maxi (BitVec.ofNat 5 (w / 4096)) (BitVec.ofNat 5 (w / 128)) (BitVec.ofNat 7 (w / 1)))
  | 0x2A => if w / 128 % 32 = 0 then .ok (.li (BitVec.ofNat 5 (w / 4096)) (BitVec.ofNat 7 (w / 1))) else .error .reservedEncoding
  | 0x2B => .ok (.lih (BitVec.ofNat 5 (w / 4096)) (BitVec.ofNat 5 (w / 128)) (BitVec.ofNat 7 (w / 1)))
  | 0x40 => if w % 4 = 0 ∧ w / 4096 % 32 < 16 then .ok (.cmpeq (BitVec.ofNat 5 (w / 4096)) (BitVec.ofNat 5 (w / 128)) (BitVec.ofNat 5 (w / 4))) else .error .reservedEncoding
  | 0x41 => if w % 4 = 0 ∧ w / 4096 % 32 < 16 then .ok (.cmpne (BitVec.ofNat 5 (w / 4096)) (BitVec.ofNat 5 (w / 128)) (BitVec.ofNat 5 (w / 4))) else .error .reservedEncoding
  | 0x42 => if w % 4 = 0 ∧ w / 4096 % 32 < 16 then .ok (.cmplt (BitVec.ofNat 5 (w / 4096)) (BitVec.ofNat 5 (w / 128)) (BitVec.ofNat 5 (w / 4))) else .error .reservedEncoding
  | 0x43 => if w % 4 = 0 ∧ w / 4096 % 32 < 16 then .ok (.cmple (BitVec.ofNat 5 (w / 4096)) (BitVec.ofNat 5 (w / 128)) (BitVec.ofNat 5 (w / 4))) else .error .reservedEncoding
  | 0x44 => if w % 4 = 0 ∧ w / 4096 % 32 < 16 then .ok (.cmpltn (BitVec.ofNat 5 (w / 4096)) (BitVec.ofNat 5 (w / 128)) (BitVec.ofNat 5 (w / 4))) else .error .reservedEncoding
  | 0x45 => if w % 4 = 0 ∧ w / 4096 % 32 < 16 then .ok (.cmplen (BitVec.ofNat 5 (w / 4096)) (BitVec.ofNat 5 (w / 128)) (BitVec.ofNat 5 (w / 4))) else .error .reservedEncoding
  | 0x46 => if w / 4096 % 32 < 16 then .ok (.cmpeqi (BitVec.ofNat 5 (w / 4096)) (BitVec.ofNat 5 (w / 128)) (BitVec.ofNat 7 (w / 1))) else .error .reservedEncoding
  | 0x47 => if w / 4096 % 32 < 16 then .ok (.cmpnei (BitVec.ofNat 5 (w / 4096)) (BitVec.ofNat 5 (w / 128)) (BitVec.ofNat 7 (w / 1))) else .error .reservedEncoding
  | 0x48 => if w / 4096 % 32 < 16 then .ok (.cmplti (BitVec.ofNat 5 (w / 4096)) (BitVec.ofNat 5 (w / 128)) (BitVec.ofNat 7 (w / 1))) else .error .reservedEncoding
  | 0x49 => if w / 4096 % 32 < 16 then .ok (.cmplei (BitVec.ofNat 5 (w / 4096)) (BitVec.ofNat 5 (w / 128)) (BitVec.ofNat 7 (w / 1))) else .error .reservedEncoding
  | 0x4A => if w / 4096 % 32 < 16 then .ok (.cmpgti (BitVec.ofNat 5 (w / 4096)) (BitVec.ofNat 5 (w / 128)) (BitVec.ofNat 7 (w / 1))) else .error .reservedEncoding
  | 0x4B => if w / 4096 % 32 < 16 then .ok (.cmpgei (BitVec.ofNat 5 (w / 4096)) (BitVec.ofNat 5 (w / 128)) (BitVec.ofNat 7 (w / 1))) else .error .reservedEncoding
  | 0x4C => if w % 4 = 0 ∧ w / 4096 % 32 < 16 ∧ w / 128 % 32 < 16 ∧ w / 4 % 32 < 16 then .ok (.pand (BitVec.ofNat 5 (w / 4096)) (BitVec.ofNat 5 (w / 128)) (BitVec.ofNat 5 (w / 4))) else .error .reservedEncoding
  | 0x4D => if w % 4 = 0 ∧ w / 4096 % 32 < 16 ∧ w / 128 % 32 < 16 ∧ w / 4 % 32 < 16 then .ok (.por (BitVec.ofNat 5 (w / 4096)) (BitVec.ofNat 5 (w / 128)) (BitVec.ofNat 5 (w / 4))) else .error .reservedEncoding
  | 0x4E => if w % 4 = 0 ∧ w / 4096 % 32 < 16 ∧ w / 128 % 32 < 16 ∧ w / 4 % 32 < 16 then .ok (.pxor (BitVec.ofNat 5 (w / 4096)) (BitVec.ofNat 5 (w / 128)) (BitVec.ofNat 5 (w / 4))) else .error .reservedEncoding
  | 0x4F => if w % 4 = 0 ∧ w / 4096 % 32 < 16 ∧ w / 128 % 32 < 16 ∧ w / 4 % 32 < 16 then .ok (.pandn (BitVec.ofNat 5 (w / 4096)) (BitVec.ofNat 5 (w / 128)) (BitVec.ofNat 5 (w / 4))) else .error .reservedEncoding
  | 0x50 => if w % 128 = 0 ∧ w / 4096 % 32 < 16 ∧ w / 128 % 32 < 16 then .ok (.pnot (BitVec.ofNat 5 (w / 4096)) (BitVec.ofNat 5 (w / 128))) else .error .reservedEncoding
  | 0x51 => if w % 128 = 0 ∧ w / 4096 % 32 < 16 ∧ w / 128 % 32 < 16 then .ok (.pmov (BitVec.ofNat 5 (w / 4096)) (BitVec.ofNat 5 (w / 128))) else .error .reservedEncoding
  | 0x52 => if w / 4 % 1024 = 0 ∧ w / 4096 % 32 < 16 ∧ w / 1 % 4 < 2 then .ok (.pset (BitVec.ofNat 5 (w / 4096)) (BitVec.ofNat 2 (w / 1))) else .error .reservedEncoding
  | 0x53 => if w % 4096 = 0 then .ok (.ptos (BitVec.ofNat 5 (w / 4096))) else .error .reservedEncoding
  | 0x54 => if w % 4 = 0 ∧ w / 4096 % 32 = 0 then .ok (.spred (BitVec.ofNat 5 (w / 128)) (BitVec.ofNat 5 (w / 4))) else .error .reservedEncoding
  | 0x60 => if w % 4 = 0 ∧ w / 4096 % 32 < 16 then .ok (.hmk (BitVec.ofNat 5 (w / 4096)) (BitVec.ofNat 5 (w / 128)) (BitVec.ofNat 5 (w / 4))) else .error .reservedEncoding
  | 0x61 => if w % 4 = 0 ∧ w / 4096 % 32 < 16 ∧ w / 128 % 32 < 16 then .ok (.hadd (BitVec.ofNat 5 (w / 4096)) (BitVec.ofNat 5 (w / 128)) (BitVec.ofNat 5 (w / 4))) else .error .reservedEncoding
  | 0x62 => if w / 4096 % 32 < 16 ∧ w / 128 % 32 < 16 then .ok (.haddi (BitVec.ofNat 5 (w / 4096)) (BitVec.ofNat 5 (w / 128)) (BitVec.ofNat 7 (w / 1))) else .error .reservedEncoding
  | 0x63 => if w % 128 = 0 ∧ w / 128 % 32 < 16 then .ok (.hidx (BitVec.ofNat 5 (w / 4096)) (BitVec.ofNat 5 (w / 128))) else .error .reservedEncoding
  | 0x64 => if w % 128 = 0 ∧ w / 128 % 32 < 16 then .ok (.hoff (BitVec.ofNat 5 (w / 4096)) (BitVec.ofNat 5 (w / 128))) else .error .reservedEncoding
  | 0x65 => if w % 4 = 0 ∧ w / 4096 % 32 < 16 ∧ w / 128 % 32 < 16 then .ok (.hseto (BitVec.ofNat 5 (w / 4096)) (BitVec.ofNat 5 (w / 128)) (BitVec.ofNat 5 (w / 4))) else .error .reservedEncoding
  | 0x66 => if w % 128 = 0 ∧ w / 4096 % 32 < 16 ∧ w / 128 % 32 < 16 then .ok (.hmov (BitVec.ofNat 5 (w / 4096)) (BitVec.ofNat 5 (w / 128))) else .error .reservedEncoding
  | 0x67 => if w / 4096 % 32 < 16 ∧ w / 128 % 32 < 16 then .ok (.hchk (BitVec.ofNat 5 (w / 4096)) (BitVec.ofNat 5 (w / 128)) (BitVec.ofNat 5 (w / 4)) (BitVec.ofNat 2 (w / 1))) else .error .reservedEncoding
  | 0x80 => .ok (.b (BitVec.ofNat 17 (w / 1)))
  | 0x81 => if w % 128 = 0 ∧ w / 4096 % 32 = 0 then .ok (.bx (BitVec.ofNat 5 (w / 128))) else .error .reservedEncoding
  | 0x82 => .ok (.call (BitVec.ofNat 17 (w / 1)))
  | 0x83 => if w % 128 = 0 ∧ w / 4096 % 32 = 0 then .ok (.callx (BitVec.ofNat 5 (w / 128))) else .error .reservedEncoding
  | 0x84 => if w % 131072 = 0 then .ok (.ret) else .error .reservedEncoding
  | 0x85 => .ok (.bempty (BitVec.ofNat 15 (w / 4)) (BitVec.ofNat 2 (w / 1)))
  | 0x86 => if w / 32768 % 4 = 0 ∧ w / 4096 % 8 < 6 ∧ 1 ≤ w / 1 % 128 ∧ w / 1 % 128 ≤ 64 then .ok (.loop (BitVec.ofNat 3 (w / 4096)) (BitVec.ofNat 5 (w / 128)) (BitVec.ofNat 7 (w / 1))) else .error .reservedEncoding
  | 0x87 => if w % 4 = 0 ∧ w / 32768 % 4 = 0 ∧ w / 4096 % 8 < 6 ∧ w / 128 % 32 < 16 then .ok (.lstrd (BitVec.ofNat 3 (w / 4096)) (BitVec.ofNat 5 (w / 128)) (BitVec.ofNat 5 (w / 4))) else .error .reservedEncoding
  | 0x88 => if w % 4096 = 0 ∧ w / 32768 % 4 = 0 ∧ w / 4096 % 8 < 6 then .ok (.lbrk (BitVec.ofNat 3 (w / 4096))) else .error .reservedEncoding
  | 0x89 => if w % 4 = 0 ∧ w / 4 % 32 < 16 then .ok (.launch (BitVec.ofNat 5 (w / 4096)) (BitVec.ofNat 5 (w / 128)) (BitVec.ofNat 5 (w / 4))) else .error .reservedEncoding
  | 0x8A => if w % 131072 = 0 then .ok (.exit) else .error .reservedEncoding
  | 0x8B => .ok (.ppt (BitVec.ofNat 17 (w / 1)))
  | 0x8C => if w / 2 % 2 = 0 ∧ w / 4096 % 32 = 0 then .ok (.frame (BitVec.ofNat 5 (w / 128)) (BitVec.ofNat 5 (w / 4)) (BitVec.ofNat 1 (w / 1))) else .error .reservedEncoding
  | 0x8D => if w % 131072 = 0 then .ok (.nop) else .error .reservedEncoding
  | 0xA0 => if w / 2 % 2 = 0 then .ok (.wmrg (BitVec.ofNat 5 (w / 4096)) (BitVec.ofNat 5 (w / 128)) (BitVec.ofNat 5 (w / 4)) (BitVec.ofNat 1 (w / 1))) else .error .reservedEncoding
  | 0xA1 => if w % 128 = 0 ∧ w / 4096 % 32 = 0 then .ok (.wwait (BitVec.ofNat 5 (w / 128))) else .error .reservedEncoding
  | 0xA2 => if w % 128 = 0 ∧ w / 4096 % 32 < 16 then .ok (.wtest (BitVec.ofNat 5 (w / 4096)) (BitVec.ofNat 5 (w / 128))) else .error .reservedEncoding
  | 0xA3 => if w / 4 % 32 = 0 then .ok (.tlread (BitVec.ofNat 5 (w / 4096)) (BitVec.ofNat 5 (w / 128)) (BitVec.ofNat 2 (w / 1))) else .error .reservedEncoding
  | 0xA4 => if w % 2 = 0 then .ok (.fence (BitVec.ofNat 8 (w / 512)) (BitVec.ofNat 8 (w / 2))) else .error .reservedEncoding
  | 0xA5 => if w / 4 % 1024 = 0 ∧ w / 1 % 4 < 3 then .ok (.whzn (BitVec.ofNat 5 (w / 4096)) (BitVec.ofNat 2 (w / 1))) else .error .reservedEncoding
  | 0xC0 => if w / 128 % 32 = 0 then .ok (.csrr (BitVec.ofNat 5 (w / 4096)) (BitVec.ofNat 7 (w / 1))) else .error .reservedEncoding
  | 0xC1 => .ok (.csrw (BitVec.ofNat 5 (w / 4096)) (BitVec.ofNat 5 (w / 128)) (BitVec.ofNat 7 (w / 1)))
  | 0xC2 => .ok (.csrs (BitVec.ofNat 5 (w / 4096)) (BitVec.ofNat 5 (w / 128)) (BitVec.ofNat 7 (w / 1)))
  | 0xC3 => .ok (.csrc (BitVec.ofNat 5 (w / 4096)) (BitVec.ofNat 5 (w / 128)) (BitVec.ofNat 7 (w / 1)))
  | 0xC4 => if w % 4096 = 0 then .ok (.rdts (BitVec.ofNat 5 (w / 4096))) else .error .reservedEncoding
  | 0xC5 => if w / 4096 % 32 = 0 then .ok (.trap (BitVec.ofNat 5 (w / 128)) (BitVec.ofNat 7 (w / 1))) else .error .reservedEncoding
  | 0xC6 => if w % 131072 = 0 then .ok (.rett) else .error .reservedEncoding
  | 0xE0 => if w % 4 = 0 ∧ w / 4096 % 32 = 0 ∧ w / 128 % 32 < 16 then .ok (.tbegin (BitVec.ofNat 5 (w / 128)) (BitVec.ofNat 5 (w / 4))) else .error .reservedEncoding
  | 0xE1 => if w / 4 % 4 = 0 ∧ w / 1 % 4 < 2 then .ok (.trec (BitVec.ofNat 8 (w / 4096 % 32 * 8 + w / 16 % 8)) (BitVec.ofNat 5 (w / 128)) (BitVec.ofNat 2 (w / 1))) else .error .reservedEncoding
  | 0xE2 => if w % 16 = 0 ∧ w / 128 % 32 < 16 then .ok (.trecp (BitVec.ofNat 8 (w / 4096 % 32 * 8 + w / 16 % 8)) (BitVec.ofNat 5 (w / 128))) else .error .reservedEncoding
  | 0xE3 => if w % 4096 = 0 then .ok (.tend (BitVec.ofNat 5 (w / 4096))) else .error .reservedEncoding
  | 0xE4 => if w % 4 = 0 ∧ w / 4096 % 32 = 0 ∧ w / 128 % 32 < 16 then .ok (.trev (BitVec.ofNat 5 (w / 128)) (BitVec.ofNat 5 (w / 4))) else .error .reservedEncoding
  | 0xE5 => if w / 4 % 4 = 0 ∧ w / 1 % 4 < 2 then .ok (.tpop (BitVec.ofNat 8 (w / 4096 % 32 * 8 + w / 16 % 8)) (BitVec.ofNat 5 (w / 128)) (BitVec.ofNat 2 (w / 1))) else .error .reservedEncoding
  | 0xE6 => if w % 16 = 0 ∧ w / 128 % 32 < 16 then .ok (.tpopp (BitVec.ofNat 8 (w / 4096 % 32 * 8 + w / 16 % 8)) (BitVec.ofNat 5 (w / 128))) else .error .reservedEncoding
  | _ => .error .illegalOpcode

/-- The V class: what opcode `op` reads from a word `w` (numbers as in the opcode table). -/
def makeV (op w : Nat) : Except DecodeError Instr :=
  match op with
  | 0x00 => if w / 1 % 4 < 3 then .ok (.vaddF (BitVec.ofNat 5 (w / 4096)) (BitVec.ofNat 5 (w / 128)) (BitVec.ofNat 5 (w / 4)) (BitVec.ofNat 2 (w / 1))) else .error .reservedEncoding
  | 0x01 => if w / 1 % 4 < 3 then .ok (.vsubF (BitVec.ofNat 5 (w / 4096)) (BitVec.ofNat 5 (w / 128)) (BitVec.ofNat 5 (w / 4)) (BitVec.ofNat 2 (w / 1))) else .error .reservedEncoding
  | 0x02 => if w / 1 % 4 < 3 then .ok (.vmulF (BitVec.ofNat 5 (w / 4096)) (BitVec.ofNat 5 (w / 128)) (BitVec.ofNat 5 (w / 4)) (BitVec.ofNat 2 (w / 1))) else .error .reservedEncoding
  | 0x03 => if w / 1 % 4 < 3 then .ok (.vfma (BitVec.ofNat 5 (w / 4096)) (BitVec.ofNat 5 (w / 128)) (BitVec.ofNat 5 (w / 4)) (BitVec.ofNat 2 (w / 1))) else .error .reservedEncoding
  | 0x04 => if w / 1 % 4 < 3 then .ok (.vfms (BitVec.ofNat 5 (w / 4096)) (BitVec.ofNat 5 (w / 128)) (BitVec.ofNat 5 (w / 4)) (BitVec.ofNat 2 (w / 1))) else .error .reservedEncoding
  | 0x05 => if w / 1 % 4 < 3 then .ok (.vfnma (BitVec.ofNat 5 (w / 4096)) (BitVec.ofNat 5 (w / 128)) (BitVec.ofNat 5 (w / 4)) (BitVec.ofNat 2 (w / 1))) else .error .reservedEncoding
  | 0x06 => if w / 1 % 4 < 3 then .ok (.vdiv (BitVec.ofNat 5 (w / 4096)) (BitVec.ofNat 5 (w / 128)) (BitVec.ofNat 5 (w / 4)) (BitVec.ofNat 2 (w / 1))) else .error .reservedEncoding
  | 0x07 => if w / 1 % 4 < 3 then .ok (.vminF (BitVec.ofNat 5 (w / 4096)) (BitVec.ofNat 5 (w / 128)) (BitVec.ofNat 5 (w / 4)) (BitVec.ofNat 2 (w / 1))) else .error .reservedEncoding
  | 0x08 => if w / 1 % 4 < 3 then .ok (.vmaxF (BitVec.ofNat 5 (w / 4096)) (BitVec.ofNat 5 (w / 128)) (BitVec.ofNat 5 (w / 4)) (BitVec.ofNat 2 (w / 1))) else .error .reservedEncoding
  | 0x09 => if w / 4 % 32 = 0 ∧ w / 1 % 4 < 3 then .ok (.vabsF (BitVec.ofNat 5 (w / 4096)) (BitVec.ofNat 5 (w / 128)) (BitVec.ofNat 2 (w / 1))) else .error .reservedEncoding
  | 0x0A => if w / 4 % 32 = 0 ∧ w / 1 % 4 < 3 then .ok (.vnegF (BitVec.ofNat 5 (w / 4096)) (BitVec.ofNat 5 (w / 128)) (BitVec.ofNat 2 (w / 1))) else .error .reservedEncoding
  | 0x0B => if w / 1 % 4 < 3 then .ok (.vcmpeqF (BitVec.ofNat 5 (w / 4096)) (BitVec.ofNat 5 (w / 128)) (BitVec.ofNat 5 (w / 4)) (BitVec.ofNat 2 (w / 1))) else .error .reservedEncoding
  | 0x0C => if w / 1 % 4 < 3 then .ok (.vcmpltF (BitVec.ofNat 5 (w / 4096)) (BitVec.ofNat 5 (w / 128)) (BitVec.ofNat 5 (w / 4)) (BitVec.ofNat 2 (w / 1))) else .error .reservedEncoding
  | 0x0D => if w / 1 % 4 < 3 then .ok (.vcmpleF (BitVec.ofNat 5 (w / 4096)) (BitVec.ofNat 5 (w / 128)) (BitVec.ofNat 5 (w / 4)) (BitVec.ofNat 2 (w / 1))) else .error .reservedEncoding
  | 0x0E => if w / 1 % 4 < 3 then .ok (.vcmpun (BitVec.ofNat 5 (w / 4096)) (BitVec.ofNat 5 (w / 128)) (BitVec.ofNat 5 (w / 4)) (BitVec.ofNat 2 (w / 1))) else .error .reservedEncoding
  | 0x0F => if w / 1 % 4 < 3 then .ok (.vscalb (BitVec.ofNat 5 (w / 4096)) (BitVec.ofNat 5 (w / 128)) (BitVec.ofNat 5 (w / 4)) (BitVec.ofNat 2 (w / 1))) else .error .reservedEncoding
  | 0x10 => if w / 32 % 4 = 0 ∧ w / 4 % 8 < 5 ∧ w / 1 % 4 < 3 then .ok (.vrint (BitVec.ofNat 5 (w / 4096)) (BitVec.ofNat 5 (w / 128)) (BitVec.ofNat 3 (w / 4)) (BitVec.ofNat 2 (w / 1))) else .error .reservedEncoding
  | 0x40 | 0x41 => .ok (.vaddI (BitVec.ofNat 1 (w / 131072)) (BitVec.ofNat 5 (w / 4096)) (BitVec.ofNat 5 (w / 128)) (BitVec.ofNat 5 (w / 4)) (BitVec.ofNat 2 (w / 1)))
  | 0x42 | 0x43 => .ok (.vsubI (BitVec.ofNat 1 (w / 131072)) (BitVec.ofNat 5 (w / 4096)) (BitVec.ofNat 5 (w / 128)) (BitVec.ofNat 5 (w / 4)) (BitVec.ofNat 2 (w / 1)))
  | 0x44 | 0x45 => .ok (.vadds (BitVec.ofNat 1 (w / 131072)) (BitVec.ofNat 5 (w / 4096)) (BitVec.ofNat 5 (w / 128)) (BitVec.ofNat 5 (w / 4)) (BitVec.ofNat 2 (w / 1)))
  | 0x46 | 0x47 => .ok (.vsubs (BitVec.ofNat 1 (w / 131072)) (BitVec.ofNat 5 (w / 4096)) (BitVec.ofNat 5 (w / 128)) (BitVec.ofNat 5 (w / 4)) (BitVec.ofNat 2 (w / 1)))
  | 0x48 | 0x49 => .ok (.vmulI (BitVec.ofNat 1 (w / 131072)) (BitVec.ofNat 5 (w / 4096)) (BitVec.ofNat 5 (w / 128)) (BitVec.ofNat 5 (w / 4)) (BitVec.ofNat 2 (w / 1)))
  | 0x4A | 0x4B => .ok (.vmulh (BitVec.ofNat 1 (w / 131072)) (BitVec.ofNat 5 (w / 4096)) (BitVec.ofNat 5 (w / 128)) (BitVec.ofNat 5 (w / 4)) (BitVec.ofNat 2 (w / 1)))
  | 0x4C | 0x4D => .ok (.vminI (BitVec.ofNat 1 (w / 131072)) (BitVec.ofNat 5 (w / 4096)) (BitVec.ofNat 5 (w / 128)) (BitVec.ofNat 5 (w / 4)) (BitVec.ofNat 2 (w / 1)))
  | 0x4E | 0x4F => .ok (.vmaxI (BitVec.ofNat 1 (w / 131072)) (BitVec.ofNat 5 (w / 4096)) (BitVec.ofNat 5 (w / 128)) (BitVec.ofNat 5 (w / 4)) (BitVec.ofNat 2 (w / 1)))
  | 0x50 | 0x51 => .ok (.vcmpeqI (BitVec.ofNat 1 (w / 131072)) (BitVec.ofNat 5 (w / 4096)) (BitVec.ofNat 5 (w / 128)) (BitVec.ofNat 5 (w / 4)) (BitVec.ofNat 2 (w / 1)))
  | 0x52 | 0x53 => .ok (.vcmpltI (BitVec.ofNat 1 (w / 131072)) (BitVec.ofNat 5 (w / 4096)) (BitVec.ofNat 5 (w / 128)) (BitVec.ofNat 5 (w / 4)) (BitVec.ofNat 2 (w / 1)))
  | 0x54 | 0x55 => .ok (.vcmpleI (BitVec.ofNat 1 (w / 131072)) (BitVec.ofNat 5 (w / 4096)) (BitVec.ofNat 5 (w / 128)) (BitVec.ofNat 5 (w / 4)) (BitVec.ofNat 2 (w / 1)))
  | 0x56 | 0x57 => .ok (.vand (BitVec.ofNat 1 (w / 131072)) (BitVec.ofNat 5 (w / 4096)) (BitVec.ofNat 5 (w / 128)) (BitVec.ofNat 5 (w / 4)) (BitVec.ofNat 2 (w / 1)))
  | 0x58 | 0x59 => .ok (.vor (BitVec.ofNat 1 (w / 131072)) (BitVec.ofNat 5 (w / 4096)) (BitVec.ofNat 5 (w / 128)) (BitVec.ofNat 5 (w / 4)) (BitVec.ofNat 2 (w / 1)))
  | 0x5A | 0x5B => .ok (.vxor (BitVec.ofNat 1 (w / 131072)) (BitVec.ofNat 5 (w / 4096)) (BitVec.ofNat 5 (w / 128)) (BitVec.ofNat 5 (w / 4)) (BitVec.ofNat 2 (w / 1)))
  | 0x5C | 0x5D => if w / 4 % 32 = 0 then .ok (.vnot (BitVec.ofNat 1 (w / 131072)) (BitVec.ofNat 5 (w / 4096)) (BitVec.ofNat 5 (w / 128)) (BitVec.ofNat 2 (w / 1))) else .error .reservedEncoding
  | 0x5E | 0x5F => .ok (.vsll (BitVec.ofNat 1 (w / 131072)) (BitVec.ofNat 5 (w / 4096)) (BitVec.ofNat 5 (w / 128)) (BitVec.ofNat 5 (w / 4)) (BitVec.ofNat 2 (w / 1)))
  | 0x60 | 0x61 => .ok (.vsrl (BitVec.ofNat 1 (w / 131072)) (BitVec.ofNat 5 (w / 4096)) (BitVec.ofNat 5 (w / 128)) (BitVec.ofNat 5 (w / 4)) (BitVec.ofNat 2 (w / 1)))
  | 0x62 | 0x63 => .ok (.vsra (BitVec.ofNat 1 (w / 131072)) (BitVec.ofNat 5 (w / 4096)) (BitVec.ofNat 5 (w / 128)) (BitVec.ofNat 5 (w / 4)) (BitVec.ofNat 2 (w / 1)))
  | 0x64 => if w / 4 % 32 = 0 then .ok (.vabsI (BitVec.ofNat 5 (w / 4096)) (BitVec.ofNat 5 (w / 128)) (BitVec.ofNat 2 (w / 1))) else .error .reservedEncoding
  | 0x66 => if w / 4 % 32 = 0 then .ok (.vnegI (BitVec.ofNat 5 (w / 4096)) (BitVec.ofNat 5 (w / 128)) (BitVec.ofNat 2 (w / 1))) else .error .reservedEncoding
  | 0x80 => if w % 4 = 0 then .ok (.cvt (BitVec.ofNat 5 (w / 4096)) (BitVec.ofNat 5 (w / 128)) (BitVec.ofNat 5 (w / 4))) else .error .reservedEncoding
  | 0x81 => if w % 4 = 0 then .ok (.qnt (BitVec.ofNat 5 (w / 4096)) (BitVec.ofNat 5 (w / 128)) (BitVec.ofNat 5 (w / 4))) else .error .reservedEncoding
  | 0x82 => if w % 4 = 0 then .ok (.dqnt (BitVec.ofNat 5 (w / 4096)) (BitVec.ofNat 5 (w / 128)) (BitVec.ofNat 5 (w / 4))) else .error .reservedEncoding
  | 0xA0 => if w % 128 = 0 then .ok (.vmov (BitVec.ofNat 5 (w / 4096)) (BitVec.ofNat 5 (w / 128))) else .error .reservedEncoding
  | 0xA1 => if w % 4 = 0 ∧ bcastFmt (BitVec.ofNat 5 (w / 4)) = true then .ok (.vbcast (BitVec.ofNat 5 (w / 4096)) (BitVec.ofNat 5 (w / 128)) (BitVec.ofNat 5 (w / 4))) else .error .reservedEncoding
  | 0xA2 => if w % 4 = 0 then .ok (.vbcastl (BitVec.ofNat 5 (w / 4096)) (BitVec.ofNat 5 (w / 128)) (BitVec.ofNat 5 (w / 4))) else .error .reservedEncoding
  | 0xA3 => if w % 4 = 0 then .ok (.vperm (BitVec.ofNat 5 (w / 4096)) (BitVec.ofNat 5 (w / 128)) (BitVec.ofNat 5 (w / 4))) else .error .reservedEncoding
  | 0xA4 => if w % 4 = 0 then .ok (.vrot (BitVec.ofNat 5 (w / 4096)) (BitVec.ofNat 5 (w / 128)) (BitVec.ofNat 5 (w / 4))) else .error .reservedEncoding
  | 0xA5 => if w % 4 = 0 then .ok (.vsel (BitVec.ofNat 5 (w / 4096)) (BitVec.ofNat 5 (w / 128)) (BitVec.ofNat 5 (w / 4))) else .error .reservedEncoding
  | 0xA6 => if w % 128 = 0 then .ok (.vrsum (BitVec.ofNat 5 (w / 4096)) (BitVec.ofNat 5 (w / 128))) else .error .reservedEncoding
  | 0xA7 => if w % 128 = 0 then .ok (.vrmax (BitVec.ofNat 5 (w / 4096)) (BitVec.ofNat 5 (w / 128))) else .error .reservedEncoding
  | 0xA8 => if w % 128 = 0 then .ok (.vrmin (BitVec.ofNat 5 (w / 4096)) (BitVec.ofNat 5 (w / 128))) else .error .reservedEncoding
  | 0xA9 => .ok (.vdot (BitVec.ofNat 5 (w / 4096)) (BitVec.ofNat 5 (w / 128)) (BitVec.ofNat 5 (w / 4)) (BitVec.ofNat 2 (w / 1)))
  | 0xAA => if w % 4 = 0 then .ok (.vext (BitVec.ofNat 5 (w / 4096)) (BitVec.ofNat 5 (w / 128)) (BitVec.ofNat 5 (w / 4))) else .error .reservedEncoding
  | 0xAB => if w % 4 = 0 then .ok (.vins (BitVec.ofNat 5 (w / 4096)) (BitVec.ofNat 5 (w / 128)) (BitVec.ofNat 5 (w / 4))) else .error .reservedEncoding
  | 0xAC => if w / 2 % 2 = 0 then .ok (.vzip (BitVec.ofNat 5 (w / 4096)) (BitVec.ofNat 5 (w / 128)) (BitVec.ofNat 5 (w / 4)) (BitVec.ofNat 1 (w / 1))) else .error .reservedEncoding
  | 0xAD => if w / 2 % 2 = 0 then .ok (.vunzip (BitVec.ofNat 5 (w / 4096)) (BitVec.ofNat 5 (w / 128)) (BitVec.ofNat 5 (w / 4)) (BitVec.ofNat 1 (w / 1))) else .error .reservedEncoding
  | 0xC0 | 0xC1 => if w / 4 % 32 = 0 ∧ w / 1 % 4 < 3 then .ok (.exp2 (BitVec.ofNat 1 (w / 131072)) (BitVec.ofNat 5 (w / 4096)) (BitVec.ofNat 5 (w / 128)) (BitVec.ofNat 2 (w / 1))) else .error .reservedEncoding
  | 0xC2 | 0xC3 => if w / 4 % 32 = 0 ∧ w / 1 % 4 < 3 then .ok (.log2 (BitVec.ofNat 1 (w / 131072)) (BitVec.ofNat 5 (w / 4096)) (BitVec.ofNat 5 (w / 128)) (BitVec.ofNat 2 (w / 1))) else .error .reservedEncoding
  | 0xC4 | 0xC5 => if w / 4 % 32 = 0 ∧ w / 1 % 4 < 3 then .ok (.rcp (BitVec.ofNat 1 (w / 131072)) (BitVec.ofNat 5 (w / 4096)) (BitVec.ofNat 5 (w / 128)) (BitVec.ofNat 2 (w / 1))) else .error .reservedEncoding
  | 0xC6 | 0xC7 => if w / 4 % 32 = 0 ∧ w / 1 % 4 < 3 then .ok (.rsq (BitVec.ofNat 1 (w / 131072)) (BitVec.ofNat 5 (w / 4096)) (BitVec.ofNat 5 (w / 128)) (BitVec.ofNat 2 (w / 1))) else .error .reservedEncoding
  | 0xC8 | 0xC9 => if w / 4 % 32 = 0 ∧ w / 1 % 4 < 3 then .ok (.sqrt (BitVec.ofNat 1 (w / 131072)) (BitVec.ofNat 5 (w / 4096)) (BitVec.ofNat 5 (w / 128)) (BitVec.ofNat 2 (w / 1))) else .error .reservedEncoding
  | 0xCA | 0xCB => if w / 4 % 32 = 0 ∧ w / 1 % 4 < 3 then .ok (.sin (BitVec.ofNat 1 (w / 131072)) (BitVec.ofNat 5 (w / 4096)) (BitVec.ofNat 5 (w / 128)) (BitVec.ofNat 2 (w / 1))) else .error .reservedEncoding
  | 0xCC | 0xCD => if w / 4 % 32 = 0 ∧ w / 1 % 4 < 3 then .ok (.cos (BitVec.ofNat 1 (w / 131072)) (BitVec.ofNat 5 (w / 4096)) (BitVec.ofNat 5 (w / 128)) (BitVec.ofNat 2 (w / 1))) else .error .reservedEncoding
  | 0xCE | 0xCF => if w / 4 % 32 = 0 ∧ w / 1 % 4 < 3 then .ok (.tanh (BitVec.ofNat 1 (w / 131072)) (BitVec.ofNat 5 (w / 4096)) (BitVec.ofNat 5 (w / 128)) (BitVec.ofNat 2 (w / 1))) else .error .reservedEncoding
  | 0xE0 => if w % 128 = 0 ∧ w / 4096 % 32 = 0 then .ok (.mpush (BitVec.ofNat 5 (w / 128))) else .error .reservedEncoding
  | 0xE1 => if w % 131072 = 0 then .ok (.minv) else .error .reservedEncoding
  | 0xE2 => if w % 131072 = 0 then .ok (.mpop) else .error .reservedEncoding
  | _ => .error .illegalOpcode

/-- The M class: what opcode `op` reads from a word `w` (numbers as in the opcode table). -/
def makeM (op w : Nat) : Except DecodeError Instr :=
  match op with
  | 0x00 => if w / 2 % 2 = 0 ∧ w / 4096 % 32 < 16 ∧ w / 128 % 32 < 8 ∧ w / 4 % 32 < 8 then .ok (.mmaBf16 (BitVec.ofNat 5 (w / 4096)) (BitVec.ofNat 5 (w / 128)) (BitVec.ofNat 5 (w / 4)) (BitVec.ofNat 1 (w / 1))) else .error .reservedEncoding
  | 0x01 => if w / 4096 % 32 < 16 ∧ w / 128 % 32 < 8 ∧ w / 4 % 32 < 8 then .ok (.mmaFp8 (BitVec.ofNat 5 (w / 4096)) (BitVec.ofNat 5 (w / 128)) (BitVec.ofNat 5 (w / 4)) (BitVec.ofNat 1 (w / 2)) (BitVec.ofNat 1 (w / 1))) else .error .reservedEncoding
  | 0x02 => if w % 4 = 0 ∧ w / 4096 % 32 < 16 ∧ w / 128 % 32 < 8 ∧ w / 4 % 32 < 8 then .ok (.mmaE2m1 (BitVec.ofNat 5 (w / 4096)) (BitVec.ofNat 5 (w / 128)) (BitVec.ofNat 5 (w / 4))) else .error .reservedEncoding
  | 0x03 => if w / 4096 % 32 < 16 ∧ w / 128 % 32 < 8 ∧ w / 4 % 32 < 8 then .ok (.mmaInt8 (BitVec.ofNat 5 (w / 4096)) (BitVec.ofNat 5 (w / 128)) (BitVec.ofNat 5 (w / 4)) (BitVec.ofNat 1 (w / 2)) (BitVec.ofNat 1 (w / 1))) else .error .reservedEncoding
  | 0x04 => if w % 4 = 0 ∧ w / 4096 % 32 < 16 ∧ w / 128 % 32 < 8 ∧ w / 4 % 32 < 8 then .ok (.mmaQ8 (BitVec.ofNat 5 (w / 4096)) (BitVec.ofNat 5 (w / 128)) (BitVec.ofNat 5 (w / 4))) else .error .reservedEncoding
  | 0x05 => if w % 4 = 0 ∧ w / 4096 % 32 < 16 ∧ w / 128 % 32 < 8 ∧ w / 4 % 32 < 8 then .ok (.mmaQ4 (BitVec.ofNat 5 (w / 4096)) (BitVec.ofNat 5 (w / 128)) (BitVec.ofNat 5 (w / 4))) else .error .reservedEncoding
  | 0x08 => if w / 2 % 2 = 0 ∧ w / 4096 % 32 < 16 ∧ w / 128 % 32 < 8 ∧ w / 4 % 32 < 8 then .ok (.mmazBf16 (BitVec.ofNat 5 (w / 4096)) (BitVec.ofNat 5 (w / 128)) (BitVec.ofNat 5 (w / 4)) (BitVec.ofNat 1 (w / 1))) else .error .reservedEncoding
  | 0x09 => if w / 4096 % 32 < 16 ∧ w / 128 % 32 < 8 ∧ w / 4 % 32 < 8 then .ok (.mmazFp8 (BitVec.ofNat 5 (w / 4096)) (BitVec.ofNat 5 (w / 128)) (BitVec.ofNat 5 (w / 4)) (BitVec.ofNat 1 (w / 2)) (BitVec.ofNat 1 (w / 1))) else .error .reservedEncoding
  | 0x0A => if w % 4 = 0 ∧ w / 4096 % 32 < 16 ∧ w / 128 % 32 < 8 ∧ w / 4 % 32 < 8 then .ok (.mmazE2m1 (BitVec.ofNat 5 (w / 4096)) (BitVec.ofNat 5 (w / 128)) (BitVec.ofNat 5 (w / 4))) else .error .reservedEncoding
  | 0x0B => if w / 4096 % 32 < 16 ∧ w / 128 % 32 < 8 ∧ w / 4 % 32 < 8 then .ok (.mmazInt8 (BitVec.ofNat 5 (w / 4096)) (BitVec.ofNat 5 (w / 128)) (BitVec.ofNat 5 (w / 4)) (BitVec.ofNat 1 (w / 2)) (BitVec.ofNat 1 (w / 1))) else .error .reservedEncoding
  | 0x0C => if w % 4 = 0 ∧ w / 4096 % 32 < 16 ∧ w / 128 % 32 < 8 ∧ w / 4 % 32 < 8 then .ok (.mmazQ8 (BitVec.ofNat 5 (w / 4096)) (BitVec.ofNat 5 (w / 128)) (BitVec.ofNat 5 (w / 4))) else .error .reservedEncoding
  | 0x0D => if w % 4 = 0 ∧ w / 4096 % 32 < 16 ∧ w / 128 % 32 < 8 ∧ w / 4 % 32 < 8 then .ok (.mmazQ4 (BitVec.ofNat 5 (w / 4096)) (BitVec.ofNat 5 (w / 128)) (BitVec.ofNat 5 (w / 4))) else .error .reservedEncoding
  | 0x40 => if w / 4 % 1024 = 0 ∧ w / 4096 % 32 < 16 ∧ w / 1 % 4 < 3 then .ok (.mzero (BitVec.ofNat 5 (w / 4096)) (BitVec.ofNat 2 (w / 1))) else .error .reservedEncoding
  | 0x41 => if w % 128 = 0 ∧ w / 4096 % 32 < 16 ∧ w / 128 % 32 < 8 then .ok (.mld (BitVec.ofNat 5 (w / 4096)) (BitVec.ofNat 5 (w / 128))) else .error .reservedEncoding
  | 0x42 => if w % 4 = 0 ∧ w / 128 % 32 < 16 ∧ w / 4 % 32 < 8 then .ok (.mst (BitVec.ofNat 5 (w / 4096)) (BitVec.ofNat 5 (w / 128)) (BitVec.ofNat 5 (w / 4))) else .error .reservedEncoding
  | 0x43 => if w % 4 = 0 ∧ w / 128 % 32 < 16 then .ok (.mrowv (BitVec.ofNat 5 (w / 4096)) (BitVec.ofNat 5 (w / 128)) (BitVec.ofNat 5 (w / 4))) else .error .reservedEncoding
  | 0x44 => if w % 4 = 0 ∧ w / 4096 % 32 < 16 then .ok (.mvrow (BitVec.ofNat 5 (w / 4096)) (BitVec.ofNat 5 (w / 128)) (BitVec.ofNat 5 (w / 4))) else .error .reservedEncoding
  | 0x45 => if w / 64 % 2 = 0 ∧ w / 4096 % 32 < 16 ∧ w / 128 % 32 < 16 ∧ w / 4 % 8 < 5 ∧ w / 1 % 4 < 3 then .ok (.mcvt (BitVec.ofNat 5 (w / 4096)) (BitVec.ofNat 5 (w / 128)) (BitVec.ofNat 1 (w / 32)) (BitVec.ofNat 3 (w / 4)) (BitVec.ofNat 2 (w / 1))) else .error .reservedEncoding
  | 0x46 => if w % 4 = 0 ∧ w / 4096 % 32 < 8 then .ok (.mrec (BitVec.ofNat 5 (w / 4096)) (BitVec.ofNat 5 (w / 128)) (BitVec.ofNat 5 (w / 4))) else .error .reservedEncoding
  | 0x47 => if w / 4096 % 32 < 8 ∧ w / 128 % 32 < 8 ∧ w / 1 % 4 < 3 then .ok (.mrecr (BitVec.ofNat 5 (w / 4096)) (BitVec.ofNat 5 (w / 128)) (BitVec.ofNat 5 (w / 4)) (BitVec.ofNat 2 (w / 1))) else .error .reservedEncoding
  | 0x48 => if w % 128 = 0 ∧ w / 4096 % 32 < 16 ∧ w / 128 % 32 < 16 then .ok (.mmov (BitVec.ofNat 5 (w / 4096)) (BitVec.ofNat 5 (w / 128))) else .error .reservedEncoding
  | _ => .error .illegalOpcode

/-- The L class: what opcode `op` reads from a word `w` (numbers as in the opcode table). -/
def makeL (op w : Nat) : Except DecodeError Instr :=
  match op with
  | 0x00 => .ok (.ldl (BitVec.ofNat 5 (w / 4096)) (BitVec.ofNat 5 (w / 128)) (BitVec.ofNat 5 (w / 4)) (BitVec.ofNat 2 (w / 1)))
  | 0x01 => .ok (.stl (BitVec.ofNat 5 (w / 4096)) (BitVec.ofNat 5 (w / 128)) (BitVec.ofNat 5 (w / 4)) (BitVec.ofNat 2 (w / 1)))
  | 0x02 => if w / 2 % 2 = 0 then .ok (.ldlv (BitVec.ofNat 5 (w / 4096)) (BitVec.ofNat 5 (w / 128)) (BitVec.ofNat 5 (w / 4)) (BitVec.ofNat 1 (w / 1))) else .error .reservedEncoding
  | 0x03 => if w / 2 % 2 = 0 then .ok (.stlv (BitVec.ofNat 5 (w / 4096)) (BitVec.ofNat 5 (w / 128)) (BitVec.ofNat 5 (w / 4)) (BitVec.ofNat 1 (w / 1))) else .error .reservedEncoding
  | 0x04 => if w % 4 = 0 then .ok (.ldlx (BitVec.ofNat 5 (w / 4096)) (BitVec.ofNat 5 (w / 128)) (BitVec.ofNat 5 (w / 4))) else .error .reservedEncoding
  | 0x05 => if w % 4 = 0 then .ok (.stlx (BitVec.ofNat 5 (w / 4096)) (BitVec.ofNat 5 (w / 128)) (BitVec.ofNat 5 (w / 4))) else .error .reservedEncoding
  | 0x06 => .ok (.ldlw (BitVec.ofNat 5 (w / 4096)) (BitVec.ofNat 5 (w / 128)) (BitVec.ofNat 5 (w / 4)) (BitVec.ofNat 2 (w / 1)))
  | 0x07 => if w / 2 % 2 = 0 then .ok (.ldlvw (BitVec.ofNat 5 (w / 4096)) (BitVec.ofNat 5 (w / 128)) (BitVec.ofNat 5 (w / 4)) (BitVec.ofNat 1 (w / 1))) else .error .reservedEncoding
  | 0x08 => if w / 128 % 32 < 16 then .ok (.ldc (BitVec.ofNat 5 (w / 4096)) (BitVec.ofNat 5 (w / 128)) (BitVec.ofNat 5 (w / 4)) (BitVec.ofNat 2 (w / 1))) else .error .reservedEncoding
  | 0x09 => if w / 128 % 32 < 16 then .ok (.ldcw (BitVec.ofNat 5 (w / 4096)) (BitVec.ofNat 5 (w / 128)) (BitVec.ofNat 5 (w / 4)) (BitVec.ofNat 2 (w / 1))) else .error .reservedEncoding
  | 0x40 => if w % 128 = 0 ∧ w / 4096 % 32 < 4 then .ok (.spat (BitVec.ofNat 5 (w / 4096)) (BitVec.ofNat 5 (w / 128))) else .error .reservedEncoding
  | 0x41 => if w % 4096 = 0 ∧ w / 4096 % 32 < 4 then .ok (.sgo (BitVec.ofNat 5 (w / 4096))) else .error .reservedEncoding
  | 0x42 => if w % 4096 = 0 ∧ w / 4096 % 32 < 4 then .ok (.sstop (BitVec.ofNat 5 (w / 4096))) else .error .reservedEncoding
  | 0x43 => if w % 4 = 0 ∧ w / 128 % 32 < 4 then .ok (.qpop (BitVec.ofNat 5 (w / 4096)) (BitVec.ofNat 5 (w / 128)) (BitVec.ofNat 5 (w / 4))) else .error .reservedEncoding
  | 0x44 => if w % 4 = 0 ∧ w / 128 % 32 < 4 then .ok (.qpops (BitVec.ofNat 5 (w / 4096)) (BitVec.ofNat 5 (w / 128)) (BitVec.ofNat 5 (w / 4))) else .error .reservedEncoding
  | 0x45 => if w % 4 = 0 ∧ w / 128 % 32 < 4 then .ok (.qstat (BitVec.ofNat 5 (w / 4096)) (BitVec.ofNat 5 (w / 128)) (BitVec.ofNat 5 (w / 4))) else .error .reservedEncoding
  | 0x60 => .ok (.laadd (BitVec.ofNat 5 (w / 4096)) (BitVec.ofNat 5 (w / 128)) (BitVec.ofNat 5 (w / 4)) (BitVec.ofNat 1 (w / 2)) (BitVec.ofNat 1 (w / 1)))
  | 0x61 => .ok (.lamin (BitVec.ofNat 5 (w / 4096)) (BitVec.ofNat 5 (w / 128)) (BitVec.ofNat 5 (w / 4)) (BitVec.ofNat 1 (w / 2)) (BitVec.ofNat 1 (w / 1)))
  | 0x62 => .ok (.lamax (BitVec.ofNat 5 (w / 4096)) (BitVec.ofNat 5 (w / 128)) (BitVec.ofNat 5 (w / 4)) (BitVec.ofNat 1 (w / 2)) (BitVec.ofNat 1 (w / 1)))
  | 0x63 => .ok (.laand (BitVec.ofNat 5 (w / 4096)) (BitVec.ofNat 5 (w / 128)) (BitVec.ofNat 5 (w / 4)) (BitVec.ofNat 1 (w / 2)) (BitVec.ofNat 1 (w / 1)))
  | 0x64 => .ok (.laor (BitVec.ofNat 5 (w / 4096)) (BitVec.ofNat 5 (w / 128)) (BitVec.ofNat 5 (w / 4)) (BitVec.ofNat 1 (w / 2)) (BitVec.ofNat 1 (w / 1)))
  | 0x65 => .ok (.laxor (BitVec.ofNat 5 (w / 4096)) (BitVec.ofNat 5 (w / 128)) (BitVec.ofNat 5 (w / 4)) (BitVec.ofNat 1 (w / 2)) (BitVec.ofNat 1 (w / 1)))
  | 0x66 => .ok (.laswp (BitVec.ofNat 5 (w / 4096)) (BitVec.ofNat 5 (w / 128)) (BitVec.ofNat 5 (w / 4)) (BitVec.ofNat 1 (w / 2)) (BitVec.ofNat 1 (w / 1)))
  | 0x67 => .ok (.lacas (BitVec.ofNat 5 (w / 4096)) (BitVec.ofNat 5 (w / 128)) (BitVec.ofNat 5 (w / 4)) (BitVec.ofNat 1 (w / 2)) (BitVec.ofNat 1 (w / 1)))
  | 0x68 => if w % 2 = 0 then .ok (.lafadd (BitVec.ofNat 5 (w / 4096)) (BitVec.ofNat 5 (w / 128)) (BitVec.ofNat 5 (w / 4)) (BitVec.ofNat 1 (w / 2))) else .error .reservedEncoding
  | 0x69 => if w % 2 = 0 then .ok (.lafmin (BitVec.ofNat 5 (w / 4096)) (BitVec.ofNat 5 (w / 128)) (BitVec.ofNat 5 (w / 4)) (BitVec.ofNat 1 (w / 2))) else .error .reservedEncoding
  | 0x6A => if w % 2 = 0 then .ok (.lafmax (BitVec.ofNat 5 (w / 4096)) (BitVec.ofNat 5 (w / 128)) (BitVec.ofNat 5 (w / 4)) (BitVec.ofNat 1 (w / 2))) else .error .reservedEncoding
  | 0x80 => if w / 2 % 2 = 0 then .ok (.wld (BitVec.ofNat 5 (w / 4096)) (BitVec.ofNat 5 (w / 128)) (BitVec.ofNat 5 (w / 4)) (BitVec.ofNat 1 (w / 1))) else .error .reservedEncoding
  | 0x81 => .ok (.wldx (BitVec.ofNat 5 (w / 4096)) (BitVec.ofNat 5 (w / 128)) (BitVec.ofNat 5 (w / 4)) (BitVec.ofNat 2 (w / 1)))
  | 0x82 => if w % 4 = 0 then .ok (.wlds (BitVec.ofNat 5 (w / 4096)) (BitVec.ofNat 5 (w / 128)) (BitVec.ofNat 5 (w / 4))) else .error .reservedEncoding
  | 0x83 => if w % 4 = 0 then .ok (.wsnext (BitVec.ofNat 5 (w / 4096)) (BitVec.ofNat 5 (w / 128)) (BitVec.ofNat 5 (w / 4))) else .error .reservedEncoding
  | 0x90 => if w % 4 = 0 ∧ w / 4096 % 32 = 0 ∧ w / 128 % 32 < 16 then .ok (.sinv (BitVec.ofNat 5 (w / 128)) (BitVec.ofNat 5 (w / 4))) else .error .reservedEncoding
  | 0x91 => if w % 131072 = 0 then .ok (.sinva) else .error .reservedEncoding
  | _ => .error .illegalOpcode

/-- The G class: what opcode `op` reads from a word `w` (numbers as in the opcode table). -/
def makeG (op w : Nat) : Except DecodeError Instr :=
  match op with
  | 0x00 => if w / 128 % 32 < 16 then .ok (.ldg (BitVec.ofNat 5 (w / 4096)) (BitVec.ofNat 5 (w / 128)) (BitVec.ofNat 5 (w / 4)) (BitVec.ofNat 2 (w / 1))) else .error .reservedEncoding
  | 0x01 => if w / 128 % 32 < 16 then .ok (.stg (BitVec.ofNat 5 (w / 4096)) (BitVec.ofNat 5 (w / 128)) (BitVec.ofNat 5 (w / 4)) (BitVec.ofNat 2 (w / 1))) else .error .reservedEncoding
  | 0x02 => if w / 2 % 2 = 0 ∧ w / 128 % 32 < 16 then .ok (.ldgv (BitVec.ofNat 5 (w / 4096)) (BitVec.ofNat 5 (w / 128)) (BitVec.ofNat 5 (w / 4)) (BitVec.ofNat 1 (w / 1))) else .error .reservedEncoding
  | 0x03 => if w / 2 % 2 = 0 ∧ w / 128 % 32 < 16 then .ok (.stgv (BitVec.ofNat 5 (w / 4096)) (BitVec.ofNat 5 (w / 128)) (BitVec.ofNat 5 (w / 4)) (BitVec.ofNat 1 (w / 1))) else .error .reservedEncoding
  | 0x04 => if w % 4 = 0 ∧ w / 128 % 32 < 16 then .ok (.ldgx (BitVec.ofNat 5 (w / 4096)) (BitVec.ofNat 5 (w / 128)) (BitVec.ofNat 5 (w / 4))) else .error .reservedEncoding
  | 0x05 => if w % 8 = 0 ∧ w / 128 % 32 < 16 then .ok (.stgx (BitVec.ofNat 5 (w / 4096)) (BitVec.ofNat 5 (w / 128)) (BitVec.ofNat 4 (w / 8))) else .error .reservedEncoding
  | 0x06 => if w / 128 % 32 < 16 then .ok (.ldgw (BitVec.ofNat 5 (w / 4096)) (BitVec.ofNat 5 (w / 128)) (BitVec.ofNat 5 (w / 4)) (BitVec.ofNat 2 (w / 1))) else .error .reservedEncoding
  | 0x07 => if w / 2 % 2 = 0 ∧ w / 128 % 32 < 16 then .ok (.ldgvw (BitVec.ofNat 5 (w / 4096)) (BitVec.ofNat 5 (w / 128)) (BitVec.ofNat 5 (w / 4)) (BitVec.ofNat 1 (w / 1))) else .error .reservedEncoding
  | 0x08 => if w / 128 % 32 < 16 ∧ w / 1 % 4 < 3 then .ok (.ldgxw (BitVec.ofNat 5 (w / 4096)) (BitVec.ofNat 5 (w / 128)) (BitVec.ofNat 5 (w / 4)) (BitVec.ofNat 2 (w / 1))) else .error .reservedEncoding
  | 0x09 => if w / 128 % 32 < 16 then .ok (.strc (BitVec.ofNat 5 (w / 4096)) (BitVec.ofNat 5 (w / 128)) (BitVec.ofNat 5 (w / 4)) (BitVec.ofNat 2 (w / 1))) else .error .reservedEncoding
  | 0x0A => if w / 2 % 2 = 0 ∧ w / 128 % 32 < 16 then .ok (.strcv (BitVec.ofNat 5 (w / 4096)) (BitVec.ofNat 5 (w / 128)) (BitVec.ofNat 5 (w / 4)) (BitVec.ofNat 1 (w / 1))) else .error .reservedEncoding
  | 0x0B => if w / 128 % 32 < 16 ∧ w / 1 % 4 < 3 then .ok (.stred (BitVec.ofNat 5 (w / 4096)) (BitVec.ofNat 5 (w / 128)) (BitVec.ofNat 5 (w / 4)) (BitVec.ofNat 2 (w / 1))) else .error .reservedEncoding
  | 0x30 => if w % 4 = 0 ∧ w / 4096 % 2 = 0 ∧ w / 128 % 32 < 16 ∧ w / 4 % 32 < 16 then .ok (.copy) else .error .reservedEncoding
  | 0x31 => if w % 4 = 0 ∧ w / 4096 % 2 = 0 ∧ w / 128 % 32 < 16 then .ok (.copyl) else .error .reservedEncoding
  | 0x32 => if w % 4 = 0 ∧ w / 4096 % 2 = 0 ∧ w / 4 % 32 < 16 then .ok (.copyg) else .error .reservedEncoding
  | 0x33 => if w / 2 % 2 = 0 ∧ w / 4096 % 32 = 0 ∧ w / 128 % 32 < 16 then .ok (.pref (BitVec.ofNat 5 (w / 128)) (BitVec.ofNat 5 (w / 4)) (BitVec.ofNat 1 (w / 1))) else .error .reservedEncoding
  | 0x34 => if w % 4 = 0 ∧ w / 4096 % 2 = 0 ∧ w / 128 % 32 < 16 then .ok (.skrd) else .error .reservedEncoding
  | 0x35 => if w % 128 = 0 ∧ w / 16384 % 8 = 0 then .ok (.skpat) else .error .reservedEncoding
  | 0x50 => if w / 128 % 32 < 16 then .ok (.gaadd (BitVec.ofNat 5 (w / 4096)) (BitVec.ofNat 5 (w / 128)) (BitVec.ofNat 5 (w / 4)) (BitVec.ofNat 1 (w / 2)) (BitVec.ofNat 1 (w / 1))) else .error .reservedEncoding
  | 0x51 => if w / 128 % 32 < 16 then .ok (.gamin (BitVec.ofNat 5 (w / 4096)) (BitVec.ofNat 5 (w / 128)) (BitVec.ofNat 5 (w / 4)) (BitVec.ofNat 1 (w / 2)) (BitVec.ofNat 1 (w / 1))) else .error .reservedEncoding
  | 0x52 => if w / 128 % 32 < 16 then .ok (.gamax (BitVec.ofNat 5 (w / 4096)) (BitVec.ofNat 5 (w / 128)) (BitVec.ofNat 5 (w / 4)) (BitVec.ofNat 1 (w / 2)) (BitVec.ofNat 1 (w / 1))) else .error .reservedEncoding
  | 0x53 => if w / 128 % 32 < 16 then .ok (.gaand (BitVec.ofNat 5 (w / 4096)) (BitVec.ofNat 5 (w / 128)) (BitVec.ofNat 5 (w / 4)) (BitVec.ofNat 1 (w / 2)) (BitVec.ofNat 1 (w / 1))) else .error .reservedEncoding
  | 0x54 => if w / 128 % 32 < 16 then .ok (.gaor (BitVec.ofNat 5 (w / 4096)) (BitVec.ofNat 5 (w / 128)) (BitVec.ofNat 5 (w / 4)) (BitVec.ofNat 1 (w / 2)) (BitVec.ofNat 1 (w / 1))) else .error .reservedEncoding
  | 0x55 => if w / 128 % 32 < 16 then .ok (.gaxor (BitVec.ofNat 5 (w / 4096)) (BitVec.ofNat 5 (w / 128)) (BitVec.ofNat 5 (w / 4)) (BitVec.ofNat 1 (w / 2)) (BitVec.ofNat 1 (w / 1))) else .error .reservedEncoding
  | 0x56 => if w / 128 % 32 < 16 then .ok (.gaswp (BitVec.ofNat 5 (w / 4096)) (BitVec.ofNat 5 (w / 128)) (BitVec.ofNat 5 (w / 4)) (BitVec.ofNat 1 (w / 2)) (BitVec.ofNat 1 (w / 1))) else .error .reservedEncoding
  | 0x57 => if w / 128 % 32 < 16 then .ok (.gacas (BitVec.ofNat 5 (w / 4096)) (BitVec.ofNat 5 (w / 128)) (BitVec.ofNat 5 (w / 4)) (BitVec.ofNat 1 (w / 2)) (BitVec.ofNat 1 (w / 1))) else .error .reservedEncoding
  | 0x58 => if w % 2 = 0 ∧ w / 128 % 32 < 16 then .ok (.gafadd (BitVec.ofNat 5 (w / 4096)) (BitVec.ofNat 5 (w / 128)) (BitVec.ofNat 5 (w / 4)) (BitVec.ofNat 1 (w / 2))) else .error .reservedEncoding
  | 0x59 => if w % 2 = 0 ∧ w / 128 % 32 < 16 then .ok (.gafmin (BitVec.ofNat 5 (w / 4096)) (BitVec.ofNat 5 (w / 128)) (BitVec.ofNat 5 (w / 4)) (BitVec.ofNat 1 (w / 2))) else .error .reservedEncoding
  | 0x5A => if w % 2 = 0 ∧ w / 128 % 32 < 16 then .ok (.gafmax (BitVec.ofNat 5 (w / 4096)) (BitVec.ofNat 5 (w / 128)) (BitVec.ofNat 5 (w / 4)) (BitVec.ofNat 1 (w / 2))) else .error .reservedEncoding
  | 0x70 => if w % 4 = 0 ∧ w / 128 % 32 < 16 then .ok (.mscwb (BitVec.ofNat 5 (w / 4096)) (BitVec.ofNat 5 (w / 128)) (BitVec.ofNat 5 (w / 4))) else .error .reservedEncoding
  | 0x71 => if w % 4 = 0 ∧ w / 128 % 32 < 16 then .ok (.mscinv (BitVec.ofNat 5 (w / 4096)) (BitVec.ofNat 5 (w / 128)) (BitVec.ofNat 5 (w / 4))) else .error .reservedEncoding
  | 0x80 => if w % 128 = 0 ∧ w / 4096 % 2 = 0 ∧ w / 128 % 32 < 16 then .ok (.gtt) else .error .reservedEncoding
  | 0x81 => if w % 128 = 0 ∧ w / 4096 % 2 = 0 then .ok (.ggo) else .error .reservedEncoding
  | 0x82 => if w % 8192 = 0 then .ok (.gsave) else .error .reservedEncoding
  | 0x83 => if w % 128 = 0 ∧ w / 4096 % 2 = 0 then .ok (.grestore) else .error .reservedEncoding
  | 0x84 => if w % 4 = 0 then .ok (.gstat) else .error .reservedEncoding
  | 0xA0 => if w % 4 = 0 ∧ w / 4096 % 2 = 0 ∧ w / 128 % 32 < 16 ∧ w / 4 % 32 < 16 then .ok (.coll) else .error .reservedEncoding
  | 0xA1 => if w % 4 = 0 ∧ w / 4096 % 2 = 0 ∧ w / 128 % 32 < 16 ∧ w / 4 % 32 < 16 then .ok (.embr) else .error .reservedEncoding
  | 0xB0 => if w % 8192 = 0 then .ok (.vprep) else .error .reservedEncoding
  | 0xB1 => if w / 2 % 2 = 0 then .ok (.vround (BitVec.ofNat 5 (w / 4096)) (BitVec.ofNat 5 (w / 128)) (BitVec.ofNat 5 (w / 4)) (BitVec.ofNat 1 (w / 1))) else .error .reservedEncoding
  | 0xB2 => if w % 4 = 0 then .ok (.vstat) else .error .reservedEncoding
  | _ => .error .illegalOpcode

/-- The slot word of a slot instruction as a number, from the encoding tables (R113, R182, R275, R416 and the opcode map);
0 for the steps that have no encoding. -/
def encodeNat (si : SlotInstr) : Nat :=
  match si.i with
  | .add d a b => slotWord si.gd 0x00 (d.toNat * 4096 + a.toNat * 128 + b.toNat * 4)
  | .sub d a b => slotWord si.gd 0x01 (d.toNat * 4096 + a.toNat * 128 + b.toNat * 4)
  | .mul d a b => slotWord si.gd 0x02 (d.toNat * 4096 + a.toNat * 128 + b.toNat * 4)
  | .mulh d a b => slotWord si.gd 0x03 (d.toNat * 4096 + a.toNat * 128 + b.toNat * 4)
  | .mulhn d a b => slotWord si.gd 0x04 (d.toNat * 4096 + a.toNat * 128 + b.toNat * 4)
  | .div d a b => slotWord si.gd 0x05 (d.toNat * 4096 + a.toNat * 128 + b.toNat * 4)
  | .divn d a b => slotWord si.gd 0x06 (d.toNat * 4096 + a.toNat * 128 + b.toNat * 4)
  | .rem d a b => slotWord si.gd 0x07 (d.toNat * 4096 + a.toNat * 128 + b.toNat * 4)
  | .remn d a b => slotWord si.gd 0x08 (d.toNat * 4096 + a.toNat * 128 + b.toNat * 4)
  | .and d a b => slotWord si.gd 0x09 (d.toNat * 4096 + a.toNat * 128 + b.toNat * 4)
  | .or d a b => slotWord si.gd 0x0A (d.toNat * 4096 + a.toNat * 128 + b.toNat * 4)
  | .xor d a b => slotWord si.gd 0x0B (d.toNat * 4096 + a.toNat * 128 + b.toNat * 4)
  | .andn d a b => slotWord si.gd 0x0C (d.toNat * 4096 + a.toNat * 128 + b.toNat * 4)
  | .sll d a b => slotWord si.gd 0x0D (d.toNat * 4096 + a.toNat * 128 + b.toNat * 4)
  | .srl d a b => slotWord si.gd 0x0E (d.toNat * 4096 + a.toNat * 128 + b.toNat * 4)
  | .sra d a b => slotWord si.gd 0x0F (d.toNat * 4096 + a.toNat * 128 + b.toNat * 4)
  | .min d a b => slotWord si.gd 0x10 (d.toNat * 4096 + a.toNat * 128 + b.toNat * 4)
  | .max d a b => slotWord si.gd 0x11 (d.toNat * 4096 + a.toNat * 128 + b.toNat * 4)
  | .minn d a b => slotWord si.gd 0x12 (d.toNat * 4096 + a.toNat * 128 + b.toNat * 4)
  | .maxn d a b => slotWord si.gd 0x13 (d.toNat * 4096 + a.toNat * 128 + b.toNat * 4)
  | .clz d a => slotWord si.gd 0x14 (d.toNat * 4096 + a.toNat * 128)
  | .ctz d a => slotWord si.gd 0x15 (d.toNat * 4096 + a.toNat * 128)
  | .popc d a => slotWord si.gd 0x16 (d.toNat * 4096 + a.toNat * 128)
  | .adds d a b t => slotWord si.gd 0x17 (d.toNat * 4096 + a.toNat * 128 + b.toNat * 4 + t.toNat)
  | .subs d a b t => slotWord si.gd 0x18 (d.toNat * 4096 + a.toNat * 128 + b.toNat * 4 + t.toNat)
  | .sext d a w => slotWord si.gd 0x19 (d.toNat * 4096 + a.toNat * 128 + w.toNat)
  | .zext d a w => slotWord si.gd 0x1A (d.toNat * 4096 + a.toNat * 128 + w.toNat)
  | .bfx d a b x => slotWord si.gd 0x1B (d.toNat * 4096 + a.toNat * 128 + b.toNat * 4 + x.toNat)
  | .bfi d a b => slotWord si.gd 0x1C (d.toNat * 4096 + a.toNat * 128 + b.toNat * 4)
  | .mov d a => slotWord si.gd 0x1D (d.toNat * 4096 + a.toNat * 128)
  | .addi d a i => slotWord si.gd 0x20 (d.toNat * 4096 + a.toNat * 128 + i.toNat)
  | .muli d a i => slotWord si.gd 0x21 (d.toNat * 4096 + a.toNat * 128 + i.toNat)
  | .andi d a i => slotWord si.gd 0x22 (d.toNat * 4096 + a.toNat * 128 + i.toNat)
  | .ori d a i => slotWord si.gd 0x23 (d.toNat * 4096 + a.toNat * 128 + i.toNat)
  | .xori d a i => slotWord si.gd 0x24 (d.toNat * 4096 + a.toNat * 128 + i.toNat)
  | .slli d a i => slotWord si.gd 0x25 (d.toNat * 4096 + a.toNat * 128 + i.toNat)
  | .srli d a i => slotWord si.gd 0x26 (d.toNat * 4096 + a.toNat * 128 + i.toNat)
  | .srai d a i => slotWord si.gd 0x27 (d.toNat * 4096 + a.toNat * 128 + i.toNat)
  | .mini d a i => slotWord si.gd 0x28 (d.toNat * 4096 + a.toNat * 128 + i.toNat)
  | .maxi d a i => slotWord si.gd 0x29 (d.toNat * 4096 + a.toNat * 128 + i.toNat)
  | .li d i => slotWord si.gd 0x2A (d.toNat * 4096 + i.toNat)
  | .lih d a i => slotWord si.gd 0x2B (d.toNat * 4096 + a.toNat * 128 + i.toNat)
  | .cmpeq d a b => slotWord si.gd 0x40 (d.toNat * 4096 + a.toNat * 128 + b.toNat * 4)
  | .cmpne d a b => slotWord si.gd 0x41 (d.toNat * 4096 + a.toNat * 128 + b.toNat * 4)
  | .cmplt d a b => slotWord si.gd 0x42 (d.toNat * 4096 + a.toNat * 128 + b.toNat * 4)
  | .cmple d a b => slotWord si.gd 0x43 (d.toNat * 4096 + a.toNat * 128 + b.toNat * 4)
  | .cmpltn d a b => slotWord si.gd 0x44 (d.toNat * 4096 + a.toNat * 128 + b.toNat * 4)
  | .cmplen d a b => slotWord si.gd 0x45 (d.toNat * 4096 + a.toNat * 128 + b.toNat * 4)
  | .cmpeqi d a i => slotWord si.gd 0x46 (d.toNat * 4096 + a.toNat * 128 + i.toNat)
  | .cmpnei d a i => slotWord si.gd 0x47 (d.toNat * 4096 + a.toNat * 128 + i.toNat)
  | .cmplti d a i => slotWord si.gd 0x48 (d.toNat * 4096 + a.toNat * 128 + i.toNat)
  | .cmplei d a i => slotWord si.gd 0x49 (d.toNat * 4096 + a.toNat * 128 + i.toNat)
  | .cmpgti d a i => slotWord si.gd 0x4A (d.toNat * 4096 + a.toNat * 128 + i.toNat)
  | .cmpgei d a i => slotWord si.gd 0x4B (d.toNat * 4096 + a.toNat * 128 + i.toNat)
  | .pand d a b => slotWord si.gd 0x4C (d.toNat * 4096 + a.toNat * 128 + b.toNat * 4)
  | .por d a b => slotWord si.gd 0x4D (d.toNat * 4096 + a.toNat * 128 + b.toNat * 4)
  | .pxor d a b => slotWord si.gd 0x4E (d.toNat * 4096 + a.toNat * 128 + b.toNat * 4)
  | .pandn d a b => slotWord si.gd 0x4F (d.toNat * 4096 + a.toNat * 128 + b.toNat * 4)
  | .pnot d a => slotWord si.gd 0x50 (d.toNat * 4096 + a.toNat * 128)
  | .pmov d a => slotWord si.gd 0x51 (d.toNat * 4096 + a.toNat * 128)
  | .pset d v => slotWord si.gd 0x52 (d.toNat * 4096 + v.toNat)
  | .ptos d => slotWord si.gd 0x53 (d.toNat * 4096)
  | .spred a b => slotWord si.gd 0x54 (a.toNat * 128 + b.toNat * 4)
  | .hmk d a b => slotWord si.gd 0x60 (d.toNat * 4096 + a.toNat * 128 + b.toNat * 4)
  | .hadd d a b => slotWord si.gd 0x61 (d.toNat * 4096 + a.toNat * 128 + b.toNat * 4)
  | .haddi d a i => slotWord si.gd 0x62 (d.toNat * 4096 + a.toNat * 128 + i.toNat)
  | .hidx d a => slotWord si.gd 0x63 (d.toNat * 4096 + a.toNat * 128)
  | .hoff d a => slotWord si.gd 0x64 (d.toNat * 4096 + a.toNat * 128)
  | .hseto d a b => slotWord si.gd 0x65 (d.toNat * 4096 + a.toNat * 128 + b.toNat * 4)
  | .hmov d a => slotWord si.gd 0x66 (d.toNat * 4096 + a.toNat * 128)
  | .hchk d a b c => slotWord si.gd 0x67 (d.toNat * 4096 + a.toNat * 128 + b.toNat * 4 + c.toNat)
  | .b o => slotWord si.gd 0x80 (o.toNat)
  | .bx a => slotWord si.gd 0x81 (a.toNat * 128)
  | .call o => slotWord si.gd 0x82 (o.toNat)
  | .callx a => slotWord si.gd 0x83 (a.toNat * 128)
  | .ret => slotWord si.gd 0x84 (0)
  | .bempty o w => slotWord si.gd 0x85 (o.toNat * 4 + w.toNat)
  | .loop l a n => slotWord si.gd 0x86 (l.toNat * 4096 + a.toNat * 128 + n.toNat)
  | .lstrd l a b => slotWord si.gd 0x87 (l.toNat * 4096 + a.toNat * 128 + b.toNat * 4)
  | .lbrk l => slotWord si.gd 0x88 (l.toNat * 4096)
  | .launch d a b => slotWord si.gd 0x89 (d.toNat * 4096 + a.toNat * 128 + b.toNat * 4)
  | .exit => slotWord si.gd 0x8A (0)
  | .ppt r => slotWord si.gd 0x8B (r.toNat)
  | .frame a b m => slotWord si.gd 0x8C (a.toNat * 128 + b.toNat * 4 + m.toNat)
  | .nop => slotWord si.gd 0x8D (0)
  | .wmrg d a b x => slotWord si.gd 0xA0 (d.toNat * 4096 + a.toNat * 128 + b.toNat * 4 + x.toNat)
  | .wwait a => slotWord si.gd 0xA1 (a.toNat * 128)
  | .wtest d a => slotWord si.gd 0xA2 (d.toNat * 4096 + a.toNat * 128)
  | .tlread d a m => slotWord si.gd 0xA3 (d.toNat * 4096 + a.toNat * 128 + m.toNat)
  | .fence p s => slotWord si.gd 0xA4 (p.toNat * 512 + s.toNat * 2)
  | .whzn d m => slotWord si.gd 0xA5 (d.toNat * 4096 + m.toNat)
  | .csrr d c => slotWord si.gd 0xC0 (d.toNat * 4096 + c.toNat)
  | .csrw d a c => slotWord si.gd 0xC1 (d.toNat * 4096 + a.toNat * 128 + c.toNat)
  | .csrs d a c => slotWord si.gd 0xC2 (d.toNat * 4096 + a.toNat * 128 + c.toNat)
  | .csrc d a c => slotWord si.gd 0xC3 (d.toNat * 4096 + a.toNat * 128 + c.toNat)
  | .rdts d => slotWord si.gd 0xC4 (d.toNat * 4096)
  | .trap a n => slotWord si.gd 0xC5 (a.toNat * 128 + n.toNat)
  | .rett => slotWord si.gd 0xC6 (0)
  | .tbegin a b => slotWord si.gd 0xE0 (a.toNat * 128 + b.toNat * 4)
  | .trec t r k => slotWord si.gd 0xE1 (t.toNat / 8 % 32 * 4096 + t.toNat % 8 * 16 + r.toNat * 128 + k.toNat)
  | .trecp t r => slotWord si.gd 0xE2 (t.toNat / 8 % 32 * 4096 + t.toNat % 8 * 16 + r.toNat * 128)
  | .tend d => slotWord si.gd 0xE3 (d.toNat * 4096)
  | .trev a b => slotWord si.gd 0xE4 (a.toNat * 128 + b.toNat * 4)
  | .tpop t r k => slotWord si.gd 0xE5 (t.toNat / 8 % 32 * 4096 + t.toNat % 8 * 16 + r.toNat * 128 + k.toNat)
  | .tpopp t r => slotWord si.gd 0xE6 (t.toNat / 8 % 32 * 4096 + t.toNat % 8 * 16 + r.toNat * 128)
  | .vaddF d a b t => slotWord si.gd 0x00 (d.toNat * 4096 + a.toNat * 128 + b.toNat * 4 + t.toNat)
  | .vsubF d a b t => slotWord si.gd 0x01 (d.toNat * 4096 + a.toNat * 128 + b.toNat * 4 + t.toNat)
  | .vmulF d a b t => slotWord si.gd 0x02 (d.toNat * 4096 + a.toNat * 128 + b.toNat * 4 + t.toNat)
  | .vfma d a b t => slotWord si.gd 0x03 (d.toNat * 4096 + a.toNat * 128 + b.toNat * 4 + t.toNat)
  | .vfms d a b t => slotWord si.gd 0x04 (d.toNat * 4096 + a.toNat * 128 + b.toNat * 4 + t.toNat)
  | .vfnma d a b t => slotWord si.gd 0x05 (d.toNat * 4096 + a.toNat * 128 + b.toNat * 4 + t.toNat)
  | .vdiv d a b t => slotWord si.gd 0x06 (d.toNat * 4096 + a.toNat * 128 + b.toNat * 4 + t.toNat)
  | .vminF d a b t => slotWord si.gd 0x07 (d.toNat * 4096 + a.toNat * 128 + b.toNat * 4 + t.toNat)
  | .vmaxF d a b t => slotWord si.gd 0x08 (d.toNat * 4096 + a.toNat * 128 + b.toNat * 4 + t.toNat)
  | .vabsF d a t => slotWord si.gd 0x09 (d.toNat * 4096 + a.toNat * 128 + t.toNat)
  | .vnegF d a t => slotWord si.gd 0x0A (d.toNat * 4096 + a.toNat * 128 + t.toNat)
  | .vcmpeqF d a b t => slotWord si.gd 0x0B (d.toNat * 4096 + a.toNat * 128 + b.toNat * 4 + t.toNat)
  | .vcmpltF d a b t => slotWord si.gd 0x0C (d.toNat * 4096 + a.toNat * 128 + b.toNat * 4 + t.toNat)
  | .vcmpleF d a b t => slotWord si.gd 0x0D (d.toNat * 4096 + a.toNat * 128 + b.toNat * 4 + t.toNat)
  | .vcmpun d a b t => slotWord si.gd 0x0E (d.toNat * 4096 + a.toNat * 128 + b.toNat * 4 + t.toNat)
  | .vscalb d a b t => slotWord si.gd 0x0F (d.toNat * 4096 + a.toNat * 128 + b.toNat * 4 + t.toNat)
  | .vrint d a r t => slotWord si.gd 0x10 (d.toNat * 4096 + a.toNat * 128 + r.toNat * 4 + t.toNat)
  | .vaddI u d a b w => slotWord si.gd 0x40 (u.toNat * 131072 + d.toNat * 4096 + a.toNat * 128 + b.toNat * 4 + w.toNat)
  | .vsubI u d a b w => slotWord si.gd 0x42 (u.toNat * 131072 + d.toNat * 4096 + a.toNat * 128 + b.toNat * 4 + w.toNat)
  | .vadds u d a b w => slotWord si.gd 0x44 (u.toNat * 131072 + d.toNat * 4096 + a.toNat * 128 + b.toNat * 4 + w.toNat)
  | .vsubs u d a b w => slotWord si.gd 0x46 (u.toNat * 131072 + d.toNat * 4096 + a.toNat * 128 + b.toNat * 4 + w.toNat)
  | .vmulI u d a b w => slotWord si.gd 0x48 (u.toNat * 131072 + d.toNat * 4096 + a.toNat * 128 + b.toNat * 4 + w.toNat)
  | .vmulh u d a b w => slotWord si.gd 0x4A (u.toNat * 131072 + d.toNat * 4096 + a.toNat * 128 + b.toNat * 4 + w.toNat)
  | .vminI u d a b w => slotWord si.gd 0x4C (u.toNat * 131072 + d.toNat * 4096 + a.toNat * 128 + b.toNat * 4 + w.toNat)
  | .vmaxI u d a b w => slotWord si.gd 0x4E (u.toNat * 131072 + d.toNat * 4096 + a.toNat * 128 + b.toNat * 4 + w.toNat)
  | .vcmpeqI u d a b w => slotWord si.gd 0x50 (u.toNat * 131072 + d.toNat * 4096 + a.toNat * 128 + b.toNat * 4 + w.toNat)
  | .vcmpltI u d a b w => slotWord si.gd 0x52 (u.toNat * 131072 + d.toNat * 4096 + a.toNat * 128 + b.toNat * 4 + w.toNat)
  | .vcmpleI u d a b w => slotWord si.gd 0x54 (u.toNat * 131072 + d.toNat * 4096 + a.toNat * 128 + b.toNat * 4 + w.toNat)
  | .vand u d a b w => slotWord si.gd 0x56 (u.toNat * 131072 + d.toNat * 4096 + a.toNat * 128 + b.toNat * 4 + w.toNat)
  | .vor u d a b w => slotWord si.gd 0x58 (u.toNat * 131072 + d.toNat * 4096 + a.toNat * 128 + b.toNat * 4 + w.toNat)
  | .vxor u d a b w => slotWord si.gd 0x5A (u.toNat * 131072 + d.toNat * 4096 + a.toNat * 128 + b.toNat * 4 + w.toNat)
  | .vnot u d a w => slotWord si.gd 0x5C (u.toNat * 131072 + d.toNat * 4096 + a.toNat * 128 + w.toNat)
  | .vsll u d a b w => slotWord si.gd 0x5E (u.toNat * 131072 + d.toNat * 4096 + a.toNat * 128 + b.toNat * 4 + w.toNat)
  | .vsrl u d a b w => slotWord si.gd 0x60 (u.toNat * 131072 + d.toNat * 4096 + a.toNat * 128 + b.toNat * 4 + w.toNat)
  | .vsra u d a b w => slotWord si.gd 0x62 (u.toNat * 131072 + d.toNat * 4096 + a.toNat * 128 + b.toNat * 4 + w.toNat)
  | .vabsI d a w => slotWord si.gd 0x64 (d.toNat * 4096 + a.toNat * 128 + w.toNat)
  | .vnegI d a w => slotWord si.gd 0x66 (d.toNat * 4096 + a.toNat * 128 + w.toNat)
  | .cvt d a b => slotWord si.gd 0x80 (d.toNat * 4096 + a.toNat * 128 + b.toNat * 4)
  | .qnt d a b => slotWord si.gd 0x81 (d.toNat * 4096 + a.toNat * 128 + b.toNat * 4)
  | .dqnt d a b => slotWord si.gd 0x82 (d.toNat * 4096 + a.toNat * 128 + b.toNat * 4)
  | .vmov d a => slotWord si.gd 0xA0 (d.toNat * 4096 + a.toNat * 128)
  | .vbcast d a f => slotWord si.gd 0xA1 (d.toNat * 4096 + a.toNat * 128 + f.toNat * 4)
  | .vbcastl d a b => slotWord si.gd 0xA2 (d.toNat * 4096 + a.toNat * 128 + b.toNat * 4)
  | .vperm d a b => slotWord si.gd 0xA3 (d.toNat * 4096 + a.toNat * 128 + b.toNat * 4)
  | .vrot d a b => slotWord si.gd 0xA4 (d.toNat * 4096 + a.toNat * 128 + b.toNat * 4)
  | .vsel d a b => slotWord si.gd 0xA5 (d.toNat * 4096 + a.toNat * 128 + b.toNat * 4)
  | .vrsum d a => slotWord si.gd 0xA6 (d.toNat * 4096 + a.toNat * 128)
  | .vrmax d a => slotWord si.gd 0xA7 (d.toNat * 4096 + a.toNat * 128)
  | .vrmin d a => slotWord si.gd 0xA8 (d.toNat * 4096 + a.toNat * 128)
  | .vdot d a b s => slotWord si.gd 0xA9 (d.toNat * 4096 + a.toNat * 128 + b.toNat * 4 + s.toNat)
  | .vext d a b => slotWord si.gd 0xAA (d.toNat * 4096 + a.toNat * 128 + b.toNat * 4)
  | .vins d a b => slotWord si.gd 0xAB (d.toNat * 4096 + a.toNat * 128 + b.toNat * 4)
  | .vzip d a b h => slotWord si.gd 0xAC (d.toNat * 4096 + a.toNat * 128 + b.toNat * 4 + h.toNat)
  | .vunzip d a b o => slotWord si.gd 0xAD (d.toNat * 4096 + a.toNat * 128 + b.toNat * 4 + o.toNat)
  | .exp2 c d a t => slotWord si.gd 0xC0 (c.toNat * 131072 + d.toNat * 4096 + a.toNat * 128 + t.toNat)
  | .log2 c d a t => slotWord si.gd 0xC2 (c.toNat * 131072 + d.toNat * 4096 + a.toNat * 128 + t.toNat)
  | .rcp c d a t => slotWord si.gd 0xC4 (c.toNat * 131072 + d.toNat * 4096 + a.toNat * 128 + t.toNat)
  | .rsq c d a t => slotWord si.gd 0xC6 (c.toNat * 131072 + d.toNat * 4096 + a.toNat * 128 + t.toNat)
  | .sqrt c d a t => slotWord si.gd 0xC8 (c.toNat * 131072 + d.toNat * 4096 + a.toNat * 128 + t.toNat)
  | .sin c d a t => slotWord si.gd 0xCA (c.toNat * 131072 + d.toNat * 4096 + a.toNat * 128 + t.toNat)
  | .cos c d a t => slotWord si.gd 0xCC (c.toNat * 131072 + d.toNat * 4096 + a.toNat * 128 + t.toNat)
  | .tanh c d a t => slotWord si.gd 0xCE (c.toNat * 131072 + d.toNat * 4096 + a.toNat * 128 + t.toNat)
  | .mpush a => slotWord si.gd 0xE0 (a.toNat * 128)
  | .minv => slotWord si.gd 0xE1 (0)
  | .mpop => slotWord si.gd 0xE2 (0)
  | .mmaBf16 d a b t => slotWord si.gd 0x00 (d.toNat * 4096 + a.toNat * 128 + b.toNat * 4 + t.toNat)
  | .mmaFp8 d a b v u => slotWord si.gd 0x01 (d.toNat * 4096 + a.toNat * 128 + b.toNat * 4 + v.toNat * 2 + u.toNat)
  | .mmaE2m1 d a b => slotWord si.gd 0x02 (d.toNat * 4096 + a.toNat * 128 + b.toNat * 4)
  | .mmaInt8 d a b s t => slotWord si.gd 0x03 (d.toNat * 4096 + a.toNat * 128 + b.toNat * 4 + s.toNat * 2 + t.toNat)
  | .mmaQ8 d a b => slotWord si.gd 0x04 (d.toNat * 4096 + a.toNat * 128 + b.toNat * 4)
  | .mmaQ4 d a b => slotWord si.gd 0x05 (d.toNat * 4096 + a.toNat * 128 + b.toNat * 4)
  | .mmazBf16 d a b t => slotWord si.gd 0x08 (d.toNat * 4096 + a.toNat * 128 + b.toNat * 4 + t.toNat)
  | .mmazFp8 d a b v u => slotWord si.gd 0x09 (d.toNat * 4096 + a.toNat * 128 + b.toNat * 4 + v.toNat * 2 + u.toNat)
  | .mmazE2m1 d a b => slotWord si.gd 0x0A (d.toNat * 4096 + a.toNat * 128 + b.toNat * 4)
  | .mmazInt8 d a b s t => slotWord si.gd 0x0B (d.toNat * 4096 + a.toNat * 128 + b.toNat * 4 + s.toNat * 2 + t.toNat)
  | .mmazQ8 d a b => slotWord si.gd 0x0C (d.toNat * 4096 + a.toNat * 128 + b.toNat * 4)
  | .mmazQ4 d a b => slotWord si.gd 0x0D (d.toNat * 4096 + a.toNat * 128 + b.toNat * 4)
  | .mzero d t => slotWord si.gd 0x40 (d.toNat * 4096 + t.toNat)
  | .mld d a => slotWord si.gd 0x41 (d.toNat * 4096 + a.toNat * 128)
  | .mst d a b => slotWord si.gd 0x42 (d.toNat * 4096 + a.toNat * 128 + b.toNat * 4)
  | .mrowv d a b => slotWord si.gd 0x43 (d.toNat * 4096 + a.toNat * 128 + b.toNat * 4)
  | .mvrow d a b => slotWord si.gd 0x44 (d.toNat * 4096 + a.toNat * 128 + b.toNat * 4)
  | .mcvt d a s r t => slotWord si.gd 0x45 (d.toNat * 4096 + a.toNat * 128 + s.toNat * 32 + r.toNat * 4 + t.toNat)
  | .mrec d a b => slotWord si.gd 0x46 (d.toNat * 4096 + a.toNat * 128 + b.toNat * 4)
  | .mrecr d a b m => slotWord si.gd 0x47 (d.toNat * 4096 + a.toNat * 128 + b.toNat * 4 + m.toNat)
  | .mmov d a => slotWord si.gd 0x48 (d.toNat * 4096 + a.toNat * 128)
  | .ldl d a l z => slotWord si.gd 0x00 (d.toNat * 4096 + a.toNat * 128 + l.toNat * 4 + z.toNat)
  | .stl d a b z => slotWord si.gd 0x01 (d.toNat * 4096 + a.toNat * 128 + b.toNat * 4 + z.toNat)
  | .ldlv d a b v => slotWord si.gd 0x02 (d.toNat * 4096 + a.toNat * 128 + b.toNat * 4 + v.toNat)
  | .stlv d a b v => slotWord si.gd 0x03 (d.toNat * 4096 + a.toNat * 128 + b.toNat * 4 + v.toNat)
  | .ldlx d a b => slotWord si.gd 0x04 (d.toNat * 4096 + a.toNat * 128 + b.toNat * 4)
  | .stlx d a b => slotWord si.gd 0x05 (d.toNat * 4096 + a.toNat * 128 + b.toNat * 4)
  | .ldlw d a b z => slotWord si.gd 0x06 (d.toNat * 4096 + a.toNat * 128 + b.toNat * 4 + z.toNat)
  | .ldlvw d a b v => slotWord si.gd 0x07 (d.toNat * 4096 + a.toNat * 128 + b.toNat * 4 + v.toNat)
  | .ldc d a l z => slotWord si.gd 0x08 (d.toNat * 4096 + a.toNat * 128 + l.toNat * 4 + z.toNat)
  | .ldcw d a b z => slotWord si.gd 0x09 (d.toNat * 4096 + a.toNat * 128 + b.toNat * 4 + z.toNat)
  | .spat d a => slotWord si.gd 0x40 (d.toNat * 4096 + a.toNat * 128)
  | .sgo d => slotWord si.gd 0x41 (d.toNat * 4096)
  | .sstop d => slotWord si.gd 0x42 (d.toNat * 4096)
  | .qpop d a l => slotWord si.gd 0x43 (d.toNat * 4096 + a.toNat * 128 + l.toNat * 4)
  | .qpops d a l => slotWord si.gd 0x44 (d.toNat * 4096 + a.toNat * 128 + l.toNat * 4)
  | .qstat d a l => slotWord si.gd 0x45 (d.toNat * 4096 + a.toNat * 128 + l.toNat * 4)
  | .laadd d a b w z => slotWord si.gd 0x60 (d.toNat * 4096 + a.toNat * 128 + b.toNat * 4 + w.toNat * 2 + z.toNat)
  | .lamin d a b w z => slotWord si.gd 0x61 (d.toNat * 4096 + a.toNat * 128 + b.toNat * 4 + w.toNat * 2 + z.toNat)
  | .lamax d a b w z => slotWord si.gd 0x62 (d.toNat * 4096 + a.toNat * 128 + b.toNat * 4 + w.toNat * 2 + z.toNat)
  | .laand d a b w z => slotWord si.gd 0x63 (d.toNat * 4096 + a.toNat * 128 + b.toNat * 4 + w.toNat * 2 + z.toNat)
  | .laor d a b w z => slotWord si.gd 0x64 (d.toNat * 4096 + a.toNat * 128 + b.toNat * 4 + w.toNat * 2 + z.toNat)
  | .laxor d a b w z => slotWord si.gd 0x65 (d.toNat * 4096 + a.toNat * 128 + b.toNat * 4 + w.toNat * 2 + z.toNat)
  | .laswp d a b w z => slotWord si.gd 0x66 (d.toNat * 4096 + a.toNat * 128 + b.toNat * 4 + w.toNat * 2 + z.toNat)
  | .lacas d a b w z => slotWord si.gd 0x67 (d.toNat * 4096 + a.toNat * 128 + b.toNat * 4 + w.toNat * 2 + z.toNat)
  | .lafadd d a b w => slotWord si.gd 0x68 (d.toNat * 4096 + a.toNat * 128 + b.toNat * 4 + w.toNat * 2)
  | .lafmin d a b w => slotWord si.gd 0x69 (d.toNat * 4096 + a.toNat * 128 + b.toNat * 4 + w.toNat * 2)
  | .lafmax d a b w => slotWord si.gd 0x6A (d.toNat * 4096 + a.toNat * 128 + b.toNat * 4 + w.toNat * 2)
  | .wld d a b v => slotWord si.gd 0x80 (d.toNat * 4096 + a.toNat * 128 + b.toNat * 4 + v.toNat)
  | .wldx d a l z => slotWord si.gd 0x81 (d.toNat * 4096 + a.toNat * 128 + l.toNat * 4 + z.toNat)
  | .wlds d a b => slotWord si.gd 0x82 (d.toNat * 4096 + a.toNat * 128 + b.toNat * 4)
  | .wsnext d a l => slotWord si.gd 0x83 (d.toNat * 4096 + a.toNat * 128 + l.toNat * 4)
  | .sinv a b => slotWord si.gd 0x90 (a.toNat * 128 + b.toNat * 4)
  | .sinva => slotWord si.gd 0x91 (0)
  | .ldg d a l z => slotWord si.gd 0x00 (d.toNat * 4096 + a.toNat * 128 + l.toNat * 4 + z.toNat)
  | .stg d a b z => slotWord si.gd 0x01 (d.toNat * 4096 + a.toNat * 128 + b.toNat * 4 + z.toNat)
  | .ldgv d a b v => slotWord si.gd 0x02 (d.toNat * 4096 + a.toNat * 128 + b.toNat * 4 + v.toNat)
  | .stgv d a b v => slotWord si.gd 0x03 (d.toNat * 4096 + a.toNat * 128 + b.toNat * 4 + v.toNat)
  | .ldgx d a b => slotWord si.gd 0x04 (d.toNat * 4096 + a.toNat * 128 + b.toNat * 4)
  | .stgx d a b => slotWord si.gd 0x05 (d.toNat * 4096 + a.toNat * 128 + b.toNat * 8)
  | .ldgw d a b z => slotWord si.gd 0x06 (d.toNat * 4096 + a.toNat * 128 + b.toNat * 4 + z.toNat)
  | .ldgvw d a b v => slotWord si.gd 0x07 (d.toNat * 4096 + a.toNat * 128 + b.toNat * 4 + v.toNat)
  | .ldgxw d a b m => slotWord si.gd 0x08 (d.toNat * 4096 + a.toNat * 128 + b.toNat * 4 + m.toNat)
  | .strc d a b z => slotWord si.gd 0x09 (d.toNat * 4096 + a.toNat * 128 + b.toNat * 4 + z.toNat)
  | .strcv d a b v => slotWord si.gd 0x0A (d.toNat * 4096 + a.toNat * 128 + b.toNat * 4 + v.toNat)
  | .stred d a b t => slotWord si.gd 0x0B (d.toNat * 4096 + a.toNat * 128 + b.toNat * 4 + t.toNat)
  | .copy => slotWord si.gd 0x30 (si.ops.d.toNat * 4096 + si.ops.a.toNat * 128 + si.ops.b.toNat * 4)
  | .copyl => slotWord si.gd 0x31 (si.ops.d.toNat * 4096 + si.ops.a.toNat * 128 + si.ops.b.toNat * 4)
  | .copyg => slotWord si.gd 0x32 (si.ops.d.toNat * 4096 + si.ops.a.toNat * 128 + si.ops.b.toNat * 4)
  | .pref a b f => slotWord si.gd 0x33 (a.toNat * 128 + b.toNat * 4 + f.toNat)
  | .skrd => slotWord si.gd 0x34 (si.ops.d.toNat * 4096 + si.ops.a.toNat * 128 + si.ops.b.toNat * 4)
  | .skpat => slotWord si.gd 0x35 (si.ops.d.toNat * 4096 + si.ops.a.toNat * 128 + si.ops.b.toNat * 4)
  | .gaadd d a b w z => slotWord si.gd 0x50 (d.toNat * 4096 + a.toNat * 128 + b.toNat * 4 + w.toNat * 2 + z.toNat)
  | .gamin d a b w z => slotWord si.gd 0x51 (d.toNat * 4096 + a.toNat * 128 + b.toNat * 4 + w.toNat * 2 + z.toNat)
  | .gamax d a b w z => slotWord si.gd 0x52 (d.toNat * 4096 + a.toNat * 128 + b.toNat * 4 + w.toNat * 2 + z.toNat)
  | .gaand d a b w z => slotWord si.gd 0x53 (d.toNat * 4096 + a.toNat * 128 + b.toNat * 4 + w.toNat * 2 + z.toNat)
  | .gaor d a b w z => slotWord si.gd 0x54 (d.toNat * 4096 + a.toNat * 128 + b.toNat * 4 + w.toNat * 2 + z.toNat)
  | .gaxor d a b w z => slotWord si.gd 0x55 (d.toNat * 4096 + a.toNat * 128 + b.toNat * 4 + w.toNat * 2 + z.toNat)
  | .gaswp d a b w z => slotWord si.gd 0x56 (d.toNat * 4096 + a.toNat * 128 + b.toNat * 4 + w.toNat * 2 + z.toNat)
  | .gacas d a b w z => slotWord si.gd 0x57 (d.toNat * 4096 + a.toNat * 128 + b.toNat * 4 + w.toNat * 2 + z.toNat)
  | .gafadd d a b w => slotWord si.gd 0x58 (d.toNat * 4096 + a.toNat * 128 + b.toNat * 4 + w.toNat * 2)
  | .gafmin d a b w => slotWord si.gd 0x59 (d.toNat * 4096 + a.toNat * 128 + b.toNat * 4 + w.toNat * 2)
  | .gafmax d a b w => slotWord si.gd 0x5A (d.toNat * 4096 + a.toNat * 128 + b.toNat * 4 + w.toNat * 2)
  | .mscwb d a b => slotWord si.gd 0x70 (d.toNat * 4096 + a.toNat * 128 + b.toNat * 4)
  | .mscinv d a b => slotWord si.gd 0x71 (d.toNat * 4096 + a.toNat * 128 + b.toNat * 4)
  | .gtt => slotWord si.gd 0x80 (si.ops.d.toNat * 4096 + si.ops.a.toNat * 128 + si.ops.b.toNat * 4)
  | .ggo => slotWord si.gd 0x81 (si.ops.d.toNat * 4096 + si.ops.a.toNat * 128 + si.ops.b.toNat * 4)
  | .gsave => slotWord si.gd 0x82 (si.ops.d.toNat * 4096 + si.ops.a.toNat * 128 + si.ops.b.toNat * 4)
  | .grestore => slotWord si.gd 0x83 (si.ops.d.toNat * 4096 + si.ops.a.toNat * 128 + si.ops.b.toNat * 4)
  | .gstat => slotWord si.gd 0x84 (si.ops.d.toNat * 4096 + si.ops.a.toNat * 128 + si.ops.b.toNat * 4)
  | .coll => slotWord si.gd 0xA0 (si.ops.d.toNat * 4096 + si.ops.a.toNat * 128 + si.ops.b.toNat * 4)
  | .embr => slotWord si.gd 0xA1 (si.ops.d.toNat * 4096 + si.ops.a.toNat * 128 + si.ops.b.toNat * 4)
  | .vprep => slotWord si.gd 0xB0 (si.ops.d.toNat * 4096 + si.ops.a.toNat * 128 + si.ops.b.toNat * 4)
  | .vround d a l o => slotWord si.gd 0xB1 (d.toNat * 4096 + a.toNat * 128 + l.toNat * 4 + o.toNat)
  | .vstat => slotWord si.gd 0xB2 (si.ops.d.toNat * 4096 + si.ops.a.toNat * 128 + si.ops.b.toNat * 4)
  | _ => 0

/-- The slot class of an instruction; none for the steps without an encoding. -/
def classOf : Instr → Option SlotClass
  | .add _ _ _ => some .S
  | .sub _ _ _ => some .S
  | .mul _ _ _ => some .S
  | .mulh _ _ _ => some .S
  | .mulhn _ _ _ => some .S
  | .div _ _ _ => some .S
  | .divn _ _ _ => some .S
  | .rem _ _ _ => some .S
  | .remn _ _ _ => some .S
  | .and _ _ _ => some .S
  | .or _ _ _ => some .S
  | .xor _ _ _ => some .S
  | .andn _ _ _ => some .S
  | .sll _ _ _ => some .S
  | .srl _ _ _ => some .S
  | .sra _ _ _ => some .S
  | .min _ _ _ => some .S
  | .max _ _ _ => some .S
  | .minn _ _ _ => some .S
  | .maxn _ _ _ => some .S
  | .clz _ _ => some .S
  | .ctz _ _ => some .S
  | .popc _ _ => some .S
  | .adds _ _ _ _ => some .S
  | .subs _ _ _ _ => some .S
  | .sext _ _ _ => some .S
  | .zext _ _ _ => some .S
  | .bfx _ _ _ _ => some .S
  | .bfi _ _ _ => some .S
  | .mov _ _ => some .S
  | .addi _ _ _ => some .S
  | .muli _ _ _ => some .S
  | .andi _ _ _ => some .S
  | .ori _ _ _ => some .S
  | .xori _ _ _ => some .S
  | .slli _ _ _ => some .S
  | .srli _ _ _ => some .S
  | .srai _ _ _ => some .S
  | .mini _ _ _ => some .S
  | .maxi _ _ _ => some .S
  | .li _ _ => some .S
  | .lih _ _ _ => some .S
  | .cmpeq _ _ _ => some .S
  | .cmpne _ _ _ => some .S
  | .cmplt _ _ _ => some .S
  | .cmple _ _ _ => some .S
  | .cmpltn _ _ _ => some .S
  | .cmplen _ _ _ => some .S
  | .cmpeqi _ _ _ => some .S
  | .cmpnei _ _ _ => some .S
  | .cmplti _ _ _ => some .S
  | .cmplei _ _ _ => some .S
  | .cmpgti _ _ _ => some .S
  | .cmpgei _ _ _ => some .S
  | .pand _ _ _ => some .S
  | .por _ _ _ => some .S
  | .pxor _ _ _ => some .S
  | .pandn _ _ _ => some .S
  | .pnot _ _ => some .S
  | .pmov _ _ => some .S
  | .pset _ _ => some .S
  | .ptos _ => some .S
  | .spred _ _ => some .S
  | .hmk _ _ _ => some .S
  | .hadd _ _ _ => some .S
  | .haddi _ _ _ => some .S
  | .hidx _ _ => some .S
  | .hoff _ _ => some .S
  | .hseto _ _ _ => some .S
  | .hmov _ _ => some .S
  | .hchk _ _ _ _ => some .S
  | .b _ => some .S
  | .bx _ => some .S
  | .call _ => some .S
  | .callx _ => some .S
  | .ret => some .S
  | .bempty _ _ => some .S
  | .loop _ _ _ => some .S
  | .lstrd _ _ _ => some .S
  | .lbrk _ => some .S
  | .launch _ _ _ => some .S
  | .exit => some .S
  | .ppt _ => some .S
  | .frame _ _ _ => some .S
  | .nop => some .S
  | .wmrg _ _ _ _ => some .S
  | .wwait _ => some .S
  | .wtest _ _ => some .S
  | .tlread _ _ _ => some .S
  | .fence _ _ => some .S
  | .whzn _ _ => some .S
  | .csrr _ _ => some .S
  | .csrw _ _ _ => some .S
  | .csrs _ _ _ => some .S
  | .csrc _ _ _ => some .S
  | .rdts _ => some .S
  | .trap _ _ => some .S
  | .rett => some .S
  | .tbegin _ _ => some .S
  | .trec _ _ _ => some .S
  | .trecp _ _ => some .S
  | .tend _ => some .S
  | .trev _ _ => some .S
  | .tpop _ _ _ => some .S
  | .tpopp _ _ => some .S
  | .vaddF _ _ _ _ => some .V
  | .vsubF _ _ _ _ => some .V
  | .vmulF _ _ _ _ => some .V
  | .vfma _ _ _ _ => some .V
  | .vfms _ _ _ _ => some .V
  | .vfnma _ _ _ _ => some .V
  | .vdiv _ _ _ _ => some .V
  | .vminF _ _ _ _ => some .V
  | .vmaxF _ _ _ _ => some .V
  | .vabsF _ _ _ => some .V
  | .vnegF _ _ _ => some .V
  | .vcmpeqF _ _ _ _ => some .V
  | .vcmpltF _ _ _ _ => some .V
  | .vcmpleF _ _ _ _ => some .V
  | .vcmpun _ _ _ _ => some .V
  | .vscalb _ _ _ _ => some .V
  | .vrint _ _ _ _ => some .V
  | .vaddI _ _ _ _ _ => some .V
  | .vsubI _ _ _ _ _ => some .V
  | .vadds _ _ _ _ _ => some .V
  | .vsubs _ _ _ _ _ => some .V
  | .vmulI _ _ _ _ _ => some .V
  | .vmulh _ _ _ _ _ => some .V
  | .vminI _ _ _ _ _ => some .V
  | .vmaxI _ _ _ _ _ => some .V
  | .vcmpeqI _ _ _ _ _ => some .V
  | .vcmpltI _ _ _ _ _ => some .V
  | .vcmpleI _ _ _ _ _ => some .V
  | .vand _ _ _ _ _ => some .V
  | .vor _ _ _ _ _ => some .V
  | .vxor _ _ _ _ _ => some .V
  | .vnot _ _ _ _ => some .V
  | .vsll _ _ _ _ _ => some .V
  | .vsrl _ _ _ _ _ => some .V
  | .vsra _ _ _ _ _ => some .V
  | .vabsI _ _ _ => some .V
  | .vnegI _ _ _ => some .V
  | .cvt _ _ _ => some .V
  | .qnt _ _ _ => some .V
  | .dqnt _ _ _ => some .V
  | .vmov _ _ => some .V
  | .vbcast _ _ _ => some .V
  | .vbcastl _ _ _ => some .V
  | .vperm _ _ _ => some .V
  | .vrot _ _ _ => some .V
  | .vsel _ _ _ => some .V
  | .vrsum _ _ => some .V
  | .vrmax _ _ => some .V
  | .vrmin _ _ => some .V
  | .vdot _ _ _ _ => some .V
  | .vext _ _ _ => some .V
  | .vins _ _ _ => some .V
  | .vzip _ _ _ _ => some .V
  | .vunzip _ _ _ _ => some .V
  | .exp2 _ _ _ _ => some .V
  | .log2 _ _ _ _ => some .V
  | .rcp _ _ _ _ => some .V
  | .rsq _ _ _ _ => some .V
  | .sqrt _ _ _ _ => some .V
  | .sin _ _ _ _ => some .V
  | .cos _ _ _ _ => some .V
  | .tanh _ _ _ _ => some .V
  | .mpush _ => some .V
  | .minv => some .V
  | .mpop => some .V
  | .mmaBf16 _ _ _ _ => some .M
  | .mmaFp8 _ _ _ _ _ => some .M
  | .mmaE2m1 _ _ _ => some .M
  | .mmaInt8 _ _ _ _ _ => some .M
  | .mmaQ8 _ _ _ => some .M
  | .mmaQ4 _ _ _ => some .M
  | .mmazBf16 _ _ _ _ => some .M
  | .mmazFp8 _ _ _ _ _ => some .M
  | .mmazE2m1 _ _ _ => some .M
  | .mmazInt8 _ _ _ _ _ => some .M
  | .mmazQ8 _ _ _ => some .M
  | .mmazQ4 _ _ _ => some .M
  | .mzero _ _ => some .M
  | .mld _ _ => some .M
  | .mst _ _ _ => some .M
  | .mrowv _ _ _ => some .M
  | .mvrow _ _ _ => some .M
  | .mcvt _ _ _ _ _ => some .M
  | .mrec _ _ _ => some .M
  | .mrecr _ _ _ _ => some .M
  | .mmov _ _ => some .M
  | .ldl _ _ _ _ => some .L
  | .stl _ _ _ _ => some .L
  | .ldlv _ _ _ _ => some .L
  | .stlv _ _ _ _ => some .L
  | .ldlx _ _ _ => some .L
  | .stlx _ _ _ => some .L
  | .ldlw _ _ _ _ => some .L
  | .ldlvw _ _ _ _ => some .L
  | .ldc _ _ _ _ => some .L
  | .ldcw _ _ _ _ => some .L
  | .spat _ _ => some .L
  | .sgo _ => some .L
  | .sstop _ => some .L
  | .qpop _ _ _ => some .L
  | .qpops _ _ _ => some .L
  | .qstat _ _ _ => some .L
  | .laadd _ _ _ _ _ => some .L
  | .lamin _ _ _ _ _ => some .L
  | .lamax _ _ _ _ _ => some .L
  | .laand _ _ _ _ _ => some .L
  | .laor _ _ _ _ _ => some .L
  | .laxor _ _ _ _ _ => some .L
  | .laswp _ _ _ _ _ => some .L
  | .lacas _ _ _ _ _ => some .L
  | .lafadd _ _ _ _ => some .L
  | .lafmin _ _ _ _ => some .L
  | .lafmax _ _ _ _ => some .L
  | .wld _ _ _ _ => some .L
  | .wldx _ _ _ _ => some .L
  | .wlds _ _ _ => some .L
  | .wsnext _ _ _ => some .L
  | .sinv _ _ => some .L
  | .sinva => some .L
  | .ldg _ _ _ _ => some .G
  | .stg _ _ _ _ => some .G
  | .ldgv _ _ _ _ => some .G
  | .stgv _ _ _ _ => some .G
  | .ldgx _ _ _ => some .G
  | .stgx _ _ _ => some .G
  | .ldgw _ _ _ _ => some .G
  | .ldgvw _ _ _ _ => some .G
  | .ldgxw _ _ _ _ => some .G
  | .strc _ _ _ _ => some .G
  | .strcv _ _ _ _ => some .G
  | .stred _ _ _ _ => some .G
  | .copy => some .G
  | .copyl => some .G
  | .copyg => some .G
  | .pref _ _ _ => some .G
  | .skrd => some .G
  | .skpat => some .G
  | .gaadd _ _ _ _ _ => some .G
  | .gamin _ _ _ _ _ => some .G
  | .gamax _ _ _ _ _ => some .G
  | .gaand _ _ _ _ _ => some .G
  | .gaor _ _ _ _ _ => some .G
  | .gaxor _ _ _ _ _ => some .G
  | .gaswp _ _ _ _ _ => some .G
  | .gacas _ _ _ _ _ => some .G
  | .gafadd _ _ _ _ => some .G
  | .gafmin _ _ _ _ => some .G
  | .gafmax _ _ _ _ => some .G
  | .mscwb _ _ _ => some .G
  | .mscinv _ _ _ => some .G
  | .gtt => some .G
  | .ggo => some .G
  | .gsave => some .G
  | .grestore => some .G
  | .gstat => some .G
  | .coll => some .G
  | .embr => some .G
  | .vprep => some .G
  | .vround _ _ _ _ => some .G
  | .vstat => some .G
  | _ => none

/-- The rows whose operands are in EngineOps. -/
def isEngine : Instr → Bool
  | .copy | .copyl | .copyg | .skrd | .skpat | .gtt | .ggo | .gsave | .grestore | .gstat | .coll | .embr | .vprep | .vstat => true
  | _ => false

/-- The instruction a word of class `c` holds (R121 checks 5 and 7). -/
def decodeNat (c : SlotClass) (w : Nat) : Except DecodeError Instr :=
  match c with
  | .S => makeS (w / 131072 % 256) w
  | .V => makeV (w / 131072 % 256) w
  | .M => makeM (w / 131072 % 256) w
  | .L => makeL (w / 131072 % 256) w
  | .G => makeG (w / 131072 % 256) w

/-- Fields D, A and B of a word (R113). -/
def engineOpsOf (w : Nat) : EngineOps :=
  ⟨BitVec.ofNat 5 (w / 4096), BitVec.ofNat 5 (w / 128), BitVec.ofNat 5 (w / 4)⟩

/-- The slot instruction a word of class `c` holds. -/
def decodeWord (c : SlotClass) (w : Nat) : Except DecodeError SlotInstr :=
  match decodeNat c w with
  | .ok i => .ok ⟨guardOf w, if isEngine i then engineOpsOf w else ⟨0, 0, 0⟩, i⟩
  | .error e => .error e

def decodeSlot (c : SlotClass) (w : BitVec 32) : Except DecodeError SlotInstr := decodeWord c w.toNat

def encode (x : SlotInstr) : BitVec 32 := BitVec.ofNat 32 (encodeNat x)

/-- The header fields of a word (R111). -/
def decodeHeader (w : BitVec 32) : Header where
  pm    := w.extractLsb' 25 7
  fa    := w.extractLsb' 24 1
  np    := w.extractLsb' 20 4
  sv    := w.extractLsb' 19 1
  stamp := w.extractLsb' 8 11
  xr    := w.extractLsb' 5 3
  lql   := w.extractLsb' 2 3
  low   := w.extractLsb' 0 2

def encodeHeader (h : Header) : BitVec 32 :=
  h.pm ++ h.fa ++ h.np ++ h.sv ++ h.stamp ++ h.xr ++ h.lql ++ h.low

/-- The presence bit of a slot in the header's PM (R111). -/
def Header.has (h : Header) : Slot → Bool
  | .header => false
  | .S  => h.pm.getLsbD 6
  | .V0 => h.pm.getLsbD 5
  | .V1 => h.pm.getLsbD 4
  | .M  => h.pm.getLsbD 3
  | .L  => h.pm.getLsbD 2
  | .G  => h.pm.getLsbD 1
  | .X  => h.pm.getLsbD 0

/-- The slots that carry an instruction of their own class, in the order of R110. -/
def slotOrder : List Slot := [.S, .V0, .V1, .M, .L, .G, .X]

def Slot.cls : Slot → SlotClass
  | .V0 | .V1 => .V
  | .M => .M
  | .L => .L
  | .G => .G
  | .S | .X | .header => .S

/-- TCAUSE.SLOT of a place (R477). -/
def Slot.code : Slot → BitVec 3
  | .header => 0 | .S => 1 | .V0 => 2 | .V1 => 3 | .M => 4 | .L => 5 | .G => 6 | .X => 7

/-- The slot that XR names as the user of the X word (R116); none for a control slot and for the reserved code. -/
def xSlot (xr : BitVec 3) : Option Slot :=
  match xr.toNat with
  | 1 => some .S | 2 => some .V0 | 3 => some .V1 | 4 => some .M | 5 => some .L | 6 => some .G | _ => none

/-- Words of a bundle after its header (R110). -/
def Header.slotWords (h : Header) : Nat := (slotOrder.filter h.has).length

/-- A bundle as decoded: its header, the instruction of each present slot with its word, and the X word when it is data. -/
structure Bundle where
  hdr   : Header
  slots : List (Slot × BitVec 32 × SlotInstr)
  xw    : Option (BitVec 32)
  deriving DecidableEq, Repr

/-- An encoding fault: which of R121's faults, and the place and word its record names (R474). -/
inductive EncFault where
  | reservedEncoding (sl : Slot) (w : BitVec 32)
  | illegalProfile (w : BitVec 32)
  | illegalXRole (sl : Slot) (w : BitVec 32)
  | illegalOpcode (sl : Slot) (w : BitVec 32)
  deriving DecidableEq, Repr

/-- The codes an X control word may hold (R125). -/
def xControlCodes : List Nat := [0x80, 0x81, 0x85, 0x86, 0x87, 0x88, 0x8D]

/-- Pairs the present slots with the words that follow the header. -/
def placeWords (h : Header) (ws : List (BitVec 32)) : List (Slot × BitVec 32) :=
  (slotOrder.filter h.has).zip ws

/-- Does the instruction take an X word as an immediate (R117, R182, R220, R301, R329, R377, R462)? -/
def takesX : Instr → Bool
  | .addi .. | .muli .. | .andi .. | .ori .. | .xori .. | .slli .. | .srli .. | .srai .. | .mini .. | .maxi ..
  | .li .. | .lih .. | .cmpeqi .. | .cmpnei .. | .cmplti .. | .cmplei .. | .cmpgti .. | .cmpgei .. | .haddi ..
  | .b .. | .call .. | .bempty .. | .cvt .. | .qnt .. | .dqnt ..
  | .ldl .. | .stl .. | .ldlv .. | .stlv .. | .ldlx .. | .stlx .. | .ldlw .. | .ldlvw .. | .ldc .. | .ldcw ..
  | .spat .. | .laadd .. | .lamin .. | .lamax .. | .laand .. | .laor .. | .laxor .. | .laswp .. | .lacas ..
  | .lafadd .. | .lafmin .. | .lafmax .. | .wld .. | .wldx .. | .wlds ..
  | .ldg .. | .stg .. | .ldgv .. | .stgv .. | .ldgx .. | .stgx .. | .ldgw .. | .ldgvw .. | .ldgxw .. | .strc ..
  | .strcv .. | .stred .. | .pref .. | .gaadd .. | .gamin .. | .gamax .. | .gaand .. | .gaor .. | .gaxor ..
  | .gaswp .. | .gacas .. | .gafadd .. | .gafmin .. | .gafmax .. | .gstat | .vround .. | .vstat => true
  | _ => false

/-- Mould of an L- or G-slot instruction, as far as the X word's rule goes (R300, R301, R328, R329). -/
inductive XMould where
  | load | landing | noLanding | count | none
  deriving DecidableEq, Repr

/-- `load`: LO must be 0 and the X word holds the landing offset; `landing`: it holds the offset; `noLanding`: that field
is zero; `count`: it holds the reader count. -/
def xMould : Instr → XMould
  | .ldl .. | .wldx .. | .ldc .. | .ldg .. | .gstat | .vround .. | .vstat => .load
  | .ldlw .. | .ldlvw .. | .ldcw .. | .ldgw .. | .ldgvw .. | .ldgxw .. => .landing
  | .laadd _ _ _ w _ | .lamin _ _ _ w _ | .lamax _ _ _ w _ | .laand _ _ _ w _ | .laor _ _ _ w _
  | .laxor _ _ _ w _ | .laswp _ _ _ w _ | .lacas _ _ _ w _ | .lafadd _ _ _ w | .lafmin _ _ _ w
  | .lafmax _ _ _ w | .gaadd _ _ _ w _ | .gamin _ _ _ w _ | .gamax _ _ _ w _ | .gaand _ _ _ w _
  | .gaor _ _ _ w _ | .gaxor _ _ _ w _ | .gaswp _ _ _ w _ | .gacas _ _ _ w _ | .gafadd _ _ _ w
  | .gafmin _ _ _ w | .gafmax _ _ _ w => if w = 0 then .landing else .noLanding
  | .stl .. | .ldlv .. | .stlv .. | .ldlx .. | .stlx .. | .spat .. | .wld .. | .wlds ..
  | .stg .. | .ldgv .. | .stgv .. | .ldgx .. | .stgx .. | .stred .. | .pref .. => .noLanding
  | .strc .. | .strcv .. => .count
  | _ => .none

/-- LO of the load mould: bits [6:2] of the word (R300, R328). -/
def loBits (w : BitVec 32) : Nat := w.toNat / 4 % 32

/-- The rule an X word sets on its slot's own word and on itself: B:M zero for immediates (R117, R121 check 8), the
control words of R233, the field rules of R301, R329 and R377. True when it holds. -/
def xFieldsOk (i : Instr) (w x : BitVec 32) : Bool :=
  let lc := x.toNat % 4096
  let mould : Bool :=
    match xMould i with
    | .load      => loBits w == 0 && lc != 0
    | .landing   => lc != 0
    | .noLanding => lc == 0
    | .count     => lc / 256 == 0
    | .none      => true
  match i with
  | .b .. | .call .. => w.toNat % 131072 == 0
  | .bempty .. => w.toNat / 4 % 32768 == 0
  | .cvt .. => w.toNat % 128 == 0 && cvtWordOk x
  | .qnt .. => w.toNat % 128 == 0 && qntWordOk x
  | .dqnt .. => w.toNat % 128 == 0 && dqntWordOk x
  | .gstat | .vround .. | .vstat => mould && x.toNat / 4096 == 0
  | .ldg .. | .stg .. | .ldgv .. | .stgv .. | .ldgx .. | .stgx .. | .ldgw .. | .ldgvw .. | .ldgxw .. | .strc ..
  | .strcv .. | .stred .. | .pref .. | .gaadd .. | .gamin .. | .gamax .. | .gaand .. | .gaor .. | .gaxor ..
  | .gaswp .. | .gacas .. | .gafadd .. | .gafmin .. | .gafmax .. =>
      mould && (x.toNat / 2147483648 == 0 || x.toNat / 4096 % 4096 == 0)
  | _ => if xMould i = .none then w.toNat % 128 == 0 else mould

/-- Check 8 of R121 on one slot, `xr` naming it when `mine`. -/
def checkX (mine : Bool) (sl : Slot) (w : BitVec 32) (i : Instr) (xw : Option (BitVec 32)) : Option EncFault :=
  if mine then
    if takesX i then
      match xw with
      | some x => if xFieldsOk i w x then none else some (.reservedEncoding sl w)
      | none => none
    else some (.illegalXRole sl w)
  else none

/-- The opcode-assigned check (check 5) of a slot. -/
def checkOpcode (sl : Slot) (w : BitVec 32) : Option EncFault :=
  match decodeSlot sl.cls w with
  | .error .illegalOpcode => some (.illegalOpcode sl w)
  | _ => none

def checkReserved (sl : Slot) (w : BitVec 32) : Option EncFault :=
  match decodeSlot sl.cls w with
  | .error .reservedEncoding => some (.reservedEncoding sl w)
  | _ => none

/-- The first fault a list of checks finds. -/
def firstFault {α : Type} (f : α → Option EncFault) : List α → Option EncFault
  | [] => none
  | x :: xs => match f x with
    | some e => some e
    | none => firstFault f xs

/-- Check 2 of R121: the header's own reserved values. -/
def headerReserved (h : Header) : Bool :=
  h.low != 0 || h.lql.toNat ≥ 6 || (h.fa != 0 && h.sv == 0) ||
  (h.stamp != 0 && h.sv == 0 && h.pm != 0) || ((h.xr != 0 || h.lql != 0) && h.pm == 0)

/-- Check 3 of R121 and R503: `reduced` is the part's reduced service. -/
def profileIllegal (reduced : Bool) (h : Header) : Bool :=
  h.np.toNat ≥ 7 || (reduced && h.pm != 0 && (h.np.toNat == 0 || h.np.toNat ≥ 4))

/-- Check 4 of R121. -/
def xRoleIllegal (h : Header) : Bool :=
  h.xr.toNat == 7 || (h.xr != 0 && !h.has .X) ||
  (match xSlot h.xr with
   | some sl => !h.has sl
   | none => false)

/-- Checks 2 to 8 of R121 on a bundle's words, and the bundle when every check passes. The word list may run past the
bundle. -/
def decodeBundle (reduced : Bool) (hw : BitVec 32) (rest : List (BitVec 32)) : Except EncFault Bundle :=
  let h := decodeHeader hw
  if headerReserved h then .error (.reservedEncoding .header hw)
  else if profileIllegal reduced h then .error (.illegalProfile hw)
  else if xRoleIllegal h then .error (.illegalXRole .header hw)
  else
    let ws := placeWords h rest
    let isData := h.xr != 0
    let coded := if isData then ws.filter (fun p => p.1 != .X) else ws
    let xw := if isData then (ws.find? (fun p => p.1 == .X)).map Prod.snd else none
    match firstFault (fun p => checkOpcode p.1 p.2) coded with
    | some e => .error e
    | none =>
    match firstFault (fun p => if p.1 == .X && !(xControlCodes.contains (p.2.toNat / 131072 % 256)) then
        some (.illegalXRole .X p.2) else none) coded with
    | some e => .error e
    | none =>
    match firstFault (fun p => checkReserved p.1 p.2) coded with
    | some e => .error e
    | none =>
    let slots := coded.filterMap (fun p => match decodeSlot p.1.cls p.2 with
      | .ok i => some (p.1, p.2, i)
      | .error _ => none)
    match firstFault (fun p => checkX (xSlot h.xr == some p.1) p.1 p.2.1 p.2.2.i xw) slots with
    | some e => .error e
    | none => .ok ⟨h, slots, xw⟩

/-- The first class whose decoder accepts the word: a table row gives the word without its class, which only the
bundle's header tells (log 4). -/
def classOfWord (w : Nat) : Option (SlotClass × Instr) :=
  match decodeNat .S w, decodeNat .V w, decodeNat .M w, decodeNat .L w, decodeNat .G w with
  | .ok i, _, _, _, _ => some (.S, i)
  | _, .ok i, _, _, _ => some (.V, i)
  | _, _, .ok i, _, _ => some (.M, i)
  | _, _, _, .ok i, _ => some (.L, i)
  | _, _, _, _, .ok i => some (.G, i)
  | _, _, _, _, _ => none

/-- The instruction the decoder reads from a 32-bit table word. -/
def decodeTableWord (nbits w : Nat) : Option Instr :=
  if nbits = 32 ∧ w < 4294967296 then (classOfWord w).map Prod.snd else none

end Sys2Proof
end

