-- ==== Sys2Proof/Machine/Parts.lean ====
section
/-! DEFINITION. The parts of a core as data: registers, results in flight, queues, loop levels, tape engine, CSRs. -/
namespace Sys2Proof.Machine
open Sys2Proof

/-- A vector register: payload, side store, tag word (R31). -/
structure VReg where
  pay  : BitVec 2048 := 0
  side : BitVec 512 := 0
  tag  : BitVec 32 := 0
  deriving DecidableEq, Repr

/-- A tile register (R31, R245). -/
structure Tile where
  pay : BitVec 131072 := 0
  tag : BitVec 32 := 0
  deriving DecidableEq, Repr

/-- The registers whose writes a trap entry may hold back (R107, R481): scalars, handles, predicates, vectors, operand
records, the mask stack (top first) and the sticky flags of FSTAT (R47). -/
structure Regs where
  s : Vector Word 32
  a : Vector Handle 16
  p : Vector Bool 16
  v : Vector VReg 32
  d : Vector (BitVec 128) 8
  k : List (BitVec 512)
  fstat : Flags
  deriving DecidableEq, Repr

def Regs.zero : Regs where
  s := Vector.replicate 32 0
  a := Vector.replicate 16 0
  p := Vector.replicate 16 false
  v := Vector.replicate 32 {}
  d := Vector.replicate 8 0
  k := []
  fstat := 0

/-- A register write on its way (R137, R144, R210, R222). -/
inductive Wr where
  | s (r : Nat) (x : Word)
  | a (r : Nat) (x : Handle)
  | p (r : Nat) (x : Bool)
  | preds (mask vals : BitVec 16)
  | v (r : Nat) (x : VReg)
  | d (r : Nat) (x : BitVec 128)
  | mpush (c : BitVec 512)
  | minv
  | mpop
  | stride (r : Nat) (by_ : Word)
  | none
  deriving DecidableEq, Repr

/-- What a fault puts into the trap CSRs (R474, R477): `pc` is for TFPC, `blen` for TSTAT.BLEN. -/
structure FaultRec where
  code  : BitVec 8
  cause : BitVec 4 := 0
  slot  : BitVec 3 := 0
  defer : Bool := false
  reg   : BitVec 8 := 0
  idx   : BitVec 16 := 0
  tval  : Word := 0
  tval2 : Word := 0
  pc    : Dpa := 0
  blen  : Nat := 1
  deriving DecidableEq, Repr

/-- A result in flight, in issue order. `due` is a pipeline cycle of the core, or the remaining count while held (R481).
`land` is the number of the operation that brings its data, 0 when the data was there at issue; `ready` says that its data is
present; `err` is the deferred fault its due cycle takes instead (R480); `buf` that it holds a landing-buffer entry
(R145). -/
structure Pend where
  due   : Nat
  wr    : Wr
  flags : Flags := 0
  land  : Nat := 0
  ready : Bool := true
  err   : Option FaultRec := none
  buf   : Bool := false
  deriving DecidableEq, Repr

/-- One stream element (R315): its value, the indirect address that failed (POISON), kind and address of an error its read
met. -/
inductive QVal where
  | scal (x : Word)
  | vec (x : VReg)
  deriving DecidableEq, Repr
structure QElem where
  val    : QVal
  poison : Option Word := none
  err    : Option (Nat × Nat) := none
  deriving DecidableEq, Repr

/-- A stream queue (R314–R318). `pat` is the pattern record P0–P7, `made` the elements read since SGO, `ahead` the one read
while the queue was full, `waits` the stores the generator waits for. -/
structure StreamQ where
  pat    : Option (List Word) := none
  run    : Bool := false
  done   : Bool := false
  popped : Nat := 0
  elems  : List QElem := []
  made   : Nat := 0
  ahead  : Option QElem := none
  waits  : List Nat := []
  deriving DecidableEq, Repr

/-- An active loop level (R206–R210): the addresses of its body's first bundle, its last, and the bundle after. -/
structure Level where
  lvl   : Nat
  trip  : Nat
  iter  : Nat
  first : Dpa
  last  : Dpa
  after : Dpa
  strides : List (Nat × Word)
  deriving DecidableEq, Repr

/-- The loop nest unit: active levels innermost first, strides that wait for their level. -/
structure Lnu where
  act  : List Level := []
  wait : List (Nat × Nat × Word) := []
  deriving DecidableEq, Repr

inductive TapeMode where
  | idle | record | replay
  deriving DecidableEq, Repr

/-- A site-table entry (R272); the table lists the most recent first. -/
structure Site where
  site : BitVec 8
  vec  : Bool
  val  : List Byte
  deriving DecidableEq, Repr

/-- The Spindle (R272). In RECORD `bytes` are the bytes of the open frame so far and `last` the handle of the last frame
written; in REPLAY `frame` is the handle of the frame under the walk, `pos` the walk position in it. -/
structure Spindle where
  mode   : TapeMode := .idle
  origin : Handle := 0
  cur    : Handle := 0
  nfr    : Nat := 0
  opened : Nat := 0
  bytes  : List Byte := []
  fseq   : Nat := 0
  recs   : Nat := 0
  frames : Nat := 0
  last   : Handle := 0
  sites  : List Site := []
  frame  : Handle := 0
  pos    : Nat := 0
  deriving DecidableEq, Repr

/-- Per-context CSRs (R193, R475); FSTAT is in `Regs`. SPILLED of RSDEPTH is here, its DEPTH is the length of the store. -/
structure Csrs where
  srseed : Word := 0
  npdef : Word := 0
  btab : Word := 0
  ownid : Word := 0
  place : Word := 0
  lease : Word := 0
  issctl : Word := 0
  frbase : Word := 0
  frlen : Word := 0x800
  frpos : Word := 0
  enrg : Word := 0
  rsspill : Word := 0
  spilled : BitVec 16 := 0
  brdrop : Word := 0
  tovf : Word := 0
  tvec : Word := 0
  tpc : Word := 0
  tcause : Word := 0
  tval : Word := 0
  tval2 : Word := 0
  tfpc : Word := 0
  tstat : Word := 0
  tscr0 : Word := 0
  tscr1 : Word := 0
  tscr2 : Word := 0
  tscr3 : Word := 0
  deriving DecidableEq, Repr

/-- What a context is doing (R92, R99, R140, R214, R481, R484): `starting` waits for its first cycle, `entering` for its
handler's first bundle, `waiting` for the points of R396 after a restore. -/
inductive CtxMode where
  | idle | starting | run | entering | exited | saving | waiting
  | frozen (cause : BitVec 4)
  deriving DecidableEq, Repr

/-- A queued matrix instruction (R250): what it does, and its operands as read at issue (R246). -/
inductive MOp where
  | mma (zero : Bool) (kind m : Nat)
  | mld
  | mst
  | mcvt (t rm : Nat) (sat : Bool)
  deriving DecidableEq, Repr
structure MEntry where
  op   : MOp
  dst  : Nat
  ra   : BitVec 128 := 0
  rb   : BitVec 128 := 0
  src  : Tile := {}
  np   : Nat := 0
  seed : Word := 0
  seq  : Nat := 0
  work : Nat
  from_ : Nat
  after : List Nat := []
  id   : Nat
  pc   : Dpa := 0
  blen : Nat := 1
  deriving DecidableEq, Repr

/-- What slots asked the bundle's end for (R192, R198, R202, R214, R215, R417, R487, R488): `skip` is the last bundle of the body
a LOOP with trip count 0 skips (R208), `xlbrk` and `xskip` the level that an LBRK ends and the skip of a LOOP in X beside an S
branch to the same target, `refill` a return from the spill area (R205), `csrw` holds CSR numbers with their new values (for
FSTAT, the bits to clear). -/
structure BundleEnd where
  sBranch : Option Dpa := none
  xBranch : Option Dpa := none
  lbrk    : Option Nat := none
  call    : Bool := false
  loopsBegun : Nat := 0
  exit_   : Bool := false
  trap    : Option FaultRec := none
  rett    : Bool := false
  ppt     : Option Nat := none
  frame   : Option (Word × Word) := none
  csrw    : List (Nat × Word) := []
  fence   : Option (List Nat × BitVec 8) := none
  skip    : Option Dpa := none
  xlbrk   : Option Nat := none
  xskip   : Bool := false
  refill  : Bool := false
  deriving DecidableEq, Repr

/-- The bundle being issued: the slot at work, its operands, what the slots so far have asked for, the owners of the scoreboard
entries that the bundle itself has taken, and how it stopped. -/
structure Iss where
  slot  : Slot := .header
  word  : BitVec 32 := 0
  x     : Option (BitVec 32) := none
  ops   : EngineOps := ⟨0, 0, 0⟩
  np    : Nat := 1
  lql   : Nat := 0
  pc    : Dpa := 0
  words : Nat := 1
  be    : BundleEnd := {}
  own   : List Nat := []
  stalled : Bool := false
  fault : Option FaultRec := none
  deriving DecidableEq, Repr

/-- One context (R107–R109). `mwrites` are direct tile writes with their cycle; `undo` and `landed` are the registers before this
cycle's writes and the entries written in it; `held`, `heldLnu` and `heldFaults` belong to the held snapshot (R482); `replay` says
that it replays with the next bundle (R489), `resume` that the counts of `pend` do (R495); `owe` counts empty cycles to come,
`notBefore` is a cycle the next bundle waits for, `framed` that it waits for FRPOS.POS (R156); `yield_` is the age of the core at
which the PPT window of a yield request ends, `pptRec` the record of a PPT after whose bundle the context yields, `live` the
liveness record of a save at a PPT, `points` the points of R396, `stallAt` the cycle in which the pattern record that the bundle
waits for has been read (R299), `reframe` that the next bundle sets the reference frame (R151, R198), `ue` that its own state
carries an uncorrectable error (R496). -/
structure Ctx where
  num   : Nat
  mode  : CtxMode := .idle
  pc    : Dpa := 0
  regs  : Regs
  m     : Vector Tile 16
  busy  : BitVec 16 := 0
  mwrites : List (Nat × Nat × Tile) := []
  q     : Vector StreamQ 4
  ras   : List Dpa := []
  lnu   : Lnu := {}
  spin  : Spindle := {}
  skew  : Vector (List Word) 4
  csr   : Csrs := {}
  pend  : List Pend := []
  undo  : Option Regs := none
  landed : List Pend := []
  held  : List Pend := []
  heldLnu : Lnu := {}
  heldFaults : List FaultRec := []
  faults : List FaultRec := []
  mq    : List MEntry := []
  code  : Dpa := 0
  codelen : Nat := 0
  wsbase : Nat := 0
  wslen : Nat := 0
  launch : Nat := 0
  owe   : Nat := 0
  notBefore : Nat := 0
  framed : Bool := false
  replay : Bool := false
  nulls : Nat := 0
  yield_ : Option Nat := none
  pptRec : Option Nat := none
  resume : Bool := false
  live   : Option (List Word) := none
  points : List (Nat × Nat) := []
  fences : List (List Nat × BitVec 8) := []
  drainAt : Option Nat := none
  stallAt : Option Nat := none
  reframe : Bool := false
  ue    : Bool := false
  iss   : Iss := {}
  deriving DecidableEq, Repr

def Ctx.idle (n : Nat) : Ctx where
  num := n
  regs := Regs.zero
  m := Vector.replicate 16 {}
  q := Vector.replicate 4 {}
  skew := Vector.replicate 4 []

/-- A line of the scalar L1 (R319): its cell address and 64 bytes; `dev` is the device of the cell, 0xFF for this one;
`bad` that the line carries an uncorrectable error (R496). -/
structure L1Line where
  cell  : Nat
  bytes : List Byte
  dev   : BitVec 8 := 0xFF
  bad   : Bool := false
  deriving DecidableEq, Repr

/-- A buffer-table entry that the memory port of a core holds, or has asked for, for a launch, from an age of the core on (R63, R331). -/
structure PortEntry where
  ready  : Nat
  launch : Nat
  table  : Nat
  idx    : Nat
  deriving DecidableEq, Repr

/-- Matrix work in its occupancy (R252): the context's side, entry, accepted cycles left. -/
structure MxRun where
  side  : Nat
  entry : MEntry
  left  : Nat
  deriving DecidableEq, Repr
/-- Matrix work past its occupancy: completes in cycle `due` with the tile, flags and stores formed at the end of the
occupancy; `err` when an operand carried an error (R269). -/
structure MxDone where
  side  : Nat
  entry : MEntry
  due   : Nat
  tile  : Tile := {}
  flags : Flags := 0
  err   : Option (Nat × Nat) := none
  deriving DecidableEq, Repr

/-- What the two contexts of a core share (R193, R319, R140, R163–R172, R252). `frozen` says that the last period was a frozen one,
`thaw` that the last absent data came with the start of the present one (R146). -/
structure Core where
  num    : Nat
  cyc    : Nat := 0
  frzcyc : Nat := 0
  frozen : Bool := false
  thaw   : Bool := false
  mergeage : Word := 4
  ddthr  : Word := 0x82BC
  ddstat : Word := 0
  step   : Nat := 0
  therm  : Nat := 0
  curr   : Nat := 0
  phase  : Nat := 0
  stretched : Bool := false
  trip   : Bool := false
  bdefer : Nat := 0
  turn   : Nat := 0
  taken  : List Slot := []
  stampTaken : Bool := false
  run    : Option MxRun := none
  aside  : Option MxRun := none
  done   : List MxDone := []
  served : Option Nat := none
  l1     : List L1Line := []
  entries : List PortEntry := []
  deriving DecidableEq, Repr

/-- Core cycles with frozen periods, as times from an issue count them (R7, R299): a stretched cycle counts once. -/
def Core.age (c : Core) : Nat := c.cyc + c.frzcyc - c.stretched.toNat

structure CoreBox where
  core : Core
  a    : Ctx
  b    : Ctx
  deriving DecidableEq, Repr

def CoreBox.idle (c : Nat) : CoreBox := ⟨{ num := c }, Ctx.idle (2 * c), Ctx.idle (2 * c + 1)⟩

end Sys2Proof.Machine
end

