-- ==== Sys2Proof/Machine/Pack.lean ====
section
/-! DEFINITION. The package outside the cores as data: memories, timelines and outstanding operations, the MSC, the stream
scheduler. -/
namespace Sys2Proof.Machine
open Sys2Proof

/-- A byte memory in canonical form (`Memory.wf`); an unlisted address reads 0 (log 1). -/
abbrev Memory := List Host.Cell

/-- The byte stores (R6, R71, R297, R322): tier-2 cells by the cell address of R69, the scratchpads by cluster × 2^22 +
local address, the weight stores by die × 2^29 + address, host memory by host address. -/
inductive Space where
  | dram | spad | ws | host
  deriving DecidableEq, Repr

structure Stores where
  dram : Memory := []
  spad : Memory := []
  ws   : Memory := []
  host : Memory := []
  deriving DecidableEq, Repr

/-- Bytes in one place. For `dram` the address is a cell address. -/
structure Piece where
  space : Space
  addr  : Nat
  len   : Nat
  deriving DecidableEq, Repr

/-- A timeline (R394, R401, R403): issue count, head, completed operations above the head, failure mark and its owner, and
of every operation not yet complete its number, the TSTAMP of its numbering and its place in the order of all numberings. -/
structure Timeline where
  iss   : Nat := 0
  head  : Nat := 0
  above : List Nat := []
  flo   : Nat := 0
  owner : BitVec 16 := 0
  open_ : List (Nat × Nat × Nat) := []
  deriving DecidableEq, Repr

/-- What a load makes of its bytes (R303–R307). -/
inductive Shape where
  | scalar
  | plain (tag : BitVec 32)
  | image
  | lanes (tag : BitVec 32)
  deriving DecidableEq, Repr

/-- Buffer facts an access carries along (R58, R61): device, MSC policy, memory-side; and its activity class in the order of
R357 (0 HC, 1 OT, 2 GT, 3 RF, 4 VD, 5 RB, 6 CO); whether its DPAs are those of the bank-linear window (R68, R428). -/
structure Via where
  dev : BitVec 8 := 0xFF
  cp  : BitVec 2 := 0
  ms  : Bool := false
  vrid : BitVec 12 := 0
  cls : Nat := 1
  win : Bool := false
  deriving DecidableEq, Repr

/-- A range as a launch record or command names it: handle and length, with how it was resolved at issue. -/
structure Range where
  pieces : List Piece := []
  via    : Via := {}
  base   : Nat := 0
  deriving DecidableEq, Repr

/-- Outstanding operations (R299, R331, R333, R344, R377, R419, R435, R461). -/
inductive OpKind where
  | load (dst : Wr) (shape : Shape) (src : Range) (l1 : Option Bool)
  | store (dst : Range) (bytes : List Byte) (count : Nat)
  | atomic (at_ : Range) (local_ : Bool) (fn : Nat) (v cmp : Word) (ret : Option Nat)
  | writeback (lines : Range) (drop : Bool)
  | pref (lines : Range)
  | copy (src dst : Range) (queue : Nat)
  | skew (src : List Piece) (via : Via) (dst : Piece) (dstr esz rows cols queue : Nat)
  | wlds (src dst : Piece)
  | gouge (cmd ch : Nat) (img : Handle) (start : Word)
  | coll (ctl : Word) (src dst : Range) (rank : Nat) (devs : List Nat)
  | embr (ctl : Word) (src dst : Handle)
  | gstat (ch : Nat)
  | vstat (which slot : Nat)
  | vprep (slot : Nat) (round : Int)
  | merge (a b : Word) (named : Bool) (ra rb : Nat)
  | append (stream : Nat) (image : Range) (points : List Word)
  deriving DecidableEq, Repr

/-- One outstanding operation: its number, context, timeline point, the witnesses it waits for, the points it merges (R346, R378;
these cannot fail it), the earlier operations that a FENCE puts before it (R417), its class of R416, the registers of its result
and of its witness, its TSTAMP of issue (in `stamp`), its time from the moment nothing holds it, the further time its data takes,
whether that moment has come, whether its bytes have been taken, whether it fails once its remaining writes are done (R455, R457),
the entry of an EMBR's list (R423) or the bytes of a WLDS (R326) it has passed, whether it waits for a page of the host (R71), the
age of its core before which it does not go on (R299), the place of a COLL among those of its route (R437), what a LAUNCH or a COLL
has read, how far a COLL has come (1 its blocks sent, 2 + s its block written) or an EMBR's entry (1 its reads, 2 its update on
the way to another device). -/
structure Op where
  id    : Nat
  ctx   : Nat
  kind  : OpKind
  tl    : Nat := 0
  seq   : Nat := 0
  waits : List Word := []
  heads : List (Nat × Nat) := []
  after : List Nat := []
  cls   : BitVec 8 := 0
  owner : BitVec 16 := 0
  btab  : Word := 0
  npdef : Nat := 0
  cluster : Nat := 0
  board : List Nat := []
  launch : Nat := 0
  pc    : Dpa := 0
  blen  : Nat := 1
  slot  : BitVec 3 := 0
  reg   : BitVec 8 := 0
  wreg  : BitVec 8 := 0
  lat   : Nat := 0
  lat2  : Nat := 0
  stamp : Nat := 0
  begun : Bool := false
  taken : Bool := false
  fail  : Bool := false
  at_   : Nat := 0
  paged : Bool := false
  due   : Nat := 0
  idx   : Nat := 0
  bytes : List Byte := []
  stage : Nat := 0
  deriving DecidableEq, Repr

/-- A range-scoreboard entry of a cluster (R309): the operation and context that own it, its ranges of local addresses (low,
high); `array` says that the matrix array owns it. -/
structure BoardEntry where
  id      : Nat
  ctx     : Nat := 0
  array   : Bool := false
  cluster : Nat
  write   : Bool
  ranges  : List (Nat × Nat)
  deriving DecidableEq, Repr

/-- An MSC line (R61, R335–R337, R354, R496): cell line address, contents, dirty; `rc` the reader count; a spent entry holds a
tag only; `bad` are the sectors whose error arose in the MSC, `lost` those whose DRAM sector carries an error, which the line
does not hold. -/
structure MscLine where
  line  : Nat
  bytes : List Byte
  dirty : Bool := false
  rc    : Nat := 0
  spent : Bool := false
  pinned : Bool := false
  bad   : List Nat := []
  lost  : List Nat := []
  deriving DecidableEq, Repr

/-- An open row of a bank (R69, R356): channel, die, bank, row, the segments opened. -/
structure OpenRow where
  ch   : Nat
  die  : Nat
  bank : Nat
  row  : Nat
  segs : List Nat
  deriving DecidableEq, Repr

/-- Where a launch stands (R83, R86, R91, R99, R102, R499). -/
inductive LaunchPhase where
  | running | wsload | saving | saved | restoring
  deriving DecidableEq, Repr

/-- A cluster side a launch holds: logical and physical cluster, side or both (2); `ended` are the sides whose kernel end has been
noted (R174). -/
structure Seat where
  lcl : Nat
  pcl : Nat
  side : Nat
  ended : List Nat := []
  deriving DecidableEq, Repr

/-- An admitted launch (R82, R88–R93, R97–R102): its record W0–W15, kernel words K0–K7, role words; effective priority, age and
append time; order of admission; completion status; the save slot of each logical cluster and the contexts saved (logical cluster,
role index, context); timeline points beyond its operations that retirement waits for (R498); the source of a WS load as admitted
(R83); the energy of the contexts that have left their sides (R500); the error marks of the ranges saved, by logical cluster
(R496); whether its last context has exited (R499 step 1); the sectors of a WS load that were on the way over a port that went
down (R426). -/
structure Launch where
  id     : Nat
  stream : Nat
  j      : Nat
  record : List Word
  owner  : BitVec 16
  kobj   : List Word := []
  roles  : List Word := []
  seats  : List Seat := []
  phase  : LaunchPhase := .running
  prio   : Nat := 0
  age    : Nat := 0
  appended : Nat := 0
  admitted : Nat := 0
  status : Nat := 0
  slots  : List (Nat × Nat) := []
  imgs   : List (Nat × Nat × Ctx) := []
  drain  : List (Nat × Nat) := []
  src    : Range := {}
  enrg   : List Word := []
  marks  : List (Nat × Nat) := []
  quit   : Bool := false
  cut    : List Nat := []
  deriving DecidableEq, Repr

/-- What the scheduler keeps of a stream beside its registers (R79, R86, R87, R104): append times of records above HEAD and their
places in the order of all numberings, age and raised priority of the head record, records retired or refused above DONE with the
vector of an interrupt they ask for. -/
structure StreamState where
  times : List Nat := []
  ords  : List Nat := []
  age   : Nat := 0
  lift  : Nat := 0
  ended : List (Nat × Option Nat) := []
  deriving DecidableEq, Repr

/-- The claim of a candidate for which launches are being saved (R98): its stream, or the saved launch it resumes. -/
structure Claim where
  stream  : Nat
  launch  : Nat
  seats   : List Seat
  victims : List Nat
  deriving DecidableEq, Repr

/-- A frozen context waiting for release (R485), oldest first in its list. -/
structure Frozen where
  stream : Nat
  launch : Nat
  ctx    : Nat
  cause  : BitVec 4
  pc     : Dpa
  tcause : Word
  deriving DecidableEq, Repr

/-- The buffer service at work (R72–R76): what a migration has read of the old placement, the bytes of it written to the new one, and
the sectors there that take an error along. -/
structure BufService where
  table  : Nat
  idx    : Nat
  migrate : Bool
  newcgb : Nat
  newbase : Nat
  got    : List Byte := []
  put    : Nat := 0
  bad    : List Nat := []
  deriving DecidableEq, Repr

/-- A ramp of a cluster (R174, R175). -/
structure Ramp where
  cluster : Nat
  up      : Bool
  step    : Nat
  dwell   : Nat
  deriving DecidableEq, Repr

/-- The Gouge states (R363). -/
inductive GState where
  | empty | loaded | armed | running | done | save | error
  deriving DecidableEq, Repr

/-- A Gouge unit (R361, R365): its descriptor words G0–G2 and L0–L4, counters, 16 accumulator sets of 32 codes; `fin` says
that its nest is complete, `next` is the channel cycle of its next decision, `busy` that it is in a row pass (R372). -/
structure GUnit where
  die  : Nat
  desc : List Word
  ctr  : List Nat
  acc  : List (List Nat)
  fin  : Bool := false
  next : Nat := 0
  busy : Bool := false
  deriving DecidableEq, Repr

/-- A channel of the near-bank units (R363–R393). `saved` is the state that SAVE took over; `start` is the channel cycle of period
0, `entry` the present entry (from 0) and `entryFrom` its first channel cycle, `seq` the start point of the run; `stopping` and
`parking` say that a GSAVE or a self-refresh request waits for the row passes, `late_` that a start fell in self-refresh; `gtUsed`
and `rfUsed` are the RUN and REF cycles of the budget period before `gtFrom` or the present entry, `spent` that they have reached
the share while another class waited; `window` holds the park area of each die in SAVE. -/
structure Channel where
  state : GState := .empty
  saved : GState := .empty
  cause : BitVec 4 := 0
  late  : Bool := false
  flags : Flags := 0
  part  : Bool := false
  owner : BitVec 16 := 0
  wmax  : Nat := 0
  periods : Nat := 0
  entries : List Word := []
  units : List GUnit := []
  start : Nat := 0
  entry : Nat := 0
  entryFrom : Nat := 0
  seq   : Nat := 0
  stopping : Bool := false
  parking : Bool := false
  late_ : Bool := false
  gtUsed : Nat := 0
  rfUsed : Nat := 0
  gtFrom : Nat := 0
  spent : Bool := false
  window : List (Nat × List Byte) := []
  row   : Nat := 0x1FFC
  pst   : Nat := 0
  req   : Nat := 0
  parked : Bool := false
  pdref : Bool := false
  deriving DecidableEq, Repr

/-- A query held for another device, or sent to one for the waiter `who` (R433). -/
structure Query where
  id  : Nat
  dev : Nat
  tl  : Nat
  seq : Nat
  till : Nat
  sent : Bool
  who : Nat := 0
  deriving DecidableEq, Repr

/-- The answer that the waiter `who` had to a query: 1 satisfied, 2 failed, 3 AHEAD, with the failure mark or issue count. -/
structure Answer where
  who : Nat
  dev : Nat
  tl  : Nat
  seq : Nat
  status : Nat
  value : Nat
  deriving DecidableEq, Repr

/-- A Veneer message (R450, R453, R459, R465, R468): what a slot exchanges in JOIN (K, M and GID as in VGCTL; DLEN, member table and
coefficients as bytes) and whether an answer is asked for, a difference found in it, the end of the group; a delta with its parity-area
offset, round and parity row, its acknowledgement, the round messages, a VGLCR with the highest round opened, the coordinator's L,
its decision, a share. The messages of a resolve name the ranks dead in it (log 42). -/
inductive VMsg where
  | join (shape : Word) (rest : List Byte) (ask : Bool)
  | mismatch
  | dissolve
  | delta (off round row : Nat) (bytes : List Byte)
  | ack (off round : Nat)
  | prepared (round : Nat)
  | commit (round : Nat)
  | committed (round : Nat)
  | lcr (value opened : Nat) (dead : BitVec 20)
  | level (value opened : Nat) (dead : BitVec 20)
  | rolledback (dead : BitVec 20)
  | decision (rebuild : Bool) (level opened : Nat) (dead : BitVec 20)
  | share (stripe : Nat) (bytes : List Byte)
  | rebuilt
  deriving DecidableEq, Repr

/-- What a member of a route tells the others of its command: accepted, its wait over, its part done, failed (R437, R440). -/
inductive CollNews where
  | accepted | ready | part | failed
  deriving DecidableEq, Repr

/-- What has come of another member's command on a route (R437, R440): its rank, its place among the COLLs of the route since EN,
its control word, whether its wait is over and its part done, whether it has failed. -/
structure Peer where
  route : Nat
  rank  : Nat
  idx   : Nat
  ctl   : Word
  ready : Bool := false
  part  : Bool := false
  failed : Bool := false
  deriving DecidableEq, Repr

/-- What the part sends over the fabric; nothing in the part reads it (log 15). An answer's status is 0 not yet, 1 satisfied,
2 failed, 3 AHEAD; a report says that member `failed` has failed (R431); `blocks` are what a member's COLL at place `idx` of a route
receives of this part, with `norm` its s (R436, R439). -/
inductive Msg where
  | query (dev tl seq : Nat)
  | answer (dev tl seq status : Nat) (value : Word)
  | mark (stamp : Nat)
  | request (dev : Nat) (kind : OpKind)
  | data (dev : Nat) (bytes : List Byte)
  | failed (dev : Nat)
  | report (dev failed : Nat)
  | blocks (dev route idx : Nat) (norm : Bool) (bytes : List Byte)
  | row (dev target : Nat) (lanes : List Byte)
  | coll (dev route idx : Nat) (what : CollNews) (ctl : Word)
  | veneer (slot dev : Nat) (m : VMsg)
  deriving DecidableEq, Repr

/-- The fabric (R425–R434): live ports; of each member the time of its last mark and the stamp it carried; queries; answers; COLLs
accepted on each route since EN, by route for this part and by route + 64 × (rank + 1) for another member, and the commands of the
others; retries of a port's flit; what TSTAMP was moved forward; the operations, and as 2^60 + its number a launch's WS load, for which
other remote accesses wait after a port went down, and the ports that were live before (R428); messages sent. -/
structure Fabric where
  live    : BitVec 18 := 0
  marks   : List (Nat × Nat × Nat) := []
  queries : List Query := []
  answers : List Answer := []
  counts  : List (Nat × Nat) := []
  peers   : List Peer := []
  retries : List (Nat × Nat) := []
  step    : Nat := 0
  drain   : List Nat := []
  old     : BitVec 18 := 0
  sent    : List Msg := []
  deriving DecidableEq, Repr

/-- A log entry of the Veneer (R454): its channel, place in the ring, offset, round, delta, applied bit. -/
structure LogEntry where
  ch    : Nat
  pos   : Nat := 0
  off   : Nat
  round : Nat
  delta : List Byte
  applied : Bool := false
  deriving DecidableEq, Repr

/-- VGSTAT.STATE (R446). -/
inductive VState where
  | off | join | active | resolve | rollback | rebuild | degraded | lost
  deriving DecidableEq, Repr

/-- A group slot (R445–R472): VGSTAT's fields, VGOPEN, VGLCR, B; its copies of the region table (VRID, Q0, Q1) and of the member
table (device, power domain, cooling domain); its logs and the entries ever appended in each channel; the rounds sealed and
not decided, those for which PREPARED was sent, the deltas not acknowledged (round, parity-area offset); as coordinator the
messages collected (rank, round) or (rank, VGLCR, highest round opened) or the ranks rolled back, and the round below which no
COMMITTED is needed; L and the highest round opened in a resolve; the next stripe of a rebuild, as standby the shares that came
(rank, stripe, bytes) and the pin windows its service core took; in JOIN the ranks whose values have come and agree; the entries
of decided rounds still to be folded (true) or rolled back, and whether COMMITTED of VGLCR is still to be sent. -/
structure VSlot where
  state   : VState := .off
  crd     : Nat := 0
  cause   : BitVec 4 := 0
  sbnone  : Bool := true
  dead    : BitVec 20 := 0
  drop    : Nat := 0
  held    : List Nat := []
  vopen   : Nat := 0
  lcr     : Nat := 0
  base    : Nat := 0
  regions : List (Nat × Word × Word) := []
  members : List (Nat × Nat × Nat) := []
  dlog    : List LogEntry := []
  slog    : List LogEntry := []
  dcount  : List (Nat × Nat) := []
  scount  : List (Nat × Nat) := []
  sealed_ : List Nat := []
  sentPrep : List Nat := []
  unacked : List (Nat × Nat) := []
  prepared : List (Nat × Nat) := []
  committed : List (Nat × Nat) := []
  report  : List (Nat × Nat × Nat × BitVec 20) := []
  rolled  : List Nat := []
  owed    : List (Bool × LogEntry) := []
  owes    : Bool := false
  cbase   : Nat := 0
  level   : Nat := 0
  opened  : Nat := 0
  stripe  : Nat := 0
  joined  : List Nat := []
  shares  : List (Nat × Nat × List Byte) := []
  pinned  : List (Nat × Nat) := []
  deriving DecidableEq, Repr

/-- The service core (R502–R510): digest of the running image, the image under verification, whether one waits for reset, an
attestation under way. -/
structure Service where
  digest : BitVec 512 := 0
  image  : Option (List Byte) := none
  inFull : Bool := false
  next   : Option (Nat × BitVec 512) := none
  report : Option (List Byte) := none
  fatal  : Bool := false
  moving : Bool := false
  deriving DecidableEq, Repr

/-- A pin window (R353–R355); `gen` tells its present activation from earlier ones. -/
structure PinWin where
  die    : Nat
  win    : Nat
  status : Nat := 0
  fcnt   : Nat := 0
  lines  : List Nat := []
  gen    : Nat := 0
  deriving DecidableEq, Repr

/-- What acts at a time: a step of the part without an encoding and what it acts on (log 5). -/
structure Due where
  at_ : Nat
  ev  : Instr
  arg : EventArg
  deriving DecidableEq, Repr

/-- The stream scheduler: clusters whose kernel starts and ends the next round takes up (R174), interrupt requests pending and
the time of the last send, by vector (R105). -/
structure Sched where
  streams  : Vector StreamState 64
  launches : List Launch := []
  nextId   : Nat := 1
  claims   : List Claim := []
  service  : Option BufService := none
  starts   : List Nat := []
  ends     : List Nat := []
  ramps    : List Ramp := []
  frozen   : List Frozen := []
  pendIrq  : List (Nat × Nat) := []
  lastIrq  : List (Nat × Nat) := []
  deriving DecidableEq, Repr

/-- Everything outside the cores. `tick` counts half nanoseconds, `period` is the ticks of a core cycle (R180), `fresh` says that
the cores have not begun the cycle that starts at this tick, `agenda` is sorted by time, `io` the CXL.io registers that differ
from their reset value, `bad` the storage units that carry an uncorrectable error (R496), `rows` the open rows (R356), `usage` the
channel cycles or port bytes each class has used of the present budget period, by enforcer and class (R357), `shares` the shares
in force (R358), `hdm` the four HDM decoders (R443): host base, size, DPA; a size of 0 decodes nothing; `atoms` by line the tick
at which the last atomic there has its old value (R331). -/
structure Pack where
  tick   : Nat := 0
  period : Nat := 2
  fresh  : Bool := false
  agenda : List Due := []
  arg    : EventArg := {}
  io     : List (Nat × Word) := []
  mem    : Stores := {}
  bad    : List (Space × Nat) := []
  msc    : List MscLine := []
  tls    : List (Nat × Timeline) := []
  ops    : List Op := []
  board  : List BoardEntry := []
  opCtr  : Nat := 1
  freeCtr : Nat := 0
  sched  : Sched
  gouge  : List (Nat × Channel) := []
  fab    : Fabric := {}
  ven    : Vector VSlot 16
  svc    : Service := {}
  pins   : List PinWin := []
  shares : List (Nat × Word) := []
  rows   : List OpenRow := []
  usage  : List (Nat × Nat × Nat) := []
  hdm    : Vector (Nat × Nat × Nat) 4
  atoms  : List (Nat × Nat) := []
  deriving DecidableEq, Repr

/-- The scheduling rounds (R86), energy updates (R177) and budget periods (R357) begin with the time. -/
def Pack.reset : Pack where
  agenda := [⟨0, .schedulingRound, { n := 1 }⟩, ⟨2000, .enrgUpdate, {}⟩, ⟨20000, .budgetPeriod, {}⟩]
  sched := { streams := Vector.replicate 64 {} }
  ven := Vector.replicate 16 {}
  hdm := Vector.replicate 4 (0, 0, 0)

end Sys2Proof.Machine
end

