-- ==== Sys2Proof/Machine/State.lean ====
section
/-! DEFINITION. The state of the machine, how a run may stop, and reset. -/
namespace Sys2Proof.Machine
open Sys2Proof

/-- The machine: the context in focus, the other context of its core, the core, the cores still to be served in the present
half nanosecond and those already served, and the package. -/
structure State where
  ctx  : Ctx
  sib  : Ctx
  core : Core
  todo : List CoreBox
  past : List CoreBox
  pk   : Pack
  deriving DecidableEq, Repr

/-- How the machine stops. No fault of the manual stops it: each is taken by the context's handler (R473). -/
inductive Fault where
  /-- Raised by a step after a fatal error when no register write and no reset is due (R509): only reset leaves it. Safe: the
  machine does nothing further. -/
  | fatalService
  deriving DecidableEq, Repr

/-- An instruction without a meaning. -/
inductive Refusal where
  /-- Raised by an arm of `exec` that has no meaning yet. Safe: the run ends. -/
  | notModelled (mnemonic : String)
  deriving DecidableEq, Repr

/-- The part right after reset (R11, R34, R108, R169, R502, R503): every context idle, every register at its reset value or
at the value log 2 names. -/
def State.reset : State where
  ctx := Ctx.idle 0
  sib := Ctx.idle 1
  core := { num := 0 }
  todo := (List.range 255).map (fun i => CoreBox.idle (i + 1))
  past := []
  pk := Pack.reset

end Sys2Proof.Machine
end

