-- ==== Sys2Proof/Machine/Ops.lean ====
section
/-! DEFINITION. Named operations over memory, CXL.io registers, the registers of a context, timelines and time; taking an
exception and returning from one. -/
namespace Sys2Proof.Machine
open Sys2Proof

/-! ### Bytes and memory -/

/-- Strictly rising addresses and no listed zero (log 1). -/
def Memory.wfFrom : Nat → Memory → Bool
  | _, [] => true
  | lo, (a, b) :: m => decide (lo ≤ a) && b != 0 && Memory.wfFrom (a + 1) m
def Memory.wf (m : Memory) : Bool := Memory.wfFrom 0 m

/-- The byte at an address; 0 where nothing is listed (log 1). -/
def Memory.get : Memory → Nat → Byte
  | [], _ => 0
  | (a, b) :: m, x => if a = x then b else if x < a then 0 else Memory.get m x

/-- `n` bytes from `a` up, where nothing below `a` is listed. -/
def Memory.readFrom : Memory → Nat → Nat → List Byte
  | _, _, 0 => []
  | [], a, n + 1 => 0 :: Memory.readFrom [] (a + 1) n
  | (x, b) :: m, a, n + 1 => if x = a then b :: Memory.readFrom m (a + 1) n else 0 :: Memory.readFrom ((x, b) :: m) (a + 1) n
/-- `n` bytes from `a` up. -/
def Memory.read (m : Memory) (a n : Nat) : List Byte := Memory.readFrom (m.dropWhile (fun c => decide (c.1 < a))) a n

/-- The cells of bytes from `a` up; zeros are not listed. -/
def Memory.cells : Nat → List Byte → Memory
  | _, [] => []
  | a, b :: bs => if b = 0 then Memory.cells (a + 1) bs else (a, b) :: Memory.cells (a + 1) bs
/-- Bytes stored from `a` up. -/
def Memory.write (m : Memory) (a : Nat) (bs : List Byte) : Memory :=
  m.takeWhile (fun c => decide (c.1 < a)) ++ Memory.cells a bs ++ m.dropWhile (fun c => decide (c.1 < a + bs.length))

/-- Every byte from `lo` to `hi` − 1 set to zero. -/
def Memory.clear (m : Memory) (lo hi : Nat) : Memory := m.filter (fun c => decide (c.1 < lo) || decide (hi ≤ c.1))

/-- Little-endian value of bytes (R10). -/
def leNat : List Byte → Nat
  | [] => 0
  | b :: bs => b.toNat + 256 * leNat bs

/-- The low `n` bytes of a number, little-endian (R10). -/
def leBytes : Nat → Nat → List Byte
  | 0, _ => []
  | n + 1, x => BitVec.ofNat 8 x :: leBytes n (x / 256)

/-- Zero bytes added up to a length. -/
def padTo (n : Nat) (bs : List Byte) : List Byte := bs ++ List.replicate (n - bs.length) 0

def Stores.get (m : Stores) : Space → Memory
  | .dram => m.dram
  | .spad => m.spad
  | .ws => m.ws
  | .host => m.host
def Stores.set (m : Stores) (p : Space) (x : Memory) : Stores :=
  match p with
  | .dram => { m with dram := x }
  | .spad => { m with spad := x }
  | .ws => { m with ws := x }
  | .host => { m with host := x }
def Stores.read (m : Stores) (p : Piece) : List Byte := (m.get p.space).read p.addr p.len
def Stores.write (m : Stores) (sp : Space) (a : Nat) (bs : List Byte) : Stores := m.set sp ((m.get sp).write a bs)

/-! ### CXL.io registers -/

/-- Reset values that are not zero (R78, R87, R97, R173, R359, R388, R429, R446, R502); the others reset to 0. -/
def ioReset (off : Nat) : Word :=
  if off = 0x20000 then 0x10
  else if off = 0x20008 then 0x4E20
  else if 0x21000 ≤ off ∧ off < 0x22000 ∧ off % 0x40 = 8 then 0x3000000000000000
  else if off = 0x30008 then 0x64
  else if off = 0x30010 then 0x9C4
  else if 0x50000 ≤ off ∧ off < 0x52000 ∧ off % 0x20 = 0 then 0x0010_8020_0C10_200C
  else if 0x52000 ≤ off ∧ off < 0x52240 ∧ off % 0x20 = 0 then 0x0010_8000_0010_202C
  else if off = 0x71000 then 0xFF
  else if off = 0x73000 then 0x1000000000010000
  else if 0x80080 ≤ off ∧ off < 0x81000 ∧ off % 0x100 ≥ 0x80 then
    -- VGCOEF: the Cauchy matrix of R452, row (off/32)%4, eight columns
    let row := (off % 0x100 - 0x80) / 32
    let col := (off % 32)
    let tab : List (List Nat) :=
      [[0x47,0xA7,0x7A,0xBA,0xAD,0x9D,0xDD,0x98,0x3D,0xAA,0x5D,0x96,0xD8,0x72,0xC0,0x58,0xE0,0x3E,0x4C],
       [0xA7,0x47,0xBA,0x7A,0x9D,0xAD,0x98,0xDD,0xAA,0x3D,0x96,0x5D,0x72,0xD8,0x58,0xC0,0x3E,0xE0,0x66],
       [0x7A,0xBA,0x47,0xA7,0xDD,0x98,0xAD,0x9D,0x5D,0x96,0x3D,0xAA,0xC0,0x58,0xD8,0x72,0x4C,0x66,0xE0],
       [0xBA,0x7A,0xA7,0x47,0x98,0xDD,0x9D,0xAD,0x96,0x5D,0xAA,0x3D,0x58,0xC0,0x72,0xD8,0x66,0x4C,0x3E]]
    BitVec.ofNat 64 (leNat ((List.range 8).map (fun k => BitVec.ofNat 8 ((((tab[row]?).getD [])[col + k]?).getD 0))))
  else 0

def Pack.ioRd (k : Pack) (off : Nat) : Word := ((k.io.find? (fun e => e.1 == off)).map Prod.snd).getD (ioReset off)
def ioInsert (off : Nat) (v : Word) : List (Nat × Word) → List (Nat × Word)
  | [] => [(off, v)]
  | e :: es => if off < e.1 then (off, v) :: e :: es else if off = e.1 then (off, v) :: es else e :: ioInsert off v es
def Pack.ioWr (k : Pack) (off : Nat) (v : Word) : Pack :=
  let rest := k.io.filter (fun e => e.1 != off)
  { k with io := if v = ioReset off then rest else ioInsert off v rest }

/-- Bits [h:l] of a word as a number. -/
def bits (v : BitVec n) (h l : Nat) : Nat := v.toNat / 2 ^ l % 2 ^ (h + 1 - l)
/-- `v` with bits [h:l] replaced. -/
def setBits (v : Word) (h l x : Nat) : Word :=
  BitVec.ofNat 64 (v.toNat - bits v h l * 2 ^ l + (x % 2 ^ (h + 1 - l)) * 2 ^ l)

def csOff (n off : Nat) : Nat := 0x21000 + 0x40 * n + off
/-- Full service (R502). -/
def Pack.full (k : Pack) : Bool := bits (k.ioRd 0x73000) 63 60 == 2
def Pack.reduced (k : Pack) : Bool := bits (k.ioRd 0x73000) 63 60 == 1
/-- ISLSTAT of island `i` (R178–R180): 0 at reset, then the part's own figures (log 14), with a core island's clock and state by the
clock the cores run at, which a fatal error leaves as it was. -/
def Pack.islStat (k : Pack) (i : Nat) : Word :=
  let v := Config.island i k.tick
  let on := k.period == 1 || i / 16 % 16 == 0
  let core := decide (i < 512) && i % 2 == 0
  if k.tick = 0 then 0
  else BitVec.ofNat 64 (bits v 47 32 * 2 ^ 32 +
    (if core then (if !on then 0 else 2000 / k.period) else bits v 31 16) * 2 ^ 16 +
    (if core then on.toNat else bits v 1 0 % 3))
/-- VFSTAT of core `c`: its two islands (R179). -/
def Pack.vfstat (k : Pack) (c : Nat) : Word :=
  BitVec.ofNat 64 (bits (k.islStat (2 * c + 1)) 47 16 * 2 ^ 32 + bits (k.islStat (2 * c)) 47 16)
/-- The part's own device number (R398, R429). -/
def Pack.own (k : Pack) : Nat := bits (k.ioRd 0x71000) 7 0
def Pack.isMember (k : Pack) (d : Nat) : Bool := decide (d < 144) && bits (k.ioRd (0x71008 + 8 * (d / 64))) (d % 64) (d % 64) == 1
def Pack.devFailed (k : Pack) (d : Nat) : Bool := decide (d < 144) && bits (k.ioRd (0x71020 + 8 * (d / 64))) (d % 64) (d % 64) == 1

/-! ### Time -/

/-- TSTAMP in ns (R169, R430). -/
def Pack.tstamp (k : Pack) : Nat := k.tick / 2 + k.fab.step
def State.tstamp (s : State) : Nat := s.pk.tstamp
/-- TSTAMP in half nanoseconds. -/
def Pack.halves (k : Pack) : Nat := k.tick + 2 * k.fab.step

/-- The error log (R497); `ctx` is 0x1FF for an engine. -/
def Pack.logError (k : Pack) (kind ctx addr : Nat) : Pack :=
  let n := bits (k.ioRd 0x72000) 31 0
  let k := k.ioWr 0x72000 (BitVec.ofNat 64 ((n + 1) % 2 ^ 32))
  let k := k.ioWr 0x72008 (BitVec.ofNat 64 (kind * 2 ^ 60 + ctx % 512 * 2 ^ 51 + addr % 2 ^ 48))
  k.ioWr 0x72010 (BitVec.ofNat 64 k.tstamp)

/-- Puts an action on the agenda after those of the same time. -/
def agendaInsert (d : Due) : List Due → List Due
  | [] => [d]
  | e :: es => if d.at_ < e.at_ then d :: e :: es else e :: agendaInsert d es
def Pack.schedule (k : Pack) (delay : Nat) (ev : Instr) (arg : EventArg) : Pack :=
  { k with agenda := agendaInsert ⟨k.tick + delay, ev, arg⟩ k.agenda }
/-- Delay in core cycles of the present clock. -/
def Pack.scheduleCc (k : Pack) (cc : Nat) (ev : Instr) (arg : EventArg) : Pack := k.schedule (cc * k.period) ev arg

/-- A fresh unspecified word (log 7). -/
def State.free (s : State) : Word × State :=
  (Config.freeWord s.pk.freeCtr, { s with pk := { s.pk with freeCtr := s.pk.freeCtr + 1 } })

/-! ### Registers -/

/-- Scalar read; s0 reads 0 (R107). -/
def Regs.rs (g : Regs) (r : Nat) : Word := if r = 0 then 0 else (g.s[r]?).getD 0
def Regs.ra (g : Regs) (r : Nat) : Handle := (g.a[r]?).getD 0
/-- Predicate read; p0 reads true (R107). -/
def Regs.rp (g : Regs) (r : Nat) : Bool := if r = 0 then true else (g.p[r]?).getD false
def Regs.rv (g : Regs) (r : Nat) : VReg := (g.v[r]?).getD {}
def Regs.rd (g : Regs) (r : Nat) : BitVec 128 := (g.d[r]?).getD 0
/-- The top of the mask stack; all ones at depth 0 (R217). -/
def Regs.top (g : Regs) : BitVec 512 := g.k.headD (BitVec.allOnes 512)

def State.rs (s : State) (r : BitVec n) : Word := s.ctx.regs.rs r.toNat
def State.ra (s : State) (r : BitVec n) : Handle := s.ctx.regs.ra r.toNat
def State.rp (s : State) (r : BitVec n) : Bool := s.ctx.regs.rp r.toNat
def State.rv (s : State) (r : BitVec n) : VReg := s.ctx.regs.rv r.toNat
def State.rd (s : State) (r : BitVec n) : BitVec 128 := s.ctx.regs.rd r.toNat
def State.rm (s : State) (r : BitVec n) : Tile := (s.ctx.m[r.toNat]?).getD {}

/-- Offset and index of a handle (R55). -/
def hOff (h : Handle) : Nat := bits h 55 0
def hIdx (h : Handle) : Nat := bits h 71 56
def mkHandle (idx off : Nat) : Handle := BitVec.ofNat 72 (idx % 65536 * 2 ^ 56 + off % 2 ^ 56)

/-- A register write performed (R107: s0 and p0 discard; R188; R210; R222: the new mask entry is the old top and c). -/
def Regs.apply (g : Regs) : Wr → Regs
  | .s r x => if r = 0 then g else { g with s := g.s.setIfInBounds r x }
  | .a r x => { g with a := g.a.setIfInBounds r x }
  | .p r x => if r = 0 then g else { g with p := g.p.setIfInBounds r x }
  | .preds m x =>
    { g with p := Vector.ofFn (fun (i : Fin 16) => if i.val ≠ 0 ∧ m.getLsbD i.val then x.getLsbD i.val else g.p[i]) }
  | .v r x => { g with v := g.v.setIfInBounds r x }
  | .d r x => { g with d := g.d.setIfInBounds r x }
  | .mpush c => { g with k := (g.top &&& c) :: g.k }
  | .minv => match g.k with
    | [] => g
    | t :: ks => { g with k := (ks.headD (BitVec.allOnes 512) &&& ~~~t) :: ks }
  | .mpop => { g with k := g.k.drop 1 }
  | .stride r b =>
    let h := g.ra r
    { g with a := g.a.setIfInBounds r (mkHandle (hIdx h) ((hOff h : Int) + b.toInt).toNat) }
  | .none => g

def Regs.orFlags (g : Regs) (f : Flags) : Regs := { g with fstat := g.fstat ||| f }

def State.updCtx (s : State) (f : Ctx → Ctx) : State := { s with ctx := f s.ctx }
def State.updCore (s : State) (f : Core → Core) : State := { s with core := f s.core }
def State.updPk (s : State) (f : Pack → Pack) : State := { s with pk := f s.pk }
def State.updIss (s : State) (f : Iss → Iss) : State := { s with ctx := { s.ctx with iss := f s.ctx.iss } }
def State.updEnd (s : State) (f : BundleEnd → BundleEnd) : State :=
  s.updIss (fun i => { i with be := f i.be })

/-- A result of latency `lat`: written `lat` pipeline cycles after the present one, with its flags (R137, R47). -/
def State.put (s : State) (lat : Nat) (w : Wr) (f : Flags := 0) : State :=
  { s with ctx := { s.ctx with pend := s.ctx.pend ++ [{ due := s.core.cyc + lat, wr := w, flags := f }] } }
def State.putS (s : State) (d : BitVec 5) (lat : Nat) (x : Word) : State := s.put lat (.s d.toNat x)
def State.putP (s : State) (d : BitVec 5) (x : Bool) : State := s.put 1 (.p d.toNat x)
def State.putA (s : State) (d : BitVec 5) (x : Handle) : State := s.put 1 (.a d.toNat x)
/-- A vector result (R221: what its entry gives for tag and side store). -/
def State.putV (s : State) (d : BitVec 5) (lat : Nat) (x : VReg) (f : Flags := 0) : State := s.put lat (.v d.toNat x) f

/-! ### Outcomes of an instruction -/

/-- Why an instruction does not complete in this cycle: a fault it takes; one for an uncorrectable error it meets, which is logged
(R496, R497); a stall (R142); a stall until the port holds entry `idx` of the context's table (R331). -/
inductive Stop where
  | fault (r : FaultRec)
  | met (r : FaultRec)
  | stall
  | fetch (idx : Nat)
  deriving DecidableEq, Repr

abbrev Res := Except Stop State

/-- A fault record of the instruction at issue: its slot, pc and bundle length are those of the issue record. -/
def State.faultRec (s : State) (code cause : Nat) (reg : Nat := 0) (tval tval2 : Word := 0) (idx : Nat := 0) : FaultRec where
  code := BitVec.ofNat 8 code
  cause := BitVec.ofNat 4 cause
  slot := s.ctx.iss.slot.code
  reg := BitVec.ofNat 8 reg
  idx := BitVec.ofNat 16 idx
  tval := tval
  tval2 := tval2
  pc := s.ctx.iss.pc
  blen := s.ctx.iss.words

def failWith {α : Type} (r : FaultRec) : Except Stop α := .error (.fault r)

/-! ### Taking an exception -/

/-- The TCAUSE word of a record (R477). -/
def FaultRec.tcause (r : FaultRec) : Word :=
  r.code ++ r.cause ++ r.slot ++ (if r.defer then 1#1 else 0#1) ++ r.reg ++ 0#8 ++ r.idx ++ 0#16

def Csrs.inHandler (c : Csrs) : Bool := c.tstat.getLsbD 0
def Csrs.det (c : Csrs) : Bool := c.issctl.getLsbD 0
/-- The TSTAT word (R478). -/
def tstatWord (blen pend : Nat) (sdet held in_ : Bool) : Word :=
  BitVec.ofNat 64 (blen * 4096 + min pend 15 * 256 + sdet.toNat * 4 + held.toNat * 2 + in_.toNat)

def State.launchOf (s : State) (id : Nat) : Option Launch := s.pk.sched.launches.find? (fun l => l.id == id)

/-- A context that has ended or frozen may let its cluster's save go on (R99). -/
def State.noteEnd (s : State) : State :=
  if (s.launchOf s.ctx.launch).any (fun l => l.phase == .saving) then
    s.updPk (fun k => k.scheduleCc 1 .contextSaveDone { n := s.ctx.num })
  else s

/-- A context freezes (R484, R485): it issues nothing more, its results in flight and held snapshot are discarded, its stream
reports it. -/
def State.freeze (s : State) (cause : Nat) (pc : Dpa) (r : FaultRec) : State :=
  let st := ((s.launchOf s.ctx.launch).map Launch.stream).getD 64
  let fz : Frozen := ⟨st, s.ctx.launch, s.ctx.num, BitVec.ofNat 4 cause, pc, r.tcause⟩
  ({ s with
    ctx := { s.ctx with mode := .frozen (BitVec.ofNat 4 cause), pend := [], held := [], landed := [], undo := none,
                        faults := [], heldFaults := [], replay := false, resume := false }
    pk := { s.pk with sched := { s.pk.sched with frozen := s.pk.sched.frozen ++ [fz] } } } : State).noteEnd

/-- Results in flight with their remaining counts, as a trap entry or a yield captures them in cycle `f` (R481): those written
in this very cycle count 0. -/
def Ctx.capture (c : Ctx) (f : Nat) : List Pend :=
  c.landed.map (fun e => { e with due := 0 }) ++ (if c.resume then c.pend else c.pend.map (fun e => { e with due := e.due - f }))

/-- Without the first entry of a list that `f` picks. -/
def removeFirst {α : Type} (f : α → Bool) : List α → List α
  | [] => []
  | x :: xs => if f x then xs else x :: removeFirst f xs
/-- The faults that wait, without those of the landings that fell due in this very cycle: those stay in their entries (R482). -/
def Ctx.faultsKept (c : Ctx) : List FaultRec := c.faults.filter (fun r => !c.landed.any (fun p => p.err == some r))

/-- The registers as they were before the writes of the present cycle. -/
def Ctx.before (c : Ctx) : Regs := c.undo.getD c.regs

/-- The waiters that are no operations: a context's WWAIT, its WTEST, a stream's head record. -/
def waitOfCtx (n : Nat) : Nat := 2 ^ 50 + n
def testOfCtx (n : Nat) : Nat := 2 ^ 51 + n
def waitOfStream (n : Nat) : Nat := 2 ^ 52 + n
/-- A waiter gives up: its answers are used up, and what its queries would bring concerns no later wait (R399, R414). -/
def Pack.forget (k : Pack) (who : Nat) : Pack :=
  { k with fab := { k.fab with
    answers := k.fab.answers.filter (fun a => a.who != who || a.status == 1)
    queries := k.fab.queries.filter (fun q => !(q.sent && q.who == who)) } }

/-- Taking a fault or a TRAP in cycle f, the present one (R473, R479, R481, R484): without a handler, or in one, the context
freezes; else results due from f on are held, but for the landing whose fault this is, the trap CSRs are written, DET is cleared
and the handler's first bundle issues at f + 4 or after the drain. TPC is the bundle that did not issue. -/
def State.enterTrap (s : State) (r : FaultRec) : State :=
  let c := { s.ctx with landed := removeFirst (fun p => p.err == some r) s.ctx.landed }
  if c.csr.inHandler then s.freeze 2 r.pc r
  else if !c.csr.tvec.getLsbD 63 then s.freeze 4 r.pc r
  else
    let held := (if c.replay then c.held else []) ++ c.capture s.core.cyc
    { s with pk := s.pk.forget (waitOfCtx c.num), ctx := { c with
        mode := .entering
        pc := c.code + BitVec.ofNat 48 (bits c.csr.tvec 31 0)
        regs := c.before
        pend := [], landed := [], undo := none
        held := held
        replay := false
        resume := false
        heldLnu := c.lnu
        lnu := {}
        heldFaults := c.heldFaults ++ c.faultsKept
        faults := []
        owe := 0
        pptRec := none
        framed := false
        stallAt := none
        notBefore := s.core.cyc + 4
        drainAt := some s.core.cyc
        csr := { c.csr with
          tcause := r.tcause
          tval := r.tval
          tval2 := r.tval2
          tpc := c.pc.zeroExtend 64
          tfpc := r.pc.zeroExtend 64
          tstat := tstatWord r.blen (c.heldFaults.length + c.faultsKept.length) c.csr.det true true
          issctl := 0 } } }

/-- Return from the handler (R488): IN and HELD cleared, DET restored, the LNU resumed, the next bundle at TPC three cycles
on, the held entries replayed when it issues. -/
def State.returnFromTrap (s : State) : State :=
  let c := s.ctx
  { s with ctx := { c with
      pc := c.csr.tpc.setWidth 48
      lnu := c.heldLnu
      heldLnu := {}
      replay := true
      faults := c.faults ++ c.heldFaults
      heldFaults := []
      notBefore := s.core.cyc + 3
      framed := c.csr.tstat.getLsbD 2
      csr := { c.csr with
        issctl := if c.csr.tstat.getLsbD 2 then 1 else 0
        tstat := tstatWord (bits c.csr.tstat 15 12) 0 (c.csr.tstat.getLsbD 2) false false } } }

/-- The base of the context's buffer table (R57). -/
def Ctx.table (c : Ctx) : Nat := bits c.csr.btab 47 0
/-- The port asks for entry `idx` of the context's table, which it holds `cc` cycles on (R63, R331). -/
def State.fetchEntry (s : State) (idx cc : Nat) : State :=
  let mine (e : PortEntry) : Bool := e.launch == s.ctx.launch && e.table == s.ctx.table && e.idx == idx
  s.updCore (fun c => if c.entries.any mine then c else { c with entries := c.entries ++ [⟨c.age + cc, s.ctx.launch, s.ctx.table, idx⟩] })
/-- The port holds it. -/
def State.portHolds (s : State) (idx : Nat) : Bool :=
  s.core.entries.any (fun e => e.launch == s.ctx.launch && e.table == s.ctx.table && e.idx == idx && decide (e.ready ≤ s.core.age))
/-- Cycles an entry takes to reach the port (log 5). -/
def entryCycles : Nat := 180

/-- A fault is taken, and the bundle marked. -/
def State.takeFault (s : State) (r : FaultRec) : State := (s.enterTrap r).updIss (fun i => { i with fault := some r })
/-- The error that a fault is for is logged (R497). -/
def State.logMet (s : State) (r : FaultRec) : State := s.updPk (fun k => k.logError r.tval2.toNat s.ctx.num r.tval.toNat)
/-- The bundle is marked as stalled. -/
def State.markStall (s : State) : State := s.updIss (fun i => { i with stalled := true })
/-- How an instruction ends: done, or its fault taken with the bundle marked, or the bundle marked as stalled (R18, R142). -/
def deliver (s : State) : Res → Host.Outcome State Fault Refusal
  | .ok t => .next t
  | .error (.fault r) => .next (s.takeFault r)
  | .error (.met r) => .next ((s.logMet r).takeFault r)
  | .error .stall => .next s.markStall
  | .error (.fetch i) => .next (s.fetchEntry i entryCycles).markStall

/-- An instruction that can only complete. -/
def done (t : State) : Host.Outcome State Fault Refusal := .next t

/-! ### Timelines (R394, R403) -/

def Pack.tl (k : Pack) (id : Nat) : Timeline := ((k.tls.find? (fun e => e.1 == id)).map Prod.snd).getD {}
def tlInsert (id : Nat) (t : Timeline) : List (Nat × Timeline) → List (Nat × Timeline)
  | [] => [(id, t)]
  | e :: es => if id < e.1 then (id, t) :: e :: es else if id = e.1 then (id, t) :: es else e :: tlInsert id t es
def Pack.setTl (k : Pack) (id : Nat) (t : Timeline) : Pack := { k with tls := tlInsert id t k.tls }

/-- H moved over the completed operations (R394). -/
def advanceHead (t : Timeline) : Nat → Timeline
  | 0 => t
  | n + 1 => if t.above.contains (t.head + 1) then
      advanceHead { t with head := t.head + 1, above := t.above.filter (· != t.head + 1) } n
    else t
/-- The next operation is numbered (R394), `ord` its place among all numberings. -/
def Pack.number (k : Pack) (id ord : Nat) : Nat × Pack :=
  let t := k.tl id
  (t.iss + 1, k.setTl id { t with iss := t.iss + 1, open_ := t.open_ ++ [(t.iss + 1, k.tstamp, ord)] })
def Pack.completeOp (k : Pack) (id seq : Nat) : Pack :=
  let t := k.tl id
  let t := { t with above := seq :: t.above, open_ := t.open_.filter (fun e => e.1 != seq) }
  k.setTl id (advanceHead t t.above.length)
/-- A failed operation is complete and lowers FLO to its number (R403). -/
def Pack.failOp (k : Pack) (id seq : Nat) (owner : BitVec 16) : Pack :=
  let t := k.tl id
  let t := if t.flo = 0 ∨ seq < t.flo then { t with flo := seq, owner := owner } else t
  (k.setTl id t).completeOp id seq

/-- A point witness of this device (R397, R398). -/
def pointWit (tl seq : Nat) : Word :=
  BitVec.ofNat 64 (2 ^ 62 + 0xFF * 2 ^ 54 + tl % 4096 * 2 ^ 42 + seq % 2 ^ 42)

/-- Timelines of the context in focus (R395). -/
def State.tlL (s : State) : Nat := 2 * s.ctx.num
def State.tlG (s : State) : Nat := 2 * s.ctx.num + 1
def State.tlM (s : State) : Nat := 1024 + s.ctx.num
/-- Cluster of the core in focus, and its die (R4). -/
def State.cluster (s : State) : Nat := s.core.num / 8
def State.die (s : State) : Nat := s.core.num / 128
def State.ownId (s : State) : BitVec 16 := s.ctx.csr.ownid.setWidth 16

end Sys2Proof.Machine
end

