-- ==== Sys2Proof/Machine/Chan.lean ====
section
/-! DEFINITION. A channel of the near-bank units as seen from outside: its clock (R371), park areas and state window (R388–R390),
its registers (R385, R388, R391), and when its banks are open to ordinary traffic (R373, R375, R392). -/
namespace Sys2Proof.Machine
open Sys2Proof

def Pack.chan (k : Pack) (h : Nat) : Channel := ((k.gouge.find? (fun e => e.1 == h)).map Prod.snd).getD {}
def chanInsert (h : Nat) (c : Channel) : List (Nat × Channel) → List (Nat × Channel)
  | [] => [(h, c)]
  | e :: es => if h < e.1 then (h, c) :: e :: es else if h = e.1 then (h, c) :: es else e :: chanInsert h c es
def Pack.setChan (k : Pack) (h : Nat) (f : Channel → Channel) : Pack := { k with gouge := chanInsert h (f (k.chan h)) k.gouge }

/-- Storage of a cell from a DRAM die's view (R69, R361): die, bank, row, segment of the row. -/
def cellDram (c : Nat) : Nat × Nat × Nat × Nat := (c / 2 ^ 11 % 16, c / 2 ^ 7 % 16, c / 2 ^ 18 % 2 ^ 13, c / 2 ^ 15 % 8)

/-- Die and byte of the park areas that a cell of the channel falls in (R388). -/
def Channel.parkAt (c : Channel) (cell : Nat) : Option (Nat × Nat) :=
  let (d, b, r, g) := cellDram cell
  if b = 15 ∧ c.row ≤ r ∧ r < c.row + 4 then some (d, (r - c.row) * 1024 + g * 128 + cell % 128) else none
def Channel.area (c : Channel) (d : Nat) : List Byte := ((c.window.find? (fun e => e.1 == d)).map Prod.snd).getD []
/-- The channel, die and byte of a state window that a cell falls in (R390). -/
def Pack.windowAt (k : Pack) (cell : Nat) : Option (Nat × Nat × Nat) :=
  let h := cell / 2 ^ 31
  let c := k.chan h
  if c.state = .save then (c.parkAt cell).map (fun p => (h, p.1, p.2)) else none
/-- Bytes laid over the state window from byte `o` of die `d`. -/
def Pack.windowWrite (k : Pack) (h d o : Nat) (bs : List Byte) : Pack :=
  k.setChan h (fun c => { c with window := c.window.map (fun e =>
    if e.1 = d then (d, e.2.take o ++ bs ++ e.2.drop (o + bs.length)) else e) })

/-! ### The channel's time -/

/-- The channel cycle now: 8 to 5 ns of TSTAMP (R371). -/
def Pack.chCycle (k : Pack) : Nat := k.halves * 4 / 5
/-- The first channel cycle that starts now or later. -/
def Pack.chNext (k : Pack) : Nat := (k.halves * 4 + 4) / 5
/-- Ticks from now to the start of channel cycle `c`. -/
def Pack.ticksToCh (k : Pack) (c : Nat) : Nat := (5 * c + 3) / 4 - k.halves

def entKind (w : Word) : Nat := bits w 63 62
def entLen (w : Word) : Nat := bits w 15 0
/-- PER (R370). -/
def Channel.per (c : Channel) : Nat := (c.entries.map entLen).foldl (· + ·) 0
def Channel.entryWord (c : Channel) : Word := (c.entries[c.entry]?).getD 0
def Channel.entryEnd (c : Channel) : Nat := c.entryFrom + entLen c.entryWord
/-- Periods completed by channel cycle `cyc` of the run. -/
def Channel.periodsAt (c : Channel) (cyc : Nat) : Nat := (cyc - c.start) / max 1 c.per % 2 ^ 32
/-- In self-refresh, or on the way to it (R392). -/
def Channel.asleep (c : Channel) : Bool := c.pst == 1 || c.parking

/-! ### Registers -/

def gstateCode : GState → Nat
  | .empty => 0 | .loaded => 1 | .armed => 2 | .running => 3 | .done => 4 | .save => 5 | .error => 6
/-- GCHSTAT [55:51] as a number, LATE highest. -/
def Channel.flagBits (c : Channel) : Nat :=
  c.late.toNat * 16 + (c.flags.getLsbD 4).toNat * 8 + (c.flags.getLsbD 2).toNat * 4 + (c.flags.getLsbD 1).toNat * 2 + (c.flags.getLsbD 0).toNat
/-- GCHSTAT (R385). -/
def Pack.gchstat (k : Pack) (h : Nat) : Word :=
  let c := k.chan h
  let per := if c.state = .running then c.periodsAt k.chCycle else c.periods
  BitVec.ofNat 64 (gstateCode c.state * 2 ^ 60 + c.cause.toNat * 2 ^ 56 + c.flagBits * 2 ^ 51 + c.part.toNat * 2 ^ 50 +
    c.wmax % 2 ^ 16 * 2 ^ 32 + per)
/-- CHPWR (R391) and CHPARK (R388). -/
def Pack.chpwr (k : Pack) (h : Nat) : Word :=
  let c := k.chan h
  BitVec.ofNat 64 (c.pdref.toNat * 512 + c.parked.toNat * 256 + c.pst * 16 + c.req)
def Pack.chpark (k : Pack) (h : Nat) : Word := BitVec.ofNat 64 ((k.chan h).row)

/-- The share word in force of the enforcer at an offset (R358). -/
def Pack.shareOf (k : Pack) (off : Nat) : Word := ((k.shares.find? (fun e => e.1 == off)).map Prod.snd).getD (ioReset off)

/-! ### Access to the banks -/

/-- The channel cycles of this budget period that entries of a kind have taken, RUN as class GT and REF as class RF (R375). -/
def Pack.entryUse (k : Pack) (h kind : Nat) : Nat :=
  let c := k.chan h
  (if kind = 0 then c.gtUsed else c.rfUsed) +
    (if c.state = .running ∧ entKind c.entryWord = kind then k.chCycle - max c.entryFrom c.gtFrom else 0)
/-- GT has used its share of this budget period (R375): 16,000 channel cycles. -/
def Pack.gtOver (k : Pack) (h : Nat) : Bool :=
  decide (bits (k.shareOf (0x50000 + 0x20 * h)) 39 32 * 16000 ≤ 256 * k.entryUse h 0)
/-- The use of the present entry up to channel cycle `t` added to its kind's (R375). -/
def Channel.addUse (c : Channel) (t : Nat) : Channel :=
  let n := t - max c.entryFrom c.gtFrom
  let of (kind : Nat) : Nat := if entKind c.entryWord = kind then n else 0
  { c with gtUsed := c.gtUsed + of 0, rfUsed := c.rfUsed + of 2 }
/-- Ordinary traffic is served (R373, R392): in a RUNNING timetable up to 48 cycles before the end of an OPEN entry (log 5), or
in a RUN entry once GT has used its share while another class waited and no row pass runs (R375). -/
def Pack.banksOpen (k : Pack) (h : Nat) : Bool :=
  let c := k.chan h
  if c.pst = 1 then false
  else if c.state ≠ .running then true
  else (entKind c.entryWord == 1 && decide (k.chCycle + 48 < c.entryEnd)) ||
    (entKind c.entryWord == 0 && c.spent && !c.units.any GUnit.busy)
/-- The last 48 channel cycles of an OPEN entry (R373). -/
def Pack.lastOpen (k : Pack) (h : Nat) : Bool :=
  let c := k.chan h
  c.pst != 1 && c.state == .running && entKind c.entryWord == 1 && decide (k.chCycle < c.entryEnd)

end Sys2Proof.Machine
end

