-- ==== Sys2Proof/Machine/Flags.lean ====
section
/-! DEFINITION. Every flag computation in one place: saturating results with SA (R46, R184, R230, R239, R261). The flags of
rounded results are formed with the rounding itself, in Fp (R40, R46), and ORed into FSTAT when the result is written (R47). -/
namespace Sys2Proof.Machine
open Sys2Proof

/-- sat(x, f) on words of a format's width, SA when it clamps (R184, R230). -/
def satWord (f : Fmt) (x : Int) : Word × Flags :=
  let (c, fl) := satCode f x
  (BitVec.ofNat 64 c, fl)

/-- ADDS and SUBS (R183): M = 0 signed, M = 1 unsigned. -/
def satAdd (m : BitVec 2) (a b : Word) : Word × Flags :=
  if m = 0 then satWord .i64 (a.toInt + b.toInt) else satWord .n64 ((a.toNat : Int) + b.toNat)
def satSub (m : BitVec 2) (a b : Word) : Word × Flags :=
  if m = 0 then satWord .i64 (a.toInt - b.toInt) else satWord .n64 ((a.toNat : Int) - b.toNat)

/-- FSTAT after a CSRW or CSRS of `w`: each bit where `w` is 1 is cleared (W1C, R46, R192). -/
def clearFlags (f : Flags) (w : Word) : Flags := f &&& ~~~(w.setWidth 6)

/-- The flags of many lanes ORed (R47). -/
def orAll (l : List Flags) : Flags := l.foldl (· ||| ·) 0

end Sys2Proof.Machine
end

