-- ==== Sys2Proof/Machine/Operands.lean ====
section
/-! DEFINITION. Every operand form: immediates, displacements and landing offsets (R117, R301, R329), local and weight-store
addresses (R297, R298, R322), handles through the buffer table and their translation (R55–R70). -/
namespace Sys2Proof.Machine
open Sys2Proof

/-! ### Immediates and displacements -/

/-- The immediate of the immediate mould: the X word when XR names the slot, else B:M, sign-extended (R117, R186). -/
def State.imm (s : State) (i : BitVec 7) : Word :=
  match s.ctx.iss.x with
  | some x => x.signExtend 64
  | none => i.signExtend 64
/-- LIH takes 32 bits as they stand (R186). -/
def State.imm32 (s : State) (i : BitVec 7) : BitVec 32 :=
  match s.ctx.iss.x with
  | some x => x
  | none => i.signExtend 32
/-- A branch offset in words (R200). -/
def State.off {n : Nat} (s : State) (o : BitVec n) : Int :=
  match s.ctx.iss.x with
  | some x => x.toInt
  | none => o.toInt
/-- PC + 4 × OFF (R200). -/
def State.target {n : Nat} (s : State) (o : BitVec n) : Dpa :=
  BitVec.ofInt 48 ((s.ctx.iss.pc.toNat : Int) + 4 * s.off o)

/-- The L-slot displacement X[31:12] (R301). -/
def State.dispL (s : State) : Int :=
  match s.ctx.iss.x with
  | some x => (x.extractLsb' 12 20).toInt
  | none => 0
/-- The G-slot displacement: X[30:12], or an index scalar shifted (R329). -/
def State.dispG (s : State) : Int :=
  match s.ctx.iss.x with
  | some x =>
    if x.getLsbD 31 then (s.ctx.regs.rs (bits x 30 26)).toInt * 2 ^ bits x 25 24
    else (x.extractLsb' 12 19).toInt
  | none => 0
/-- X[11:0], or a default without an X word (R301, R329). -/
def State.xLow (s : State) (dflt : Nat) : Nat :=
  match s.ctx.iss.x with
  | some x => bits x 11 0
  | none => dflt
/-- Landing offset of the load mould (R300, R328). -/
def State.loK (s : State) (l : BitVec 5) : Nat := s.xLow (l.toNat + 1)
/-- Landing offset of a descriptor: sb[43:32], where 0 acts as 1 (R304). -/
def descK (d : Word) : Nat := max 1 (bits d 43 32)

/-- Bytes of a size code (R300). -/
def sizeOf (z : BitVec 2) : Nat := 2 ^ z.toNat
/-- Bytes of an atomic (R311). -/
def atomSize (z : BitVec 1) : Nat := if z = 0 then 4 else 8

/-! ### Tags -/

/-- Is a tag word well formed (R34)? -/
def tagOk (t : BitVec 32) : Bool :=
  (Fmt.ofCode (bits t 4 0)).isSome && gsAllowed (bits t 4 0) (bits t 7 5) && bits t 15 8 == 0 &&
    (bits t 31 16 == 0 || bits t 4 0 == 6)
def tagFmt (t : BitVec 32) : Option Fmt := if tagOk t then Fmt.ofCode (bits t 4 0) else none
/-- set_tag of an elementwise format (R221). -/
def tagOf (f : Fmt) : BitVec 32 := BitVec.ofNat 32 f.code
/-- FMT is Q8, Q4 or E2M1, so that side data belongs to it (R37, R304). -/
def tagScaled (t : BitVec 32) : Bool := 6 ≤ bits t 4 0 && bits t 4 0 ≤ 8

/-- The format fault on a register with its tag word (R34, R474). -/
def State.fmtFault (s : State) (reg : Nat) (tag : BitVec 32) : FaultRec := s.faultRec 0x06 0 reg (tag.setWidth 64)

/-- tag_check (R34). -/
def State.tagCheck (s : State) (reg : BitVec n) (f : Fmt) : Except Stop Unit :=
  if tagFmt (s.rv reg).tag = some f then .ok () else failWith (s.fmtFault reg.toNat (s.rv reg).tag)
/-- A well-formed tag of a format the entry allows. -/
def State.tagIn (s : State) (reg : BitVec n) (ok : Fmt → Bool) : Except Stop Fmt :=
  match tagFmt (s.rv reg).tag with
  | some f => if ok f then .ok f else failWith (s.fmtFault reg.toNat (s.rv reg).tag)
  | none => failWith (s.fmtFault reg.toNat (s.rv reg).tag)

/-! ### Local and weight-store addresses -/

def State.bgm (s : State) : Nat := bits s.ctx.csr.place 63 48
/-- The first byte of a range that lies outside the owned bank groups (R298 GROUP). -/
def firstOutside (bgm lo hi : Nat) : Option Nat :=
  ((List.range 16).map (fun g => (g, max lo (g * 2 ^ 18)))).findSome? (fun (g, a) =>
    if a < hi ∧ a < (g + 1) * 2 ^ 18 ∧ !bgm.testBit g then some a else none)

/-- Why a local range fails, with the first failing address (R298): EDGE before GROUP before ALIGN. -/
def State.localBad (s : State) (ea : Int) (n align : Nat) : Option (Nat × Word) :=
  if n = 0 then none
  else if ea < 0 then some (2, BitVec.ofInt 64 ea)
  else if ea.toNat + n > 2 ^ 22 then some (2, BitVec.ofNat 64 (max ea.toNat (2 ^ 22)))
  else match firstOutside s.bgm ea.toNat (ea.toNat + n) with
    | some a => some (1, BitVec.ofNat 64 a)
    | none => if ea.toNat % align ≠ 0 then some (3, BitVec.ofInt 64 ea) else none
def State.localCheck (s : State) (ea : Int) (n : Nat) (align : Nat := 1) : Except Stop Nat :=
  match s.localBad ea n align with
  | some (c, a) => failWith (s.faultRec 0x13 c 0 a)
  | none => .ok ea.toNat
/-- Lanes: the first cause in the order EDGE, GROUP, and for it the lowest lane (R298). -/
def State.lanesCheck (s : State) (eas : List Int) (n : Nat) : Except Stop (List Nat) :=
  let bad := eas.filterMap (fun e => s.localBad e n 1)
  match bad.find? (·.1 == 2), bad.head? with
  | some (c, a), _ => failWith (s.faultRec 0x13 c 0 a)
  | none, some (c, a) => failWith (s.faultRec 0x13 c 0 a)
  | none, none => .ok (eas.map Int.toNat)

/-- A WS range within the launch's window (R322): EDGE past the 29-bit space, else WSWIN. -/
def State.wsCheck (s : State) (ea : Int) (n : Nat) : Except Stop Nat :=
  let lo := s.ctx.wsbase
  let hi := s.ctx.wsbase + s.ctx.wslen
  if n = 0 then .ok ea.toNat
  else if ea < 0 then failWith (s.faultRec 0x13 2 0 (BitVec.ofInt 64 ea))
  else if ea.toNat < lo then failWith (s.faultRec 0x13 4 0 (BitVec.ofInt 64 ea))
  else if ea.toNat + n > hi then failWith (s.faultRec 0x13 4 0 (BitVec.ofNat 64 (max ea.toNat hi)))
  else .ok ea.toNat

/-- WSRW as the service core sets it (R324). -/
def wsrw : Word := 0x9600_04B0_0000

def State.spadPiece (s : State) (a n : Nat) : Piece := ⟨.spad, s.cluster * 2 ^ 22 + a, n⟩
def State.wsPiece (s : State) (a n : Nat) : Piece := ⟨.ws, s.die * 2 ^ 29 + a, n⟩

/-! ### DPAs and cells (R67–R70) -/

/-- Channel byte address of the interleaved window for the cell a bank-linear address names (R69). -/
def bankToInter (ca : Nat) : Nat :=
  ca % 2 ^ 7 + (ca / 2 ^ 23 % 2 ^ 4) * 2 ^ 7 + (ca / 2 ^ 27 % 2 ^ 4) * 2 ^ 11 + (ca / 2 ^ 7 % 2 ^ 3) * 2 ^ 15 +
    (ca / 2 ^ 10 % 2 ^ 13) * 2 ^ 18
/-- The bank-linear address of the cell that an interleaved one names. -/
def interToBank (ca : Nat) : Nat :=
  ca % 2 ^ 7 + (ca / 2 ^ 15 % 2 ^ 3) * 2 ^ 7 + (ca / 2 ^ 18 % 2 ^ 13) * 2 ^ 10 + (ca / 2 ^ 7 % 2 ^ 4) * 2 ^ 23 +
    (ca / 2 ^ 11 % 2 ^ 4) * 2 ^ 27
/-- The cell address: channel and interleaved channel address, whichever window names it. -/
def cellOf (win ch ca : Nat) : Nat := ch % 256 * 2 ^ 31 + (if win = 1 then bankToInter (ca % 2 ^ 31) else ca % 2 ^ 31)
/-- The cell of a DPA (R67). -/
def dpaCell (d : Nat) : Nat := cellOf (d / 2 ^ 40 % 256) (d / 2 ^ 31 % 256) d
/-- Channel, stack and storage die of a cell (R3, R4). -/
def cellCh (c : Nat) : Nat := c / 2 ^ 31
def cellDie (c : Nat) : Nat := c / 2 ^ 31 / 128

/-! ### Bytes at the home (R61, R70) -/

def Pack.mscLine (k : Pack) (line : Nat) : Option MscLine := k.msc.find? (fun l => l.line == line)
/-- `n` bytes of one line as a reader at the home sees them: the state window (R390), then the MSC, a spent entry aside. -/
def Pack.chunkRead (k : Pack) (c n : Nat) : List Byte :=
  match k.windowAt c with
  | some (h, d, o) => padTo n ((((k.chan h).area d).drop o).take n)
  | none =>
    match k.mscLine (c / 128 * 128) with
    | some l => if l.spent then k.mem.dram.read c n else padTo n ((l.bytes.drop (c % 128)).take n)
    | none => k.mem.dram.read c n
/-- One byte. -/
def Pack.homeByte (k : Pack) (c : Nat) : Byte := (k.chunkRead c 1).headD 0
def Pack.homeReadGo (k : Pack) : Nat → Nat → Nat → List Byte
  | 0, _, _ => []
  | fuel + 1, c, n =>
    if n = 0 then []
    else
      let m := min n (128 - c % 128)
      k.chunkRead c m ++ k.homeReadGo fuel (c + m) (n - m)
/-- `n` bytes from a cell up. -/
def Pack.homeRead (k : Pack) (c n : Nat) : List Byte := k.homeReadGo (n / 128 + 2) c n
/-- Bytes at a DPA of the interleaved window, as the scheduler, the fetch and the part's own tables read them. -/
def Pack.dpaRead (k : Pack) (d n : Nat) : List Byte := k.homeRead (dpaCell d) n
def Pack.dpaWord (k : Pack) (d : Nat) : Word := BitVec.ofNat 64 (leNat (k.dpaRead d 8))
/-- `n` words at a DPA. -/
def Pack.dpaWords (k : Pack) (d n : Nat) : List Word := (List.range n).map (fun i => k.dpaWord (d + 8 * i))
def wordAt (w : List Word) (i : Nat) : Word := (w[i]?).getD 0

/-! ### Uncorrectable errors -/

def unitOf : Space → Nat
  | .dram => 32
  | .ws => 32
  | .spad => 8
  | .host => 1

/-- UEADDR.KIND of a store (R497). -/
def kindOf : Space → Nat
  | .dram => 1
  | .ws => 3
  | .spad => 4
  | .host => 0

/-- The units of a piece that carry an error, lowest first. -/
def Pack.badUnit (k : Pack) (p : Piece) : Option Nat :=
  let u := unitOf p.space
  ((k.bad.filter (fun b => b.1 == p.space && decide (p.addr < b.2 + u) && decide (b.2 < p.addr + p.len))).map Prod.snd).min?

/-- A write clears the error of every unit it covers whole (R496). -/
def Pack.clearBad (k : Pack) (p : Piece) : Pack :=
  { k with bad := k.bad.filter (fun b => !(b.1 == p.space && decide (p.addr ≤ b.2) && decide (b.2 + unitOf p.space ≤ p.addr + p.len))) }

/-- The sectors of a line that a piece of it touches. -/
def Piece.sectorsOf (p : Piece) : List Nat :=
  (List.range 4).filter (fun i => decide (p.addr % 128 < i * 32 + 32) && decide (i * 32 < p.addr % 128 + p.len))

/-- UEADDR.KIND and address of the error a read of a piece meets (R496): in the MSC where the error arose there. -/
def Pack.readError (k : Pack) (p : Piece) : Option (Nat × Nat) :=
  let stored := (k.badUnit p).map (fun a => (kindOf p.space, max a p.addr))
  if p.space = .dram ∧ (k.windowAt p.addr).isSome then none
  else if p.space = .dram then
    match k.mscLine (p.addr / 128 * 128) with
    | some l =>
      if l.spent then stored
      else (p.sectorsOf.find? (fun i => l.bad.contains i || l.lost.contains i)).map
        (fun i => (if l.bad.contains i then 2 else 1, max p.addr (l.line + i * 32)))
    | none => stored
  else stored

/-- The sectors from cell `c` up to `c + n` whose read meets an error. -/
def Pack.badSectors (k : Pack) (c n : Nat) : List Nat :=
  (((k.bad.filter (fun b => b.1 == .dram)).map Prod.snd ++ k.msc.flatMap (fun l => (l.bad ++ l.lost).map (fun i => l.line + 32 * i))).filter
    (fun x => decide (x < c + n) && decide (c < x + 32) && (k.readError ⟨.dram, x, 32⟩).isSome)).dedup

/-- The errors of such sectors logged as an engine's (R497). -/
def Pack.logSectors (k : Pack) (l : List Nat) : Pack :=
  l.foldl (fun (j : Pack) x => match k.readError ⟨.dram, x, 32⟩ with
    | some e => j.logError e.1 0x1FF e.2
    | none => j) k
/-- The errors that a read of the part itself at a DPA meets. -/
def Pack.dpaBad (k : Pack) (d n : Nat) : List Nat := k.badSectors (dpaCell d) n

def Pack.rangeError (k : Pack) (r : List Piece) : Option (Nat × Nat) := r.findSome? k.readError

/-! ### The buffer table -/

/-- A buffer-table entry (R58). -/
structure BufEntry where
  vrid  : Nat
  owner : Nat
  devn  : Nat
  rights : Nat
  cgb   : Nat
  cgn   : Nat
  gran  : Nat
  win   : Nat
  tier  : Nat
  cp    : Nat
  ms    : Bool
  res   : Bool
  limit : Nat
  base  : Nat
  resv  : Bool
  deriving DecidableEq, Repr

def decodeEntry (x : Nat) : BufEntry where
  vrid := x / 2 ^ 240 % 2 ^ 12
  owner := x / 2 ^ 224 % 2 ^ 16
  devn := x / 2 ^ 216 % 2 ^ 8
  rights := x / 2 ^ 184 % 2 ^ 8
  cgb := x / 2 ^ 176 % 2 ^ 8
  cgn := x / 2 ^ 172 % 2 ^ 4
  gran := x / 2 ^ 168 % 2 ^ 4
  win := x / 2 ^ 166 % 4
  tier := x / 2 ^ 164 % 4
  cp := x / 2 ^ 162 % 4
  ms := x / 2 ^ 161 % 2 == 1
  res := x / 2 ^ 160 % 2 == 1
  limit := x / 2 ^ 64 % 2 ^ 56
  base := x % 2 ^ 64
  resv := x / 2 ^ 252 % 16 != 0 || x / 2 ^ 192 % 2 ^ 24 != 0 || x / 2 ^ 120 % 2 ^ 40 != 0 || x / 2 ^ 191 % 2 != 0

def rRD : Nat := 1
def rWR : Nat := 2
def rAT : Nat := 4
def rCS : Nat := 8
def rCD : Nat := 16
def rGG : Nat := 32
def rEM : Nat := 64
def hasRights (e : BufEntry) (need : Nat) : Bool := e.rights &&& need == need

def BufEntry.granule (e : BufEntry) : Nat := 128 * 2 ^ e.gran
def BufEntry.span (e : BufEntry) : Nat := (e.limit + e.granule * 2 ^ e.cgn - 1) / (e.granule * 2 ^ e.cgn) * e.granule

/-- The region copy an enabled slot holds (R448). -/
def Pack.region (k : Pack) (vrid : Nat) : Option (Word × Word) :=
  (k.ven.toList.flatMap VSlot.regions |>.find? (fun r => r.1 == vrid)).map Prod.snd
/-- R448: the entry's channels are the region's and its footprint stays in the region's cells. -/
def Pack.regionFits (k : Pack) (e : BufEntry) : Bool :=
  match k.region e.vrid with
  | some (q0, q1) =>
    bits q0 63 63 == 1 && bits q0 55 48 == e.cgb && bits q0 47 44 == e.cgn &&
    decide (bits q1 50 32 * 4096 ≤ e.base) && decide (e.base + e.span ≤ (bits q1 50 32 + bits q1 18 0) * 4096)
  | none => false

/-- Well-formedness of an entry (R59, R448, R503). -/
def Pack.entryOk (k : Pack) (e : BufEntry) : Bool :=
  !e.resv && (e.devn < 144 || e.devn == 255) && e.cgn ≤ 8 && e.gran ≤ 7 && e.win ≤ 1 && e.tier ≥ 2 && e.cp ≤ 2 &&
  (if e.tier = 2 then
    e.base % e.granule == 0 && e.base < 2 ^ 31 && e.cgb % 2 ^ e.cgn == 0 && e.cgb + 2 ^ e.cgn ≤ 256 &&
    e.base + e.span ≤ 2 ^ 31 && (!e.ms || e.cp == 2) &&
    (e.vrid == 0 || (e.ms && e.devn == 255 && e.win == 0 && k.regionFits e)) &&
    (!k.reduced || (e.cgb + 2 ^ e.cgn ≤ 32 && e.devn == 255))
  else
    e.base % 4096 == 0 && e.cgb == 0 && e.cgn == 0 && e.gran == 0 && e.win == 0 && e.cp == 0 && !e.ms && e.vrid == 0 &&
    e.devn == 255)

/-- Slot `i` of the table at `base` (R57). -/
def Pack.entryAt (k : Pack) (base i : Nat) : BufEntry := decodeEntry (leNat (k.dpaRead (base + 32 * i) 32))

/-- The checks of R64 in their order, giving R65's cause. `held` is an index held by the buffer service. -/
def Pack.handleBad (k : Pack) (btab : Word) (owner : Nat) (idx : Nat) (o : Int) (n need : Nat) (copy : Bool) : Option Nat :=
  if idx = 0 then some 1
  else if idx > bits btab 63 48 then some 2
  else
    let e := k.entryAt (bits btab 47 0) idx
    let held := match k.sched.service with
      | some b => b.migrate && b.idx == idx && b.table == bits btab 47 0
      | none => false
    if e.tier = 0 then some 3
    else if !k.entryOk e then some 4
    else if e.owner ≠ 0xFFFF ∧ e.owner ≠ owner then some 5
    else if !e.res || held then some 6
    else if e.tier = 3 ∧ !copy then some 7
    else if !hasRights e need then some 8
    else if o < 0 ∨ o + n > e.limit then some 9
    else none

/-- The cells of offsets o to o + n − 1, in parts that stay in one 128-byte line (R66, R68). -/
def cellPieces (e : BufEntry) : Nat → Nat → Nat → List Piece
  | 0, _, _ => []
  | fuel + 1, o, n =>
    if n = 0 then []
    else
      let m := min n (128 - o % 128)
      let g := e.granule
      let j := o / g
      let ch := e.cgb + j % 2 ^ e.cgn
      let ca := e.base + j / 2 ^ e.cgn * g + o % g
      ⟨.dram, cellOf e.win ch ca, m⟩ :: cellPieces e fuel (o + m) (n - m)

/-- `n` cells from `a` up in parts that stay in one line. -/
def linePieces : Nat → Nat → Nat → List Piece
  | 0, _, _ => []
  | fuel + 1, a, n => if n = 0 then [] else let m := min n (128 - a % 128); ⟨.dram, a, m⟩ :: linePieces fuel (a + m) (n - m)

/-- The range of an access that passed R64. -/
def entryRange (e : BufEntry) (o n : Nat) : Range :=
  if e.tier = 3 then ⟨[⟨.host, e.base + o, n⟩], {}, o⟩
  else ⟨cellPieces e (n / 128 + 2) o n, ⟨BitVec.ofNat 8 e.devn, BitVec.ofNat 2 e.cp, e.ms, BitVec.ofNat 12 e.vrid, 1, e.win == 1⟩, o⟩

/-- Slot `i` of the table at `base` as a place. -/
def entryPiece (base i : Nat) : Piece := ⟨.dram, dpaCell (base + 32 * i), 32⟩
/-- An index of the context's table that has an entry to be read (R57). -/
def State.hasEntry (s : State) (i : Nat) : Bool := i != 0 && decide (i ≤ bits s.ctx.csr.btab 63 48)
/-- A handle access at effective offset `o` (R56, R63, R64): the wait for the entry, the error that reading it meets (R496), the fault
with index, effective offset and handle offset (R474), or the entry. -/
def State.accessEntry (s : State) (reg : Nat) (h : Handle) (o : Int) (n need : Nat) (copy : Bool := false) : Except Stop BufEntry :=
  if s.hasEntry (hIdx h) ∧ !s.portHolds (hIdx h) then .error (.fetch (hIdx h))
  else match (if s.hasEntry (hIdx h) then s.pk.readError (entryPiece s.ctx.table (hIdx h)) else none) with
  | some e => .error (.met (s.faultRec 0x1E 0 reg (BitVec.ofNat 64 e.2) (BitVec.ofNat 64 e.1)))
  | none =>
    match s.pk.handleBad s.ctx.csr.btab s.ownId.toNat (hIdx h) o n need copy with
    | some c => failWith (s.faultRec (if c = 9 then 0x08 else 0x07) c reg (BitVec.ofInt 64 o) (BitVec.ofNat 64 (hOff h)) (hIdx h))
    | none => .ok (s.pk.entryAt s.ctx.table (hIdx h))
/-- The range of such an access. -/
def State.access (s : State) (reg : Nat) (h : Handle) (o : Int) (n need : Nat) (copy : Bool := false) : Except Stop Range :=
  (s.accessEntry reg h o n need copy).map (fun e => entryRange e o.toNat n)

/-- The access of register `a` at displacement `d`. -/
def State.accessReg (s : State) (a : BitVec n) (d : Int) (len need : Nat) (copy : Bool := false) : Except Stop Range :=
  s.access a.toNat (s.ra a) ((hOff (s.ra a) : Int) + d) len need copy

def Range.len (r : Range) : Nat := r.pieces.foldl (fun t p => t + p.len) 0

end Sys2Proof.Machine
end

