-- ==== Sys2Proof/Machine/Elems.lean ====
section
/-! DEFINITION. Elements of payloads: packing (R36, R245), and element values with group, block and tensor scales (R28–R30,
R37). -/
namespace Sys2Proof.Machine
open Sys2Proof

/-- Codes of `w` bits, element 0 lowest. -/
def packW (w : Nat) : List Nat → Nat
  | [] => 0
  | x :: xs => x % 2 ^ w + 2 ^ w * packW w xs
def unpackW (w n x : Nat) : List Nat := (List.range n).map (fun i => x / 2 ^ (w * i) % 2 ^ w)
/-- Codes of `w` bits in a row of bytes (R36, R248). -/
def byteCodes (w : Nat) (bs : List Byte) : List Nat := unpackW w (8 * bs.length / w) (leNat bs)

/-- The elements of a tile, row by row (R245). -/
def Tile.elems (t : Tile) : List Nat := unpackW 32 4096 t.pay.toNat
def Tile.of (tag : Nat) (l : List Nat) : Tile := ⟨BitVec.ofNat 131072 (packW 32 l), BitVec.ofNat 32 tag⟩

/-- The elements of a vector payload in a format, 2048 / width of them (R36). -/
def vecCodes (f : Fmt) (pay : BitVec 2048) : List Nat := unpackW f.width (2048 / f.width) pay.toNat
def vecPay (w : Nat) (l : List Nat) : BitVec 2048 := BitVec.ofNat 2048 (packW w l)

/-- Group or block length of a size code (R33). -/
def groupLen (gs : Nat) : Nat :=
  match gs with
  | 1 => 32 | 2 => 64 | 3 => 128 | 4 => 8 | 5 => 16 | 6 => 32 | _ => 1

/-- A Q element (R28): an F16 scale and a zero point. -/
def qValue (code scale zp : Nat) : Val := Val.qprod ((code : Int) - zp) [decodeFloat .f16 scale]
/-- The tensor scale of a tag or record: 0x0000 acts as 1 (R31). -/
def tensorScale (ts : Nat) : Val := if ts = 0 then .fin false 1 0 else decodeFloat .bf16 ts
/-- An E2M1 element (R29). -/
def blockValue (code scale ts : Nat) : Val := Val.prod [decodeFloat .e2m1 code, decodeFloat .e5m2 scale, tensorScale ts]

end Sys2Proof.Machine
end

