-- ==== Sys2Proof/Machine/Wait.lean ====
section
/-! DEFINITION. Witnesses: their fields, checks, satisfaction and merges (R397–R405), and the gate an outstanding operation
waits at (R307, R346, R378, R417). -/
namespace Sys2Proof.Machine
open Sys2Proof

def witK (w : Word) : Nat := bits w 63 62
def witDev (w : Word) : Nat := bits w 61 54
def witTl (w : Word) : Nat := bits w 53 42
def witSeq (w : Word) : Nat := bits w 41 0
def witStamp (w : Word) : Nat := bits w 53 0

/-- The number congruent to `x` mod 2^m in (ref − 2^(m−1), ref + 2^(m−1)] (R400, R402). -/
def nearest (m x : Nat) (ref : Int) : Int :=
  let lo := ref - 2 ^ (m - 1) + 1
  lo + ((x : Int) - lo) % 2 ^ m

/-- A horizon (R397). -/
def horizon (dev : Nat) (stamp : Int) : Word := BitVec.ofNat 64 (2 ^ 63 + dev % 256 * 2 ^ 54 + (stamp % 2 ^ 54).toNat)

/-- DEV names this device (R398). -/
def Pack.isLocal (k : Pack) (d : Nat) : Bool := d == 0xFF || d == k.own
/-- Is a timeline a command stream's (R395, R401)? -/
def isStreamTl (t : Nat) : Bool := 1536 ≤ t && t < 1600

/-- The cause of witness-format, if any (R399). -/
def Pack.witFormat (k : Pack) (w : Word) : Option Nat :=
  if witK w = 0 then none
  else if witK w = 3 then some 1
  else if (144 ≤ witDev w ∧ witDev w ≤ 253) ∨ (witK w = 1 ∧ witDev w = 0xFE) ∨
      (witDev w < 144 ∧ witDev w ≠ k.own ∧ !k.isMember (witDev w)) then some 2
  else if witK w = 1 ∧ 2576 ≤ witTl w then some 3
  else none

/-- How a witness stands: satisfied, not yet, or the fault its wait raises (code, cause, TVAL2). -/
inductive WitState where
  | ok
  | wait
  | bad (code cause : Nat) (tval2 : Word)
  deriving DecidableEq, Repr

/-- The number a point names on its timeline (R400). -/
def Timeline.pointNum (t : Timeline) (seq : Nat) : Int := nearest 42 seq t.iss

/-- AHEAD of a local point, by the issue count (R399, R400). -/
def Pack.witAhead (k : Pack) (w : Word) : Option WitState :=
  let t := k.tl (witTl w)
  if witK w = 1 ∧ k.isLocal (witDev w) ∧ t.pointNum (witSeq w) > t.iss then some (.bad 0x16 1 (BitVec.ofNat 64 t.iss)) else none

/-- A local point (R400, R403). -/
def Pack.localPoint (k : Pack) (w : Word) : WitState :=
  let t := k.tl (witTl w)
  let n := t.pointNum (witSeq w)
  if n > t.iss then .bad 0x16 1 (BitVec.ofNat 64 t.iss)
  else if n ≤ (t.iss : Int) - 2 ^ 40 then .ok
  else if (t.head : Int) ≥ n then
    if t.flo ≠ 0 ∧ (t.flo : Int) ≤ n then .bad 0x17 1 (BitVec.ofNat 64 t.flo) else .ok
  else .wait

def Answer.isFor (a : Answer) (w : Word) : Bool := a.dev == witDev w && a.tl == witTl w && a.seq == witSeq w

/-- A point of another device (R431, R433): satisfied once an answer has said so, which stays true. What else an answer says
concerns the wait that asked (`answerTo`). -/
def Pack.remotePoint (k : Pack) (w : Word) : WitState :=
  if k.devFailed (witDev w) then .bad 0x17 2 (BitVec.ofNat 64 (witDev w))
  else if k.fab.answers.any (fun a => a.status == 1 && a.isFor w) then .ok else .wait
/-- What the answer to the waiter `who` raises (R399, R433): the point has failed, or lies AHEAD. -/
def Pack.answerTo (k : Pack) (who : Nat) (w : Word) : Option WitState :=
  if witK w = 1 then
    (k.fab.answers.find? (fun a => a.who == who && a.status != 1 && a.isFor w)).map
      (fun a => .bad (if a.status = 2 then 0x17 else 0x16) 1 (BitVec.ofNat 64 a.value))
  else none
/-- Its answer for one point is used up: a later test asks anew (R415). -/
def Pack.forgetPoint (k : Pack) (who : Nat) (w : Word) : Pack :=
  { k with fab := { k.fab with answers := k.fab.answers.filter (fun a => a.who != who || a.status == 1 || !a.isFor w) } }

/-- Every operation of this device that a horizon with stamp `s` covers is complete (R401). Without `cut` the covered set is
closed only at s + 8; with it, only operations numbered before the command or record that waits, by its place in the order of
numberings and its TSTAMP. -/
def Pack.localHorizon (k : Pack) (s : Int) (cut : Option (Nat × Nat)) : Bool :=
  (match cut with
   | some _ => true
   | none => decide (s + 8 ≤ (k.tstamp : Int))) &&
  k.tls.all (fun e => isStreamTl e.1 || e.2.open_.all (fun o =>
    !(decide ((o.2.1 : Int) < s + 8) && (match cut with
      | some c => decide (o.2.2 < c.1)
      | none => true))))

/-- The stamp up to which another device's completion mark must reach (R401, R410, R430): s + 8; for the wait of a command or
record, no further than its own TSTAMP, by which the numberings of two devices are told apart (log 71). -/
def markNeed (s : Int) (cut : Option (Nat × Nat)) : Int :=
  match cut with
  | some c => min (s + 8) c.2
  | none => s + 8
/-- The last completion mark of a device reaches so far. -/
def Pack.markPast (k : Pack) (d : Nat) (need : Int) : Bool :=
  match k.fab.marks.find? (fun m => m.1 == d) with
  | some (_, _, st) => decide (need ≤ (st : Int))
  | none => false

def Pack.members (k : Pack) : List Nat := (List.range 144).filter k.isMember

/-- A horizon (R399, R401, R402). -/
def Pack.horizonState (k : Pack) (w : Word) (cut : Option (Nat × Nat)) : WitState :=
  let t := k.tstamp
  let s := nearest 54 (witStamp w) t
  let d := witDev w
  if s > t + 8 then .bad 0x16 2 (BitVec.ofNat 64 t)
  else if s < (t : Int) - 2 ^ 40 then .ok
  else if k.isLocal d then (if k.localHorizon s cut then .ok else .wait)
  else if d = 0xFE then
    if k.localHorizon s cut && (k.members.filter (fun m => !k.isLocal m)).all (fun m => k.markPast m (markNeed s cut)) then .ok
    else match k.members.find? k.devFailed with
      | some f => .bad 0x17 2 (BitVec.ofNat 64 f)
      | none => .wait
  else if k.devFailed d then .bad 0x17 2 (BitVec.ofNat 64 d)
  else if k.markPast d (markNeed s cut) then .ok else .wait

/-- A wait on a witness (R397–R403). -/
def Pack.witness (k : Pack) (w : Word) (cut : Option (Nat × Nat)) : WitState :=
  if witK w = 0 then .ok
  else match k.witFormat w with
  | some c => .bad 0x15 c 0
  | none =>
    if witK w = 1 then (if k.isLocal (witDev w) then k.localPoint w else k.remotePoint w)
    else k.horizonState w cut

/-- The fault of a bad witness in scalar register `reg` (R399, R474). -/
def State.witFault (s : State) (reg : Nat) (w : Word) (code cause : Nat) (tval2 : Word) : FaultRec :=
  s.faultRec code cause reg w tval2

/-- The checks a witness load or an engine command makes at issue (R307, R348): a witness not yet satisfied passes, and a remote
point is checked when its answer returns (R399). -/
def State.witCheck (s : State) (reg : Nat) (w : Word) : Except Stop Unit :=
  match s.pk.witness w none with
  | .bad code cause t2 => failWith (s.witFault reg w code cause t2)
  | _ => .ok ()

/-- A message to a device. -/
def Pack.send (k : Pack) (m : Msg) : Pack := { k with fab := { k.fab with sent := k.fab.sent ++ [m] } }
/-- The waiter `who` asks for a remote point that is not known to be satisfied, unless it has asked already (R410, R415,
R433). -/
def Pack.ask (who : Nat) (k : Pack) (w : Word) : Pack :=
  if witK w = 1 ∧ !k.isLocal (witDev w) ∧ k.remotePoint w = .wait ∧
      !k.fab.queries.any (fun q => q.sent && q.who == who && q.dev == witDev w && q.tl == witTl w && q.seq == witSeq w) then
    { k with fab := { k.fab with queries := k.fab.queries ++ [(⟨0, witDev w, witTl w, witSeq w, k.tick, true, who⟩ : Query)] } }.send
      (.query (witDev w) (witTl w) (witSeq w))
  else k

/-! ### Merging (R404, R405) -/

inductive Merged where
  | value (w : Word)
  | wait
  | bad (reg : Bool) (code cause : Nat) (tval2 : Word)
  deriving DecidableEq, Repr

def isStreamPoint (w : Word) : Bool := witK w == 1 && isStreamTl (witTl w)
def Pack.sameDev (k : Pack) (a b : Nat) : Bool := a == b || (k.isLocal a && k.isLocal b)

/-- The merge of an instruction that issued at TSTAMP `now`; `reg` of a bad one says whether the second operand failed. -/
def Pack.mergeAt (k : Pack) (now : Nat) (a b : Word) : Merged :=
  if witK a = 0 then .value b
  else if witK b = 0 then .value a
  else if witK a = 1 ∧ witK b = 1 ∧ k.sameDev (witDev a) (witDev b) ∧ witTl a = witTl b then
    .value (if (witSeq b + 2 ^ 42 - witSeq a) % 2 ^ 42 < 2 ^ 41 then b else a)
  else if isStreamPoint a then
    match k.witness a none with
    | .ok => .value b
    | .bad c1 c2 t => .bad false c1 c2 t
    | .wait =>
      if isStreamPoint b then
        match k.witness b none with
        | .ok => .value a
        | .bad c1 c2 t => .bad true c1 c2 t
        | .wait => .wait
      else .wait
  else if isStreamPoint b then
    match k.witness b none with
    | .ok => .value a
    | .bad c1 c2 t => .bad true c1 c2 t
    | .wait => .wait
  else
    let now : Int := now
    let st (w : Word) : Int := if witK w = 2 then nearest 54 (witStamp w) now else now
    let stamp := max now (max (st a) (st b))
    let dev := if witDev a = witDev b then witDev a else if k.sameDev (witDev a) (witDev b) then 0xFF else 0xFE
    .value (horizon dev stamp)

def Pack.merge (k : Pack) (a b : Word) : Merged := k.mergeAt k.tstamp a b

/-- WMRG.G: a result DEV of 0xFF becomes the own number (R412). -/
def Pack.nameDev (k : Pack) (w : Word) : Word :=
  if witK w ≠ 0 ∧ witDev w = 0xFF then setBits w 61 54 k.own else w

/-! ### The gate of an outstanding operation -/

inductive Gate where
  | go
  | wait
  | fail (w : Word) (code cause : Nat) (tval2 : Word)
  deriving DecidableEq, Repr

/-- Every core with its contexts, the focus among them. -/
def State.boxes (s : State) : List CoreBox := ⟨s.core, s.ctx, s.sib⟩ :: (s.todo ++ s.past)
def CoreBox.matrixHas (b : CoreBox) (id : Nat) : Bool :=
  b.a.mq.any (fun e => e.id == id) || b.b.mq.any (fun e => e.id == id) || b.core.run.any (fun r => r.entry.id == id) ||
    b.core.aside.any (fun r => r.entry.id == id) || b.core.done.any (fun e => e.entry.op == .mst && e.entry.id == id)
/-- An operation that a fence names is not yet complete (R417). -/
def State.idPending (s : State) (id : Nat) : Bool := s.pk.ops.any (fun o => o.id == id) || s.boxes.any (fun b => b.matrixHas id)

def Op.isLoad (o : Op) : Bool :=
  match o.kind with
  | .load .. => true
  | _ => false

/-- The first of an operation's witnesses that is bad, else one that is not satisfied. -/
def Pack.waitsState (k : Pack) (who : Nat) (cut : Option (Nat × Nat)) : List Word → Gate
  | [] => .go
  | w :: ws =>
    match (k.answerTo who w).getD (k.witness w cut) with
    | .bad a b t => .fail w a b t
    | .ok => k.waitsState who cut ws
    | .wait => match k.waitsState who cut ws with
      | .fail w' a b t => .fail w' a b t
      | _ => .wait

/-- Witnesses, then the points merged, the fences, and the earlier commands of an engine's timeline, which start in order
(R344, R437), those of a channel each once the one before has acted (R378). -/
def State.gate (s : State) (o : Op) : Gate :=
  match s.pk.waitsState o.id (if o.isLoad then none else some (o.id, o.stamp)) o.waits with
  | .fail w a b t => .fail w a b t
  | .wait => .wait
  | .go =>
    let gouge := decide (2304 ≤ o.tl) && decide (o.tl < 2560)
    let queued := decide (1600 ≤ o.tl) && s.pk.ops.any (fun q => q.tl == o.tl && decide (q.id < o.id) && (gouge || !q.begun))
    if o.heads.all (fun h => (s.pk.tl h.1).head ≥ h.2) && o.after.all (fun i => !s.idPending i) && !queued then .go else .wait

end Sys2Proof.Machine
end

