-- ==== Sys2Proof/Machine/Home.lean ====
section
/-! DEFINITION. Reads and writes where they take effect: the MSC with its policies, counts and pins (R61, R62, R335–R338, R354),
protected regions (R448, R453–R457), uncorrectable errors (R496, R497). -/
namespace Sys2Proof.Machine
open Sys2Proof

/-! ### MSC lines -/

def Pack.setLine (k : Pack) (l : MscLine) : Pack :=
  { k with msc := if k.msc.any (fun x => x.line == l.line) then k.msc.map (fun x => if x.line = l.line then l else x)
                  else k.msc ++ [l] }
def Pack.dropLine (k : Pack) (line : Nat) : Pack := { k with msc := k.msc.filter (fun x => x.line != line) }

/-! ### Banks (R356, R357) -/

def Pack.isRemote (k : Pack) (v : Via) : Bool := v.dev != 0xFF && v.dev.toNat != k.own
/-- A range with the class its traffic counts under. -/
def Range.as (r : Range) (cls : Nat) : Range := { r with via := { r.via with cls := cls } }
/-- The places an operation's ranges name. -/
def OpKind.ranges : OpKind → List Range
  | .load _ _ src _ => [src]
  | .store dst .. => [dst]
  | .atomic at_ .. => [at_]
  | .writeback r _ => [r]
  | .pref r => [r]
  | .copy src dst _ => [src, dst]
  | .skew src via dst .. => [⟨src, via, 0⟩, ⟨[dst], {}, 0⟩]
  | .wlds src dst => [⟨[src, dst], {}, 0⟩]
  | .coll _ src dst .. => [src, dst]
  | .append _ r _ => [r]
  | _ => []
def OpKind.pieces (o : OpKind) : List Piece := o.ranges.flatMap Range.pieces
/-- No copy of a line is in the MSC. -/
def Pack.absent (k : Pack) (line : Nat) : Bool :=
  match k.mscLine line with
  | some l => l.spent
  | none => true
/-- The segments of a cell's row that requests waiting here need (R356). -/
def Pack.queuedSegs (k : Pack) (cell : Nat) : List Nat :=
  let (d, b, r, _) := cellDram cell
  let mine (a : Nat) : Bool := cellCh a == cellCh cell && (cellDram a).1 == d && (cellDram a).2.1 == b && (cellDram a).2.2.1 == r &&
    k.absent (a / 128 * 128)
  (k.ops.filter (fun o => o.begun && !o.taken)).flatMap (fun o => (o.kind.ranges.filter (fun x => !k.isRemote x.via)).flatMap (fun x =>
    (x.pieces.filter (fun p => p.space = .dram && p.len != 0 && mine p.addr)).map (fun p => (cellDram p.addr).2.2.2)))

/-- The open row of a cell's bank. -/
def Pack.rowAt (k : Pack) (cell : Nat) : Option OpenRow :=
  let (d, b, _, _) := cellDram cell
  k.rows.find? (fun r => r.ch == cellCh cell && r.die == d && r.bank == b)
/-- The cell's segment is open. -/
def Pack.segOpen (k : Pack) (cell : Nat) : Bool :=
  let (_, _, r, g) := cellDram cell
  (k.rowAt cell).any (fun x => x.row == r && x.segs.contains g)
/-- The cycles that an access to a cell takes beyond one to an open segment (R331, R356): a supplementary activate, or an
activate, with a row that is in the way closed before it (log 54). -/
def Pack.rowLate (k : Pack) (cell : Nat) : Nat :=
  let (_, _, r, g) := cellDram cell
  match k.rowAt cell with
  | none => 30
  | some x => if x.row ≠ r then 60 else if x.segs.contains g then 0 else 10
/-- The use of a class in the present budget period of an enforcer (R357). -/
def Pack.usedBy (k : Pack) (off cls : Nat) : Nat := ((k.usage.find? (fun u => u.1 == off && u.2.1 == cls)).map (fun u => u.2.2)).getD 0
def Pack.charge (k : Pack) (off cls n : Nat) : Pack :=
  { k with usage := (off, cls, k.usedBy off cls + n) :: k.usage.filter (fun u => !(u.1 == off && u.2.1 == cls)) }
def Pack.closeRows (k : Pack) (h : Nat) : Pack := { k with rows := k.rows.filter (fun r => r.ch != h) }
/-- One segment moved over the data bus for a class (R356): its row and segment are open then, after an activate also those that
waiting requests need, and two channel cycles used. -/
def Pack.reachBank (k : Pack) (cls cell : Nat) : Pack :=
  let (d, b, r, g) := cellDram cell
  let fresh := (g :: k.queuedSegs cell).dedup
  let segs := match k.rowAt cell with
    | some x => if x.row = r then (if x.segs.contains g then x.segs else g :: x.segs) else fresh
    | none => fresh
  let rest := k.rows.filter (fun x => !(x.ch == cellCh cell && x.die == d && x.bank == b))
  { k with rows := ⟨cellCh cell, d, b, r, segs⟩ :: rest }.charge (0x50000 + 0x20 * cellCh cell) cls 2

/-! ### Write-back, replacement, filling -/

/-- A line has contents that DRAM lacks: a dirty or a counted one (R74, R337). -/
def MscLine.owes (l : MscLine) : Bool := !l.spent && (l.dirty || l.rc != 0)
/-- The bytes of a dirty or counted line reach DRAM; an unreadable sector stays behind (R337, R496). -/
def Pack.writeBack (k : Pack) (line : Nat) : Pack :=
  match k.mscLine line with
  | some l =>
    if l.owes then
      let good := (List.range 4).filter (fun i => !l.bad.contains i && !l.lost.contains i)
      let k := good.foldl (fun (k : Pack) i =>
        { (k.clearBad ⟨.dram, line + 32 * i, 32⟩) with
          mem := k.mem.write .dram (line + 32 * i) ((l.bytes.drop (32 * i)).take 32) }) (k.reachBank 1 line)
      k.setLine { l with dirty := !l.bad.isEmpty }
    else k
  | none => k

/-- A flush (R62, R453): written back if dirty, then dropped; a spent entry is no copy, and an unreadable sector stays (R496). -/
def Pack.flush (k : Pack) (line : Nat) : Pack :=
  let k := k.writeBack line
  match k.mscLine line with
  | some l => if l.spent || !l.bad.isEmpty then k else k.dropLine line
  | none => k

/-- The lines that stand in the set of a line. -/
def Pack.setLines (k : Pack) (line : Nat) : List MscLine :=
  k.msc.filter (fun l => cellDie l.line == cellDie line && Config.mscSet l.line == Config.mscSet line)
/-- It may be replaced: it is neither pinned nor unreadable (R354, R496). -/
def MscLine.mayGo (l : MscLine) : Bool := !l.pinned && l.bad.isEmpty
/-- It may be replaced now: what it owes can be written (R373, R392). -/
def Pack.goesNow (k : Pack) (l : MscLine) : Bool := l.mayGo && (!l.owes || k.banksOpen (cellCh l.line))
/-- The set of a line is full, and its lines that may go wait for their channels. -/
def Pack.roomHeld (k : Pack) (line : Nat) : Bool :=
  let set := (k.dropLine line).setLines line
  decide (16 ≤ set.length) && !set.any MscLine.spent && set.any MscLine.mayGo && !set.any k.goesNow
/-- Room for a line in its set of 16 ways (R2, R336, R337): a spent entry goes first, else a line of the part's choice that may go,
written back; none where no line may go (log 11). -/
def Pack.makeRoom (k : Pack) (line : Nat) : Option Pack :=
  let set := k.setLines line
  if set.length < 16 then some k
  else match set.find? MscLine.spent with
    | some l => some (k.dropLine l.line)
    | none =>
      let can := set.filter k.goesNow
      (can[(Config.freeWord k.freeCtr).toNat % can.length]?).map (fun l => { k with freeCtr := k.freeCtr + 1 }.flush l.line)
/-- The line lies in a window that is ACTIVE (R354). -/
def Pack.inPin (k : Pack) (line : Nat) : Bool := k.pins.any (fun w => w.status == 2 && w.lines.contains line)

/-- A line taken into the MSC from DRAM, a spent entry of it replaced, where its set has room. -/
def Pack.fill (k : Pack) (line : Nat) : Pack :=
  match (k.dropLine line).makeRoom line with
  | none => k
  | some j => j.setLine
    { line := line, bytes := j.mem.read ⟨.dram, line, 128⟩, pinned := k.inPin line
      lost := (List.range 4).filter (fun i => (j.badUnit ⟨.dram, line + 32 * i, 32⟩).isSome) }

/-- FCNT of a pinned line's window is reloaded (R354). -/
def Pack.refreshPin (k : Pack) (line : Nat) : Pack :=
  { k with pins := k.pins.map (fun w =>
      if w.lines.contains line ∧ w.status = 2 then
        { w with fcnt := bits (k.ioRd (0x60008 + 0x1000 * w.die + 0x20 * w.win)) 55 32 } else w) }

/-- MSCOVR of a line's die counts a read that found a spent entry (R336, R338). -/
def Pack.overRead (k : Pack) (line : Nat) : Pack :=
  let off := 0x60800 + 0x1000 * cellDie line
  k.ioWr off (k.ioRd off + 1)

/-- What a read does to a line when it reaches it (R61, R336): allocation, spent entries, and the count of the reads that R336 names.
`err`: the read met an error in DRAM, and does not allocate (R496). -/
def Pack.touch (k : Pack) (via : Via) (line : Nat) (err : Bool) (counts : Bool := true) : Pack :=
  let k := k.refreshPin line
  let miss (k : Pack) : Pack :=
    let k := k.reachBank via.cls line
    if via.ms || via.cp == 2 || err then k else k.fill line
  if (k.windowAt line).isSome then k
  else match k.mscLine line with
  | some l =>
    if l.spent then miss (k.overRead line)
    else if l.rc = 0 ∨ l.pinned ∨ !counts then k
    else if l.rc = 1 then k.setLine { line := line, bytes := [], spent := true }
    else k.setLine { l with rc := l.rc - 1 }
  | none => miss k

/-- The lines a list of pieces touches, each once. -/
def linesOf (ps : List Piece) : List Nat :=
  ((ps.filter (fun p => p.space = .dram && p.len ≠ 0)).map (fun p => p.addr / 128 * 128)).dedup

/-- Bytes of a range as its home gives them now. -/
def Pack.rangeBytes (k : Pack) (ps : List Piece) : List Byte :=
  ps.flatMap (fun p => if p.space = .dram then k.homeRead p.addr p.len else k.mem.read p)
/-- An access of an MS = 1 buffer first flushes the lines it finds in the MSC (R62). -/
def Pack.settle (k : Pack) (via : Via) (ps : List Piece) : Pack :=
  if via.ms then (linesOf ps).foldl (fun (k : Pack) l => if (k.windowAt l).isSome then k else k.flush l) k else k
/-- The lines of a range are read, after `settle`. -/
def Pack.touchAll (k : Pack) (via : Via) (ps : List Piece) (counts : Bool := true) : Pack :=
  let met (l : Nat) : Bool := ps.any (fun p => p.space = .dram && p.addr / 128 * 128 == l && (k.readError p).isSome)
  (linesOf ps).foldl (fun (k : Pack) l => k.touch via l (met l) counts) k
/-- Every line of a range is in the MSC (R331). -/
def Pack.allHit (k : Pack) (ps : List Piece) : Bool :=
  (linesOf ps).all (fun l => match k.mscLine l with
    | some x => !x.spent
    | none => false)

/-- The cycles of a read of several lines beyond the way to the home (R331): 20 where all are in the MSC, else 110 and what the
slowest line's row costs. -/
def Pack.readLate (k : Pack) (ps : List Piece) : Nat :=
  if k.allHit ps then 20
  else 110 + (((linesOf ps).filter (fun l => !k.allHit [⟨.dram, l, 1⟩])).map k.rowLate).foldl max 0

/-- A line's access needs its bank (R331, R373): no copy is in the MSC, or the access passes it by. -/
def Pack.needsBank (k : Pack) (via : Via) (line : Nat) : Bool :=
  via.ms || k.absent line
/-- A channel that a range needs does not serve it now (R373, R392): towards the end of an OPEN entry only segments already open
are served; a line that would take the place of another waits for that one's channel. -/
def Pack.bankHeld (k : Pack) (via : Via) (ps : List Piece) : Bool :=
  (linesOf ps).any (fun l => k.needsBank via l &&
    ((!k.banksOpen (cellCh l) && !(k.lastOpen (cellCh l) && k.segOpen l)) || (!via.ms && k.roomHeld l)))

/-! ### Protected regions -/

/-- VGCTL.EN of a slot (R446). -/
def Pack.slotOn (k : Pack) (g : Nat) : Bool := (k.ioRd (0x80000 + 0x100 * g)).getLsbD 63
def Pack.slot (k : Pack) (g : Nat) : VSlot := (k.ven[g]?).getD {}
def Pack.setSlot (k : Pack) (g : Nat) (f : VSlot → VSlot) : Pack := { k with ven := k.ven.setIfInBounds g (f (k.slot g)) }

/-- A region's data-space offset of a cell, if the region covers it (R448). -/
def regionOffset (q0 q1 : Word) (cell : Nat) : Option Nat :=
  let ch := cell / 2 ^ 31
  let ca := cell % 2 ^ 31
  let b := bits q1 50 32 * 4096
  let n := bits q1 18 0 * 4096
  if bits q0 55 48 ≤ ch ∧ ch < bits q0 55 48 + 2 ^ bits q0 47 44 ∧ b ≤ ca ∧ ca < b + n then
    some (bits q0 27 0 * 4096 + (ch - bits q0 55 48) * n + ca - b)
  else none

/-- The slot and data-space offset of a protected cell (R448). -/
def Pack.protected_ (k : Pack) (cell : Nat) : Option (Nat × Nat) :=
  (List.range 16).findSome? (fun g =>
    (k.slot g).regions.findSome? (fun r => (regionOffset r.2.1 r.2.2 cell).map (fun o => (g, o))))

def gfTimes2 (x : Nat) : Nat := if x ≥ 128 then (2 * x) ^^^ 0x11D else 2 * x
/-- Product in GF(2^8) under 0x11D (R452), over the low `n` bits of b. -/
def gmulAux : Nat → Nat → Nat → Nat
  | 0, _, _ => 0
  | n + 1, a, b => (if b % 2 = 1 then a else 0) ^^^ gmulAux n (gfTimes2 a) (b / 2)
def gmul (a b : Nat) : Nat := gmulAux 8 a b % 256

/-- Entries a log holds in a channel (R446: 64 per 4 KiB unit). -/
def Pack.logCap (k : Pack) (g reg : Nat) : Nat := bits (k.ioRd (0x80000 + 0x100 * g + reg)) 18 0 * 64

/-- VGCTL's fields, and the members' count n (R446). -/
def Pack.vgctl (k : Pack) (g : Nat) : Word := k.ioRd (0x80000 + 0x100 * g)
def Pack.vK (k : Pack) (g : Nat) : Nat := bits (k.vgctl g) 55 51
def Pack.vM (k : Pack) (g : Nat) : Nat := bits (k.vgctl g) 50 48
def Pack.vN (k : Pack) (g : Nat) : Nat := k.vK g + k.vM g
def Pack.vRank (k : Pack) (g : Nat) : Nat := bits (k.vgctl g) 47 43
/-- Coefficient c[i][j] (R446). -/
def Pack.vCoef (k : Pack) (g i j : Nat) : Nat :=
  let b := 32 * i + j
  bits (k.ioRd (0x80000 + 0x100 * g + 0x80 + b / 8 * 8)) (8 * (b % 8) + 7) (8 * (b % 8))

def vstateCode : VState → Nat
  | .off => 0 | .join => 1 | .active => 2 | .resolve => 3 | .rollback => 4 | .rebuild => 5 | .degraded => 6 | .lost => 7
/-- VGSTAT (R446). -/
def Pack.vgstat (k : Pack) (g : Nat) : Word :=
  let v := k.slot g
  BitVec.ofNat 64 (vstateCode v.state * 2 ^ 61 + v.crd % 32 * 2 ^ 56 + v.cause.toNat * 2 ^ 52 + (!v.held.isEmpty).toNat * 2 ^ 51 +
    v.sbnone.toNat * 2 ^ 50 + v.dead.toNat * 2 ^ 30 + v.drop % 2 ^ 30)
/-- What VROUND (0 VGLCR, 1 VGOPEN) and VSTAT (2) read (R462). -/
def Pack.vread (k : Pack) (which g : Nat) : Word :=
  if which = 0 then BitVec.ofNat 64 (k.slot g).lcr else if which = 1 then BitVec.ofNat 64 (k.slot g).vopen else k.vgstat g

/-- The enforcers (R357), by the offset of their ABSH: channels, ports. -/
def chanOff (h : Nat) : Nat := 0x50000 + 0x20 * h
def portOff (p : Nat) : Nat := 0x52000 + 0x20 * p
/-- Remote accesses that were in flight when a port went down are not yet over (R428). -/
def Pack.draining (k : Pack) : Bool :=
  k.ops.any (fun o => k.fab.drain.contains o.id) ||
    k.sched.launches.any (fun l => l.phase == .wsload && k.fab.drain.contains (2 ^ 60 + l.id))
/-- The port that place `n` of an order takes among the L live ones (R428): a new L applies once what was in flight is over. -/
def Pack.lane (k : Pack) (n : Nat) : Nat :=
  let set := if k.draining then k.fab.old else k.fab.live
  let ports := (List.range 18).filter (fun p => set.getLsbD p)
  (ports[n % max 1 ports.length]?).getD 18
/-- Class, place and flits of a message of the group (R357, R426, R427): a delta goes by its parity-area line, a share by its stripe
(log 5). -/
def VMsg.traffic : VMsg → Nat × Nat × Nat
  | .delta off _ _ bs => (4, off / 128, bs.length / 64 + 1)
  | .share st bs => (5, st, bs.length / 64 + 1)
  | .join _ bs _ => (4, 0, bs.length / 64 + 1)
  | _ => (4, 0, 1)
/-- A message to a rank of slot `g`'s group. -/
def Pack.vsend (k : Pack) (g rank : Nat) (m : VMsg) : Pack :=
  let dev := (((k.slot g).members[rank]?).map Prod.fst).getD 0xFF
  let t := m.traffic
  (k.charge (portOff (k.lane t.2.1)) t.1 t.2.2).send (.veneer g dev m)

/-- Bytes laid into an MSC line from offset `o`; a sector covered whole carries no error any more (R496). -/
def MscLine.lay (l : MscLine) (o : Nat) (bs : List Byte) : MscLine :=
  let open_ (i : Nat) : Bool := !(decide (o ≤ 32 * i) && decide (32 * i + 32 ≤ o + bs.length))
  { l with bytes := l.bytes.take o ++ bs ++ l.bytes.drop (o + bs.length), bad := l.bad.filter open_, lost := l.lost.filter open_ }

/-- Bytes of one line written to DRAM past the MSC, whose copy is flushed first; of an unreadable line what stays follows. -/
def Pack.bankWrite (k : Pack) (cls cell : Nat) (bs : List Byte) : Pack :=
  let line := cell / 128 * 128
  let k := (k.flush line).reachBank cls line
  let k := { (k.clearBad ⟨.dram, cell, bs.length⟩) with mem := k.mem.write .dram cell bs }
  match k.mscLine line with
  | some l =>
    let x := l.lay (cell % 128) bs
    if l.spent then k else if x.bad.isEmpty then k.dropLine line else k.setLine x
  | none => k
/-- A segment written by a Gouge unit: any copy in the MSC is dropped, and not written back (R362). -/
def Pack.segWrite (k : Pack) (cell : Nat) (bs : List Byte) : Pack :=
  let k := if k.absent (cell / 128 * 128) then k else k.dropLine (cell / 128 * 128)
  { (k.clearBad ⟨.dram, cell, bs.length⟩) with mem := k.mem.write .dram cell bs }
/-- A write of the slot's own protocol (R457), as class VD (R456). -/
def Pack.rawWrite (k : Pack) (cell : Nat) (bs : List Byte) : Pack := k.bankWrite 4 cell bs
def xorBytes (a b : List Byte) : List Byte := List.zipWith (· ^^^ ·) a b

/-- The 64 bytes of an entry (R454), and its cell in the ring of log register `reg` (0x20 delta, 0x28 staging). -/
def LogEntry.bytes (e : LogEntry) : List Byte :=
  (e.delta ++ List.replicate (32 - e.delta.length) 0) ++ leBytes 8 (e.off % 2 ^ 40) ++ leBytes 8 e.round ++
    leBytes 1 e.applied.toNat ++ List.replicate 15 0
def Pack.logCell (k : Pack) (g reg : Nat) (e : LogEntry) : Nat :=
  cellOf 0 e.ch (bits (k.ioRd (0x80000 + 0x100 * g + reg)) 50 32 * 4096 + 64 * (e.pos % max 1 (k.logCap g reg)))
def Pack.logWrite (k : Pack) (g reg : Nat) (e : LogEntry) : Pack := k.rawWrite (k.logCell g reg e) e.bytes
/-- Entries that stand in the log of a channel (R454): the delta log, or the staging log. -/
def VSlot.inLog (v : VSlot) (staging : Bool) (ch : Nat) : Nat :=
  ((if staging then v.slog else v.dlog).filter (fun e => e.ch == ch)).length +
    (v.owed.filter (fun e => e.1 == staging && e.2.ch == ch)).length
def countOf (l : List (Nat × Nat)) (ch : Nat) : Nat := ((l.find? (fun x => x.1 == ch)).map Prod.snd).getD 0
def bump (l : List (Nat × Nat)) (ch : Nat) : List (Nat × Nat) := (ch, countOf l ch + 1) :: l.filter (fun x => x.1 != ch)

/-- Where data unit `w` of rank `a` stands (R451): block b, data column j, t of its stripe. -/
def stripeOf (K n a w : Nat) : Nat × Nat × Nat := (w / K, w % K, (a + n - w % K % n) % n)

/-- How a write ended: performed; held for log space, with the bytes performed before and whether a part had failed (R455); or
failed. -/
inductive Written where
  | ok (k : Pack)
  | held (k : Pack) (done : Nat) (fail : Bool)
  | failed (k : Pack)
  deriving DecidableEq, Repr

/-- The package after a write. -/
def Written.pack : Written → Pack
  | .ok k => k
  | .held k _ _ => k
  | .failed k => k

/-- How the write of one part ended: also refused by a slot that is not ACTIVE (R457). -/
inductive PartEnd where
  | ok (k : Pack)
  | held (k : Pack)
  | failed (k : Pack)
  | refused (k : Pack) (g : Nat)
  deriving DecidableEq, Repr

/-- One 32-byte sector of a protected region written through the delta engine (R453–R455, R457, R496): `bs` are the new bytes
from `cell` up. A delta goes to the holder of each parity row, and stays unacknowledged until it is accepted (R459). -/
def Pack.deltaSector (k : Pack) (g off : Nat) (cell : Nat) (bs : List Byte) : PartEnd :=
  let v := k.slot g
  let sec := cell / 32 * 32
  let unheld (v : VSlot) : VSlot := { v with held := v.held.filter (· != sec) }
  let k := k.refreshPin (cell / 128 * 128)
  if v.state ≠ .active then .refused (k.setSlot g unheld) g
  else
    let k := k.flush (cell / 128 * 128)
    match k.readError ⟨.dram, sec, 32⟩ with
    | some e => .failed ((k.logError e.1 0x1FF e.2).setSlot g unheld)
    | none =>
    if v.inLog false (cellCh cell) ≥ k.logCap g 0x20 then
      .held (k.setSlot g (fun v => { v with held := if v.held.contains sec then v.held else v.held ++ [sec] }))
    else
      let old := k.mem.read ⟨.dram, sec, 32⟩
      let at_ := cell - sec
      let new := old.take at_ ++ bs ++ old.drop (at_ + bs.length)
      let delta := xorBytes old new
      let e : LogEntry := { ch := cellCh cell, pos := countOf v.dcount (cellCh cell), off := off - at_, round := v.vopen, delta := delta }
      let k := k.bankWrite 1 cell bs
      let K := k.vK g
      let n := k.vN g
      let (b, j, t) := stripeOf K n (k.vRank g) ((off - at_) / 4096)
      let poff (i : Nat) : Nat := (b * k.vM g + i) * 4096 + (off - at_) % 4096
      let rows := List.range (k.vM g)
      let k := (k.logWrite g 0x20 e).setSlot g (fun v => { unheld v with
        dlog := v.dlog ++ [e], dcount := bump v.dcount e.ch, unacked := v.unacked ++ rows.map (fun i => (v.vopen, poff i)) })
      .ok (rows.foldl (fun (k : Pack) i => k.vsend g ((t + K + i) % n)
        (.delta (poff i) v.vopen i (delta.map (fun x => BitVec.ofNat 8 (gmul (k.vCoef g i j) x.toNat))))) k)

/-- A write of bytes inside one line, to an unprotected cell (R61, R62, R335, R337): `count` > 0 makes a counted line. -/
def Pack.lineWrite (k : Pack) (via : Via) (cell : Nat) (bs : List Byte) (count : Nat) : Pack :=
  let line := cell / 128 * 128
  let into (k : Pack) (c : Nat) : Pack :=
    match k.mscLine line with
    | some l => k.setLine { l.lay (cell % 128) bs with dirty := true, rc := if l.pinned then 0 else c }
    | none => k
  let k := k.refreshPin line
  match k.windowAt cell with
  | some (h, d, o) => k.windowWrite h d o bs
  | none =>
  if via.ms then k.bankWrite via.cls cell bs
  else if k.allHit [⟨.dram, line, 1⟩] then into k count
  else if count = 0 ∧ via.cp ≠ 0 then k.bankWrite via.cls cell bs
  else
    let j := (k.reachBank via.cls line).fill line
    if j.absent line then k.bankWrite via.cls cell bs else into j count

/-- Bytes cut at 32-byte sectors of consecutive addresses. -/
def sectors : Nat → Nat → List Byte → List (Nat × List Byte)
  | 0, _, _ => []
  | fuel + 1, a, bs =>
    if bs.isEmpty then [] else
      let n := 32 - a % 32
      (a, bs.take n) :: sectors fuel (a + n) (bs.drop n)

/-- Each piece with its share of the bytes. -/
def splitPieces : List Piece → List Byte → List (Piece × List Byte)
  | [], _ => []
  | p :: ps, bs => (p, bs.take p.len) :: splitPieces ps (bs.drop p.len)

/-- The parts a write is performed in (R66, R453): sectors in a protected region. -/
def Pack.partsOf (k : Pack) (ps : List Piece) (bs : List Byte) : List (Piece × List Byte) :=
  (splitPieces ps bs).flatMap (fun x =>
    if x.1.space = .dram && (k.protected_ x.1.addr).isSome then
      (sectors (x.1.len + 1) x.1.addr x.2).map (fun y => (⟨.dram, y.1, y.2.length⟩, y.2))
    else [x])

/-- One part written: scratchpad, host memory, or the home. -/
def Pack.partWrite (k : Pack) (via : Via) (count : Nat) (p : Piece) (bs : List Byte) : PartEnd :=
  if p.space = .dram then
    match k.protected_ p.addr with
    | none => .ok (k.lineWrite via p.addr bs count)
    | some (g, off) => k.deltaSector g off p.addr bs
  else .ok { (k.clearBad p) with mem := k.mem.write p.space p.addr bs }

/-- A refused write counts once in each slot that refused it (R457). -/
def Pack.countDrops (k : Pack) (gs : List Nat) : Pack :=
  gs.dedup.foldl (fun (k : Pack) g => k.setSlot g (fun v => { v with drop := (v.drop + 1) % 2 ^ 30 })) k
/-- Parts in order: it goes on past a failed one and stops at a held one. -/
def Pack.partsWrite (via : Via) (count : Nat) : List (Piece × List Byte) → Pack → Nat → Bool → List Nat → Written
  | [], k, _, fail, gs => if fail then .failed (k.countDrops gs) else .ok (k.countDrops gs)
  | (p, bs) :: rest, k, done, fail, gs =>
    match k.partWrite via count p bs with
    | .ok k => Pack.partsWrite via count rest k (done + bs.length) fail gs
    | .held k => .held (k.countDrops gs) done fail
    | .failed k => Pack.partsWrite via count rest k (done + bs.length) true gs
    | .refused k g => Pack.partsWrite via count rest k (done + bs.length) true (g :: gs)

/-- Bytes over a list of pieces in order, part by part. -/
def Pack.piecesWrite (k : Pack) (via : Via) (count : Nat) (ps : List Piece) (bs : List Byte) : Written :=
  Pack.partsWrite via count (k.partsOf ps bs) k 0 false []
def Pack.pieceWrite (k : Pack) (via : Via) (p : Piece) (bs : List Byte) : Written := k.piecesWrite via 0 [p] bs
/-- The pieces of a list past its first `n` bytes. -/
def dropPieces : Nat → List Piece → List Piece
  | _, [] => []
  | 0, ps => ps
  | n, p :: ps => if p.len ≤ n then dropPieces (n - p.len) ps else { p with addr := p.addr + n, len := p.len - n } :: ps

end Sys2Proof.Machine
end

