-- ==== Sys2Proof/Machine/Flight.lean ====
section
/-! DEFINITION. Operations in flight: issuing and numbering them, the order they keep, the landing buffer, the L1, and how
they end (R144–R148, R299, R308, R310, R319, R331, R333, R334, R394, R403). -/
namespace Sys2Proof.Machine
open Sys2Proof

/-! ### Reaching a context or core -/

/-- `f` on every context with number `n`. -/
def State.onCtx (s : State) (n : Nat) (f : Ctx → Ctx) : State :=
  let g (c : Ctx) : Ctx := if c.num = n then f c else c
  if s.ctx.num = n then { s with ctx := f s.ctx }
  else if s.sib.num = n then { s with sib := f s.sib }
  else { s with todo := s.todo.map (fun b => { b with a := g b.a, b := g b.b })
                past := s.past.map (fun b => { b with a := g b.a, b := g b.b }) }
/-- `f` on the core with number `n`. -/
def State.onCore (s : State) (n : Nat) (f : Core → Core) : State :=
  let g (b : CoreBox) : CoreBox := if b.core.num = n then { b with core := f b.core } else b
  if s.core.num = n then { s with core := f s.core }
  else { s with todo := s.todo.map g, past := s.past.map g }
def State.getCtx (s : State) (n : Nat) : Option Ctx :=
  (s.boxes.flatMap (fun b => [b.a, b.b])).find? (fun c => c.num == n)
def State.getCore (s : State) (n : Nat) : Option Core := (s.boxes.map CoreBox.core).find? (fun c => c.num == n)

/-- The age of context `n`'s core. -/
def State.ageOf (s : State) (n : Nat) : Nat := ((s.getCore (n / 2)).map Core.age).getD 0

def State.onAll (s : State) (f : Ctx → Ctx) : State :=
  let g (b : CoreBox) : CoreBox := { b with a := f b.a, b := f b.b }
  { s with ctx := f s.ctx, sib := f s.sib, todo := s.todo.map g, past := s.past.map g }

/-- The landing entries that operation `o` feeds: in its context, in the context slot its launch was restored to, or in its
launch's saved image (R100). -/
def State.onLanding (s : State) (o : Op) (f : Pend → Pend) : State :=
  let g (c : Ctx) : Ctx :=
    let h (p : Pend) : Pend := if p.land = o.id then f p else p
    if c.launch = o.launch then { c with pend := c.pend.map h, held := c.held.map h, landed := c.landed.map h } else c
  let s := if (s.getCtx o.ctx).any (fun c => c.launch == o.launch) then s.onCtx o.ctx g else s.onAll g
  s.updPk (fun k => { k with sched := { k.sched with launches := k.sched.launches.map (fun l =>
    if l.id = o.launch then { l with imgs := l.imgs.map (fun i => (i.1, i.2.1, g i.2.2)) } else l) } })

/-- In the drain set of its launch (R498): what is numbered, and the commands. -/
def Op.inDrainSet (o : Op) : Bool :=
  o.seq != 0 || (match o.kind with
    | .copy .. | .skew .. | .wlds .. | .gouge .. | .coll .. | .embr .. | .vprep .. => true
    | _ => false)
/-- Only brings a value to a landing: EXIT cancels it (R214). -/
def Op.dropsAtExit (o : Op) : Bool :=
  !o.inDrainSet && (match o.kind with
    | .load .. | .gstat .. | .vstat .. | .merge .. => true
    | _ => false)

/-! ### Order among the operations of one context -/

/-- Both name one device; the own number and 0xFF are one (R398, R429). -/
def Pack.sameHome (k : Pack) (v w : Via) : Bool := v.dev == w.dev || (!k.isRemote v && !k.isRemote w)
/-- The device a range lies in cannot be reached (R429, R431, R503). -/
def Pack.unreachable (k : Pack) (v : Via) : Bool :=
  k.isRemote v && (k.devFailed v.dev.toNat || !k.isMember v.dev.toNat || k.own == 0xFF || k.fab.live == 0)
/-- Bytes another device holds: free, by the moment and the address of the first (log 15). -/
def Pack.farBytes (k : Pack) (r : Range) : List Byte :=
  leBytes r.len (Config.freeBits k.freeCtr (((r.pieces.head?).map Piece.addr).getD 0))
/-- The error that a read of a range meets: an uncorrectable one here, or a device that cannot be reached (R148, R431). -/
def Pack.rangeErrorAt (k : Pack) (r : Range) : Option (Nat × Nat) :=
  if k.isRemote r.via then
    (if k.unreachable r.via then some (1, ((r.pieces.head?).map Piece.addr).getD 0) else none)
  else (k.settle r.via r.pieces).rangeError r.pieces
/-- The live port of a remote cell, by the DPA that the access names it with (R428). -/
def Pack.portOf (k : Pack) (via : Via) (cell : Nat) : Nat :=
  let ca := if via.win then interToBank (cell % 2 ^ 31) else cell % 2 ^ 31
  k.lane (cell / 2 ^ 31 % 256 * 2 ^ 24 + ca / 2 ^ 7)
/-- The flits of an access to another device pass their ports (R357). -/
def Pack.chargePorts (k : Pack) (via : Via) (cls : Nat) (ps : List Piece) : Pack :=
  if k.isRemote via then (linesOf ps).foldl (fun (k : Pack) l => k.charge (portOff (k.portOf via l)) cls 3) k else k
/-- A range has been read: the lines of an own one are touched, one of another device is asked for there, and a later read is free
anew. `counts`: the read is of a kind that reader counts count (R336). -/
def Pack.didRead (k : Pack) (r : Range) (counts : Bool := false) : Pack :=
  if k.isRemote r.via then
    ({ (k.chargePorts r.via r.via.cls r.pieces) with freeCtr := k.freeCtr + 1 } : Pack).send
      (.request r.via.dev.toNat (.load .none .scalar r none))
  else (k.settle r.via r.pieces).touchAll r.via r.pieces counts

def Piece.meets (p q : Piece) : Bool :=
  p.space = q.space && decide (p.addr < q.addr + q.len) && decide (q.addr < p.addr + p.len)
def Pack.meets (k : Pack) (r q : Range) : Bool := k.sameHome r.via q.via && r.pieces.any (fun p => q.pieces.any p.meets)

/-- What a load, store, atomic or write-back reads and writes, in the same-address order of R308 and R334. -/
def OpKind.readsR : OpKind → List Range
  | .load _ _ src _ => [src]
  | .atomic at_ .. => [at_]
  | .writeback r _ => [r]
  | .append _ r _ => [r]
  | _ => []
def OpKind.writesR : OpKind → List Range
  | .store dst .. => [dst]
  | .atomic at_ .. => [at_]
  | .writeback r _ => [r]
  | _ => []

/-- What a WLDS, copy or Skew read reads and writes in the scratchpad (R308). -/
def OpKind.nearReads : OpKind → List Range
  | .copy src .. => [⟨src.pieces.filter (fun p => p.space = .spad), {}, 0⟩]
  | _ => []
def OpKind.nearWrites : OpKind → List Range
  | .copy _ dst _ => [⟨dst.pieces.filter (fun p => p.space = .spad), {}, 0⟩]
  | .skew _ _ dst .. => [⟨[dst], {}, 0⟩]
  | .wlds _ dst => [⟨[dst], {}, 0⟩]
  | _ => []

def Pack.anyMeets (k : Pack) (a b : List Range) : Bool := a.any (fun r => b.any (k.meets r))

/-- An older operation of the context that must take effect first: any whose bytes it overlaps (R308, R334, R408); later ones wait
for the scratchpad accesses of a command by its scoreboard entry (R310). -/
def State.olderBlocks (s : State) (o : Op) : Bool :=
  s.pk.ops.any (fun q => q.ctx == o.ctx && q.launch == o.launch && decide (q.id < o.id) && !q.taken &&
    (s.pk.anyMeets (q.kind.readsR ++ q.kind.writesR) (o.kind.readsR ++ o.kind.writesR ++ o.kind.nearWrites) ||
      s.pk.anyMeets q.kind.writesR o.kind.nearReads))

/-! ### Issue -/

/-- A range reaches a state window (R390). -/
def Pack.inWindow (k : Pack) (ps : List Piece) : Bool := ps.any (fun p => p.space = .dram && (k.windowAt p.addr).isSome)

/-- Elements of `w` bytes. -/
def elemsOf (w : Nat) (bs : List Byte) : List Nat := (List.range (bs.length / w)).map (fun i => leNat ((bs.drop (w * i)).take w))

/-! ### EMBR's entries (R420–R424) -/

def embrRow (c : Word) : Nat := 128 * 2 ^ bits c 17 16
def embrTable (c : Word) : Handle := mkHandle (bits c 63 48) 0
/-- A range of an engine's own access, by the tables and owner of its issue, as class CO (R357). -/
def Pack.engineRange (k : Pack) (o : Op) (h : Handle) (off n need : Nat) : Option Range :=
  if (k.handleBad o.btab o.owner.toNat (hIdx h) off n need false).isSome then none
  else
    let r := entryRange (k.entryAt (bits o.btab 47 0) (hIdx h)) off n
    some { r with via := { r.via with cls := 6 } }
/-- Bytes a command reads: another device's are free (log 15). -/
def Pack.sourceBytes (k : Pack) (r : Range) : List Byte :=
  if k.isRemote r.via then k.farBytes r else k.rangeBytes r.pieces
/-- The list entry that an EMBR is at, once read in `bytes`, and the table row and target row it names, each where it passes R64. -/
def Pack.embrRanges (k : Pack) (o : Op) (c : Word) (list target : Handle) : Option Range × Option Range × Option Range :=
  let rb := embrRow c
  if bits c 15 0 ≤ o.at_ then (none, none, none)
  else match k.engineRange o list (hOff list + 4 * o.at_) 4 rRD with
    | none => (none, none, none)
    | some lr =>
      let e := leNat (if o.bytes.isEmpty then k.sourceBytes lr else o.bytes.take 4)
      (some lr, k.engineRange o (embrTable c) (e / 2 ^ 12 * rb) rb rCS, k.engineRange o target (hOff target + e % 2 ^ 12 * rb) rb rEM)

/-- What a write-back needs of the banks here: the lines that are to be written (R350). -/
def Pack.cleanRange (k : Pack) (r : Range) : Via × List Piece :=
  if k.isRemote r.via then (r.via, r.pieces)
  else ({ r.via with ms := true }, r.pieces.filter (fun p => (k.mscLine (p.addr / 128 * 128)).any MscLine.owes))
/-- What a GTT reads of its image (R364, R379): at first 1,088 bytes, with the entries that the header counts. -/
def Pack.imageNeed (k : Pack) (o : Op) (img : Handle) : Option Range :=
  (k.engineRange o img (hOff img) 1088 rRD).map (fun r =>
    (k.engineRange o img (hOff img) (0x440 + 8 * (((k.sourceBytes r).headD 0).toNat + 1)) rRD).getD r)
/-- What an operation reads and writes at banks, with its policy. -/
def Pack.bankRanges (k : Pack) (o : Op) : List (Via × List Piece) :=
  match o.kind with
  | .load _ _ src l1 => if l1 = some true then [] else [(src.via, src.pieces)]
  | .store dst .. => [(dst.via, dst.pieces)]
  | .atomic at_ .. => [(at_.via, at_.pieces)]
  | .writeback r _ => [k.cleanRange r]
  | .pref r => [(r.via, r.pieces)]
  | .copy src dst _ => [(src.via, src.pieces), (dst.via, dst.pieces)]
  | .skew src via .. => [(via, src)]
  | .append _ r _ => if o.taken then [] else [(r.via, r.pieces)]
  | .coll _ src dst .. => [(src.via, src.pieces), (dst.via, dst.pieces)]
  | .embr c list target =>
    let x := k.embrRanges o c list target
    [x.1, x.2.1, x.2.2].filterMap (fun r => r.map (fun r => (r.via, r.pieces)))
  | .gouge 0 _ img _ => ((k.imageNeed o img).map (fun r => ({ r.via with cls := 1 }, r.pieces))).toList
  | _ => []
/-- The class of an operation's traffic (R357). -/
def OpKind.cls : OpKind → Nat
  | .copy src dst _ => if (src.pieces ++ dst.pieces).any (fun p => p.space = .host) then 0 else 1
  | .coll .. => 6
  | .embr .. => 6
  | _ => 1
/-- What a budget period of an enforcer holds: 16,000 channel cycles, 62,500 flits of 64 bytes at 400 GB/s (R425, R426). -/
def periodOf (off : Nat) : Nat := if off < 0x52000 then 16000 else 62500
/-- A class has used its share of an enforcer's budget period (R358). -/
def Pack.overShare (k : Pack) (off cls : Nat) : Bool :=
  decide (bits (k.shareOf off) (55 - 8 * cls) (48 - 8 * cls) * periodOf off ≤ 256 * k.usedBy off cls)
/-- The enforcers that an access passes: the ports to another device, or the channels it needs here. -/
def Pack.passes (k : Pack) (via : Via) (ps : List Piece) : List Nat :=
  if k.isRemote via then (linesOf ps).map (fun l => portOff (k.portOf via l)) else ((linesOf ps).filter (k.needsBank via)).map (fun l => chanOff (cellCh l))
def Pack.opPasses (k : Pack) (o : Op) : List Nat := (k.bankRanges o).flatMap (fun r => k.passes r.1 r.2)
/-- The DPA that the HDM decoders give a host physical address (R443): the lowest decoder that holds it. -/
def Pack.hdmDpa (k : Pack) (a : Nat) : Option Nat :=
  (k.hdm.toList.find? (fun d => decide (d.1 ≤ a) && decide (a < d.1 + d.2.1))).map (fun d => a - d.1 + d.2.2)
/-- Requests of a class wait at an enforcer: operations that have begun and not taken effect, and for class OT accesses of the host
and of other devices, whose step stands for the next cycle. -/
def Pack.asks (k : Pack) (cls off : Nat) : Bool :=
  k.ops.any (fun q => q.begun && !q.taken && q.kind.cls == cls && (k.opPasses q).contains off) ||
  (cls == 1 && k.agenda.any (fun e => decide (e.at_ ≤ k.tick + k.period) && (match e.ev with
    | .hostMemAccess => if e.arg.k = 0 then k.hdmDpa e.arg.n else if e.arg.k = 1 then some e.arg.n else none
    | .remoteAccess => if e.arg.k = 0 then none else some e.arg.n
    | _ => none).any (fun d => (linesOf (linePieces (max e.arg.m e.arg.bytes.length / 128 + 2) (dpaCell d)
      (max e.arg.m e.arg.bytes.length))).any (fun l => chanOff (cellCh l) == off))))
/-- A class has used its share of one of the enforcers where another class waits that has not, or that comes first to what is left
over: OT, then the classes in the order of the table (R358). -/
def Pack.shareHeld (k : Pack) (cls : Nat) (offs : List Nat) : Bool :=
  offs.any (fun h => k.overShare h cls && (List.range 7).any (fun c =>
    c != cls && (!k.overShare h c || (cls != 1 && (c == 1 || decide (c < cls)))) && k.asks c h))
/-- Requests wait for channels: those whose units have used up GT's share begin no row pass in the rest of the period (R375). -/
def Pack.noteWait (k : Pack) (offs : List Nat) : Pack :=
  offs.foldl (fun (k : Pack) off =>
    let h := (off - 0x50000) / 0x20
    if off < 0x52000 ∧ (k.chan h).state = .running ∧ k.gtOver h then k.setChan h (fun c => { c with spent := true }) else k) k
def Pack.budgetHeld (k : Pack) (o : Op) : Bool := k.shareHeld o.kind.cls (k.opPasses o)
/-- The ports that the deltas of a write to protected cells take (R453, R427). -/
def Pack.deltaPorts (k : Pack) (ps : List Piece) : List Nat :=
  ps.flatMap (fun p => match (if p.space = .dram then k.protected_ p.addr else none) with
    | none => []
    | some (g, off) =>
      let b := (stripeOf (k.vK g) (k.vN g) (k.vRank g) (off / 4096)).1
      (List.range (k.vM g)).map (fun i => portOff (k.lane (((b * k.vM g + i) * 4096 + off % 4096) / 128))))
/-- Class VD has used its share of one of them while another class waits there (R358, R427). -/
def Pack.deltaHeld (k : Pack) (ps : List Piece) : Bool := k.shareHeld 4 (k.deltaPorts ps)
/-- An operation that writes nothing at the home. -/
def Op.readsOnly (o : Op) : Bool :=
  match o.kind with
  | .store .. => false
  | .atomic .. => false
  | .copy .. => false
  | .coll .. => false
  | .embr .. => false
  | _ => true
/-- A channel or a port holds the operation back (R358, R373, R392, R427). -/
def Pack.opHeld (k : Pack) (o : Op) : Bool :=
  (k.bankRanges o).any (fun r => !k.isRemote r.1 && k.bankHeld r.1 r.2) || k.budgetHeld o ||
    (!o.readsOnly && (k.bankRanges o).any (fun r => !k.isRemote r.1 && k.deltaHeld r.2))

/-- The step in which an operation takes effect. -/
def Pack.eventOf (k : Pack) : OpKind → Instr
  | .load _ _ _ (some true) => .loadDataArrival
  | .load _ _ src _ =>
    if k.isRemote src.via then .remoteAccess
    else if k.inWindow src.pieces then .stateWindowAccess
    else if src.pieces.any (fun p => p.space = .dram) then .mscRead else .loadDataArrival
  | .store dst .. =>
    if k.isRemote dst.via then .remoteAccess else if k.inWindow dst.pieces then .stateWindowAccess
    else if dst.pieces.any (fun p => p.space = .dram && (k.protected_ p.addr).isSome) then .deltaWrite else .storePerformed
  | .atomic at_ loc .. => if k.isRemote at_.via then .remoteAccess else if loc then .storePerformed else .homeAtomic
  | .writeback r _ => if k.isRemote r.via then .remoteAccess else .storePerformed
  | .pref r => if k.isRemote r.via then .remoteAccess else .mscRead
  | .copy .. => .copyPerformed
  | .skew .. => .copyPerformed
  | .wlds .. => .wldsComplete
  | .gouge cmd .. => if cmd = 0 then .gttLoad else if cmd = 1 then .ggoArm else if cmd = 2 then .saveModeEntry else .gougeRestore
  | .coll .. => .collPerformed
  | .embr .. => .embrEntry
  | .vprep .. => .prepared
  | .gstat .. => .loadDataArrival
  | .vstat .. => .loadDataArrival
  | .merge .. => .loadDataArrival
  | .append .. => .loadDataArrival

def State.poll (s : State) (o : Op) : State := s.updPk (fun k => k.scheduleCc 1 (k.eventOf o.kind) { n := o.id })
def State.setOp (s : State) (o : Op) : State :=
  s.updPk (fun k => { k with ops := k.ops.map (fun q => if q.id = o.id then o else q) })
/-- Where TSTAMP `t` stands in quarter `q`'s refresh period, from the start of its window (R324). -/
def wsPhase (q t : Nat) : Nat :=
  let period := bits wsrw 47 32
  (((t : Int) - bits wsrw 15 0 - q * (period / 4 : Nat)) % period).toNat
/-- The ns left of quarter `q`'s refresh window at `t`, if it is in one. -/
def wsLeft (q t : Nat) : Option Nat := if wsPhase q t < bits wsrw 31 16 then some (bits wsrw 31 16 - wsPhase q t) else none

/-- The weight-store quarters a piece lies in (R322). -/
def Piece.quarters (p : Piece) : List Nat :=
  if p.space = .ws then [p.addr % 2 ^ 29 / 2 ^ 27, (p.addr + p.len - 1) % 2 ^ 29 / 2 ^ 27] else []
def OpKind.quarters : OpKind → List Nat
  | .load _ _ src _ => src.pieces.flatMap Piece.quarters
  | _ => []
/-- The part of a WLDS that comes next (R299): 32 bytes at first, then 256 a cycle. -/
def wldsPart (o : Op) (p : Piece) : Piece :=
  { p with addr := p.addr + o.at_, len := min (if o.at_ = 0 then 32 else 256) (p.len - o.at_) }
/-- The quarters that the next read of an operation names (R326). -/
def Op.quarters (o : Op) : List Nat :=
  match o.kind with
  | .wlds src _ => (wldsPart o src).quarters
  | x => x.quarters
/-- The time from now to the end of the last refresh window that one of `qs` is in (R326). -/
def Pack.wsHold (k : Pack) (qs : List Nat) : Option Nat :=
  ((qs.filterMap (fun q => wsLeft q k.tstamp)).max?).map (fun n => 2 * n - k.tick % 2)

/-- Scratchpad and weight-store accesses of the L slot and hits of the L1, whose times count pipeline cycles (R299). -/
def OpKind.near : OpKind → Bool
  | .load _ _ src l1 => l1 == some true || src.pieces.all (fun p => p.space == .spad || p.space == .ws)
  | .store dst .. => dst.pieces.all (fun p => p.space == .spad)
  | .atomic _ loc .. => loc
  | .wlds .. => true
  | _ => false
/-- The age of its core at which an operation goes on, `cc` from now. -/
def State.dueIn (s : State) (o : Op) (cc : Nat) : Nat := if o.kind.near then s.ageOf o.ctx + cc else 0

/-- Nothing holds the operation any longer: its time begins (R331), for a weight-store read once its quarter's window has
ended (R326). -/
def State.begin_ (s : State) (o : Op) : State :=
  let s := s.setOp { o with begun := true, due := s.dueIn o o.lat }
  match s.pk.wsHold o.quarters with
  | some t => s.updPk (fun k => k.schedule t .wsReadRelease { n := o.id })
  | none => s.updPk (fun k => k.scheduleCc o.lat (k.eventOf o.kind) { n := o.id })

/-- The operations that fences in force put before one of class `cls` (R417). -/
def Ctx.fenced (c : Ctx) (cls : BitVec 8) : List Nat :=
  c.fences.flatMap (fun f => if f.2 &&& cls != 0 then f.1 else [])

/-- An operation to a failed device ends within 12 µs (R431). -/
def Pack.watchDead (k : Pack) (o : Op) : Pack :=
  if (k.bankRanges o).any (fun r => k.isRemote r.1 && k.devFailed r.1.dev.toNat) then k.schedule 24000 .remoteErrorTimeout { n := o.id } else k
/-- An operation of the context in focus enters the list of operations outstanding. -/
def State.issueOp (s : State) (o : Op) : State :=
  let o := { o with
    id := s.pk.opCtr, ctx := s.ctx.num, owner := s.ownId, btab := s.ctx.csr.btab, npdef := bits s.ctx.csr.npdef 3 0
    cluster := s.cluster, launch := s.ctx.launch, pc := s.ctx.iss.pc, blen := s.ctx.iss.words, slot := s.ctx.iss.slot.code
    after := s.ctx.fenced o.cls, stamp := s.tstamp }
  let s := s.updPk (fun k => (o.waits.foldl (Pack.ask o.id) { k with opCtr := k.opCtr + 1, ops := k.ops ++ [o] }).watchDead o)
  if s.gate o = .go then s.begin_ o else s.poll o

/-- The same, numbered on timeline `tl`; gives its witness (R394, R397). -/
def State.issueNumbered (s : State) (tl : Nat) (o : Op) : Word × State :=
  let r := s.pk.number tl s.pk.opCtr
  (pointWit tl r.1, { s with pk := r.2 }.issueOp { o with tl := tl, seq := r.1 })

/-- Landing-buffer entries taken, those of a held snapshot among them (R145, R481). -/
def Ctx.landings (c : Ctx) : Nat := ((c.pend ++ c.held).filter Pend.buf).length

/-- A load (R144, R145): stalls without a landing-buffer entry. -/
def State.issueLoad (s : State) (dst : Wr) (reg k : Nat) (o : Op) : Res :=
  if s.ctx.landings ≥ 32 then .error .stall
  else
    let s' := s.issueOp { o with reg := BitVec.ofNat 8 reg }
    .ok (s'.updCtx (fun c => { c with pend := c.pend ++
      [{ due := s.core.cyc + k, wr := dst, land := s.pk.opCtr, ready := false, buf := true }] }))

/-- A landing whose value is present at issue (R316). -/
def State.landNow (s : State) (dst : Wr) (k : Nat) : Res :=
  if s.ctx.landings ≥ 32 then .error .stall
  else .ok (s.updCtx (fun c => { c with pend := c.pend ++ [{ due := s.core.cyc + k, wr := dst, buf := true }] }))

/-- A witness returned at latency 2 (R138); s0 discards it. -/
def State.putWitness (s : State) (d : BitVec n) (w : Word) : State := s.put 2 (.s d.toNat w)

/-! ### Scratchpads of saved launches (R99, R100, R494) -/

/-- Bytes written at a DPA of the interleaved window by the part itself; what is held for log space tries again (R455), what a
protected region refuses is lost (R457, log 16). -/
def Pack.dpaWrite (k : Pack) (d : Nat) (bs : List Byte) : Pack :=
  match k.piecesWrite {} 0 (linePieces (bs.length / 128 + 2) (dpaCell d) bs.length) bs with
  | .held k n _ => k.scheduleCc 1 .hostMemAccess { n := d + n, k := 1, bytes := bs.drop n }
  | w => w.pack

/-- The cluster number under which the operations of a launch find its scratchpad while save slot `slot` holds it. -/
def slotCluster (slot : Nat) : Nat := 32 + slot
/-- The save slot's first byte. -/
def Pack.slotBase (k : Pack) (slot : Nat) : Nat := bits (k.ioRd 0x20018) 47 0 + slot * 2 ^ 24
/-- The ranges of its scratchpad section (R492, R494): local address, length and the DPA of the bytes. -/
def Pack.slotRanges (k : Pack) (slot : Nat) : List (Nat × Nat × Nat) :=
  let base := k.slotBase slot
  let rs := (List.range 16).map (fun i => k.dpaWord (base + 0x80 + 8 * i))
  let top := base + (rs.map (fun w => (bits w 63 32 + bits w 31 0) * 64)).foldl max 0x100
  let nr := (k.dpaWord top).toNat % 2 ^ 16
  ((List.range nr).foldl (fun (a : Nat × List (Nat × Nat × Nat)) i =>
    let w := k.dpaWord (top + 8 + 8 * i)
    (a.1 + (bits w 44 22 + 63) / 64 * 64, a.2 ++ [(bits w 21 0, bits w 44 22, a.1)])) (top + 8 + 8 * nr, [])).2
/-- What an operation has written to the scratchpad of a saved launch goes into its save: the commands of a victim run on (R100). -/
def Pack.saveThrough (k : Pack) (o : Op) : Pack :=
  (o.kind.pieces.filter (fun p => p.space == .spad && decide (32 * 2 ^ 22 ≤ p.addr))).foldl (fun (k : Pack) p =>
    let lo := p.addr % 2 ^ 22
    (k.slotRanges (p.addr / 2 ^ 22 - 32)).foldl (fun (k : Pack) r =>
      let a := max lo r.1
      let n := min (lo + p.len) (r.1 + r.2.1) - a
      if n = 0 then k else k.dpaWrite (r.2.2 + (a - r.1)) (k.mem.read ⟨.spad, p.addr + (a - lo), n⟩)) k) k

/-! ### Ends of an operation -/

def State.findOp (s : State) (id : Nat) : Option Op := s.pk.ops.find? (fun o => o.id == id)
/-- Off the list, with its scoreboard entries (R309). -/
def State.dropOp (s : State) (o : Op) : State :=
  s.updPk (fun k => { k.saveThrough o with ops := k.ops.filter (fun q => q.id != o.id), board := k.board.filter (fun b => b.id != o.id) })
def State.finishOp (s : State) (o : Op) : State :=
  (s.dropOp o).updPk (fun k => if o.seq = 0 then k else k.completeOp o.tl o.seq)
def State.failOpState (s : State) (o : Op) : State :=
  (s.dropOp o).updPk (fun k => if o.seq = 0 then k else k.failOp o.tl o.seq o.owner)

/-- The fault a failed load takes in its due cycle (R148, R307, R480). -/
def Op.lateFault (o : Op) (code cause : Nat) (tval tval2 : Word) : FaultRec where
  code := BitVec.ofNat 8 code
  cause := BitVec.ofNat 4 cause
  slot := o.slot
  defer := true
  reg := o.reg
  tval := tval
  tval2 := tval2
  pc := o.pc
  blen := o.blen
/-- The data of `o` comes: when it comes with the start of a period to a core frozen for it, that period is frozen too (R146). -/
def State.noteArrival (s : State) (o : Op) : State :=
  let cyc := ((s.getCore (o.ctx / 2)).map Core.cyc).getD 0
  let waits := (s.getCtx o.ctx).any (fun c =>
    c.pend.any (fun p => p.land == o.id && !p.ready && decide (p.due ≤ if c.resume then 0 else cyc)) ||
    (c.replay && c.held.any (fun p => p.land == o.id && !p.ready && p.due == 0)))
  if waits && s.pk.tick % s.pk.period == 0 then s.onCore (o.ctx / 2) (fun c => { c with thaw := c.frozen }) else s
/-- The load lands nothing; its fault waits for the due cycle. -/
def State.landFault (s : State) (o : Op) (r : FaultRec) : State :=
  ((s.noteArrival o).onLanding o (fun p => { p with ready := true, err := some r })).finishOp o

/-- The fault of an operation whose witness failed it: a failed wait names the destination, the others the witness (R474). -/
def Op.witFault (o : Op) (w : Word) (code cause : Nat) (tval2 : Word) : FaultRec :=
  let r := o.lateFault code cause w tval2
  if code = 0x17 then r else { r with reg := o.wreg }

/-- What admission of an operation's step gives. -/
inductive Admit where
  | proceed (o : Op)
  | later (s : State)
  | failed (w : Word) (code cause : Nat) (tval2 : Word)
  deriving DecidableEq, Repr

/-- Witnesses, heads and fences first (R307, R346, R417), then the older operations of the context. -/
def State.letIn (s : State) (o : Op) : Admit :=
  if o.begun then (if s.olderBlocks o then .later (s.poll o) else .proceed o)
  else match s.gate o with
    | .go => if o.lat = 0 then .proceed { o with begun := true } else .later (s.begin_ o)
    | .wait => .later (s.poll o)
    | .fail w a b t => .failed w a b t

/-! ### What a load makes of its bytes (R303–R307) -/

/-- Side data of a scaled tag with what R37 does not use as zero: unused bytes, bits [7:4] of Q4 zero points (R37, R38). -/
def sideClean (tag : BitVec 32) (x : BitVec 512) : BitVec 512 :=
  match tagFmt tag with
  | some f =>
    let n := if f.isScaled then 2048 / f.width / groupLen (bits tag 7 5) else 0
    let b (i : Nat) : Nat := bits x (8 * i + 7) (8 * i)
    let keep (i : Nat) : Nat :=
      if f = .e2m1 then (if i < n then b i else 0)
      else if i < 32 then (if i < 2 * n then b i else 0)
      else if i < 32 + n then (if f = .q4 then b i % 16 else b i) else 0
    BitVec.ofNat 512 (packW 8 ((List.range 64).map keep))
  | none => x
def vregOf (tag : BitVec 32) (bs : List Byte) : VReg where
  pay := BitVec.ofNat 2048 (leNat (bs.take 256))
  side := if tagScaled tag then sideClean tag (BitVec.ofNat 512 (leNat ((bs.drop 256).take 64))) else 0
  tag := tag
/-- The 324-byte image (R304): payload, side store, tag word. -/
def vregImage (bs : List Byte) : VReg where
  pay := BitVec.ofNat 2048 (leNat (bs.take 256))
  side := BitVec.ofNat 512 (leNat ((bs.drop 256).take 64))
  tag := BitVec.ofNat 32 (leNat ((bs.drop 320).take 4))
def imageBytes (v : VReg) : List Byte := leBytes 256 v.pay.toNat ++ leBytes 64 v.side.toNat ++ leBytes 4 v.tag.toNat
/-- The bytes of a plain vector store (R305). -/
def plainBytes (v : VReg) : List Byte :=
  leBytes 256 v.pay.toNat ++ (if tagScaled v.tag then leBytes 64 (sideClean v.tag v.side).toNat else [])
def plainLen (tag : BitVec 32) : Nat := if tagScaled tag then 320 else 256

def landValue (dst : Wr) (shape : Shape) (bs : List Byte) : Wr :=
  match dst with
  | .s r _ => .s r (BitVec.ofNat 64 (leNat bs))
  | .v r _ => .v r (match shape with
    | .image => vregImage bs
    | .plain t => vregOf t bs
    | .lanes t => { pay := BitVec.ofNat 2048 (leNat bs), side := 0, tag := t }
    | .scalar => {})
  | w => w

/-- The bytes reach the landing entry; they are present from `present` on (R144). -/
def State.fillLanding (s : State) (o : Op) (shape : Shape) (bs : List Byte) : State :=
  s.onLanding o (fun p => { p with wr := landValue p.wr shape bs })
def State.presentLanding (s : State) (o : Op) : State :=
  ((s.noteArrival o).onLanding o (fun p => { p with ready := true })).finishOp o

/-! ### The L1 (R319–R321) -/

/-- The device whose cells a range names, as the L1 tags it. -/
def Pack.homeDev (k : Pack) (v : Via) : BitVec 8 := if k.isRemote v then v.dev else 0xFF
def l1Set (cell : Nat) : Nat := cell / 64 % 64
def L1Line.isAt (l : L1Line) (dev : BitVec 8) (cell : Nat) : Bool := l.cell == cell && l.dev == dev
/-- A line with an error is dropped, so that the access misses (R496). -/
def Core.l1Get (c : Core) (dev : BitVec 8) (cell : Nat) : Option L1Line := c.l1.find? (fun l => l.isAt dev cell && !l.bad)
/-- The line moves to the front of the recency order. -/
def Core.l1Use (dev : BitVec 8) (c : Core) (cell : Nat) : Core :=
  match c.l1Get dev cell with
  | some l => { c with l1 := l :: c.l1.filter (fun x => !x.isAt dev cell) }
  | none => c
/-- A line filled; past 8 ways the least recently used of its set goes (log 12). -/
def Core.l1Fill (c : Core) (dev : BitVec 8) (cell : Nat) (bs : List Byte) : Core :=
  let rest := c.l1.filter (fun x => !x.isAt dev cell)
  let ways := rest.filter (fun x => l1Set x.cell == l1Set cell)
  { c with l1 := ⟨cell, bs, dev, false⟩ :: rest.filter (fun x => !(ways.drop 7).contains x) }

/-- Bytes at `a` with a write at `wa` laid over them. -/
def overlay (a : Nat) (bs : List Byte) (wa : Nat) (ws : List Byte) : List Byte :=
  bs.zipIdx.map (fun p => if wa ≤ a + p.2 then (ws[a + p.2 - wa]?).getD p.1 else p.1)
def overlayAll (a : Nat) (bs : List Byte) (w : List (Piece × List Byte)) : List Byte :=
  w.foldl (fun bs p => overlay a bs p.1.addr p.2) bs

/-- The core's own store updates every copy it hits (R319). -/
def Core.l1Store (c : Core) (dev : BitVec 8) (w : List (Piece × List Byte)) : Core :=
  { c with l1 := c.l1.map (fun l => if l.dev = dev then { l with bytes := overlayAll l.cell l.bytes w } else l) }
/-- The 64-byte lines of a range. -/
def l1Lines (ps : List Piece) : List Nat :=
  (ps.flatMap (fun p => [p.addr / 64 * 64, (p.addr + p.len - 1) / 64 * 64])).dedup
/-- Bytes of a range as the L1 holds them, if it holds every line. -/
def Core.l1Read (c : Core) (dev : BitVec 8) (ps : List Piece) : Option (List Byte) :=
  if (l1Lines ps).all (fun l => (c.l1Get dev l).isSome) then
    some (ps.flatMap (fun p => (List.range p.len).map (fun i =>
      (((c.l1Get dev ((p.addr + i) / 64 * 64)).map L1Line.bytes).getD [])[(p.addr + i) % 64]?.getD 0)))
  else none

/-- A line as a miss of core `n` fills it: the home's bytes (another device's are free, log 15) with the core's own stores still
under way over them. -/
def State.l1Bytes (s : State) (n : Nat) (via : Via) (cell : Nat) : List Byte :=
  let stores := s.pk.ops.filterMap (fun o => match o.kind with
    | .store dst bs _ => if o.ctx / 2 = n ∧ s.pk.sameHome dst.via via then some (splitPieces dst.pieces bs) else none
    | _ => none)
  stores.foldl (fun bs w => overlayAll cell bs (w.filter (fun p => p.1.space = .dram))) (s.pk.sourceBytes ⟨[⟨.dram, cell, 64⟩], via, 0⟩)

/-! ### The range scoreboard (R309, R310) -/

/-- A local range meets a pending entry of the cluster: a read meets write entries, a write meets any. -/
def State.boardBlocks (s : State) (cluster : Nat) (write : Bool) (lo n : Nat) : Bool :=
  n != 0 && s.pk.board.any (fun b => b.cluster == cluster && (write || b.write) &&
    b.ranges.any (fun r => decide (lo < r.2) && decide (r.1 < lo + n)))
def State.boardFull (s : State) : Bool := (s.pk.board.filter (fun b => b.cluster == s.cluster)).length ≥ 32
def State.takeBoard (s : State) (id : Nat) (write : Bool) (ranges : List (Nat × Nat)) (array : Bool := false) : State :=
  (s.updPk (fun k => { k with board := k.board ++ [⟨id, s.ctx.num, array, s.cluster, write, ranges⟩] })).updIss
    (fun i => { i with own := id :: i.own })

/-- Any operand range waits on an entry that is not of the bundle itself: the bundle stalls (R142, R310). -/
def State.waitLocal (s : State) (write : Bool) (ranges : List (Nat × Nat)) : Except Stop Unit :=
  let t := s.updPk (fun k => { k with board := k.board.filter (fun b => !s.ctx.iss.own.contains b.id) })
  if ranges.any (fun r => t.boardBlocks s.cluster write r.1 r.2) then .error .stall else .ok ()

/-- A scratchpad write that had not been performed when another context's matrix instruction issued waits until the array has
read the range (R268). -/
def Pack.arrayHolds (k : Pack) (o : Op) : Bool :=
  let ps := match o.kind with
    | .store dst .. => dst.pieces
    | .atomic at_ true .. => at_.pieces
    | _ => []
  ps.any (fun p => p.space = .spad && k.board.any (fun b => b.array && !b.write && b.ctx != o.ctx && decide (o.id < b.id) &&
    b.cluster == p.addr / 2 ^ 22 && b.ranges.any (fun r => decide (p.addr % 2 ^ 22 < r.2) && decide (r.1 < p.addr % 2 ^ 22 + p.len))))

/-! ### Stores through a handle (R332–R334) -/

/-- The way from a core of die `die` to the home and back (R331, R432). -/
def Pack.homeLat (k : Pack) (die : Nat) (r : Range) : Nat :=
  if k.isRemote r.via then 1090
  else if r.pieces.any (fun p => p.space = .dram && cellDie p.addr != die) then 90 else 40
def State.homeLat (s : State) (r : Range) : Nat := s.pk.homeLat s.die r

/-- A store numbered on the context's G timeline, `count` its reader count. -/
def State.storeNum (s : State) (dst : Range) (bytes : List Byte) (count : Nat) : Word × State :=
  s.issueNumbered s.tlG { id := 0, ctx := 0, kind := .store dst bytes count, cls := 0x10, lat := s.homeLat dst }
/-- A store of the core itself: the core's L1 copies follow it (R319). -/
def State.storeG (s : State) (dst : Range) (bytes : List Byte) (count : Nat) : Word × State :=
  (s.updCore (fun c => c.l1Store (s.pk.homeDev dst.via) (splitPieces dst.pieces bytes))).storeNum dst bytes count

/-! ### Atomics (R311, R312, R340), and what the array sees of own writes (R308) -/

/-- F32 minimum or maximum of an atomic: a NaN gives the quiet NaN (R312). -/
def atomF32 (isMax : Bool) (x y : Nat) : Nat :=
  if (decodeFloat .f32 x).isNaN || (decodeFloat .f32 y).isNaN then 0x7FC00000 else (floatMinMax .f32 isMax x y).1
/-- The new contents of `n` bytes (R312, R340), by the place of the operation in the table. -/
def atomicNew (fn n old v cmp : Nat) : Nat :=
  let sg (x : Nat) : Int := signedOf (8 * n) x
  match fn with
  | 0 => (old + v) % 2 ^ (8 * n)
  | 1 => if sg old ≤ sg v then old else v
  | 2 => if sg old ≥ sg v then old else v
  | 3 => old &&& v
  | 4 => old ||| v
  | 5 => old ^^^ v
  | 6 => v
  | 7 => if old = cmp then v else old
  | 8 => (addF32 old (decodeFloat .f32 v)).1
  | 9 => atomF32 false old v
  | _ => atomF32 true old v

/-- The low `n` bytes of a word. -/
def lowBytes (n : Nat) (w : Word) : Word := BitVec.ofNat 64 (w.toNat % 2 ^ (8 * n))

/-- The atomic step of R311 and R340 on old bytes: new bytes, old value, IV. -/
def atomicStep (fn : Nat) (old : List Byte) (v cmp : Word) : List Byte × Word × Bool :=
  let n := old.length
  let o := leNat old
  let x := decodeFloat .f32 o
  let y := decodeFloat .f32 v.toNat
  let iv := decide (8 ≤ fn) && (x.isSig || y.isSig || (fn == 8 && x.isInf && y.isInf && x.negSign != y.negSign))
  (leBytes n (atomicNew fn n o v.toNat cmp.toNat), BitVec.ofNat 64 o, iv)

/-- What context `ctx`'s scratchpad writes with numbers below `id` that are still under way write, in order. -/
def Pack.localWrites (k : Pack) (ctx id : Nat) : List (Piece × List Byte) :=
  k.ops.foldl (fun ws o =>
    if o.ctx ≠ ctx ∨ id ≤ o.id ∨ o.taken then ws
    else match o.kind with
      | .store dst bs _ => ws ++ (splitPieces dst.pieces bs).filter (fun x => x.1.space = .spad)
      | .atomic at_ true fn v cmp _ =>
        ws ++ at_.pieces.map (fun p => (p, (atomicStep fn (overlayAll p.addr (k.mem.read p) ws) v cmp).1))
      | _ => ws) []
/-- Scratchpad bytes as an operation of context `ctx` numbered `id` finds them: its own earlier writes come first (R308). -/
def Pack.localRead (k : Pack) (ctx id : Nat) (p : Piece) : List Byte := overlayAll p.addr (k.mem.read p) (k.localWrites ctx id)
/-- The error it meets: none in a word that such a write covers whole (R496). -/
def Pack.localError (k : Pack) (ctx id : Nat) (ps : List Piece) : Option (Nat × Nat) :=
  let stored := (k.localWrites ctx id).map Prod.fst
  let covered (u : Nat) : Bool := stored.any (fun q => decide (q.addr ≤ u) && decide (u + 8 ≤ q.addr + q.len))
  { k with bad := k.bad.filter (fun b => !(b.1 == Space.spad && covered b.2)) }.rangeError ps

/-- The context's own pending stores to a range's device, each cut into pieces. -/
def State.ownStores (s : State) (r : Range) : List (List (Piece × List Byte)) :=
  s.pk.ops.filterMap (fun o => match o.kind with
    | .store dst bs _ => if o.ctx = s.ctx.num ∧ s.pk.sameHome dst.via r.via then some (splitPieces dst.pieces bs) else none
    | _ => none)
/-- What the context's own pending stores, home atomics and reduction stores to a range's device write, in order. -/
def State.ownWrites (s : State) (r : Range) : List (Piece × List Byte) :=
  s.pk.ops.foldl (fun ws o =>
    if o.ctx ≠ s.ctx.num ∨ o.taken then ws
    else match o.kind with
      | .store dst bs _ => if s.pk.sameHome dst.via r.via then ws ++ splitPieces dst.pieces bs else ws
      | .atomic at_ false fn v cmp _ =>
        if s.pk.sameHome at_.via r.via then
          let old := (splitPieces at_.pieces (s.pk.sourceBytes at_)).flatMap (fun x =>
            overlayAll x.1.addr x.2 (ws.filter (fun q => q.1.space = x.1.space)))
          ws ++ splitPieces at_.pieces (atomicStep fn old v cmp).1
        else ws
      | _ => ws) []
/-- Bytes of a range as the context's own pending writes leave them (R205, R288, R407); what another device holds else is free
(log 15). -/
def State.ownBytes (s : State) (r : Range) : List Byte :=
  (splitPieces r.pieces (s.pk.sourceBytes r)).flatMap (fun x =>
    overlayAll x.1.addr x.2 ((s.ownWrites r).filter (fun q => q.1.space = x.1.space)))
/-- The error that such a read meets: none in a unit that an own pending store covers whole (R288, R496). -/
def State.ownError (s : State) (r : Range) : Option (Nat × Nat) :=
  if s.pk.isRemote r.via then s.pk.rangeErrorAt r
  else
    let stored := (s.ownStores r).flatten.map Prod.fst
    let covered (p : Piece) : Bool := stored.any (fun q => q.space == p.space && decide (q.addr ≤ p.addr / 32 * 32) &&
      decide (p.addr / 32 * 32 + 32 ≤ q.addr + q.len))
    let units (p : Piece) : List Piece :=
      (sectors (p.len / 32 + 2) p.addr (List.replicate p.len 0)).map (fun x => ⟨p.space, x.1, x.2.length⟩)
    s.pk.rangeErrorAt { r with pieces := (r.pieces.flatMap units).filter (fun p => !covered p) }

end Sys2Proof.Machine
end

