-- ==== Sys2Proof/Machine/Control.lean ====
section
/-! DEFINITION. Branches, the return-address store, the loop nest unit, frames, yields, ends, traps (R198–R215, R487, R488).
A slot records what its bundle's end shall do; Issue resolves it (R202, R208). -/
namespace Sys2Proof.Machine
open Sys2Proof

/-! ### Branches -/

/-- A branch of the X slot to `t` is discarded (R202). -/
def State.discards (s : State) (t : Dpa) : Bool :=
  s.ctx.iss.slot == .X && (s.ctx.iss.be.exit_ || s.ctx.iss.be.sBranch.any (fun u => u != t))
/-- The slot redirects the context (R202): in X, another target beside S is discarded and counted, and EXIT wins. Where both name
one target, S decides the way on, and an LBRK in X ends its levels too (log 56). -/
def State.redirect (s : State) (t : Dpa) (mark : BundleEnd → BundleEnd) : State :=
  if s.ctx.iss.slot = .X then
    if s.discards t then
      s.updCtx (fun c => { c with csr := { c.csr with
        brdrop := BitVec.ofNat 64 ((c.csr.brdrop.toNat + 1) % 2 ^ 32) } })
    else if s.ctx.iss.be.sBranch.isSome then s.updEnd (fun e =>
      let m := mark {}
      { e with xBranch := some t, xlbrk := m.lbrk, xskip := m.skip.isSome, refill := e.refill || m.refill })
    else s.updEnd (fun e => mark { e with xBranch := some t })
  else s.updEnd (fun e => mark { e with sBranch := some t })

/-- The DPA of the bundle that follows in memory (R110). -/
def State.followPc (s : State) : Dpa := s.ctx.iss.pc + BitVec.ofNat 48 (4 * s.ctx.iss.words)

def execB (o : BitVec 17) (s : State) : Host.Outcome State Fault Refusal := done (s.redirect (s.target o) id)
def execBx (a : BitVec 5) (s : State) : Host.Outcome State Fault Refusal := done (s.redirect ((s.rs a).setWidth 48) id)

/-- Offset of entry `n` of the spill area (R195, R204). -/
def Csrs.spillAt (c : Csrs) (n : Nat) : Handle := mkHandle (bits c.rsspill 63 48) (8 * (bits c.rsspill 31 3 + n))

/-- The return address pushed; a full store spills its oldest entry first (R204). -/
def State.pushReturn (s : State) (ret : Dpa) : Res :=
  let c := s.ctx.csr
  if s.ctx.ras.length < 16 then .ok (s.updCtx (fun x => { x with ras := ret :: x.ras }))
  else if bits c.rsspill 63 48 = 0 ∨ c.spilled.toNat = bits c.rsspill 47 32 then
    failWith (s.faultRec 0x0B 0 0 (ret.zeroExtend 64) c.rsspill)
  else do
    let h := c.spillAt c.spilled.toNat
    let r ← s.access 0 h (hOff h) 8 rWR
    let s' := (s.storeG r (leBytes 8 (s.ctx.ras.getLast?.getD 0).toNat) 0).2
    .ok (s'.updCtx (fun x => { x with ras := ret :: x.ras.dropLast, csr := { x.csr with spilled := x.csr.spilled + 1 } }))

def State.callTo (s : State) (t : Dpa) : Res :=
  (s.pushReturn s.followPc).map (fun s => s.redirect t (fun e => { e with call := true }))

def execCall (o : BitVec 17) (s : State) : Host.Outcome State Fault Refusal := deliver s (s.callTo (s.target o))
def execCallx (a : BitVec 5) (s : State) : Host.Outcome State Fault Refusal := deliver s (s.callTo ((s.rs a).setWidth 48))

/-- The refill of R205: the read is a load whose data the next cycle waits for, then two empty cycles (R203). -/
def State.refillReturn (s : State) : Res := do
  let c := s.ctx.csr
  let h := c.spillAt (c.spilled.toNat - 1)
  let r ← s.access 0 h (hOff h) 8 rRD
  let t : Dpa := BitVec.ofNat 48 (leNat (s.ownBytes r))
  let s' := s.issueOp { id := 0, ctx := 0, kind := .load .none .scalar r none, cls := 0x20, lat := s.homeLat r }
  let s' := s'.updCtx (fun x => { x with
    pend := x.pend ++ [{ due := s.core.cyc + 1, wr := .none, land := s.pk.opCtr, ready := false }]
    csr := { x.csr with spilled := x.csr.spilled - 1 } })
  let s' := if s.pk.isRemote r.via then s'.updPk (fun k => { k with freeCtr := k.freeCtr + 1 }) else s'
  .ok (s'.redirect t (fun e => { e with call := true, refill := true }))
def execRet (s : State) : Host.Outcome State Fault Refusal :=
  deliver s (match s.ctx.ras with
    | t :: ts => .ok ((s.updCtx (fun x => { x with ras := ts })).redirect t (fun e => { e with call := true }))
    | [] => if s.ctx.csr.spilled = 0 then failWith (s.faultRec 0x0C 0) else s.refillReturn)

/-- BEMPTY (R200): at depth 0 the top reads as all ones, so the branch is not taken. -/
def execBempty (o : BitVec 15) (w : BitVec 2) (s : State) : Host.Outcome State Fault Refusal :=
  done (if s.ctx.regs.top.toNat % 2 ^ (512 / 2 ^ w.toNat) = 0 then s.redirect (s.target o) id else s)

/-! ### The loop nest unit -/

/-- Words of the bundle whose header lies at `pc` (R110). -/
def Pack.bundleWords (k : Pack) (pc : Dpa) : Nat :=
  1 + (decodeHeader (BitVec.ofNat 32 (leNat (k.dpaRead pc.toNat 4)))).slotWords

/-- First addresses of the last of `n` bundles from `pc` up, and of the bundle after it. -/
def Pack.bodyEnd (k : Pack) (pc : Dpa) : Nat → Dpa × Dpa
  | 0 => (pc, pc)
  | n + 1 =>
    let next := pc + BitVec.ofNat 48 (4 * k.bundleWords pc)
    if n = 0 then (pc, next) else k.bodyEnd next n

def State.loopFault (s : State) (l : Nat) : FaultRec := s.faultRec 0x0D 0 l
def Lnu.level (u : Lnu) (l : Nat) : Option Level := u.act.find? (fun x => x.lvl == l)
/-- The last bundle of level `l`'s body. -/
def Lnu.lastOf (u : Lnu) (l : Nat) : Dpa := ((u.level l).map Level.last).getD 0

/-- LOOP (R206, R207, R208, R483): a trip count of 0 skips the body. One in slot X finds the strides that the S slot of its bundle
has noted (log 49). -/
def execLoop (l : BitVec 3) (a : BitVec 5) (n : BitVec 7) (s : State) : Host.Outcome State Fault Refusal :=
  let u := s.ctx.lnu
  let l := l.toNat
  let b := s.pk.bodyEnd s.followPc n.toNat
  if s.ctx.csr.inHandler ∨ s.ctx.iss.be.loopsBegun ≠ 0 ∨ (l > 0 ∧ (u.level (l - 1)).isNone) ∨ u.act.any (fun x => l ≤ x.lvl) ∨
      (l > 0 ∧ b.1.toNat > (u.lastOf (l - 1)).toNat) then
    deliver s (failWith (s.loopFault l))
  else
    let mine := (u.wait.filter (fun w => w.1 == l)).map Prod.snd
    let rest := u.wait.filter (fun w => w.1 != l)
    let s := s.updEnd (fun e => { e with loopsBegun := e.loopsBegun + 1 })
    if s.rs a = 0 then
      let t := if s.discards b.2 then s else s.updCtx (fun c => { c with lnu := { c.lnu with wait := rest } })
      done (t.redirect b.2 (fun e => { e with skip := some b.1 }))
    else
      done (s.updCtx (fun c => { c with lnu :=
        ⟨⟨l, (s.rs a).toNat, 1, s.followPc, b.1, b.2, mine⟩ :: c.lnu.act, rest⟩ }))

/-- LSTRD (R209). One in slot X finds the levels and strides as the S slot of its bundle has left them (log 49). -/
def execLstrd (l : BitVec 3) (a b : BitVec 5) (s : State) : Host.Outcome State Fault Refusal :=
  let u := s.ctx.lnu
  let l := l.toNat
  let others := u.wait.filter (fun w => !(w.1 == l && w.2.1 == a.toNat))
  if s.ctx.csr.inHandler ∨ (u.level l).isSome ∨ (others.filter (fun w => w.1 == l)).length ≥ 4 then
    deliver s (failWith (s.loopFault l))
  else done (s.updCtx (fun c => { c with lnu := { c.lnu with wait := others ++ [(l, a.toNat, s.rs b)] } }))

/-- LBRK (R211). -/
def execLbrk (l : BitVec 3) (s : State) : Host.Outcome State Fault Refusal :=
  match (if s.ctx.csr.inHandler then none else s.ctx.lnu.level l.toNat) with
  | none => deliver s (failWith (s.loopFault l.toNat))
  | some x => done (s.redirect x.after (fun e => { e with lbrk := some l.toNat }))

/-! ### Frames, yields, ends, traps -/

/-- FRAME (R151, R198): both writes take effect at the next bundle. -/
def execFrame (a b : BitVec 5) (m : BitVec 1) (s : State) : Host.Outcome State Fault Refusal :=
  let base := if m = 0 then s.rs a else BitVec.ofNat 64 s.tstamp + s.rs a
  let len := max 16 (min (s.rs b).toNat 2048)
  done (s.updEnd (fun e => { e with frame := some (base, BitVec.ofNat 64 len) }))

def execNop (s : State) : Host.Outcome State Fault Refusal := done s

/-- EXIT (R214). -/
def execExit (s : State) : Host.Outcome State Fault Refusal := done (s.updEnd (fun e => { e with exit_ := true }))

/-- PPT (R215, R99, R483): asks for the yield when a request is pending, inside its window and outside a handler. -/
def execPpt (r : BitVec 17) (s : State) : Host.Outcome State Fault Refusal :=
  done (match s.ctx.yield_ with
    | some till => if s.core.age ≤ till ∧ !s.ctx.csr.inHandler then s.updEnd (fun e => { e with ppt := some r.toNat }) else s
    | none => s)

/-- TRAP (R487): taken in the cycle after its bundle. -/
def execTrap (a : BitVec 5) (n : BitVec 7) (s : State) : Host.Outcome State Fault Refusal :=
  done (s.updEnd (fun e => { e with trap := some (s.faultRec 0x1F 0 n.toNat (s.rs a)) }))

/-- RETT (R488): handler-state outside a handler; it counts as an S-slot branch to TPC (R202). -/
def execRett (s : State) : Host.Outcome State Fault Refusal :=
  deliver s (if s.ctx.csr.inHandler then
      .ok (s.redirect (s.ctx.csr.tpc.setWidth 48) (fun e => { e with rett := true }))
    else failWith (s.faultRec 0x20 0))

end Sys2Proof.Machine
end

