-- ==== Sys2Proof/Machine/Csr.lean ====
section
/-! DEFINITION. Control and status registers (R192–R197, R475–R478). -/
namespace Sys2Proof.Machine
open Sys2Proof

/-- MTHR (R172): the step in force and the causes that ask for one. -/
def State.mthr (s : State) : Word :=
  let fix := bits (s.pk.ioRd 0x30000) 3 3
  let ramp := (s.pk.sched.ramps.any (fun r => r.cluster == s.cluster)).toNat
  BitVec.ofNat 64 ((decide (s.core.therm ≠ 0)).toNat * 2 ^ 11 + (decide (s.core.curr ≠ 0)).toNat * 2 ^ 10 + ramp * 2 ^ 9 +
    fix * 2 ^ 8 + s.core.step % 8)

/-- The value CSRR reads (R193); none when the number is unassigned. -/
def State.csrRead (s : State) (n : Nat) : Option Word :=
  let c := s.ctx.csr
  match n with
  | 0x00 => some (s.ctx.regs.fstat.zeroExtend 64)
  | 0x01 => some c.srseed
  | 0x02 => some c.npdef
  | 0x03 => some c.btab
  | 0x04 => some c.ownid
  | 0x05 => some c.place
  | 0x06 => some c.lease
  | 0x07 => some c.issctl
  | 0x08 => some c.frbase
  | 0x09 => some c.frlen
  | 0x0A => some c.frpos
  | 0x0B => some c.enrg
  | 0x0C => some c.rsspill
  | 0x0D => some (BitVec.ofNat 64 (c.spilled.toNat * 2 ^ 32 + s.ctx.ras.length))
  | 0x0E => some c.brdrop
  | 0x10 => some c.tovf
  | 0x20 => some (BitVec.ofNat 64 s.core.cyc)
  | 0x21 => some (BitVec.ofNat 64 s.core.frzcyc)
  | 0x22 => some s.core.mergeage
  | 0x23 => some s.core.ddthr
  | 0x24 => some s.core.ddstat
  | 0x25 => some s.mthr
  | 0x26 => some (s.pk.vfstat s.core.num)
  | 0x27 => some (BitVec.ofNat 64 s.tstamp)
  | 0x28 => some wsrw
  | 0x40 => some c.tvec
  | 0x41 => some c.tpc
  | 0x42 => some c.tcause
  | 0x43 => some c.tval
  | 0x44 => some c.tval2
  | 0x45 => some c.tfpc
  | 0x46 => some c.tstat
  | 0x48 => some c.tscr0
  | 0x49 => some c.tscr1
  | 0x4A => some c.tscr2
  | 0x4B => some c.tscr3
  | _ => none

/-- The bits a context may write (R193); none for an R CSR. FSTAT's are write-1-to-clear. -/
def csrMask (n : Nat) : Option Word :=
  match n with
  | 0x00 => some 0x3F
  | 0x01 => some (BitVec.allOnes 64)
  | 0x07 => some 1
  | 0x08 => some (BitVec.allOnes 64)
  | 0x09 => some 0xFFF
  | 0x0C => some 0xFFFF_FFFF_FFFF_FFF8
  | 0x0E => some 0xFFFF_FFFF
  | 0x10 => some 0xFFFF_FFFF_FFFF_FF01
  | 0x40 => some 0x8000_0000_FFFF_FFFF
  | 0x41 => some 0xFFFF_FFFF_FFFF
  | 0x48 => some (BitVec.allOnes 64)
  | 0x49 => some (BitVec.allOnes 64)
  | 0x4A => some (BitVec.allOnes 64)
  | 0x4B => some (BitVec.allOnes 64)
  | _ => none

/-- FRLEN stores 16 to 2,048 (R151). -/
def clampLen (x : Word) : Word := BitVec.ofNat 64 (max 16 (min x.toNat 2048))

/-- A CSR written, at the end of the bundle that writes it, for the next one (R192). For FSTAT the word names the bits to clear; flags
that come later, in empty cycles before the next bundle too, stay (log 73). -/
def Ctx.csrWrite (c : Ctx) (n : Nat) (x : Word) : Ctx :=
  let r := c.csr
  match n with
  | 0x00 => { c with regs := { c.regs with fstat := clearFlags c.regs.fstat x } }
  | 0x01 => { c with csr := { r with srseed := x } }
  | 0x07 => { c with csr := { r with issctl := x } }
  | 0x08 => { c with csr := { r with frbase := x } }
  | 0x09 => { c with csr := { r with frlen := clampLen x } }
  | 0x0C => { c with csr := { r with rsspill := x } }
  | 0x0E => { c with csr := { r with brdrop := x } }
  | 0x10 => { c with csr := { r with tovf := x } }
  | 0x40 => { c with csr := { r with tvec := x } }
  | 0x41 => { c with csr := { r with tpc := x } }
  | 0x48 => { c with csr := { r with tscr0 := x } }
  | 0x49 => { c with csr := { r with tscr1 := x } }
  | 0x4A => { c with csr := { r with tscr2 := x } }
  | 0x4B => { c with csr := { r with tscr3 := x } }
  | _ => c

def State.csrFault (s : State) (n : Nat) : FaultRec := s.faultRec 0x0A 0 0 (BitVec.ofNat 64 n)

/-- The old value to sd at latency 2, the new one at the next bundle; `f` forms it from the old value and sa, and `clr`
gives the flags FSTAT loses. -/
def State.csrModify (s : State) (d a : BitVec 5) (n : BitVec 7) (f : Word → Word → Word) (clr : Word → Word) : Res :=
  match s.csrRead n.toNat, csrMask n.toNat with
  | some old, some m =>
    let x := if n = 0 then clr (s.rs a) &&& m else (old &&& ~~~m) ||| (f old (s.rs a) &&& m)
    .ok ((s.putS d 2 old).updEnd (fun e => { e with csrw := e.csrw ++ [(n.toNat, x)] }))
  | _, _ => failWith (s.csrFault n.toNat)

def execCsrr (d : BitVec 5) (n : BitVec 7) (s : State) : Host.Outcome State Fault Refusal :=
  deliver s (match s.csrRead n.toNat with
    | some x => .ok (s.putS d 2 x)
    | none => failWith (s.csrFault n.toNat))
def execCsrw (d a : BitVec 5) (n : BitVec 7) (s : State) : Host.Outcome State Fault Refusal :=
  deliver s (s.csrModify d a n (fun _ x => x) id)
def execCsrs (d a : BitVec 5) (n : BitVec 7) (s : State) : Host.Outcome State Fault Refusal :=
  deliver s (s.csrModify d a n (fun old x => old ||| x) id)
def execCsrc (d a : BitVec 5) (n : BitVec 7) (s : State) : Host.Outcome State Fault Refusal :=
  deliver s (s.csrModify d a n (fun old x => old &&& ~~~x) (fun _ => 0))
/-- RDTS (R197). -/
def execRdts (d : BitVec 5) (s : State) : Host.Outcome State Fault Refusal :=
  done (s.putS d 2 (BitVec.ofNat 64 s.tstamp))

end Sys2Proof.Machine
end

