-- ==== Sys2Proof/Machine/Bundles.lean ====
section
/-! DEFINITION. The ends of bundles and of cycles, and the steps of a core that have no encoding: due writes and landings
(R137, R139, R144–R148, R210), idle, empty and nullified bundles (R118, R149, R153), droop (R163–R168), throttle (R171),
OVERRUN (R154), handler entry, replay and yields (R480–R490, R99). -/
namespace Sys2Proof.Machine
open Sys2Proof

/-! ### Frames (R150, R151) -/

/-- FT of a context at a tick (R150). -/
def Ctx.ft (c : Ctx) (h : Nat) : Int := 2 * (BitVec.ofNat 64 (h / 2) - c.csr.frbase).toInt + (h % 2 : Nat)
def Ctx.frLen (c : Ctx) : Int := ((clampLen (c.csr.frlen &&& 0xFFF)).toNat : Int)
def Ctx.frame (c : Ctx) (h : Nat) : Int := c.ft h / c.frLen
def Ctx.framePos (c : Ctx) (h : Nat) : Int := c.ft h % c.frLen
/-- The frame the context refers to becomes the present one (R151); not in a handler. `h` is the first half nanosecond of the issuing
cycle (log 6). -/
def Ctx.markFrame (c : Ctx) (h : Nat) : Ctx :=
  if c.csr.inHandler then c
  else { c with framed := false, csr := { c.csr with
    frpos := BitVec.ofNat 64 (((c.frame h % 2 ^ 53).toNat) * 2 ^ 11 + (c.framePos h).toNat) } }
/-- FT of the next tick, from `h` on, at which the frame position is FRPOS.POS (R156). -/
def Ctx.positionFt (c : Ctx) (h : Nat) : Int := c.ft h + ((bits c.csr.frpos 10 0 : Int) - c.framePos h) % c.frLen
/-- The reference frame becomes the one of FT `t`; POS stays (R151, R156, R198). Not in a handler. -/
def Ctx.refer (c : Ctx) (t : Int) : Ctx :=
  if c.csr.inHandler then c
  else
    let x := (t / c.frLen % 2 ^ 53).toNat * 2 ^ 11 + bits c.csr.frpos 10 0
    { c with csr := { c.csr with frpos := BitVec.ofNat 64 x } }
/-- At context start the reference frame is the present one (R151). -/
def Ctx.startFrame (c : Ctx) (h : Nat) : Ctx :=
  { c with csr := { c.csr with frpos := BitVec.ofNat 64 ((c.frame h % 2 ^ 53).toNat * 2 ^ 11) } }
/-- Reference frame (R151): REF holds its low 53 bits. -/
def Ctx.refFrame (c : Ctx) (h : Nat) : Int := nearest 53 (bits c.csr.frpos 63 11) (c.frame h)
/-- FT of the target tick of a stamped bundle (R153). -/
def Ctx.targetFt (c : Ctx) (h : Nat) (hd : Header) : Int := (c.refFrame h + hd.fa.toNat) * c.frLen + hd.stamp.toNat

/-! ### In flight at fetch (R149, R203) -/

def Wr.hitsPred (g : Nat) : Wr → Bool
  | .p r _ => r == g
  | .preds m _ => m.getLsbD g
  | _ => false
def Wr.hitsMask : Wr → Bool
  | .mpush _ => true
  | .minv => true
  | .mpop => true
  | _ => false
/-- Everything of the context in flight when the bundle of the present cycle was fetched: a snapshot about to replay, and what is
written in this very cycle, too (R203, R224; log 57). -/
def Ctx.flying (c : Ctx) : List Pend := (if c.replay then c.held else []) ++ c.pend ++ c.landed
def guardKnown (fly : List Pend) (g : Guard) : Bool := g.g == 0 || !fly.any (fun p => p.wr.hitsPred g.g.toNat)
/-- Does the guard hold (R114)? -/
def Ctx.guardTrue (c : Ctx) (g : Guard) : Bool := c.regs.rp g.g.toNat != (g.n == 1)
/-- Does the iteration qualifier hold (R115, R483)? -/
def Ctx.iqTrue (c : Ctx) (lql : Nat) (q : BitVec 2) : Bool :=
  match c.lnu.level lql with
  | none => true
  | some l => match q.toNat with
    | 0 => true
    | 1 => l.iter == 1
    | 2 => l.iter == l.trip
    | _ => l.iter == 1 || l.iter == l.trip
def Ctx.executes (c : Ctx) (lql : Nat) (x : SlotInstr) : Bool := c.guardTrue x.gd && c.iqTrue lql x.gd.q
/-- Known at fetch not to execute (R149). -/
def Ctx.knownIdle (c : Ctx) (lql : Nat) (x : SlotInstr) : Bool :=
  !c.iqTrue lql x.gd.q || (guardKnown c.flying x.gd && !c.guardTrue x.gd)

/-! ### The end of a bundle -/

/-- The decision at a body's last bundle (R208): next bundle, levels left, strides to apply. -/
def lnuEnd (last dflt : Dpa) : List Level → Dpa × List Level × List (Nat × Word)
  | [] => (dflt, [], [])
  | x :: xs =>
    if x.last = last then
      if x.iter < x.trip then (x.first, { x with iter := x.iter + 1 } :: xs, x.strides)
      else
        let r := lnuEnd last x.after xs
        (r.1, r.2.1, x.strides ++ r.2.2)
    else (dflt, x :: xs, [])

def isBranch : Instr → Bool
  | .b .. | .bx .. | .call .. | .callx .. | .ret | .bempty .. => true
  | _ => false
/-- The empty cycles one branch slot costs (R203), `fly` what was in flight at fetch. (!p0) is a guard other than p0 (log 72). -/
def slotCost (fly : List Pend) (det taken : Bool) (x : SlotInstr) : Nat :=
  let p0 := x.gd.g == 0 && x.gd.n == 0
  match x.i with
  | .b .. | .call .. => if det then (if p0 then 0 else 2) else if taken && !guardKnown fly x.gd then 2 else 0
  | .bempty .. =>
    if det then 2 else if taken && !(guardKnown fly x.gd && !fly.any (fun p => p.wr.hitsMask)) then 2 else 0
  | .bx .. | .callx .. => if det || taken then 2 else 0
  | .ret => if det then 2 else 0
  | _ => 0
def bundleCost (fly : List Pend) (det : Bool) (e : BundleEnd) (slots : List (Slot × BitVec 32 × SlotInstr)) : Nat :=
  let base := if e.skip.isSome ∨ e.xskip ∨ e.refill then 2 else 0
  slots.foldl (fun n p =>
    max n (slotCost fly det (if p.1 = .X then e.xBranch.isSome else e.sBranch.isSome) p.2.2)) base

/-- The ranges of a record (low, length). -/
def liveRanges (w : List Word) : List (Nat × Nat) :=
  (List.range (bits (wordAt w 2) 2 0)).map (fun i => (bits (wordAt w (3 + i)) 21 0, bits (wordAt w (3 + i)) 44 22))
def liveOk (w : List Word) : Bool :=
  bits (wordAt w 1) 63 61 == 0 && bits (wordAt w 2) 63 3 == 0 && decide (bits (wordAt w 2) 2 0 ≤ 5) &&
  [3, 4, 5, 6, 7].all (fun j => bits (wordAt w j) 63 45 == 0) &&
  (liveRanges w).all (fun r => decide (0 < r.2) && decide (r.1 + r.2 ≤ 2 ^ 22))
/-- Record `r` of a context's code, as the yield reads it (R215); none, a full save, where it is malformed,
outside the code (R135) or not to be read (R496). -/
def Pack.liveRecord (k : Pack) (c : Ctx) (r : Nat) : Option (List Word) :=
  let w := k.dpaWords (c.code.toNat + 64 * r) 8
  if 64 * r + 64 ≤ c.codelen ∧ liveOk w ∧ (k.dpaBad (c.code.toNat + 64 * r) 64).isEmpty then some w else none

/-- A context yields (R99, R481, R491): its results in flight pass into the snapshot with their counts from `f`, and it keeps
the L, G and matrix points that R396 makes it wait for; one that has not met the points of its last save keeps those. -/
def State.yieldAt (s : State) (f : Nat) (snap : List Pend) (regs : Regs) (live : Option Nat) : State :=
  let s := s.updCtx (fun c => { c with
    mode := .saving
    regs := regs
    pend := (if c.replay then c.held else []) ++ snap
    held := if c.replay then [] else c.held
    faults := c.faultsKept
    replay := false
    resume := true
    landed := []
    undo := none
    stallAt := none
    framed := c.csr.det
    notBefore := c.notBefore - f
    yield_ := none
    pptRec := none
    live := live.bind (s.pk.liveRecord c)
    points := if c.mode = .waiting then c.points else [s.tlL, s.tlG, s.tlM].map (fun t => (t, (s.pk.tl t).iss))
    drainAt := some f })
  let rec_ := match live with
    | some r => s.pk.dpaBad (s.ctx.code.toNat + 64 * r) 64
    | none => []
  s.updPk (fun k => (((k.logSectors rec_).forget (waitOfCtx s.ctx.num)).forget (testOfCtx s.ctx.num)).schedule 0 .contextSaveDone
    { n := s.ctx.num })

/-- Where a bundle leads: the LNU, the next pc and the strides due (R202, R208, R210–R212). -/
def Ctx.goOn (c : Ctx) (e : BundleEnd) (pc follow : Dpa) : Dpa × Lnu × List (Nat × Word) :=
  let u := c.lnu
  match e.sBranch.or e.xBranch with
  | none =>
    let r := lnuEnd pc follow u.act
    (r.1, { u with act := r.2.1 }, r.2.2)
  | some t =>
    let x := match e.skip, e.lbrk with
      | some last, _ =>
        let r := lnuEnd last t u.act
        (r.1, { u with act := r.2.1 }, r.2.2)
      | none, some l => (t, { u with act := u.act.filter (fun x => x.lvl < l) }, [])
      | none, none =>
        if e.call then (t, { u with act := [] }, [])
        else match u.act with
          | x :: _ => if pc.toNat < t.toNat ∧ t.toNat ≤ x.last.toNat then (t, u, []) else (t, { u with act := [] }, [])
          | [] => (t, u, [])
    match e.xlbrk with
    | some l => (x.1, { x.2.1 with act := x.2.1.act.filter (fun y => y.lvl < l) }, x.2.2)
    | none => x

/-- The end of a bundle that issued or was nullified in the present cycle: CSR writes, FRAME, fences, the next bundle, its
cost, and what EXIT, TRAP, RETT and PPT ask for. -/
def State.endBundle (s : State) (fly : List Pend) (slots : List (Slot × BitVec 32 × SlotInstr)) : State :=
  let e := s.ctx.iss.be
  let h := s.pk.halves
  let r := s.ctx.goOn e s.ctx.iss.pc s.followPc
  let cost := bundleCost fly s.ctx.csr.det e slots
  let c := s.ctx.markFrame h
  let c := e.csrw.foldl (fun (c : Ctx) w => c.csrWrite w.1 w.2) c
  let c := match e.frame with
    | some (base, len) => { c with csr := { c.csr with frbase := base, frlen := len }, reframe := !c.csr.inHandler }
    | none => c
  let c := match e.fence with
    | some (ids, q) => if ids.isEmpty ∨ q = 0 then c else { c with fences := c.fences ++ [(ids, q)] }
    | none => c
  let c := { c with
    pc := r.1
    lnu := r.2.1
    stallAt := none
    owe := c.owe + cost
    pend := c.pend ++ r.2.2.map (fun p => { due := s.core.cyc + 1, wr := .stride p.1 p.2 }) }
  let s := { s with ctx := c }
  if e.exit_ then
    (((s.updCtx (fun c => { c with
      mode := .exited, pptRec := none, pend := [], held := [], landed := [], undo := none, lnu := {}, ras := [], spin := {}, faults := []
      q := c.q.map (fun q => { q with run := false }) })).updPk
      (fun k => { k with ops := k.ops.filter (fun o => !(o.ctx == s.ctx.num && o.launch == s.ctx.launch && o.dropsAtExit && !o.begun)) }.scheduleCc
        1 .launchRetire { n := s.ctx.launch })).noteEnd)
  else
    let s := if e.rett then s.returnFromTrap else s
    let s := match e.trap with
      | some t => s.updCtx (fun c => { c with faults := t :: c.faults })
      | none => s
    match e.ppt with
    | some rec => s.updCtx (fun c => { c with pptRec := some rec })
    | none => s

/-! ### Due writes -/

/-- The first entry due in the present cycle. -/
def Ctx.dueEntry (c : Ctx) (cyc : Nat) : Option Pend :=
  if c.resume then none else c.pend.find? (fun p => decide (p.due ≤ cyc))
/-- The yield of a PPT whose empty cycles are spent: its next bundle would issue in cycle `cyc` (R481). -/
def Ctx.pptYields (c : Ctx) (cyc : Nat) : Bool := c.pptRec.isSome && c.owe == 0 && decide (c.notBefore ≤ cyc)
/-- A yield request asks for a full save at the next bundle boundary: the window of R99 has ended, or the context is in its handler. -/
def Ctx.windowOver (c : Ctx) (age : Nat) : Bool := c.yield_.any (fun t => decide (t ≤ age) || c.csr.inHandler)
/-- A landing due whose data is absent (R146), unless a TRAP or the yield of a PPT is about to be taken (R481). -/
def Ctx.lateEntry (c : Ctx) (cyc : Nat) : Bool :=
  !c.resume && !c.faults.any (fun f => f.code == 0x1F) && !c.pptYields cyc && c.pend.any (fun p => decide (p.due ≤ cyc) && !p.ready)

/-- A stride at its due cycle (R210): lost to another write of the register, or kept out of an offset outside its range. -/
def Ctx.applyStride (c : Ctx) (cyc r : Nat) (b : Word) : Ctx :=
  let other (p : Pend) : Bool := match p.wr with
    | .a q _ => q == r
    | _ => false
  let later (p : Pend) : Bool := match p.wr with
    | .stride q _ => q == r
    | _ => false
  let now := c.pend.filter (fun p => decide (p.due ≤ cyc))
  if c.landed.any other ∨ now.any other ∨ now.any later then c
  else
    let h := c.regs.ra r
    let o : Int := (hOff h : Int) + b.toInt
    if 0 ≤ o ∧ o < 2 ^ 56 then { c with regs := c.regs.apply (.stride r b) }
    else { c with faults := c.faults ++ [{ code := 0x09, reg := BitVec.ofNat 8 r, idx := BitVec.ofNat 16 (hIdx h),
                                           tval := BitVec.ofInt 64 o, tval2 := BitVec.ofNat 64 (hOff h) }] }

/-- One due entry written, its flags ORed into FSTAT (R47, R137, R139); one in error stays as it is beside its fault (R480). -/
def Ctx.writeDue (c : Ctx) (cyc : Nat) (p : Pend) : Ctx :=
  let c := { c with undo := some (c.undo.getD c.regs), pend := removeFirst (fun q => decide (q.due ≤ cyc)) c.pend }
  match p.err with
  | some r => { c with faults := c.faults ++ [r], landed := c.landed ++ [p] }
  | none =>
    let c := match p.wr with
      | .stride r b => c.applyStride cyc r b
      | w => { c with regs := (c.regs.apply w).orFlags p.flags }
    { c with landed := c.landed ++ [p] }

def State.writeFirst (s : State) : State :=
  match s.ctx.dueEntry s.core.cyc with
  | some p => s.updCtx (fun c => c.writeDue s.core.cyc p)
  | none => s
/-- The oldest result due (R137, R138). -/
def execFixedLatencyWrite (s : State) : Host.Outcome State Fault Refusal := done s.writeFirst
/-- Held results whose data is absent though due with the bundle that replays them (R489). -/
def Ctx.replayWaits (c : Ctx) : Bool :=
  let l := (if c.replay then c.held else []) ++ (if c.resume then c.pend else [])
  l.any (fun p => p.due == 0 && !p.ready)
def Ctx.replaysNow (c : Ctx) : Bool := c.replay || c.resume
/-- The context has reached its next bundle, which nothing of its own holds back but R156, its stamp and its stalls. -/
def State.atBundle (s : State) (c : Ctx) : Bool :=
  c.mode == .run && c.faults.isEmpty && c.owe == 0 && decide (c.notBefore ≤ s.core.cyc)
/-- The frame position FRPOS.POS falls in the present cycle of `len` ticks (R156). -/
def Ctx.atPosition (c : Ctx) (h len : Nat) : Bool := decide (c.positionFt h - c.ft h < len)

/-- The oldest landing due; while data is absent the core spends a frozen period (R144, R146–R148). -/
def execLanding (s : State) : Host.Outcome State Fault Refusal :=
  done (if s.core.thaw ∨ s.ctx.lateEntry s.core.cyc ∨ s.sib.lateEntry s.core.cyc then
      s.updCore (fun c => { c with frzcyc := c.frzcyc + 1, frozen := true, thaw := false, turn := 4 })
    else s.writeFirst)

/-! ### Bundles that present no slot -/

/-- The issue record for the bundle at the pc. -/
def State.openBundle (s : State) (hw : BitVec 32) : State :=
  let h := decodeHeader hw
  s.updIss (fun _ => { pc := s.ctx.pc, words := 1 + h.slotWords, np := h.np.toNat, lql := h.lql.toNat })

/-- The header word at the pc. -/
def State.headerWord (s : State) : BitVec 32 := BitVec.ofNat 32 (leNat (s.pk.dpaRead s.ctx.pc.toNat 4))

/-- An idle bundle (R118): this cycle and STAMP more are empty. -/
def execIdleBundle (s : State) : Host.Outcome State Fault Refusal :=
  let s := s.openBundle s.headerWord
  done ((s.endBundle [] []).updCtx (fun c => { c with owe := c.owe + (decodeHeader s.headerWord).stamp.toNat }))
/-- An empty stamped bundle (R153): an empty cycle. -/
def execEmptyStampedBundle (s : State) : Host.Outcome State Fault Refusal :=
  done ((s.openBundle s.headerWord).endBundle [] [])
/-- The words of the bundle at the pc. -/
def State.bundleWords (s : State) (n : Nat) : List (BitVec 32) :=
  (List.range n).map (fun i => BitVec.ofNat 32 (leNat (s.pk.dpaRead (s.ctx.pc.toNat + 4 * i) 4)))
/-- A nullified bundle costs an empty cycle (R149). -/
def Ctx.nullCosts (c : Ctx) : Bool := c.csr.det || !c.flying.isEmpty || decide (c.nulls ≥ 2)
/-- A nullified bundle (R149): none of its slots executes, and the next one follows as after any bundle. One passed at no cycle
is neither an issue nor an empty cycle of R151, and the strides that it ends with, all that is then in flight, are written in the
same cycle, so that the next bundle sees them (R210). -/
def execNullifiedBundle (s : State) : Host.Outcome State Fault Refusal :=
  let hw := s.headerWord
  let slots := match decodeBundle s.pk.reduced hw ((s.bundleWords (1 + (decodeHeader hw).slotWords)).drop 1) with
    | .ok b => b.slots
    | .error _ => []
  done (((s.openBundle hw).endBundle s.ctx.flying slots).updCtx (fun (c : Ctx) =>
    let c := { c with nulls := c.nulls + 1 }
    if s.ctx.nullCosts then c
    else
      let c : Ctx := { c with pend := c.pend.map (fun (p : Pend) => { p with due := s.core.cyc }), csr := { c.csr with frpos := s.ctx.csr.frpos } }
      c.pend.foldl (fun c p => c.writeDue s.core.cyc p) c))

/-! ### Droop, throttle and the end of a cycle -/

/-- The supply of core `n` is sampled at `m` mV (R163): below DDTHR.TH it is a trip, which acts at the end of the present
pipeline cycle, after a freeze if there is one; which cycle a sample between two edges counts for is log 6. -/
def execDroopTrip (s : State) : Host.Outcome State Fault Refusal :=
  done (s.onCore s.pk.arg.n (fun c =>
    if c.ddthr.getLsbD 15 ∧ s.pk.arg.m < bits c.ddthr 9 0 then { c with trip := true } else c))

/-- The end of a pipeline cycle: `phase` follows unless a trip starts the response again (R165, R167, R168). -/
def State.endCycle (s : State) (phase : Nat) : State :=
  let clear (c : Ctx) : Ctx := { c with undo := none, landed := [], nulls := 0 }
  { s with
    ctx := clear s.ctx
    sib := clear s.sib
    core :=
      let c := s.core
      let start := c.trip && c.phase ≤ 64
      let trips := (bits c.ddstat 63 32 + start.toNat) % 2 ^ 32
      let half := (bits c.ddstat 31 0 + (decide (c.phase ≤ 64) && c.phase % 2 == 1).toNat) % 2 ^ 32
      { c with
        cyc := c.cyc + 1
        turn := 5
        taken := []
        stampTaken := false
        frozen := false
        trip := false
        stretched := decide (c.phase > 64)
        phase := if start then 70 else phase
        ddstat := BitVec.ofNat 64 (trips * 2 ^ 32 + half) } }
/-- The last stretched cycle ends (R165). -/
def execStretchEnd (s : State) : Host.Outcome State Fault Refusal := done (s.endCycle 64)
/-- The last cycle of half issue ends (R165). -/
def execHalfIssueEnd (s : State) : Host.Outcome State Fault Refusal := done (s.endCycle 0)

/-- The step the active causes ask of a core (R172–R174). -/
def Pack.wantedStep (k : Pack) (c : Core) : Nat :=
  let fix := if bits (k.ioRd 0x30000) 3 3 = 1 then bits (k.ioRd 0x30000) 2 0 else 0
  let ramp := ((k.sched.ramps.filter (fun r => r.cluster == c.num / 8)).map Ramp.step).foldl max 0
  max (max fix ramp) (max c.therm c.curr)
/-- A step change, at CYC mod 8 = 0 (R171). -/
def execThrottleStepChange (s : State) : Host.Outcome State Fault Refusal :=
  done (s.updCore (fun c => { c with step := s.pk.wantedStep c }))

/-! ### OVERRUN, deferred faults, handlers, yields -/

/-- OVERRUN (R154): STAMP and the position reached. -/
def State.overrun (s : State) (cause : Nat) : FaultRec :=
  let h := decodeHeader s.headerWord
  { s.faultRec 0x0F cause 0 (h.stamp.zeroExtend 64) (BitVec.ofInt 64 (s.ctx.framePos s.pk.halves)) with
    slot := 0, pc := s.ctx.pc, blen := 1 + h.slotWords }
/-- A stamped bundle misses its target cycle (R154 LATE). -/
def execTargetCycleEnd (s : State) : Host.Outcome State Fault Refusal := done (s.enterTrap (s.overrun 1))

/-- The oldest fault that waits for a bundle boundary is taken (R480, R487); one that has no bundle of its own, a stride's
(R210), names the bundle at the pc. -/
def execDeferredFault (s : State) : Host.Outcome State Fault Refusal :=
  match s.ctx.faults with
  | [] => done s
  | r :: rs =>
    let r := if r.code = 0x09 ∧ !r.defer then { r with pc := s.ctx.pc, blen := s.pk.bundleWords s.ctx.pc } else r
    done ((s.updCtx (fun c => { c with faults := rs })).enterTrap r)

/-- Why the words at the pc cannot be fetched (R121 check 1, R201, R496): the first address outside, or the error met. -/
def State.fetchFault (s : State) : Option FaultRec :=
  let pc := s.ctx.pc.toNat
  let lo := s.ctx.code.toNat
  let hi := lo + s.ctx.codelen
  let n := 1 + (decodeHeader s.headerWord).slotWords
  let rec_ (code : Nat) (a t : Nat) (words : Nat) : FaultRec :=
    { s.faultRec code 0 0 (BitVec.ofNat 64 a) (BitVec.ofNat 64 t) with slot := 0, pc := s.ctx.pc, blen := words }
  if pc % 4 ≠ 0 ∨ pc < lo ∨ hi < pc + 4 then some (rec_ 0x01 pc 0 1)
  else
    match s.pk.readError ⟨.dram, dpaCell pc, 4⟩ with
    | some e => some (rec_ 0x1E e.2 5 1)
    | none =>
      if hi < pc + 4 * n then some (rec_ 0x01 (pc + (hi - pc) / 4 * 4) 0 n)
      else match (List.range n).findSome? (fun i => s.pk.readError ⟨.dram, dpaCell (pc + 4 * i), 4⟩) with
        | some e => some (rec_ 0x1E e.2 5 n)
        | none => none

/-- The header word itself cannot be fetched. -/
def State.headerBad (s : State) : Bool :=
  let pc := s.ctx.pc.toNat
  pc % 4 != 0 || decide (pc < s.ctx.code.toNat) || decide (s.ctx.code.toNat + s.ctx.codelen < pc + 4) ||
    (s.pk.readError ⟨.dram, dpaCell pc, 4⟩).isSome

/-- An uncorrectable error met by a bundle fetch is logged with KIND 5 (R496, R497). -/
def State.logFetch (s : State) (r : FaultRec) : State :=
  if r.code = 0x1E then s.updPk (fun k => k.logError 5 s.ctx.num r.tval.toNat) else s

/-- The handler's first bundle is fetched (R481); a failure freezes the context (R484 DOUBLE). -/
def execHandlerStart (s : State) : Host.Outcome State Fault Refusal :=
  done (match s.fetchFault with
    | some r => (s.logFetch r).freeze 1 s.ctx.pc r
    | none => s.updCtx (fun c => { c with mode := .run, drainAt := none }))

/-- Entries with a count fall due by it from cycle `cyc`. -/
def dueFrom (cyc : Nat) (l : List Pend) : List Pend := l.map (fun p => { p with due := p.due + cyc })
/-- The held entries fall due by their counts from the present cycle, before any write of the handler or of the code that
follows (R489): what has been written in this cycle is written again after those with count 0, so that it holds over them. An
entry without its data stays. A restored context's own snapshot replays likewise (R495). -/
def Ctx.replayNow (c : Ctx) (cyc : Nat) : Ctx :=
  let c := { c with
    resume := false
    replay := false
    held := if c.replay then [] else c.held
    regs := c.before
    landed := []
    faults := c.faultsKept
    pend := (if c.replay then dueFrom cyc c.held else []) ++ c.landed ++ (if c.resume then dueFrom cyc c.pend else c.pend) }
  let now := c.pend.filter (fun p => decide (p.due ≤ cyc) && p.ready)
  let rest := c.pend.filter (fun p => !(decide (p.due ≤ cyc) && p.ready))
  now.foldl (fun c p => c.writeDue cyc p) { c with pend := now ++ rest }
/-- The held results as a new trap entry keeps them when the bundle that would replay them is at fault: their counts stand, and
beside them what the handler left in flight (R490). -/
def Ctx.heldAgain (c : Ctx) (cyc : Nat) : List Pend := (if c.replay then c.held else []) ++ c.capture cyc
def execHeldSnapshotReplay (s : State) : Host.Outcome State Fault Refusal :=
  done (s.updCtx (fun c => c.replayNow s.core.cyc))

/-- The context yields at the present cycle, in which its next bundle would have issued (R481). -/
def State.yieldHere (s : State) (live : Option Nat) : State :=
  s.yieldAt s.core.cyc (s.ctx.capture s.core.cyc) s.ctx.before live
/-- The PPT window has ended, or the context is in its handler: a full save from this boundary (R99, R483). -/
def execYieldWindowExpiry (s : State) : Host.Outcome State Fault Refusal := done (s.yieldHere none)

end Sys2Proof.Machine
end

