-- ==== Sys2Proof/Machine/Local.lean ====
section
/-! DEFINITION. The L slot but for its streams: scratchpad accesses, witness loads, local atomics, the scalar L1, the weight
store (R297–R313, R319–R326). -/
namespace Sys2Proof.Machine
open Sys2Proof

/-! ### Scratchpad loads and stores (R303–R307) -/

/-- ea of a local or WS operand (R302). -/
def State.eaL (s : State) (a : BitVec 5) : Int := ((s.rs a).toNat : Int) + s.dispL

/-- A scratchpad load: its bytes are read at the banks after 4 cc and present `extra` later (R299). -/
def State.loadL (s : State) (dst : Wr) (shape : Shape) (reg k : Nat) (ps : List Piece) (extra : Nat) (waits : List Word := [])
    (wreg : Nat := 0) : Res :=
  s.issueLoad dst reg k { id := 0, ctx := 0, kind := .load dst shape ⟨ps, {}, 0⟩ none, cls := 0x80, lat := 4, lat2 := extra,
                          waits := waits, wreg := BitVec.ofNat 8 wreg }

/-- A scratchpad store, on the context's L timeline (R308). -/
def State.storeL (s : State) (ps : List Piece) (bytes : List Byte) : Word × State :=
  s.issueNumbered s.tlL { id := 0, ctx := 0, kind := .store ⟨ps, {}, 0⟩ bytes 0, cls := 0x40, lat := 4 }

/-- A record read at issue observes the context's own earlier stores (R308): one still under way to its bytes stalls it. -/
def State.waitOwn (s : State) (p : Piece) : Except Stop Unit :=
  if s.pk.ops.any (fun q => q.ctx == s.ctx.num && !q.taken && s.pk.anyMeets q.kind.writesR [⟨[p], {}, 0⟩]) then .error .stall
  else .ok ()
/-- A record read is an L-slot read: fences hold it (R416, R417). -/
def State.recordFenced (s : State) : Bool := (s.ctx.fenced 0x80).any s.idPending
/-- 4 cycles have passed since the bundle first tried to read its record (R299, R351). -/
def State.recordRead (s : State) : Bool := s.ctx.stallAt.any (fun t => t ≤ s.core.cyc)
/-- The state in which the bundle waits for its record. -/
def State.awaitRecord (s : State) : State :=
  if s.recordRead ∨ s.recordFenced then s else s.updCtx (fun c => { c with stallAt := some (c.stallAt.getD (s.core.cyc + 4)) })

/-- LDL (R303). -/
def execLdl (d a l : BitVec 5) (z : BitVec 2) (s : State) : Host.Outcome State Fault Refusal :=
  deliver s (do
    let ea ← s.localCheck (s.eaL a) (sizeOf z)
    s.waitLocal false [(ea, sizeOf z)]
    s.loadL (.s d.toNat 0) .scalar d.toNat (s.loK l) [s.spadPiece ea (sizeOf z)] 1)

/-- STL (R303). -/
def execStl (d a b : BitVec 5) (z : BitVec 2) (s : State) : Host.Outcome State Fault Refusal :=
  deliver s (do
    let ea ← s.localCheck (s.eaL a) (sizeOf z)
    s.waitLocal true [(ea, sizeOf z)]
    let r := s.storeL [s.spadPiece ea (sizeOf z)] (leBytes (sizeOf z) (s.rs b).toNat)
    .ok (r.2.putWitness d r.1))

/-- The tag of a descriptor: in the plain variant it must be well formed (R304). -/
def State.descTag (s : State) (b : BitVec 5) (v : BitVec 1) : Except Stop (BitVec 32) :=
  let t := (s.rs b).setWidth 32
  if v = 0 ∧ !tagOk t then failWith (s.fmtFault b.toNat t) else .ok t
/-- Bytes of a vector access (R304, R305). -/
def vecLen (v : BitVec 1) (tag : BitVec 32) : Nat := if v = 0 then plainLen tag else 324
def vecShape (v : BitVec 1) (tag : BitVec 32) : Shape := if v = 0 then .plain tag else .image
/-- The bytes of a vector store, whose plain variant needs a well-formed tag (R305). -/
def State.vecBytes (s : State) (b : BitVec 5) (v : BitVec 1) : Except Stop (List Byte) :=
  if v = 1 then .ok (imageBytes (s.rv b))
  else if tagOk (s.rv b).tag then .ok (plainBytes (s.rv b)) else failWith (s.fmtFault b.toNat (s.rv b).tag)

/-- LDLV (R304). -/
def execLdlv (d a b : BitVec 5) (v : BitVec 1) (s : State) : Host.Outcome State Fault Refusal :=
  deliver s (do
    let n := vecLen v ((s.rs b).setWidth 32)
    let t ← s.descTag b v
    let ea ← s.localCheck (s.eaL a) n
    s.waitLocal false [(ea, n)]
    s.loadL (.v d.toNat {}) (vecShape v t) d.toNat (descK (s.rs b)) [s.spadPiece ea n] 2)

/-- STLV (R305). -/
def execStlv (d a b : BitVec 5) (v : BitVec 1) (s : State) : Host.Outcome State Fault Refusal :=
  deliver s (do
    let n := vecLen v (s.rv b).tag
    let bs ← s.vecBytes b v
    let ea ← s.localCheck (s.eaL a) n
    s.waitLocal true [(ea, n)]
    let r := s.storeL [s.spadPiece ea n] bs
    .ok (r.2.putWitness d r.1))

/-- Tags of gathered and scattered data: F32, I32 or N32 with nothing else set (R306). -/
def laneTagOk (t : BitVec 32) : Bool := t == tagOf .f32 || t == tagOf .i32 || t == tagOf .n32
/-- Lane addresses of va (R306), whose tag must be N32. -/
def State.laneAddrs (s : State) (a : BitVec 5) (d : Int) : List Int :=
  (unpackLanes (s.rv a).pay).map (fun (x : Nat) => Int.ofNat x + d)
where
  unpackLanes (p : BitVec 2048) : List Nat := (List.range 64).map (fun i => p.toNat / 2 ^ (32 * i) % 2 ^ 32)

/-- A data tag a gather or scatter takes (R306). -/
def State.laneTag (s : State) (reg : Nat) (t : BitVec 32) : Except Stop Unit :=
  if laneTagOk t then .ok () else failWith (s.fmtFault reg t)

/-- LDLX (R306). -/
def execLdlx (d a b : BitVec 5) (s : State) : Host.Outcome State Fault Refusal :=
  deliver s (do
    s.tagCheck a .n32
    let t := (s.rs b).setWidth 32
    s.laneTag b.toNat t
    let eas ← s.lanesCheck (s.laneAddrs a s.dispL) 4
    s.waitLocal false (eas.map (fun e => (e, 4)))
    s.loadL (.v d.toNat {}) (.lanes t) d.toNat (descK (s.rs b)) (eas.map (fun e => s.spadPiece e 4)) 4)

/-- STLX (R306): lanes ascending. -/
def execStlx (d a b : BitVec 5) (s : State) : Host.Outcome State Fault Refusal :=
  deliver s (do
    s.tagCheck a .n32
    s.laneTag b.toNat (s.rv b).tag
    let eas ← s.lanesCheck (s.laneAddrs a s.dispL) 4
    s.waitLocal true (eas.map (fun e => (e, 4)))
    let r := s.storeL (eas.map (fun e => s.spadPiece e 4)) (leBytes 256 (s.rv b).pay.toNat)
    .ok (r.2.putWitness d r.1))

/-- LDLW (R307). -/
def execLdlw (d a b : BitVec 5) (z : BitVec 2) (s : State) : Host.Outcome State Fault Refusal :=
  deliver s (do
    let ea ← s.localCheck (s.eaL a) (sizeOf z)
    s.witCheck b.toNat (s.rs b)
    s.waitLocal false [(ea, sizeOf z)]
    s.loadL (.s d.toNat 0) .scalar d.toNat (s.xLow 32) [s.spadPiece ea (sizeOf z)] 1 [s.rs b] b.toNat)

/-- Shape and length of a witness load of a vector: image, or vd's own tag, which must be well formed (R307). -/
def State.keptShape (s : State) (d : BitVec 5) (v : BitVec 1) : Except Stop Shape :=
  let t := (s.rv d).tag
  if v = 0 then .ok .image else if tagOk t then .ok (.plain t) else failWith (s.fmtFault d.toNat t)
def keptLen (v : BitVec 1) (tag : BitVec 32) : Nat := if v = 0 then 324 else plainLen tag

/-- LDLVW (R307). -/
def execLdlvw (d a b : BitVec 5) (v : BitVec 1) (s : State) : Host.Outcome State Fault Refusal :=
  deliver s (do
    let n := keptLen v (s.rv d).tag
    let sh ← s.keptShape d v
    let ea ← s.localCheck (s.eaL a) n
    s.witCheck b.toNat (s.rs b)
    s.waitLocal false [(ea, n)]
    s.loadL (.v d.toNat {}) sh d.toNat (s.xLow 32) [s.spadPiece ea n] 2 [s.rs b] b.toNat)

/-! ### Local atomics (R311–R313) -/

/-- A local atomic (R311): numbered in both forms (R308). -/
def State.atomicL (s : State) (fn : Nat) (d a b : BitVec 5) (w z : BitVec 1) : Res := do
  let n := atomSize z
  let ea ← s.localCheck (s.eaL a) n n
  s.waitLocal true [(ea, n)]
  let o : Op := { id := 0, ctx := 0, cls := 0x40, lat := 4, lat2 := 4,
                  kind := .atomic ⟨[s.spadPiece ea n], {}, 0⟩ true fn (lowBytes n (s.rs b)) (lowBytes n (s.rs d))
                    (if w = 0 then some d.toNat else none) }
  if w = 1 then
    let r := s.issueNumbered s.tlL o
    .ok (r.2.putWitness d r.1)
  else
    let r := s.pk.number s.tlL s.pk.opCtr
    { s with pk := r.2 }.issueLoad (.s d.toNat 0) d.toNat (s.xLow 16) { o with tl := s.tlL, seq := r.1 }

def execLaadd (d a b : BitVec 5) (w z : BitVec 1) (s : State) : Host.Outcome State Fault Refusal := deliver s (s.atomicL 0 d a b w z)
def execLamin (d a b : BitVec 5) (w z : BitVec 1) (s : State) : Host.Outcome State Fault Refusal := deliver s (s.atomicL 1 d a b w z)
def execLamax (d a b : BitVec 5) (w z : BitVec 1) (s : State) : Host.Outcome State Fault Refusal := deliver s (s.atomicL 2 d a b w z)
def execLaand (d a b : BitVec 5) (w z : BitVec 1) (s : State) : Host.Outcome State Fault Refusal := deliver s (s.atomicL 3 d a b w z)
def execLaor (d a b : BitVec 5) (w z : BitVec 1) (s : State) : Host.Outcome State Fault Refusal := deliver s (s.atomicL 4 d a b w z)
def execLaxor (d a b : BitVec 5) (w z : BitVec 1) (s : State) : Host.Outcome State Fault Refusal := deliver s (s.atomicL 5 d a b w z)
def execLaswp (d a b : BitVec 5) (w z : BitVec 1) (s : State) : Host.Outcome State Fault Refusal := deliver s (s.atomicL 6 d a b w z)
def execLacas (d a b : BitVec 5) (w z : BitVec 1) (s : State) : Host.Outcome State Fault Refusal := deliver s (s.atomicL 7 d a b w z)
def execLafadd (d a b : BitVec 5) (w : BitVec 1) (s : State) : Host.Outcome State Fault Refusal := deliver s (s.atomicL 8 d a b w 0)
def execLafmin (d a b : BitVec 5) (w : BitVec 1) (s : State) : Host.Outcome State Fault Refusal := deliver s (s.atomicL 9 d a b w 0)
def execLafmax (d a b : BitVec 5) (w : BitVec 1) (s : State) : Host.Outcome State Fault Refusal := deliver s (s.atomicL 10 d a b w 0)

/-! ### The scalar L1 (R319–R321) -/

/-- A miss: read at the home as a G-slot load is, and its lines filled (R320). -/
def State.missC (s : State) (d : BitVec 5) (k : Nat) (r : Range) (waits : List Word) (wreg : Nat) : Res :=
  s.issueLoad (.s d.toNat 0) d.toNat k { id := 0, ctx := 0, kind := .load (.s d.toNat 0) .scalar r (some false), cls := 0x80,
                                         lat := s.homeLat r, waits := waits, wreg := BitVec.ofNat 8 wreg }

/-- LDC (R320): a hit reads the L1 at issue, 4 cc before its data (R299), and one that a FENCE holds back once that lets it go. -/
def execLdc (d a l : BitVec 5) (z : BitVec 2) (s : State) : Host.Outcome State Fault Refusal :=
  deliver s (do
    let r ← s.accessReg a s.dispL (sizeOf z) rRD
    let dev := s.pk.homeDev r.via
    match s.core.l1Read dev r.pieces with
    | some bs =>
      let dst : Wr := .s d.toNat (BitVec.ofNat 64 (leNat bs))
      let s' := s.updCore (fun c => (l1Lines r.pieces).foldl (Core.l1Use dev) c)
      s'.issueLoad dst d.toNat (s.loK l) { id := 0, ctx := 0, kind := .load dst .scalar r (some true), cls := 0x80, lat := 4,
                                           taken := !(s.ctx.fenced 0x80).any s.idPending }
    | none => s.missC d (s.loK l) r [] 0)

/-- LDCW (R320): always a miss. -/
def execLdcw (d a b : BitVec 5) (z : BitVec 2) (s : State) : Host.Outcome State Fault Refusal :=
  deliver s (do
    let r ← s.accessReg a s.dispL (sizeOf z) rRD
    s.witCheck b.toNat (s.rs b)
    s.missC d (s.xLow 32) r [s.rs b] b.toNat)

/-- SINVA (R321). -/
def execSinva (s : State) : Host.Outcome State Fault Refusal := done (s.updCore (fun c => { c with l1 := [] }))
/-- SINV (R321): the lines of the named offsets below LIMIT, and such further lines as the part chooses (log 50); everything
when the index fails or the range passes the L1's own size. -/
def execSinv (a b : BitVec 5) (s : State) : Host.Outcome State Fault Refusal :=
  let h := s.ra a
  match s.pk.handleBad s.ctx.csr.btab s.ownId.toNat (hIdx h) 0 0 0 false with
  | some _ => done (s.updCore (fun c => { c with l1 := [] }))
  | none =>
    let e := s.pk.entryAt (bits s.ctx.csr.btab 47 0) (hIdx h)
    let n := min (s.rs b).toNat (e.limit - hOff h)
    if n > 32768 then done (s.updCore (fun c => { c with l1 := [] }))
    else
      let r := entryRange e (hOff h) n
      let lines := l1Lines r.pieces
      let dev := s.pk.homeDev r.via
      let more := Config.freeBits s.pk.freeCtr (512 * s.core.cyc + s.ctx.num)
      done (s.updCore (fun c => { c with l1 := (c.l1.zipIdx.filter (fun l => !(l.1.dev == dev && lines.contains l.1.cell) && !more.testBit l.2)).map Prod.fst }))

/-! ### The weight store (R322–R326) -/

/-- WLD (R323). -/
def execWld (d a b : BitVec 5) (v : BitVec 1) (s : State) : Host.Outcome State Fault Refusal :=
  deliver s (do
    let n := vecLen v ((s.rs b).setWidth 32)
    let t ← s.descTag b v
    let ea ← s.wsCheck (s.eaL a) n
    s.issueLoad (.v d.toNat {}) d.toNat (descK (s.rs b))
      { id := 0, ctx := 0, kind := .load (.v d.toNat {}) (vecShape v t) ⟨[s.wsPiece ea n], {}, 0⟩ none, cls := 0x80, lat := 24 })

/-- WLDX (R323). -/
def execWldx (d a l : BitVec 5) (z : BitVec 2) (s : State) : Host.Outcome State Fault Refusal :=
  deliver s (do
    let n := sizeOf z
    let ea ← s.wsCheck (s.eaL a) n
    s.issueLoad (.s d.toNat 0) d.toNat (s.loK l)
      { id := 0, ctx := 0, kind := .load (.s d.toNat 0) .scalar ⟨[s.wsPiece ea n], {}, 0⟩ none, cls := 0x80, lat := 20 })

/-- The two ranges of WLDS checked in the cause order of R298: EDGE, WSWIN, GROUP. -/
def State.wldsCheck (s : State) (src : Int) (dst n : Nat) : Except Stop Nat :=
  match s.wsCheck src n, s.localBad dst n 1 with
  | .error (.fault r), some (2, a) => if r.cause = 2 then .error (.fault r) else failWith (s.faultRec 0x13 2 0 a)
  | .error e, _ => .error e
  | .ok _, some (c, a) => failWith (s.faultRec 0x13 c 0 a)
  | .ok x, none => .ok x

/-- WLDS (R323): a destination entry on the scoreboard (R309); a length of 0 is complete at once. Its first 32 bytes come after
24 cc, then 256 a cycle (R299). -/
def execWlds (d a b : BitVec 5) (s : State) : Host.Outcome State Fault Refusal :=
  deliver s (do
    let n := 32 * bits (s.rs b) 40 24
    let ld := bits (s.rs b) 21 0
    let ea ← s.wldsCheck (s.eaL a) ld n
    if n = 0 then
      let r := s.pk.number s.tlL s.pk.opCtr
      .ok ({ s with pk := r.2.completeOp s.tlL r.1 }.putWitness d (pointWit s.tlL r.1))
    else
      s.waitLocal true [(ld, n)]
      if s.boardFull then .error .stall
      else
        let id := s.pk.opCtr
        let r := s.issueNumbered s.tlL { id := 0, ctx := 0, kind := .wlds (s.wsPiece ea n) (s.spadPiece ld n), cls := 0x40,
                                         lat := 24 }
        .ok ((r.2.takeBoard id true [(ld, ld + n)]).putWitness d r.1))

/-- WSNEXT (R325). -/
def execWsnext (d a l : BitVec 5) (s : State) : Host.Outcome State Fault Refusal :=
  let q := bits (s.rs a) 1 0
  let v := match wsLeft q s.tstamp with
    | some n => 2 ^ 63 + 2 * n
    | none => 2 * (bits wsrw 47 32 - wsPhase q s.tstamp)
  deliver s (s.landNow (.s d.toNat (BitVec.ofNat 64 v)) (l.toNat + 1))

end Sys2Proof.Machine
end

