-- ==== Sys2Proof/Machine/Global.lean ====
section
/-! DEFINITION. The memory instructions of the G slot: loads, stores, counted stores, atomics, prefetch, MSC control (R328–R343,
R349, R350), and the copy queues with the Skew unit (R344–R348, R351, R352). -/
namespace Sys2Proof.Machine
open Sys2Proof

/-! ### Loads and stores (R332) -/

/-- A G-slot load: served at the home `lat` after nothing holds it, its data `extra` later than a scalar's (R331). -/
def State.loadG (s : State) (dst : Wr) (shape : Shape) (reg k : Nat) (r : Range) (extra : Nat) (waits : List Word := [])
    (wreg : Nat := 0) : Res :=
  s.issueLoad dst reg k { id := 0, ctx := 0, kind := .load dst shape r none, cls := 0x20, lat := s.homeLat r, lat2 := extra,
                          waits := waits, wreg := BitVec.ofNat 8 wreg }

/-- LDG. -/
def execLdg (d a l : BitVec 5) (z : BitVec 2) (s : State) : Host.Outcome State Fault Refusal :=
  deliver s (do
    let r ← s.accessReg a s.dispG (sizeOf z) rRD
    s.loadG (.s d.toNat 0) .scalar d.toNat (s.loK l) r 0)

/-- A store with its witness (R333); `count` is a reader count (R335). -/
def State.storeW (s : State) (d : BitVec 5) (r : Range) (bytes : List Byte) (count : Nat := 0) : State :=
  let x := s.storeG r bytes count
  x.2.putWitness d x.1

/-- STG. -/
def execStg (d a b : BitVec 5) (z : BitVec 2) (s : State) : Host.Outcome State Fault Refusal :=
  deliver s (do
    let r ← s.accessReg a s.dispG (sizeOf z) rWR
    .ok (s.storeW d r (leBytes (sizeOf z) (s.rs b).toNat)))

/-- LDGV (R304, R332). -/
def execLdgv (d a b : BitVec 5) (v : BitVec 1) (s : State) : Host.Outcome State Fault Refusal :=
  deliver s (do
    let t ← s.descTag b v
    let r ← s.accessReg a s.dispG (vecLen v t) rRD
    s.loadG (.v d.toNat {}) (vecShape v t) d.toNat (descK (s.rs b)) r 4)

/-- STGV (R305, R332). -/
def execStgv (d a b : BitVec 5) (v : BitVec 1) (s : State) : Host.Outcome State Fault Refusal :=
  deliver s (do
    let bs ← s.vecBytes b v
    let r ← s.accessReg a s.dispG bs.length rWR
    .ok (s.storeW d r bs))

/-- The lanes of a gather or scatter through a handle (R332): each is checked as a 4-byte access, ascending. -/
def State.lanesG (s : State) (a : BitVec n) (d : Int) (need : Nat) : List Int → Except Stop Range
  | [] => .ok {}
  | o :: os => do
    let r ← s.accessReg a (d + o) 4 need
    let rs ← s.lanesG a d need os
    .ok { r with pieces := r.pieces ++ rs.pieces }
def State.laneOffsets (s : State) (v : Nat) : List Int := (unpackW 32 64 (s.ctx.regs.rv v).pay.toNat).map Int.ofNat

/-- LDGX. -/
def execLdgx (d a b : BitVec 5) (s : State) : Host.Outcome State Fault Refusal :=
  deliver s (do
    s.tagCheck d .n32
    let t := (s.rs b).setWidth 32
    s.laneTag b.toNat t
    let r ← s.lanesG a s.dispG rRD (s.laneOffsets d.toNat)
    s.loadG (.v d.toNat {}) (.lanes t) d.toNat (descK (s.rs b)) r 4)

/-- STGX: data in the even register, offsets in the next (R328). -/
def execStgx (d a : BitVec 5) (b : BitVec 4) (s : State) : Host.Outcome State Fault Refusal :=
  let vb := 2 * b.toNat
  let v := s.ctx.regs.rv vb
  deliver s (do
    s.laneTag vb v.tag
    s.tagCheck (BitVec.ofNat 5 (vb + 1)) .n32
    let r ← s.lanesG a s.dispG rWR (s.laneOffsets (vb + 1))
    .ok (s.storeW d r (leBytes 256 v.pay.toNat)))

/-- LDGW. -/
def execLdgw (d a b : BitVec 5) (z : BitVec 2) (s : State) : Host.Outcome State Fault Refusal :=
  deliver s (do
    let r ← s.accessReg a s.dispG (sizeOf z) rRD
    s.witCheck b.toNat (s.rs b)
    s.loadG (.s d.toNat 0) .scalar d.toNat (s.xLow 64) r 0 [s.rs b] b.toNat)

/-- LDGVW (R307, R332). -/
def execLdgvw (d a b : BitVec 5) (v : BitVec 1) (s : State) : Host.Outcome State Fault Refusal :=
  deliver s (do
    let sh ← s.keptShape d v
    let r ← s.accessReg a s.dispG (keptLen v (s.rv d).tag) rRD
    s.witCheck b.toNat (s.rs b)
    s.loadG (.v d.toNat {}) sh d.toNat (s.xLow 64) r 4 [s.rs b] b.toNat)

/-- LDGXW: the modifier names the data tag (R332). -/
def execLdgxw (d a b : BitVec 5) (m : BitVec 2) (s : State) : Host.Outcome State Fault Refusal :=
  deliver s (do
    s.tagCheck d .n32
    let r ← s.lanesG a s.dispG rRD (s.laneOffsets d.toNat)
    s.witCheck b.toNat (s.rs b)
    let t := tagOf (if m = 0 then .f32 else if m = 1 then .i32 else .n32)
    s.loadG (.v d.toNat {}) (.lanes t) d.toNat (s.xLow 64) r 4 [s.rs b] b.toNat)

/-- STRC (R335): the reader count is X[7:0], 1 without an X word. -/
def execStrc (d a b : BitVec 5) (z : BitVec 2) (s : State) : Host.Outcome State Fault Refusal :=
  deliver s (do
    let r ← s.accessReg a s.dispG (sizeOf z) rWR
    .ok (s.storeW d r (leBytes (sizeOf z) (s.rs b).toNat) (s.xLow 1)))

/-- STRCV (R335). -/
def execStrcv (d a b : BitVec 5) (v : BitVec 1) (s : State) : Host.Outcome State Fault Refusal :=
  deliver s (do
    let bs ← s.vecBytes b v
    let r ← s.accessReg a s.dispG bs.length rWR
    .ok (s.storeW d r bs (s.xLow 1)))

/-! ### Home atomics (R339–R342) -/

/-- The displacement at which an atomic of `n` bytes acts: its effective offset rounded down (R342). -/
def State.dispAtom (s : State) (a : BitVec 5) (n : Nat) : Int :=
  let o : Int := (hOff (s.ra a) : Int) + s.dispG
  o / n * n - hOff (s.ra a)

/-- An operation of the class of G-slot atomics on the context's G timeline. -/
def State.atomicOp (s : State) (r : Range) (fn n : Nat) (v cmp : Word) (ret : Option Nat) : Op :=
  { id := 0, ctx := 0, kind := .atomic r false fn (lowBytes n v) (lowBytes n cmp) ret, cls := 0x30, lat := s.homeLat r }

/-- A home atomic (R340). -/
def State.atomicG (s : State) (fn : Nat) (d a b : BitVec 5) (w z : BitVec 1) : Res := do
  let n := atomSize z
  let r ← s.accessReg a (s.dispAtom a n) n (if w = 0 then rAT + rRD else rAT)
  if w = 1 then
    let x := s.issueNumbered s.tlG (s.atomicOp r fn n (s.rs b) (s.rs d) none)
    .ok (x.2.putWitness d x.1)
  else
    let x := s.pk.number s.tlG s.pk.opCtr
    { s with pk := x.2 }.issueLoad (.s d.toNat 0) d.toNat (s.xLow 64)
      { s.atomicOp r fn n (s.rs b) (s.rs d) (some d.toNat) with tl := s.tlG, seq := x.1 }

def execGaadd (d a b : BitVec 5) (w z : BitVec 1) (s : State) : Host.Outcome State Fault Refusal := deliver s (s.atomicG 0 d a b w z)
def execGamin (d a b : BitVec 5) (w z : BitVec 1) (s : State) : Host.Outcome State Fault Refusal := deliver s (s.atomicG 1 d a b w z)
def execGamax (d a b : BitVec 5) (w z : BitVec 1) (s : State) : Host.Outcome State Fault Refusal := deliver s (s.atomicG 2 d a b w z)
def execGaand (d a b : BitVec 5) (w z : BitVec 1) (s : State) : Host.Outcome State Fault Refusal := deliver s (s.atomicG 3 d a b w z)
def execGaor (d a b : BitVec 5) (w z : BitVec 1) (s : State) : Host.Outcome State Fault Refusal := deliver s (s.atomicG 4 d a b w z)
def execGaxor (d a b : BitVec 5) (w z : BitVec 1) (s : State) : Host.Outcome State Fault Refusal := deliver s (s.atomicG 5 d a b w z)
def execGaswp (d a b : BitVec 5) (w z : BitVec 1) (s : State) : Host.Outcome State Fault Refusal := deliver s (s.atomicG 6 d a b w z)
def execGacas (d a b : BitVec 5) (w z : BitVec 1) (s : State) : Host.Outcome State Fault Refusal := deliver s (s.atomicG 7 d a b w z)
def execGafadd (d a b : BitVec 5) (w : BitVec 1) (s : State) : Host.Outcome State Fault Refusal := deliver s (s.atomicG 8 d a b w 0)
def execGafmin (d a b : BitVec 5) (w : BitVec 1) (s : State) : Host.Outcome State Fault Refusal := deliver s (s.atomicG 9 d a b w 0)
def execGafmax (d a b : BitVec 5) (w : BitVec 1) (s : State) : Host.Outcome State Fault Refusal := deliver s (s.atomicG 10 d a b w 0)

/-- STRED (R341): wrapped sums of 4 or 8 bytes, or the GAFADD rule. -/
def execStred (d a b : BitVec 5) (t : BitVec 2) (s : State) : Host.Outcome State Fault Refusal :=
  let n := if t = 1 then 8 else 4
  deliver s (do
    let r ← s.accessReg a (s.dispAtom a n) n rAT
    let x := s.issueNumbered s.tlG { s.atomicOp r (if t = 2 then 8 else 0) n (s.rs b) 0 none with cls := 0x10 }
    .ok (x.2.putWitness d x.1))

/-! ### HCHK (R191) -/

/-- The rights class of HCHK (R191). -/
def chkRights (c : BitVec 2) : Nat :=
  if c = 0 then rRD else if c = 1 then rWR else if c = 2 then rAT ||| rRD else rCS
/-- The access that HCHK asks about would pass every check of R64; class 0b11 is that of a copy, which tier 3 passes. -/
def State.chkPasses (s : State) (a b : BitVec 5) (c : BitVec 2) : Bool :=
  (s.pk.handleBad s.ctx.csr.btab s.ownId.toNat (hIdx (s.ra a)) (hOff (s.ra a)) (s.rs b).toNat (chkRights c) (c = 3)).isNone
/-- HCHK (R191). An entry that the port does not hold is read as a load reads, and the core freezes until it comes (R146). -/
def execHchk (d a b : BitVec 5) (c : BitVec 2) (s : State) : Host.Outcome State Fault Refusal :=
  let i := hIdx (s.ra a)
  let e := entryPiece s.ctx.table i
  if s.hasEntry i ∧ !s.portHolds i then
    let s' := (s.fetchEntry i 0).issueOp { id := 0, ctx := 0, kind := .load .none .scalar ⟨[e], { cp := 2 }, 0⟩ none, cls := 0
                                           lat := s.homeLat ⟨[e], {}, 0⟩ }
    done (s'.updCtx (fun k => { k with pend := k.pend ++
      [{ due := s.core.cyc + 1, wr := .p d.toNat (s.chkPasses a b c), land := s.pk.opCtr, ready := false }] }))
  else deliver s (match (if s.hasEntry i then s.pk.readError e else none) with
    | some x => .error (.met (s.faultRec 0x1E 0 d.toNat (BitVec.ofNat 64 x.2) (BitVec.ofNat 64 x.1)))
    | none => .ok (s.putP d (s.chkPasses a b c)))

/-! ### Prefetch and MSC control (R349, R350) -/

/-- PREF and PREF.FD (R349): an operation without a number. -/
def execPref (a b : BitVec 5) (f : BitVec 1) (s : State) : Host.Outcome State Fault Refusal :=
  match s.accessReg a s.dispG (min (s.rs b).toNat (2 ^ 24)) rCS with
  | .ok r => done (s.issueOp { id := 0, ctx := 0, kind := .pref r, cls := 0, lat := s.homeLat r })
  | .error (.fault r) => if f = 1 then done s else deliver s (.error (.fault r))
  | .error (.met r) => if f = 1 then done (s.logMet r) else deliver s (.error (.met r))
  | .error e => deliver s (.error e)

/-- MSCWB and MSCINV (R350): over `ub` bytes from the handle's own offset. -/
def State.mscRange (s : State) (drop : Bool) (d a b : BitVec 5) : Res := do
  let r ← s.accessReg a 0 (s.rs b).toNat rRD
  let x := s.issueNumbered s.tlG { id := 0, ctx := 0, kind := .writeback r drop, cls := 0x10, lat := s.homeLat r }
  .ok (x.2.putWitness d x.1)
def execMscwb (d a b : BitVec 5) (s : State) : Host.Outcome State Fault Refusal := deliver s (s.mscRange false d a b)
def execMscinv (d a b : BitVec 5) (s : State) : Host.Outcome State Fault Refusal := deliver s (s.mscRange true d a b)

/-! ### Copies (R344–R348) -/

/-- The command fault (R348) with its control word. -/
def State.commandFault {α : Type} (s : State) (cause : Nat) (ctl : Word) : Except Stop α := failWith (s.faultRec 0x18 cause 0 ctl)
def State.cmdD (s : State) : BitVec 5 := s.ctx.iss.ops.d
def State.cmdA (s : State) : BitVec 5 := s.ctx.iss.ops.a
def State.cmdB (s : State) : BitVec 5 := s.ctx.iss.ops.b
/-- The control word of an engine command and the wait witness in the next register. -/
def State.ctl (s : State) : Word := s.rs s.cmdD
def State.waitReg (s : State) : Nat := s.cmdD.toNat + 1
def State.ctlWait (s : State) : Word := s.ctx.regs.rs s.waitReg

/-- Commands under way on a timeline. -/
def Pack.onTl (k : Pack) (tl : Nat) : Nat := (k.ops.filter (fun o => o.tl == tl && o.seq != 0)).length
/-- Timeline of copy queue `q` of the context's cluster (R344). -/
def State.tlCopy (s : State) (q : Nat) : Nat := 1600 + 14 * s.cluster + q
/-- Points of the context's L and G timelines, as a command takes them at issue (R346, R378). -/
def State.ownHeads (s : State) : List (Nat × Nat) := [(s.tlL, (s.pk.tl s.tlL).iss), (s.tlG, (s.pk.tl s.tlG).iss)]

/-- The scoreboard entry a local range of a command takes: write, low, length. -/
abbrev BoardWant := Option (Bool × Nat × Nat)

/-- A command enters copy queue `q` (R142, R309, R344–R346): stalls while the queue or the scoreboard is full. -/
def State.enqueueCopy (s : State) (q : Nat) (want : BoardWant) (kind : OpKind) (lat : Nat) : Res :=
  if s.pk.onTl (s.tlCopy q) ≥ 32 ∨ (want.isSome ∧ s.boardFull) then .error .stall
  else
    let id := s.pk.opCtr
    let x := s.issueNumbered (s.tlCopy q) { id := 0, ctx := 0, kind := kind, cls := 0x0C, lat := lat, waits := [s.ctlWait]
                                            wreg := BitVec.ofNat 8 s.waitReg, heads := s.ownHeads }
    let t := match want with
      | some (w, lo, n) => if n = 0 then x.2 else x.2.takeBoard id w [(lo, lo + n)]
      | none => x.2
    .ok (t.putWitness s.cmdD x.1)

/-- The fields of a copy's control word (R345, R348). -/
def State.copyCtl (s : State) : Except Stop (Nat × Nat) :=
  let q := bits s.ctl 31 28
  if q ≥ 14 then s.commandFault 1 s.ctl
  else if bits s.ctl 63 32 ≠ 0 then s.commandFault 2 s.ctl
  else .ok (q, bits s.ctl 27 0)
def copyCycles (n : Nat) : Nat := (n + 511) / 512

/-- COPY: between two handles. -/
def execCopy (s : State) : Host.Outcome State Fault Refusal :=
  deliver s (do
    let (q, n) ← s.copyCtl
    let a ← s.accessReg s.cmdA 0 n rCS true
    let b ← s.accessReg s.cmdB 0 n rCD true
    s.witCheck s.waitReg s.ctlWait
    s.enqueueCopy q none (.copy a b q) (s.homeLat a + s.homeLat b + copyCycles n))

/-- COPYL: into the scratchpad. -/
def execCopyl (s : State) : Host.Outcome State Fault Refusal :=
  deliver s (do
    let (q, n) ← s.copyCtl
    let a ← s.accessReg s.cmdA 0 n rCS true
    let e ← s.localCheck ((s.rs s.cmdB).toNat : Int) n
    s.witCheck s.waitReg s.ctlWait
    s.enqueueCopy q (some (true, e, n)) (.copy a ⟨[s.spadPiece e n], {}, 0⟩ q) (s.homeLat a + 20 + copyCycles n))

/-- COPYG: out of the scratchpad. -/
def execCopyg (s : State) : Host.Outcome State Fault Refusal :=
  deliver s (do
    let (q, n) ← s.copyCtl
    let e ← s.localCheck ((s.rs s.cmdA).toNat : Int) n
    let b ← s.accessReg s.cmdB 0 n rCD true
    s.witCheck s.waitReg s.ctlWait
    s.enqueueCopy q (some (false, e, n)) (.copy ⟨[s.spadPiece e n], {}, 0⟩ b q) (s.homeLat b + copyCycles n))

/-! ### The Skew unit (R351, R352) -/

/-- A pattern's ESZ as bytes, rows, columns, row strides. -/
def skewOf (p : List Word) : Nat × Nat × Nat × Nat × Nat :=
  (2 ^ bits (patW p 0) 57 56, bits (patW p 0) 55 44 + 1, bits (patW p 0) 43 32 + 1, bits (patW p 1) 55 0, bits (patW p 2) 21 0)
where
  patW (p : List Word) (j : Nat) : Word := (p[j]?).getD 0
def skewOk (p : List Word) : Bool :=
  match p with
  | [t0, t1, t2, t3] => bits t0 63 58 == 0 && bits t0 57 56 != 3 && bits t0 31 0 == 0 && bits t1 63 56 == 0 &&
      bits t2 63 22 == 0 && t3 == 0
  | _ => false

/-- SKPAT (R351): the local range, the stall while the record is read, the pattern. -/
def execSkpat (s : State) : Host.Outcome State Fault Refusal :=
  deliver s.awaitRecord (do
    let ea ← s.localCheck ((s.rs s.cmdA).toNat : Int) 32
    if !s.recordRead ∨ s.recordFenced then .error .stall
    s.waitLocal false [(ea, 32)]
    let pc := s.spadPiece ea 32
    s.waitOwn pc
    match s.pk.readError pc with
    | some e => .error (.met (s.faultRec 0x1E 0 0 (BitVec.ofNat 64 e.2) (BitVec.ofNat 64 e.1)))
    | none =>
      let p := (List.range 4).map (fun i => BitVec.ofNat 64 (leNat (((s.pk.mem.read pc).drop (8 * i)).take 8)))
      if skewOk p then .ok (s.updCtx (fun c => { c with skew := c.skew.setIfInBounds (s.cmdD.toNat % 4) p }))
      else s.commandFault 4 0)

/-- SKRD (R352): the footprints of source and destination, then the command. -/
def execSkrd (s : State) : Host.Outcome State Fault Refusal :=
  deliver s (do
    let q := bits s.ctl 31 28
    if q ≥ 14 then s.commandFault 1 s.ctl
    if bits s.ctl 63 32 ≠ 0 ∨ bits s.ctl 27 2 ≠ 0 then s.commandFault 2 s.ctl
    let p := (s.ctx.skew[bits s.ctl 1 0]?).getD []
    if p.isEmpty then s.commandFault 5 s.ctl
    let (esz, rows, cols, rstr, dstr) := skewOf p
    let h := s.ra s.cmdA
    let e ← s.accessEntry s.cmdA.toNat h (hOff h) ((rows - 1) * rstr + cols * esz) rCS true
    if e.tier = 3 ∨ (e.devn ≠ 0xFF ∧ e.devn ≠ s.pk.own) then s.commandFault 3 s.ctl
    let n := (cols - 1) * dstr + rows * esz
    let lo ← s.localCheck ((s.rs s.cmdB).toNat : Int) n
    s.witCheck s.waitReg s.ctlWait
    let rowsR := (List.range rows).map (fun i => entryRange e (hOff h + i * rstr) (cols * esz))
    let via := ((rowsR.head?).map Range.via).getD {}
    s.enqueueCopy q (some (true, lo, n)) (.skew (rowsR.flatMap Range.pieces) via (s.spadPiece lo n) dstr esz rows cols q)
      (110 + copyCycles (rows * cols * esz)))

end Sys2Proof.Machine
end

