-- ==== Sys2Proof/Machine/Witness.lean ====
section
/-! DEFINITION. The witness instructions of the S slot (R411–R418). -/
namespace Sys2Proof.Machine
open Sys2Proof

/-- The precise checks of a merge's operand (R404, R412): those of R399 but for failed local points, and for a remote point's
AHEAD. -/
def State.mergeCheck (s : State) (reg : Nat) (w : Word) : Except Stop Unit :=
  match s.pk.witness w none with
  | .bad 0x17 1 _ => .ok ()
  | .bad code cause t => failWith (s.witFault reg w code cause t)
  | _ => .ok ()

/-- WMRG (R404, R405, R412): a merge that waits for a stream point delivers its result late (R138, R146). -/
def execWmrg (d a b : BitVec 5) (x : BitVec 1) (s : State) : Host.Outcome State Fault Refusal :=
  deliver s (do
    s.mergeCheck a.toNat (s.rs a)
    s.mergeCheck b.toNat (s.rs b)
    match s.pk.merge (s.rs a) (s.rs b) with
    | .value w => .ok (s.putS d 2 (if x = 1 then s.pk.nameDev w else w))
    | .bad r code cause t => failWith (s.witFault (if r then b.toNat else a.toNat) (if r then s.rs b else s.rs a) code cause t)
    | .wait =>
      let s' := s.issueOp { id := 0, ctx := 0, kind := .merge (s.rs a) (s.rs b) (x == 1) a.toNat b.toNat, reg := d.setWidth 8, lat := 1,
                             waits := [s.rs a, s.rs b].filter isStreamPoint }
      .ok (s'.updCtx (fun c => { c with pend := c.pend ++
        [{ due := s.core.cyc + 2, wr := .s d.toNat 0, land := s.pk.opCtr, ready := false }] })))

/-- WWAIT (R414): stalls until the witness is satisfied; a remote point is asked for, and what the answer raises is taken when it
returns (R399). -/
def execWwait (a : BitVec 5) (s : State) : Host.Outcome State Fault Refusal :=
  let who := waitOfCtx s.ctx.num
  match (s.pk.answerTo who (s.rs a)).getD (s.pk.witness (s.rs a) none) with
  | .ok => done s
  | .bad code cause t => deliver (s.updPk (fun k => k.forget who)) (failWith (s.witFault a.toNat (s.rs a) code cause t))
  | .wait => deliver (s.updPk (fun k => Pack.ask who k (s.rs a))) (.error .stall)

/-- WTEST (R415): a remote point's AHEAD is not raised, and the next test asks anew. -/
def execWtest (d a : BitVec 5) (s : State) : Host.Outcome State Fault Refusal :=
  let who := testOfCtx s.ctx.num
  let false_ : State := (s.updPk (fun k => Pack.ask who (k.forgetPoint who (s.rs a)) (s.rs a))).putP d false
  match (s.pk.answerTo who (s.rs a)).getD (s.pk.witness (s.rs a) none) with
  | .ok => done (s.putP d true)
  | .bad 0x16 1 t =>
    if s.pk.isLocal (witDev (s.rs a)) then deliver s (failWith (s.witFault a.toNat (s.rs a) 0x16 1 t)) else done false_
  | .bad code cause t => deliver (s.updPk (fun k => k.forgetPoint who (s.rs a))) (failWith (s.witFault a.toNat (s.rs a) code cause t))
  | .wait => done false_

/-- The identities of the context's outstanding operations of the classes in `p` (R416). -/
def State.ofClass (s : State) (p : BitVec 8) : List Nat :=
  (s.pk.ops.filter (fun o => o.ctx == s.ctx.num && o.launch == s.ctx.launch && o.cls &&& p != 0)).map Op.id ++
  ((s.ctx.mq ++ [s.core.run, s.core.aside].filterMap (fun r => (r.filter (fun r => r.side == s.ctx.num % 2)).map MxRun.entry)).filter
    (fun e => (match e.op with
    | .mma .. => p.getLsbD 1
    | .mld => p.getLsbD 1
    | .mst => p.getLsbD 0
    | .mcvt .. => false))).map MEntry.id ++
  (s.core.done.filter (fun e => decide (e.side = s.ctx.num % 2) && e.entry.op == .mst && p.getLsbD 0)).map (fun e => e.entry.id)

/-- FENCE (R416, R417): in force for the bundles after this one. -/
def execFence (p q : BitVec 8) (s : State) : Host.Outcome State Fault Refusal :=
  done (s.updEnd (fun e => { e with fence := some (s.ofClass p, q) }))

/-- TLREAD (R418): sampled at issue. -/
def execTlread (d a : BitVec 5) (m : BitVec 2) (s : State) : Host.Outcome State Fault Refusal :=
  let id := bits (s.rs a) 11 0
  let t := s.pk.tl id
  deliver s
    (if 2576 ≤ id then failWith (s.witFault a.toNat (s.rs a) 0x15 3 0)
     else if m = 0 then .ok (s.putS d 4 (BitVec.ofNat 64 t.iss))
     else if m = 1 then .ok (s.putS d 4 (BitVec.ofNat 64 t.head))
     else if m = 2 ∨ t.flo = 0 then .ok (s.putS d 4 (BitVec.ofNat 64 t.flo))
     else if t.owner = s.ownId then
       .ok ((s.putS d 4 (BitVec.ofNat 64 t.flo)).updPk (fun k => k.setTl id { t with flo := 0 }))
     else .ok (s.putS d 4 (BitVec.ofNat 64 (t.flo + 2 ^ 63))))

/-- WHZN (R413). -/
def execWhzn (d : BitVec 5) (m : BitVec 2) (s : State) : Host.Outcome State Fault Refusal :=
  let dev := if m = 0 ∨ s.pk.own = 0xFF then 0xFF else if m = 1 then s.pk.own else 0xFE
  done (s.putS d 2 (horizon dev s.tstamp))

end Sys2Proof.Machine
end

