-- ==== Sys2Proof/Machine/Launch.lean ====
section
/-! DEFINITION. Command streams and their rings (R77–R81), launches from device code (R95, R96, R213), completion records,
DONE and interrupts (R81, R103–R106, R499). -/
namespace Sys2Proof.Machine
open Sys2Proof

/-! ### Streams (R77–R80) -/

def Pack.csBase (k : Pack) (n : Nat) : Word := k.ioRd (csOff n 0)
def Pack.csCtl (k : Pack) (n : Nat) : Word := k.ioRd (csOff n 8)
def Pack.csTail (k : Pack) (n : Nat) : Nat := (k.ioRd (csOff n 0x10)).toNat
def Pack.csHead (k : Pack) (n : Nat) : Nat := (k.ioRd (csOff n 0x18)).toNat
def Pack.csDone (k : Pack) (n : Nat) : Nat := (k.ioRd (csOff n 0x20)).toNat
def Pack.csStat (k : Pack) (n : Nat) : Word := k.ioRd (csOff n 0x28)
def Pack.csEn (k : Pack) (n : Nat) : Bool := (k.csCtl n).getLsbD 63
/-- Records the ring holds (R78). -/
def Pack.ringLen (k : Pack) (n : Nat) : Nat := 2 ^ bits (k.csBase n) 55 48
/-- DPA of record `j` (R79). -/
def Pack.ringSlot (k : Pack) (n j : Nat) : Nat := bits (k.csBase n) 47 0 + 128 * ((j - 1) % k.ringLen n)
def Pack.stream (k : Pack) (n : Nat) : StreamState := (k.sched.streams[n]?).getD {}
def Pack.updSched (k : Pack) (f : Sched → Sched) : Pack := { k with sched := f k.sched }
def Pack.updStream (k : Pack) (n : Nat) (f : StreamState → StreamState) : Pack :=
  k.updSched (fun d => { d with streams := d.streams.setIfInBounds n (f ((d.streams[n]?).getD {})) })

/-- TAIL becomes `v`, the new records appended now; they are numbered on the stream's timeline (R79, R80). -/
def Pack.appendTo (k : Pack) (n v : Nat) : Pack :=
  let new := v - k.csTail n
  let k := k.ioWr (csOff n 0x10) (BitVec.ofNat 64 v)
  let k := k.setTl (1536 + n) { k.tl (1536 + n) with iss := v }
  k.updStream n (fun s => { s with times := s.times ++ List.replicate new k.tstamp, ords := s.ords ++ List.replicate new k.opCtr })

/-! ### LAUNCH -/

/-- The heads of the context's L, G and matrix timelines as witnesses (R95). -/
def State.headWits (s : State) : List Word := [s.tlL, s.tlG, s.tlM].map (fun t => pointWit t (s.pk.tl t).iss)

/-- LAUNCH (R95, R213): its image is read as a load of the G timeline, and the record appended then. The launch fault comes before the
checks of R64 (log 31), and the way of the read never freezes the core (log 5). -/
def execLaunch (d a b : BitVec 5) (s : State) : Host.Outcome State Fault Refusal :=
  let n := (s.rs a).toNat
  deliver s (do
    if n ≥ 64 ∨ !s.pk.csEn n ∨ !(s.pk.csCtl n).getLsbD 62 ∨ bits (s.pk.csCtl n) 15 0 ≠ s.ownId.toNat then
      failWith (s.faultRec 0x0E 0 0 (s.rs a))
    let r ← s.accessReg b 0 128 rRD
    let id := s.pk.opCtr
    let x := s.issueNumbered s.tlG { id := 0, ctx := 0, kind := .append n r s.headWits, cls := 0x20, lat := 4
                                     reg := d.setWidth 8 }
    .ok (x.2.updCtx (fun c => { c with pend := c.pend ++
      [{ due := s.core.cyc + 4, wr := .s d.toNat 0, land := id, ready := false }] })))

/-- Merges in turn (R404), of an instruction that issued at TSTAMP `now`. -/
def Pack.mergeAll (k : Pack) (now : Nat) (w : Word) : List Word → Merged
  | [] => .value w
  | x :: xs => match k.mergeAt now w x with
    | .value y => k.mergeAll now y xs
    | m => m

/-- The record of an image (R95): BTAB for TABLE = 0, the merged WAIT. -/
def launchRecord (img : List Byte) (btab wait : Word) : List Byte :=
  let table := leNat ((img.drop 8).take 8)
  img.take 8 ++ leBytes 8 (if table = 0 then btab.toNat else table) ++ leBytes 8 wait.toNat ++ img.drop 24

/-- The image has been read: its WAIT is checked and merged, and the record appended unless the ring is full. -/
def State.appendImage (s : State) (o : Op) (n : Nat) (points : List Word) (img : List Byte) : State :=
  let w := BitVec.ofNat 64 (leNat ((img.drop 16).take 8))
  let land (s : State) (x : Word) : State := ((s.noteArrival o).onLanding o (fun p => { p with wr := .s o.reg.toNat x, ready := true })).finishOp o
  match s.mergeCheck 0 w with
  | .error (.fault r) => s.landFault o { o.lateFault r.code.toNat r.cause.toNat w r.tval2 with reg := 0 }
  | _ =>
    match (s.pk.answerTo o.id w).map (fun
        | .bad code cause t => Merged.bad false code cause t
        | _ => .wait) |>.getD (s.pk.mergeAll o.stamp w points) with
    | .bad _ code cause t => s.landFault o { o.lateFault code cause w t with reg := 0 }
    | .wait => (s.updPk (fun k => Pack.ask o.id k w)).poll o
    | .value m =>
      let j := s.pk.csTail n + 1
      if s.pk.csTail n - s.pk.csHead n ≥ s.pk.ringLen n then land s 0xC000_0000_0000_0000
      else
        let s := s.updPk (fun k => (k.dpaWrite (k.ringSlot n j) (launchRecord img o.btab m)).appendTo n j)
        land s (pointWit (1536 + n) j)

/-! ### Completion (R103–R106, R499) -/

/-- The completion record (R103). -/
def completionBytes (n j status code : Nat) (user energy : Word) : List Byte :=
  leBytes 8 (pointWit (1536 + n) j).toNat ++ leBytes 8 user.toNat ++ leBytes 8 energy.toNat ++
    leBytes 8 (status * 2 ^ 60 + code * 2 ^ 56)

/-- An interrupt sent with a count, if its entry is enabled; a request that the entry drops is no send (R105). -/
def Pack.sendIrq (k : Pack) (v count : Nat) : Pack :=
  let e := (k.ioRd 0x20020).toNat + 16 * v
  let b := k.mem.read ⟨.host, e, 16⟩
  let k := k.updSched (fun d => { d with pendIrq := d.pendIrq.filter (fun x => x.1 != v) })
  if leNat (b.drop 12) ≥ 2 ^ 31 then
    { k.updSched (fun d => { d with lastIrq := (v, k.tstamp) :: d.lastIrq.filter (fun x => x.1 != v) }) with mem := k.mem.write .host (leNat (b.take 8)) ((b.drop 8).take 4 ++ leBytes 4 count) }
  else k

/-- A request on vector `v` (R105): sent at once, with what is pending, or counted until CWIN has passed since the last send. -/
def Pack.requestIrq (k : Pack) (v : Nat) : Pack :=
  let win := bits (k.ioRd 0x20010) 31 0
  let c := ((k.sched.pendIrq.find? (fun x => x.1 == v)).map Prod.snd).getD 0
  match k.sched.lastIrq.find? (fun x => x.1 == v) with
  | some (_, t) =>
    if k.tstamp < t + win then
      let k := if c = 0 then k.schedule (2 * (t + win - k.tstamp) - k.tick % 2) .coalesceExpiry { n := v } else k
      k.updSched (fun d => { d with pendIrq := (v, c + 1) :: d.pendIrq.filter (fun x => x.1 != v) })
    else k.sendIrq v (c + 1)
  | none => k.sendIrq v (c + 1)

/-- The coalescing window of vector `n` ends (R105); after a send in between it ends later. -/
def execCoalesceExpiry (s : State) : Host.Outcome State Fault Refusal :=
  let a := s.pk.arg
  let till := ((s.pk.sched.lastIrq.find? (fun x => x.1 == a.n)).map Prod.snd).getD 0 + bits (s.pk.ioRd 0x20010) 31 0
  done (match s.pk.sched.pendIrq.find? (fun x => x.1 == a.n) with
    | some (v, c) =>
      if s.tstamp < till then s.updPk (fun k => k.schedule (2 * (till - k.tstamp) - k.tick % 2) .coalesceExpiry a)
      else s.updPk (fun k => k.sendIrq v c)
    | none => s)

/-- DONE moves over the records that have ended, and their interrupts are asked for (R104, R499). -/
def Pack.moveDone (k : Pack) (n : Nat) : Nat → Pack
  | 0 => k
  | fuel + 1 =>
    match (k.stream n).ended.find? (fun e => e.1 == k.csDone n + 1) with
    | some (j, v) =>
      let k := k.ioWr (csOff n 0x20) (BitVec.ofNat 64 j)
      let k := k.updStream n (fun s => { s with ended := s.ended.filter (fun e => e.1 != j) })
      let k := match v with
        | some v => k.requestIrq v
        | none => k
      k.moveDone n fuel
    | none => k

/-- A scheduling round now (R86, R499). -/
def Pack.roundNow (k : Pack) : Pack := k.schedule 0 .schedulingRound {}

/-- What `finishRecord` needs in one word: CWADDR in [47:0], the interrupt vector in [55:48], its request in [56], the status above. -/
def recordWord (dpa vec : Nat) (irq : Bool) (status : Nat) : Word := BitVec.ofNat 64 (dpa + vec * 2 ^ 48 + irq.toNat * 2 ^ 56 + status * 2 ^ 57)
/-- Record `j` of stream `n` ends as `x` says once what is left of its completion record has been performed (R103, R104, R499): then
its point, then DONE and interrupts. What is held for log space tries again (R455), and its end begins a round of its own. -/
def Pack.finishRecord (k : Pack) (n j : Nat) (x : Word) (bs : List Byte) (again : Bool := false) : Pack :=
  match k.piecesWrite {} 0 (linePieces (bs.length / 128 + 2) (dpaCell (bits x 47 0)) bs.length) bs with
  | .held k m _ => k.scheduleCc 1 .launchRetire { n := n, m := j, k := 1, v := x + BitVec.ofNat 64 m, bytes := bs.drop m }
  | w =>
    let k := w.pack
    let k := if bits x 58 57 = 0 then k.completeOp (1536 + n) j
      else k.failOp (1536 + n) j (BitVec.ofNat 16 (bits (k.csCtl n) 15 0))
    let irq := if x.getLsbD 56 then some (bits x 55 48) else none
    let k := k.updStream n (fun s => { s with ended := (j, irq) :: s.ended })
    let k := k.moveDone n (k.stream n).ended.length
    if again then k.roundNow else k
/-- Record `j` of stream `n` ends (R85, R103, R104, R499). The completion record goes to CWADDR as it stands, aligned or not: R85 checks
neither, and a DPA above the interleaved window is taken in it (log 67). -/
def Pack.endRecord (k : Pack) (n j : Nat) (w : List Word) (status code : Nat) (energy : Word) : Pack :=
  let word (i : Nat) : Word := (w[i]?).getD 0
  k.finishRecord n j (recordWord (bits (word 3) 47 0) (bits (word 3) 63 56) ((word 0).getLsbD 53) status)
    (if (word 0).getLsbD 52 then completionBytes n j status code (word 6) energy else [])

end Sys2Proof.Machine
end

