-- ==== Sys2Proof/Machine/Arrive.lean ====
section
/-! DEFINITION. Operations of the memory slots taking effect: reads and data (R144, R146, R299, R307, R331, R336), stores and
write-backs (R333, R350), atomics (R311, R340), weight-store reads (R323, R326), copies (R346, R347), remote accesses (R432). In
each step `arg.n` names the operation. -/
namespace Sys2Proof.Machine
open Sys2Proof

/-- An operation that goes to another device, and the rule that after a port went down it waits for those in flight then (R428). -/
def Pack.opRemote (k : Pack) (o : Op) : Bool := (k.bankRanges o).any (fun r => k.isRemote r.1)
def Pack.portHeld (k : Pack) (o : Op) : Bool :=
  !k.fab.drain.contains o.id && k.ops.any (fun q => k.fab.drain.contains q.id) && k.opRemote o

/-- The operation the step acts on, admitted or not; `f` goes on with it, `bad` with a witness that failed. It waits for its age
(R299), its channel (R358, R373), its port (R428) and the array (R268). -/
def State.onOp (s : State) (f : Op → State → State) (bad : Op → Word → Nat → Nat → Word → State → State) : State :=
  match s.findOp s.pk.arg.n with
  | none => s
  | some o =>
    match s.letIn o with
    | .later t => t
    | .failed w a b t => bad o w a b t s
    | .proceed o =>
      if s.pk.opHeld o then (s.updPk (fun k => k.noteWait (k.opPasses o))).poll o
      else if decide (s.ageOf o.ctx < o.due) || s.pk.portHeld o || s.pk.arrayHolds o then s.poll o else f o s

/-- A read's witness failed after issue (R307). -/
def Op.badLoad (o : Op) (w : Word) (code cause : Nat) (t : Word) (s : State) : State := s.landFault o (o.witFault w code cause t)
/-- A command's witness failed: its point fails (R348). -/
def Op.badCommand (o : Op) (_ : Word) (_ _ : Nat) (_ : Word) (s : State) : State := s.failOpState o

/-! ### Loads -/

/-- An error met by a load (R148, R496): logged, and taken in the due cycle. -/
def State.loadError (s : State) (o : Op) (e : Nat × Nat) : State :=
  (s.updPk (fun k => k.logError e.1 o.ctx e.2)).landFault o
    (o.lateFault 0x1E 0 (BitVec.ofNat 64 e.2) (BitVec.ofNat 64 e.1))

/-- Bytes taken now, present `later` cc on. -/
def State.takeLoad (s : State) (o : Op) (shape : Shape) (bs : List Byte) (later : Nat) : State :=
  let s := s.fillLanding o shape bs
  if later = 0 then s.presentLanding o
  else (s.setOp { o with taken := true, due := s.dueIn o later }).updPk (fun k => k.scheduleCc later .loadDataArrival { n := o.id, k := 1 })
/-- Bytes taken earlier are present, once the core's age allows it (R299). -/
def State.presentTaken (s : State) (o : Op) : State :=
  if s.ageOf o.ctx < o.due then s.updPk (fun k => k.scheduleCc 1 .loadDataArrival { n := o.id, k := 1 }) else s.presentLanding o

/-! ### The L1 (R319, R320) -/

/-- The lines of a range filled for an LDC miss; a line in which a read would meet an error is not held (R496). -/
def State.fillL1 (s : State) (core : Nat) (r : Range) : State :=
  let dev := s.pk.homeDev r.via
  (l1Lines r.pieces).foldl (fun (s : State) l => s.onCore core (fun c =>
    if (s.pk.rangeErrorAt ⟨[⟨.dram, l, 64⟩], r.via, 0⟩).isSome then { c with l1 := c.l1.filter (fun x => !x.isAt dev l) }
    else c.l1Fill dev l (s.l1Bytes core r.via l))) s
/-- The bytes of a range in a core's L1, if it holds every line. -/
def State.l1Hit (s : State) (core : Nat) (r : Range) : Option (List Byte) :=
  (s.getCore core).bind (fun c => c.l1Read (s.pk.homeDev r.via) r.pieces)
/-- A hit that a FENCE held back reads the L1 now; where the line is gone by then it is a miss (R409, R417). -/
def State.fencedHit (s : State) (o : Op) : State :=
  match o.kind with
  | .load dst shape src _ =>
    match s.l1Hit (o.ctx / 2) src with
    | some bs => s.takeLoad o shape bs 0
    | none =>
      let o := { o with kind := .load dst shape src (some false), due := 0 }
      (s.setOp o).updPk (fun k => k.scheduleCc (k.homeLat (o.ctx / 256) src) (k.eventOf o.kind) { n := o.id })
  | _ => s

/-- An operation whose device is not to be reached completes with an error (R431). -/
def State.remoteError (s : State) (o : Op) : State :=
  let at_ (r : Range) : State :=
    s.landFault o (o.lateFault 0x1E 0 (BitVec.ofNat 64 (((r.pieces.head?).map Piece.addr).getD 0)) 1)
  match o.kind with
  | .load _ _ src _ => at_ src
  | .atomic r _ _ _ _ (some _) => at_ r
  | .append _ r _ => at_ r
  | .gouge _ h _ _ => (s.updPk (fun k => k.setChan h (fun c => { c with cause := 0xA }))).failOpState o
  | _ => s.failOpState o

/-- A read at the banks or in the weight store. -/
def State.nearRead (s : State) (o : Op) : State :=
  match o.kind with
  | .load _ shape src _ =>
    match s.pk.wsHold o.kind.quarters with
    | some t => s.updPk (fun k => k.schedule t .wsReadRelease { n := o.id })
    | none =>
      match s.pk.rangeError src.pieces with
      | some e => s.loadError o e
      | none => s.takeLoad o shape (s.pk.rangeBytes src.pieces) o.lat2
  | _ => s

/-- Another device answers an access with an error, as that device's own state has it (R148, R432). -/
def Pack.farFails (k : Pack) (v : Via) : Bool := k.isRemote v && (Config.freeWord k.freeCtr).getLsbD 0
/-- The error it answers a read with: in DRAM or the MSC (R497). -/
def Pack.farError (k : Pack) (r : Range) : Nat × Nat :=
  (1 + ((Config.freeWord k.freeCtr).getLsbD 1).toNat, ((r.pieces.head?).map Piece.addr).getD 0)
/-- A load met an error at another device: its fault, which that device logs (R148). -/
def State.farLoad (s : State) (o : Op) (r : Range) : State :=
  let e := s.pk.farError r
  s.landFault o (o.lateFault 0x1E 0 (BitVec.ofNat 64 e.2) (BitVec.ofNat 64 e.1))

/-- The image of a LAUNCH has been reached (R95): it is read once, as a load, and its number is complete then (R333). -/
def State.readImage (o : Op) (s : State) : State :=
  match o.kind with
  | .append n img pts =>
    if o.taken then s.appendImage o n pts o.bytes
    else if s.pk.unreachable img.via then s.remoteError o
    else if s.pk.farFails img.via then s.farLoad o img
    else match s.pk.rangeErrorAt img with
      | some e => s.loadError o e
      | none =>
        let bs := s.pk.sourceBytes img
        let s := s.updPk (fun k => (k.didRead img true).completeOp o.tl o.seq)
        let o := { o with taken := true, bytes := bs, seq := 0 }
        (s.setOp o).appendImage o n pts bs
  | _ => s

/-- A merge that waits (R405): what an answer raises comes first. -/
def State.mergeNow (s : State) (o : Op) (a b : Word) (named : Bool) (ra rb : Nat) : State :=
  let bad (r : Bool) (code cause : Nat) (t : Word) : State :=
    s.landFault o { o.lateFault code cause (if r then b else a) t with reg := BitVec.ofNat 8 (if r then rb else ra) }
  match s.pk.answerTo o.id a, s.pk.answerTo o.id b with
  | some (.bad code cause t), _ => bad false code cause t
  | _, some (.bad code cause t) => bad true code cause t
  | _, _ =>
    match s.pk.mergeAt o.stamp a b with
    | .value w => (s.onLanding o (fun p => { p with wr := .s o.reg.toNat (if named then s.pk.nameDev w else w) })).presentLanding o
    | .wait => s.poll o
    | .bad r code cause t => bad r code cause t

/-- Data reaches the landing buffer: a scratchpad or weight-store read, a hit of the L1, the result of a merge or of a LAUNCH;
with `arg.k` = 1 the data of an access that has already taken its bytes. -/
def execLoadDataArrival (s : State) : Host.Outcome State Fault Refusal :=
  let reg (o : Op) (v : Word) : State := s.onOp (fun _ s => s.takeLoad o .scalar (leBytes 8 v.toNat) 150) Op.badLoad
  done (match s.findOp s.pk.arg.n with
    | none => s
    | some o =>
      if s.pk.arg.k = 1 then s.presentTaken o
      else match o.kind with
      | .merge a b named ra rb => s.mergeNow o a b named ra rb
      | .append .. => s.onOp State.readImage Op.badLoad
      | .load _ _ _ (some true) => if o.taken then s.presentTaken o else s.onOp (fun o s => s.fencedHit o) Op.badLoad
      | .vstat w g => reg o (s.pk.vread w g)
      | .gstat ch => reg o (s.pk.gchstat ch)
      | _ => s.onOp (fun o s => s.nearRead o) Op.badLoad)

/-- A refresh window has ended for a weight-store read, which is now served (R326). -/
def execWsReadRelease (s : State) : Host.Outcome State Fault Refusal :=
  done (match s.findOp s.pk.arg.n with
    | some o => (s.setOp { o with due := s.dueIn o o.lat }).updPk (fun k => k.scheduleCc o.lat (k.eventOf o.kind) { n := o.id })
    | none => s)

/-- A line asked for ahead (R349): one that is not present is allocated where the policy allocates; an error keeps it out (R496). -/
def Pack.prefetchLine (via : Via) (k : Pack) (l : Nat) : Pack :=
  if (k.windowAt l).isSome || via.ms || via.cp == 2 || k.allHit [⟨.dram, l, 128⟩] || (k.rangeError [⟨.dram, l, 128⟩]).isSome then k
  else (k.reachBank via.cls l).fill l

/-- A load reaches its home (R331, R336); an MS = 1 read first flushes the lines it finds (R62). -/
def State.serveRead (o : Op) (s : State) : State :=
  match o.kind with
    | .load _ shape src l1 =>
      let s := s.updPk (fun k => k.settle src.via src.pieces)
      let bs := s.pk.rangeBytes src.pieces
      let later := s.pk.readLate src.pieces + o.lat2
      match s.pk.rangeError src.pieces with
      | some e => (s.updPk (fun k => k.touchAll src.via src.pieces)).loadError o e
      | none =>
        let s := if l1 = some false then s.fillL1 (o.ctx / 2) src else s
        (s.updPk (fun k => k.touchAll src.via src.pieces)).takeLoad o shape bs later
    | .pref r => (s.updPk (fun k => (linesOf r.pieces).foldl (Pack.prefetchLine r.via) k)).finishOp o
    | _ => s
/-- MSC_READ. -/
def execMscRead (s : State) : Host.Outcome State Fault Refusal := done (s.onOp State.serveRead Op.badLoad)

/-! ### Stores and write-backs -/

/-- A held write tries again (R455). -/
def State.await (s : State) (o : Op) : State := s.updPk (fun k => k.scheduleCc 1 .deltaLogRelease { n := o.id })

/-- What is left of an operation once `n` bytes of it have been written. -/
def Op.rest (o : Op) (n : Nat) : Op :=
  { o with kind := match o.kind with
    | .store dst bs count => .store { dst with pieces := dropPieces n dst.pieces } (bs.drop n) count
    | .copy src dst q => .copy { src with pieces := dropPieces n src.pieces } { dst with pieces := dropPieces n dst.pieces } q
    | x => x }
/-- An operation whose write ended as `w`. -/
def State.written (s : State) (o : Op) (w : Written) : State :=
  match w with
  | .ok k => if o.fail then { s with pk := k }.failOpState o else { s with pk := k }.finishOp o
  | .held k n fail => let o := { o.rest n with fail := o.fail || fail }; ({ s with pk := k }.setOp o).await o
  | .failed k => { s with pk := k }.failOpState o

/-- A line written back, and dropped where that is asked and allowed (R337, R350, R354). -/
def Pack.cleanLine (drop : Bool) (k : Pack) (line : Nat) : Pack :=
  let k := (k.refreshPin line).writeBack line
  match k.mscLine line with
  | some l => if drop ∧ !l.pinned ∧ !l.spent ∧ !l.dirty then k.dropLine line else k
  | none => k
/-- The lines of a range written back; the error of a sector that cannot be (R496). -/
def Pack.cleanLines (k : Pack) (drop : Bool) (ps : List Piece) : Pack × Option (Nat × Nat) :=
  let k := (linesOf ps).foldl (Pack.cleanLine drop) k
  (k, (linesOf ps).findSome? (fun l => ((k.mscLine l).filter MscLine.dirty).map (fun x => (2, x.line + 32 * x.bad.headD 0))))

/-- An atomic has been performed (R311, R340): its point is complete; an old value follows in `later` cc. -/
def State.atomicDone (s : State) (o : Op) (ret : Option Nat) (old : Word) (later : Nat) : State :=
  match ret with
  | none => s.finishOp o
  | some _ =>
    let s := s.updPk (fun k => k.completeOp o.tl o.seq)
    s.takeLoad { o with seq := 0 } .scalar (leBytes 8 old.toNat) later
/-- An atomic that met an error (R496): with W = 0 the fault in the due cycle, else a failed point. -/
def State.atomicError (s : State) (o : Op) (ret : Option Nat) (e : Nat × Nat) : State :=
  if ret.isSome then s.loadError o e else (s.updPk (fun k => k.logError e.1 o.ctx e.2)).failOpState o

/-- A store accepted at its bank or home (R299, R333), an MSC write-back (R350), a local atomic (R311). -/
def State.serveStore (o : Op) (s : State) : State :=
  match o.kind with
    | .store dst bs count => s.written o (s.pk.piecesWrite dst.via count dst.pieces bs)
    | .writeback r drop =>
      let x := s.pk.cleanLines drop r.pieces
      match x.2 with
      | some e => { s with pk := x.1.logError e.1 0x1FF e.2 }.failOpState o
      | none => { s with pk := x.1 }.finishOp o
    | .atomic at_ _ fn v cmp ret =>
      match s.pk.rangeError at_.pieces with
      | some e => s.atomicError o ret e
      | none =>
        let a := atomicStep fn (s.pk.rangeBytes at_.pieces) v cmp
        match s.pk.piecesWrite {} 0 at_.pieces a.1 with
        | .ok k => { s with pk := k }.atomicDone o ret a.2.1 o.lat2
        | _ => s
    | _ => s
/-- STORE_PERFORMED. -/
def execStorePerformed (s : State) : Host.Outcome State Fault Refusal := done (s.onOp State.serveStore Op.badCommand)
/-- An access to a state window takes effect at the units (R390). -/
def execStateWindowAccess (s : State) : Host.Outcome State Fault Refusal :=
  done (s.onOp (fun o s => if o.isLoad then State.serveRead o s else State.serveStore o s)
    (fun o w a b t s => if o.isLoad then o.badLoad w a b t s else o.badCommand w a b t s))

/-! ### Home atomics (R339–R343) -/

/-- HSSTAT.IV of the slice an atomic runs at (R343). -/
def Pack.raiseIv (k : Pack) (ms : Bool) (cell : Nat) : Pack :=
  let off := if ms then 0x62000 + 8 * (cellCh cell / 32) else 0x60808 + 0x1000 * cellDie cell
  k.ioWr off (k.ioRd off ||| 1)

/-- One indivisible step at a home slice after `settle` (R339, R340), with the old value; or the error met. -/
def Pack.sliceAtomic (k : Pack) (via : Via) (ps : List Piece) (fn : Nat) (v cmp : Word) :
    Sum (Written × Word) (Nat × Nat) :=
  let cell := ((ps.head?).map Piece.addr).getD 0
  match k.rangeError ps with
  | some e => .inr e
  | none =>
    let a := atomicStep fn (k.rangeBytes ps) v cmp
    let w := k.piecesWrite { via with cp := if via.ms then 2 else 0 } 0 ps a.1
    .inl (match w with
      | .ok k => .ok (if a.2.2 then k.raiseIv via.ms cell else k)
      | w => w, a.2.1)

/-- `k` with the sectors that `j` finds held for log space (R455). -/
def Pack.heldAs (k j : Pack) : Pack := (List.range 16).foldl (fun (k : Pack) g => k.setSlot g (fun v => { v with held := (j.slot g).held })) k
/-- Lane l of a row := GAFADD of it and lane l of `x`, after `settle`, in one indivisible step at the base die (R423): all of the
row or, while one of its sectors is held for log space, nothing. IV is that of the slice each lane lies in (R343). -/
def Pack.rowAdd (k : Pack) (via : Via) (ps : List Piece) (x : List Byte) : Sum Written (Nat × Nat) :=
  let via := { via with ms := true, cp := 2 }
  match k.rangeError ps with
  | some e => .inr e
  | none =>
    let lanes := (List.zip (elemsOf 4 (k.rangeBytes ps)) (elemsOf 4 x)).map (fun p => atomicStep 8 (leBytes 4 p.1) (BitVec.ofNat 64 p.2) 0)
    let cells := ps.flatMap (fun p => (List.range p.len).map (fun i => p.addr + i))
    .inl (match k.piecesWrite via 0 ps (lanes.flatMap (fun l => l.1)) with
      | .ok j => .ok (lanes.zipIdx.foldl (fun (k : Pack) l => if l.1.2.2 then k.raiseIv true (cells.getD (4 * l.2) 0) else k) j)
      | .held j _ _ => .held (k.heldAs j) 0 false
      | .failed j => .failed j)

/-- The tick at which the old value of an atomic performed now arrives: 40 cc from the MSC, 150 from the base die, 4 after the atomic
before it in the same line, whatever its form (R331). -/
def Pack.atomicLate (k : Pack) (via : Via) (ps : List Piece) : Nat :=
  let prior := (k.atoms.filter (fun a => (linesOf ps).contains a.1)).map (fun a => a.2 + 4 * k.period)
  prior.foldl max (k.tick + (if via.ms then 150 else 40) * k.period)
/-- Such an atomic has been performed. -/
def Pack.noteAtomic (k : Pack) (ps : List Piece) (t : Nat) : Pack :=
  let rest := k.atoms.filter (fun a => decide (k.tick < a.2) && !(linesOf ps).contains a.1)
  { k with atoms := (linesOf ps).map (fun l => (l, t)) ++ rest }

/-- A home atomic or reduction store (R340, R341). -/
def execHomeAtomic (s : State) : Host.Outcome State Fault Refusal :=
  done (s.onOp (fun o s => match o.kind with
    | .atomic at_ _ fn v cmp ret =>
      let s := s.updPk (fun k => k.settle at_.via at_.pieces)
      match s.pk.sliceAtomic at_.via at_.pieces fn v cmp with
      | .inr e => s.atomicError o ret e
      | .inl (.ok k, old) =>
        let t := s.pk.atomicLate at_.via at_.pieces
        { s with pk := k.noteAtomic at_.pieces t }.atomicDone o ret old ((t - s.pk.tick) / s.pk.period)
      | .inl (.failed k, old) =>
        if ret.isSome then { s with pk := if o.seq = 0 then k else k.failOp o.tl o.seq o.owner }.takeLoad { o with seq := 0 } .scalar
          (leBytes 8 old.toNat) 150
        else { s with pk := k }.failOpState o
      | .inl (w, _) => s.written o w
    | _ => s) Op.badCommand)

/-! ### Copies (R346, R347) -/

/-- A range in pieces of at most 128 bytes. -/
def chop : Nat → Piece → List Piece
  | 0, _ => []
  | fuel + 1, p => if p.len ≤ 128 then [p] else { p with len := 128 } :: chop fuel { p with addr := p.addr + 128, len := p.len - 128 }
def chopAll (ps : List Piece) : List Piece := ps.flatMap (fun p => chop (p.len / 128 + 1) p)

/-- Entries older than an operation's own hold back a local range of it (R310). -/
def State.boardBefore (s : State) (o : Op) (write : Bool) (ps : List Piece) : Bool :=
  ps.any (fun p => p.space = .spad && p.len != 0 &&
    { s with pk := { s.pk with board := s.pk.board.filter (fun b => decide (b.id < o.id)) } }.boardBlocks (p.addr / 2 ^ 22) write
      (p.addr % 2 ^ 22) p.len)

/-- Bytes a command writes: those for another device leave the part. -/
def Pack.destWrite (k : Pack) (r : Range) (bs : List Byte) : Written :=
  if k.isRemote r.via then .ok ((k.chargePorts r.via r.via.cls r.pieces).send (.request r.via.dev.toNat (.store r bs 0)))
  else k.piecesWrite r.via 0 r.pieces bs

/-- The bytes of the pieces before the first that meets an error, and that error. -/
def Pack.goodPrefix (k : Pack) : List Piece → Nat × Option (Nat × Nat)
  | [] => (0, none)
  | p :: ps => match k.readError p with
    | some e => (0, some e)
    | none => let r := k.goodPrefix ps; (p.len + r.1, r.2)

/-- The addresses of a range, byte by byte. -/
def byteAddrs (ps : List Piece) : List (Space × Nat) := ps.flatMap (fun p => (List.range p.len).map (fun i => (p.space, p.addr + i)))
/-- Offset and length in a range of each of its sectors. -/
def sectorSpans : Nat → List (Space × Nat) → List (Nat × Nat)
  | _, [] => []
  | i, a :: as => match sectorSpans (i + 1) as with
    | [] => [(i, 1)]
    | x :: xs => if (a.2 + 1) % 32 = 0 then (i, 1) :: x :: xs else (i, x.2 + 1) :: xs
/-- The sectors of an overlapping copy, in an order of the part's own: each gets the original bytes `bs`, or where the copy has
already written all its source bytes, as the part chooses, these (R346, log 33). `got` are the bytes written so far by offset. -/
def overlapGo (sa da : List (Space × Nat)) (bs : List Byte) : Nat → Nat → List (Nat × Nat) → List (Nat × Byte) → List (Nat × Byte)
  | 0, _, _, got => got
  | fuel + 1, c, left, got =>
    let x := left.getD ((Config.freeWord c).toNat % left.length) (0, 0)
    let own := (List.range x.2).map (fun i => got.lookup (da.idxOf (sa.getD (x.1 + i) (.host, 0))))
    let new := if own.all Option.isSome && (Config.freeWord (c + 1)).getLsbD 0 then own.filterMap id else (bs.drop x.1).take x.2
    overlapGo sa da bs fuel (c + 2) (left.filter (fun y => y != x)) (new.zipIdx.map (fun b => (x.1 + b.2, b.1)) ++ got)
def Pack.overlapBytes (k : Pack) (src dst : Range) (bs : List Byte) : List Byte :=
  let da := byteAddrs dst.pieces
  let spans := sectorSpans 0 da
  let got := overlapGo (byteAddrs src.pieces) da bs spans.length k.freeCtr spans []
  (List.range bs.length).map (fun i => (got.lookup i).getD 0)

/-- The bytes of a copy reach its destination; those that wait for log space are kept (R455). -/
def State.copyWrite (s : State) (o : Op) (dst : Range) (bs : List Byte) : State :=
  match s.pk.destWrite (dst.as o.kind.cls) bs with
  | .held k n fail =>
    let o := { o.rest n with fail := o.fail || fail, taken := true }
    ({ s with pk := k }.setOp o).updPk (fun k => k.scheduleCc 1 .copyPerformed { n := o.id, k := 2, bytes := bs.drop n })
  | w => s.written o w
/-- A copy fails on its way (R347): of the pieces among its first `lim` bytes those written by then, how many is the part's own (log
59), stay written. -/
def State.failCopy (s : State) (o : Op) (lim : Nat) : State :=
  match o.kind with
  | .copy src dst _ =>
    let src := src.as o.kind.cls
    let n := min (min lim (s.pk.goodPrefix (chopAll src.pieces)).1) (128 * ((Config.freeWord s.pk.freeCtr).toNat % (lim / 128 + 1)))
    let s := s.updPk (fun k => { k with freeCtr := k.freeCtr + 1 })
    if o.taken ∨ !o.begun ∨ n = 0 ∨ s.pk.unreachable src.via ∨ s.pk.unreachable dst.via then s.failOpState o
    else s.copyWrite { o with fail := true } dst ((s.pk.sourceBytes src).take n)
  | _ => s.failOpState o

/-- A copy performs, its traffic in its own class (R357): what was read before an error is written (R347). -/
def State.copyNow (s : State) (o : Op) (src dst : Range) : State :=
  let src := src.as o.kind.cls
  if s.pk.unreachable src.via ∨ s.pk.unreachable dst.via then s.failOpState o
  else if s.pk.farFails src.via ∨ s.pk.farFails dst.via then s.failCopy o src.len
  else
    let far := s.pk.isRemote src.via
    let s := s.updPk (fun k => if far then k else k.settle src.via src.pieces)
    let bs := s.pk.sourceBytes src
    let g := if far then (bs.length, none) else s.pk.goodPrefix (chopAll src.pieces)
    let laps := !far && !s.pk.isRemote dst.via && src.pieces.any (fun p => dst.pieces.any p.meets)
    let bs := if laps then s.pk.overlapBytes src dst bs else bs
    let s := { s with pk := s.pk.didRead src true }
    let s := if laps then s.updPk (fun k => { k with freeCtr := k.freeCtr + bs.length }) else s
    match g.2 with
    | none => s.copyWrite o dst bs
    | some e =>
      let s := if o.fail then s else s.updPk (fun k => k.logError e.1 0x1FF e.2)
      s.copyWrite { o with fail := true } dst (bs.take g.1)

/-- The transposed elements in the order of R352: local address and bytes. -/
def skewWrites (bs : List Byte) (dst : Piece) (dstr esz rows cols : Nat) : List (Nat × List Byte) :=
  (List.range rows).flatMap (fun r => (List.range cols).map (fun c =>
    (dst.addr + c * dstr + r * esz, (bs.drop ((r * cols + c) * esz)).take esz)))

/-- Does the operation name host memory (R71)? -/
def OpKind.hasHost : OpKind → Bool
  | .copy src dst _ => (src.pieces ++ dst.pieces).any (fun p => p.space = .host)
  | _ => false
def OpKind.isCopy : OpKind → Bool
  | .copy .. => true
  | .skew .. => true
  | _ => false

/-- The pages of 4 KiB that host ranges lie in, each with the bytes of the range before it (log 59). -/
def hostPages (ps : List Piece) : List Nat :=
  (ps.filter (fun p => p.space = .host && p.len != 0)).flatMap (fun p =>
    (List.range ((p.addr + p.len - 1) / 4096 - p.addr / 4096 + 1)).map (fun i => (p.addr / 4096 + i) * 4096 - p.addr))
def OpKind.hostPages : OpKind → List Nat
  | .copy src dst _ => Machine.hostPages src.pieces ++ Machine.hostPages dst.pieces
  | _ => []
/-- A copy has come to page `o.at_` of those in host memory (R71): each from there on may be absent, and the first that is waits for
the host to grant it at some time; after 10 ms the copy fails (log 59). -/
def State.askPage (s : State) (o : Op) : State :=
  let n := o.kind.hostPages.length
  let c := s.pk.freeCtr
  let s := s.updPk (fun k => { k with freeCtr := k.freeCtr + n + 1 })
  match (List.range (n - o.at_)).find? (fun i => (Config.freeWord (c + i)).getLsbD 0) with
  | none => (s.setOp { o with at_ := n }).poll o
  | some i =>
    let at_ := o.at_ + i + 1
    let till := bits (Config.freeWord (c + n)) 24 0
    let s := (s.setOp { o with at_ := at_, paged := true }).updPk (fun k => k.schedule 20000000 .pageRequestTimeout { n := o.id, m := at_ })
    if till < 20000000 then s.updPk (fun k => k.schedule till .copyPerformed { n := o.id, m := at_, k := 1 }) else s
/-- A copy or Skew read performs (R346, R352); with `arg.k` = 1 the host has granted page `m`, with 2 `bytes` are what a copy has
read and not yet written (R455). -/
def execCopyPerformed (s : State) : Host.Outcome State Fault Refusal :=
  let a := s.pk.arg
  let s := if a.k = 1 then (match s.findOp a.n with
    | some o => if o.paged ∧ o.at_ = a.m then s.setOp { o with paged := false } else s
    | none => s) else s
  done (if a.k = 2 then (match s.findOp a.n with
    | some o => match o.kind with
      | .copy _ dst _ =>
        if s.pk.bankHeld dst.via dst.pieces then s.updPk (fun k => k.scheduleCc 1 .copyPerformed a) else s.copyWrite o dst a.bytes
      | _ => s
    | none => s)
  else s.onOp (fun o s => match o.kind with
    | .copy src dst _ =>
      if o.paged then s
      else if s.boardBefore o false src.pieces ∨ s.boardBefore o true dst.pieces then s.poll o
      else if o.at_ < o.kind.hostPages.length then s.askPage o
      else s.copyNow o src dst
    | .skew src via dst dstr esz rows cols _ =>
      if s.boardBefore o true [dst] then s.poll o
      else
        let s := s.updPk (fun k => k.settle via src)
        match s.pk.rangeError src with
        | some e => (s.updPk (fun k => k.logError e.1 0x1FF e.2)).failOpState o
        | none =>
          let ws := skewWrites (s.pk.rangeBytes src) dst dstr esz rows cols
          let k := s.pk.touchAll via src
          { s with pk := ws.foldl (fun (k : Pack) (w : Nat × List Byte) =>
              { (k.clearBad ⟨.spad, w.1, esz⟩) with mem := k.mem.write .spad w.1 w.2 }) k }.finishOp o
    | _ => s) Op.badCommand)

/-- A copy meets a failure on its way (R347). -/
def execCopyFailure (s : State) : Host.Outcome State Fault Refusal :=
  done (match s.findOp s.pk.arg.n with
    | some o => if o.kind.isCopy then s.failCopy o ((o.kind.ranges.headD {}).len) else s
    | none => s)
/-- The host has not granted page `m` in 10 ms (R71). -/
def execPageRequestTimeout (s : State) : Host.Outcome State Fault Refusal :=
  done (match s.findOp s.pk.arg.n with
    | some o => if o.paged ∧ o.at_ = s.pk.arg.m then s.failCopy o ((o.kind.hostPages[o.at_ - 1]?).getD 0) else s
    | none => s)

/-- A WLDS reads on and writes what it has read (R299, R323), each part waiting out a refresh window of its quarter (R326); an error
fails its point. -/
def execWldsComplete (s : State) : Host.Outcome State Fault Refusal :=
  done (s.onOp (fun o s => match o.kind with
    | .wlds src dst =>
      let p := wldsPart o src
      match s.pk.wsHold p.quarters with
      | some t => s.updPk (fun k => k.schedule t .wsReadRelease { n := o.id })
      | none =>
        match s.pk.readError p with
        | some e => (s.updPk (fun k => k.logError e.1 o.ctx e.2)).failOpState o
        | none =>
          let s := s.updPk (fun k => (k.pieceWrite {} (wldsPart o dst) (k.mem.read p)).pack)
          if o.at_ + p.len < src.len then
            (s.setOp { o with at_ := o.at_ + p.len, due := s.dueIn o 1 }).updPk (fun k => k.scheduleCc 1 .wldsComplete { n := o.id })
          else s.finishOp o
    | _ => s) Op.badCommand)

/-! ### Other devices (R428–R432) -/

/-- An access that its device answers with an error (R148, R432, R457, R496): an uncorrectable error, or a write refused there. -/
def State.remoteBad (s : State) (o : Op) : State :=
  match o.kind with
  | .load _ _ src _ => s.farLoad o src
  | .atomic r _ _ _ _ (some _) =>
    if (Config.freeWord s.pk.freeCtr).getLsbD 2 then s.farLoad o r
    else (s.updPk (fun k => k.failOp o.tl o.seq o.owner)).takeLoad { o with seq := 0 } .scalar (s.pk.farBytes r) 150
  | .pref _ => s.finishOp o
  | _ => s.failOpState o
/-- An own access served by its device: the data, and whether it succeeds, are not known here (log 15). -/
def State.remoteOwn (s : State) (o : Op) : State :=
  let far := ((s.pk.bankRanges o).filter (fun r => s.pk.isRemote r.1)).map Prod.fst
  if far.any s.pk.unreachable then s.remoteError o
  else
    let bad := far.any s.pk.farFails
    let t := s.updPk (fun k => (k.bankRanges o).foldl (fun (k : Pack) r => k.chargePorts r.1 o.kind.cls r.2) k)
    let t := t.updPk (fun k => { k with freeCtr := k.freeCtr + 1 }.send (.request ((far.headD {}).dev.toNat) o.kind))
    if bad then { s with pk := { t.pk with freeCtr := s.pk.freeCtr } }.remoteBad o |>.updPk (fun k => { k with freeCtr := k.freeCtr + 1 })
    else match o.kind with
    | .load _ shape src l1 =>
      if l1 = some false then
        let t := t.fillL1 (o.ctx / 2) src
        t.takeLoad o shape ((t.l1Hit (o.ctx / 2) src).getD []) (20 + o.lat2)
      else t.takeLoad o shape (s.pk.farBytes src) (20 + o.lat2)
    | .atomic at_ _ _ _ _ ret => t.atomicDone o ret (BitVec.ofNat 64 (leNat (s.pk.farBytes at_))) (if at_.via.ms then 150 else 40)
    | _ => t.finishOp o

/-- The policy and class of an access served for the host or another device. -/
def servedVia (v : Word) : Via := { cp := BitVec.ofNat 2 (bits v 1 0), ms := v.getLsbD 2 }
/-- The ports by which what device `dev` reads here leaves (R427); what the host reads takes none. -/
def Pack.answerPorts (k : Pack) (dev : Nat) (ps : List Piece) : List Nat :=
  if dev = 0xFF then [] else (linesOf ps).map (fun l => portOff (k.portOf {} l))
/-- Such an access waits for a channel or a port (R358, R373, R392, R427): its step comes again in the next cycle. -/
def Pack.servedLater (k : Pack) (dev : Nat) (via : Via) (ps : List Piece) (ev : Instr) : Option Pack :=
  let out := if k.arg.bytes.isEmpty then k.answerPorts dev ps else []
  if k.bankHeld via ps || k.shareHeld via.cls (k.passes via ps ++ out) || (!k.arg.bytes.isEmpty && k.deltaHeld ps) then
    some ((k.noteWait (k.passes via ps)).scheduleCc 1 ev k.arg) else none
/-- A served write answers that it is done, or has failed (R432, R444, R457); what is left of it waits for log space (R455), and fails
in the end if a part has: `v` bit 63. -/
def Pack.servedWrite (k : Pack) (dev : Nat) (via : Via) (count : Nat) (ps : List Piece) (ev : Instr) : Pack :=
  let was := k.arg.v.getLsbD 63
  match k.piecesWrite via count ps k.arg.bytes with
  | .held j n f => j.scheduleCc 1 ev { k.arg with
      n := k.arg.n + n, m := k.arg.m - n, bytes := k.arg.bytes.drop n, v := setBits k.arg.v 63 63 (f || was).toNat }
  | .ok j => j.send (if was then .failed dev else .data dev [])
  | .failed j => j.send (.failed dev)
/-- A served read (R336): its bytes go to device `dev`, or word of an error. -/
def Pack.servedRead (k : Pack) (dev : Nat) (via : Via) (ps : List Piece) : Pack :=
  let k := k.settle via ps
  match k.rangeError ps with
  | some e => ((k.logError e.1 0x1FF e.2).touchAll via ps).send (.failed dev)
  | none => ((k.answerPorts dev ps).foldl (fun (k : Pack) o => k.charge o via.cls 3) (k.touchAll via ps)).send (.data dev (k.rangeBytes ps))

/-- An access of device `dev` served here as at the far storage die (R429, R432, R442): `n` the DPA, `m` the length, `bytes` what it
writes; `v` the policy CP in [1:0], MS in [2], a reader count in [15:8], and in [20:16] what it is: 0 a read or a write, i + 1 the
atomic at place i of the table with its operand and compare value in `bytes`, 28 a prefetch, 29 a write-back, 30 one that drops
the lines, 31 the update of an EMBR row. What it reads or answers leaves the part. -/
def Pack.remoteServe (k : Pack) (dev : Nat) : Pack :=
  let a := k.arg
  let via := servedVia a.v
  let ps := linePieces (a.m / 128 + 2) (dpaCell a.n) a.m
  let fn := bits a.v 20 16
  let word (bs : List Byte) : Word := BitVec.ofNat 64 (leNat bs)
  if !k.isMember dev ∨ k.own = 0xFF then k.send (.failed dev)
  else match (if fn = 29 ∨ fn = 30 then let x := k.cleanRange ⟨ps, via, 0⟩; k.servedLater dev x.1 x.2 .remoteAccess
    else k.servedLater dev via ps .remoteAccess) with
  | some k => k
  | none =>
    if fn = 0 then (if a.bytes.isEmpty then k.servedRead dev via ps else k.servedWrite dev via (bits a.v 15 8) ps .remoteAccess)
    else if fn = 28 then (linesOf ps).foldl (Pack.prefetchLine via) k
    else if fn = 29 ∨ fn = 30 then
      let x := k.cleanLines (fn = 30) ps
      match x.2 with
      | some e => (x.1.logError e.1 0x1FF e.2).send (.failed dev)
      | none => x.1.send (.data dev [])
    else if fn = 31 then
      let k := k.settle { via with ms := true } ps
      match k.rowAdd via ps a.bytes with
      | .inl (.ok j) => j.send (.data dev [])
      | .inl (.held j _ _) => j.scheduleCc 1 .remoteAccess a
      | .inl (.failed j) => j.send (.failed dev)
      | .inr e => (k.logError e.1 0x1FF e.2).send (.failed dev)
    else
      let k := k.settle via ps
      match k.sliceAtomic via ps (fn - 1) (word (a.bytes.take a.m)) (word (a.bytes.drop a.m)) with
      | .inl (.held j _ _, _) => j.scheduleCc 1 .remoteAccess a
      | .inl (.failed j, _) => j.send (.failed dev)
      | .inl (.ok j, old) => (j.noteAtomic ps (j.atomicLate via ps)).send (.data dev (leBytes a.m old.toNat))
      | .inr e => (k.logError e.1 0x1FF e.2).send (.failed dev)

/-- A remote access: an own one reaches its device, or with `arg.k` > 0 one of device `arg.k` − 1 is served here. -/
def execRemoteAccess (s : State) : Host.Outcome State Fault Refusal :=
  done (if s.pk.arg.k = 0 then
      s.onOp (fun o s => s.remoteOwn o) (fun o w a b t s => if o.isLoad then o.badLoad w a b t s else o.badCommand w a b t s)
    else s.updPk (fun k => k.remoteServe (s.pk.arg.k - 1)))

end Sys2Proof.Machine
end

