-- ==== Sys2Proof/Machine/Trans.lean ====
section
/-! DEFINITION. The transcendentals (R241–R243). A function value is a `Real`: an exact fraction, or a fixed-point fraction
whose error is far below every rounding boundary (log 9), marked inexact. -/
namespace Sys2Proof.Machine
open Sys2Proof

/-- The eight functions in the order of the table of R241. -/
inductive Fn where
  | exp2 | log2 | rcp | rsq | sqrt | sin | cos | tanh
  deriving DecidableEq, Repr

def Fn.code : Fn → Nat
  | .exp2 => 0 | .log2 => 1 | .rcp => 2 | .rsq => 3 | .sqrt => 4 | .sin => 5 | .cos => 6 | .tanh => 7

/-- ± num / den; `exact` says it is the function's value itself. -/
structure FnVal where
  neg : Bool
  num : Nat
  den : Nat
  exact : Bool
  deriving DecidableEq, Repr

/-- Fraction bits of the fixed-point numbers here. -/
def fixBits : Nat := 640
def fixOne : Nat := 2 ^ fixBits
def fixMul (a b : Nat) : Nat := a * b / fixOne

/-- Σ over k of z^(2k+1)/(2k+1), alternating when `alt`: atanh or arctan of a fixed-point z < 1. `t` is z^(2k+1). -/
def oddSeries (alt : Bool) (z2 : Nat) : Nat → Nat → Nat → Int
  | 0, _, _ => 0
  | fuel + 1, k, t =>
    let term : Int := (t / (2 * k + 1) : Nat)
    (if alt && k % 2 == 1 then -term else term) + oddSeries alt z2 fuel (k + 1) (fixMul t z2)

/-- atanh z, and arctan z for z = 1/n. -/
def fixAtanh (z : Nat) : Nat := (oddSeries false (fixMul z z) 230 0 z).toNat
def fixArctanInv (n : Nat) : Int := let z := fixOne / n; oddSeries true (fixMul z z) 150 0 z

def fixLn2 : Nat := 2 * fixAtanh (fixOne / 3)
/-- π by Machin's formula. -/
def fixPi : Nat := (16 * fixArctanInv 5 - 4 * fixArctanInv 239).toNat

/-- Σ of y^k/k! over k = from, from + step, …, with alternating signs when `alt`; `t` is the term y^k/k!. -/
def expSeries (alt : Bool) (step y : Nat) : Nat → Nat → Nat → Bool → Int
  | 0, _, _, _ => 0
  | fuel + 1, k, t, neg =>
    let t' := if step = 1 then fixMul t y / (k + 1) else fixMul (fixMul t y) y / ((k + 1) * (k + 2))
    (if alt && neg then -(t : Int) else t) + expSeries alt step y fuel (k + step) t' (!neg)

def fixExp (y : Nat) : Nat := (expSeries false 1 y 160 0 fixOne false).toNat
def fixSin (y : Nat) : Int := expSeries true 2 y 90 1 y false
def fixCos (y : Nat) : Int := expSeries true 2 y 90 0 fixOne false

/-- 2^y of a fixed-point y, as a fraction. -/
def pow2Frac (neg : Bool) (y : Nat) : Nat × Nat :=
  let whole := y / fixOne
  let frac := y % fixOne
  if neg then
    -- 2^(−y) = 2^(−whole−1) × 2^(1−frac)
    (fixExp (fixMul (fixOne - frac) fixLn2), fixOne * 2 ^ (whole + 1))
  else (fixExp (fixMul frac fixLn2) * 2 ^ whole, fixOne)

/-- A finite magnitude in fixed point, rounded down. -/
def toFix (m : Nat) (e : Int) : Nat := let (a, b) := fracOf m e; a * fixOne / b

/-- Integer square root by bisection on the bits from `k` down. -/
def isqrtGo (n : Nat) : Nat → Nat → Nat
  | 0, r => r
  | k + 1, r =>
    let c := r + 2 ^ k
    isqrtGo n k (if c * c ≤ n then c else r)
def isqrt (n : Nat) : Nat := isqrtGo n (n.log2 / 2 + 1) 0

/-- √(a/b), exact when it is rational with the denominator at hand. -/
def sqrtFrac (a b : Nat) : FnVal :=
  let n := a * b * 2 ^ (2 * fixBits)
  let r := isqrt n
  ⟨false, r, b * fixOne, r * r == n⟩

/-- ln of a fixed-point number in [1, 2) . -/
def fixLn (x : Nat) : Nat := 2 * fixAtanh ((x - fixOne) * fixOne / (x + fixOne))

/-- f(x) of a finite nonzero x outside the special rows of R241. -/
def fnValue (fn : Fn) (neg : Bool) (m : Nat) (e : Int) : FnVal :=
  let (a, b) := fracOf m e
  match fn with
  | .exp2 =>
    if a % b = 0 then
      let k := a / b
      if k > 2 ^ 12 then (if neg then ⟨false, 1, 2 ^ 4096, true⟩ else ⟨false, 2 ^ 4096, 1, true⟩)
      else if neg then ⟨false, 1, 2 ^ k, true⟩ else ⟨false, 2 ^ k, 1, true⟩
    else if a / b > 2 ^ 12 then (if neg then ⟨false, 1, 2 ^ 4096, false⟩ else ⟨false, 2 ^ 4096, 1, false⟩)
    else
      let (p, q) := pow2Frac neg (toFix m e)
      ⟨false, p, q, false⟩
  | .log2 =>
    let l := floorLog2 a b
    let x := if l < 0 then a * 2 ^ (-l).toNat * fixOne / b else a * fixOne / (b * 2 ^ l.toNat)
    if x = fixOne then ⟨l < 0, l.natAbs, 1, true⟩
    else
      let v : Int := l * fixOne + (fixLn x * fixOne / fixLn2 : Nat)
      ⟨v < 0, v.natAbs, fixOne, false⟩
  | .rcp => ⟨neg, b, a, true⟩
  | .rsq => let r := sqrtFrac b a; r
  | .sqrt => sqrtFrac a b
  | .sin | .cos =>
    let half := fixPi / 2
    let x := toFix m e
    let quad := x / half % 4
    let r := x % half
    let s := fixSin r
    let c := fixCos r
    let v : Int := match fn, quad with
      | .sin, 0 => s | .sin, 1 => c | .sin, 2 => -s | .sin, _ => -c
      | _, 0 => c | _, 1 => -s | _, 2 => -c | _, _ => s
    let v := if neg && fn == .sin then -v else v
    ⟨v < 0, v.natAbs, fixOne, false⟩
  | .tanh =>
    if a / b ≥ 64 then ⟨neg, fixOne - 1, fixOne, false⟩
    else
      let (p, q) := pow2Frac false (2 * toFix m e * fixOne / fixLn2)
      ⟨neg, p - q, p + q, false⟩

/-- The special rows of R241, NaN apart: the value and its flags. -/
def fnSpecial (fn : Fn) (v : Val) : Option (Val × Flags) :=
  let one : Val := .fin false 1 0
  let bad : Val × Flags := (.nan false, flIV)
  match v with
  | .nan s => some (.nan s, 0)
  | .inf true => some (match fn with
    | .exp2 => (.zero, 0) | .rcp => (.fin true 0 0, 0) | .tanh => (.fin true 1 0, 0) | _ => bad)
  | .inf false => some (match fn with
    | .exp2 | .log2 | .sqrt => (.inf false, 0) | .rcp | .rsq => (.zero, 0) | .tanh => (one, 0) | _ => bad)
  | .fin neg m e =>
    if m = 0 then some (match fn with
      | .exp2 | .cos => (one, 0)
      | .log2 => (.inf true, flDZ)
      | .rcp | .rsq => (.inf neg, flDZ)
      | .sqrt | .sin | .tanh => (.fin neg 0 0, 0))
    else if neg then
      match fn with
      | .log2 | .rsq | .sqrt => some bad
      | _ => none
    else if fn = .log2 ∧ (fracOf m e).1 = (fracOf m e).2 then some (.zero, 0)
    else none

/-- A .C form (R242): one rounding of the exact value. -/
def fnC (f : Fmt) (fn : Fn) (code : Nat) : Nat × Flags :=
  let v := decodeFloat f code
  match fnSpecial fn v with
  | some (r, fl) => let (c, f2) := roundVal f .rne r; (c, fl ||| f2)
  | none =>
    match v with
    | .fin neg m e =>
      let y := fnValue fn neg m e
      roundFrac f .rne y.neg y.num y.den (sticky := !y.exact)
    | _ => (0, 0)

/-- |r − y| ≤ lim / limDen for a candidate value `r` and a function value `y`. -/
def nearFn (y : FnVal) (r : Val) (lim limDen : Nat) : Bool :=
  match r with
  | .fin n m e =>
    let (a, b) := fracOf m e
    let d : Int := (if n then -1 else 1) * (a * y.den : Nat) - (if y.neg then -1 else 1) * (y.num * b : Nat)
    decide (d.natAbs * limDen ≤ lim * (b * y.den))
  | _ => false

/-- The bound of R243 on a candidate code: `ulps` of the format at f(x), or the absolute bound of SIN and COS. -/
def approxOk (f : Fmt) (fn : Fn) (y : FnVal) (code : Nat) : Bool :=
  let p := f.params
  let r := decodeFloat f code
  let (lo, _, _) := neighbours p y.num y.den
  let mag := code % 2 ^ (p.width - 1)
  let sameSign := r.negSign == y.neg
  match fn with
  | .sin | .cos => nearFn y r 1 (2 ^ 22) && nearFn ⟨false, 0, 1, true⟩ r 1 1
  | _ =>
    if f = .f32 then
      let e := max (floorLog2 y.num y.den) (1 - (p.bias : Int))
      let q : Int := e - p.man
      let n := if fn = .tanh then 2 else 1
      nearFn y r (n * 2 ^ q.toNat) (2 ^ (-q).toNat) && mag ≤ p.maxCode
    else sameSign && (mag == lo || mag == lo + 1) && mag ≤ p.maxCode

/-- An .A form (R243): the special rows as they stand, else the part's own code within the bound (log 8), NX always, OF and
UF as .C sets them. -/
def fnA (f : Fmt) (fn : Fn) (code : Nat) : Nat × Flags :=
  let v := decodeFloat f code
  match fnSpecial fn v with
  | some (r, fl) => let (c, f2) := roundVal f .rne r; (c, fl ||| f2)
  | none =>
    match v with
    | .fin neg m e =>
      let (c, fl) := fnC f fn code
      let cand := Config.approx fn.code f.code code % 2 ^ f.width
      (if (fl &&& flOF) == 0 && approxOk f fn (fnValue fn neg m e) cand then cand else c, fl ||| flNX)
    | _ => (0, 0)

end Sys2Proof.Machine
end

