-- ==== Sys2Proof/Machine/Vector.lean ====
section
/-! DEFINITION. Vector arithmetic, the mask stack, permutes, reductions, transcendentals (R216–R230, R237–R244). -/
namespace Sys2Proof.Machine
open Sys2Proof

/-! ### Elements, merging -/

/-- Same FMT, GS and TS (R218). -/
def tagSame (t u : BitVec 32) : Bool := (t &&& 0xFFFF00FF) == (u &&& 0xFFFF00FF)
/-- Byte `i` of a side store (R37). -/
def sideByte (x : BitVec 512) (i : Nat) : Nat := x.toNat / 256 ^ i % 256
def sideF16 (x : BitVec 512) (g : Nat) : Nat := sideByte x (2 * g) + 256 * sideByte x (2 * g + 1)

/-- elem_value of every element of a register whose tag is well-formed (R30). -/
def VReg.vals (v : VReg) (f : Fmt) : List Val :=
  let g := groupLen (bits v.tag 7 5)
  (vecCodes f v.pay).zipIdx.map (fun p =>
    match f with
    | .q8 => qValue p.1 (sideF16 v.side (p.2 / g)) (sideByte v.side (32 + p.2 / g))
    | .q4 => qValue p.1 (sideF16 v.side (p.2 / g)) (sideByte v.side (32 + p.2 / g) % 16)
    | .e2m1 => blockValue p.1 (sideByte v.side (p.2 / g)) (bits v.tag 31 16)
    | _ => decodeElem f p.1)

/-- The type of a float instruction (R122). -/
def floatType (t : BitVec 2) : Fmt := if t = 0 then .f32 else if t = 1 then .bf16 else .f16
/-- The type of an integer instruction (R122): `u` 1 for .nN. -/
def intType (u : BitVec 1) (w : BitVec 2) : Fmt :=
  if u = 0 then (if w = 0 then .i8 else if w = 1 then .i16 else if w = 2 then .i32 else .i64)
  else (if w = 0 then .n8 else if w = 1 then .n16 else if w = 2 then .n32 else .n64)

/-- The elements a merging result keeps where it is disabled (R218). -/
def State.kept (s : State) (d : BitVec 5) (f : Fmt) : List Nat :=
  if tagSame (s.rv d).tag (tagOf f) then vecCodes f (s.rv d).pay else List.replicate (2048 / f.width) 0

/-- A merging result (R218): lanes the mask enables take `r`, the others keep or are zero and raise no flag. -/
def State.putLanes (s : State) (d : BitVec 5) (f : Fmt) (lat : Nat) (r : List (Nat × Flags)) : State :=
  let top := s.ctx.regs.top
  let l := (List.zip r (s.kept d f)).zipIdx.map (fun p => if top.getLsbD p.2 then p.1.1 else (p.1.2, 0))
  s.putV d lat ⟨vecPay f.width (l.map Prod.fst), 0, tagOf f⟩ (orAll (l.map Prod.snd))

/-- A result that writes every element. -/
def State.putAll (s : State) (d : BitVec 5) (tag : BitVec 32) (w lat : Nat) (l : List Nat) : State :=
  s.putV d lat ⟨vecPay w l, 0, tag⟩

/-! ### Float arithmetic (R225–R229) -/

/-- A lane function of two codes over va and vb. -/
def State.fbin (s : State) (d a b : BitVec 5) (t : BitVec 2) (lat : Nat) (f : Fmt → Nat → Nat → Nat × Flags) : Res := do
  let ty := floatType t
  s.tagCheck a ty
  s.tagCheck b ty
  .ok (s.putLanes d ty lat (List.zipWith (f ty) (vecCodes ty (s.rv a).pay) (vecCodes ty (s.rv b).pay)))
/-- The same with the accumulator vd. -/
def State.ffma (s : State) (d a b : BitVec 5) (t : BitVec 2) (f : Val → Val → Val → Val) : Res := do
  let ty := floatType t
  s.tagCheck a ty
  s.tagCheck b ty
  s.tagCheck d ty
  let v (r : BitVec 5) : List Val := (vecCodes ty (s.rv r).pay).map (decodeFloat ty)
  .ok (s.putLanes d ty 4 ((List.zipWith (fun g c => roundVal ty .rne (g c)) (List.zipWith f (v a) (v b)) (v d))))
def State.funary (s : State) (d a : BitVec 5) (t : BitVec 2) (lat : Nat) (f : Fmt → Nat → Nat × Flags) : Res := do
  let ty := floatType t
  s.tagCheck a ty
  .ok (s.putLanes d ty lat ((vecCodes ty (s.rv a).pay).map (f ty)))
/-- A lane function on values, rounded once. -/
def onVals (g : Val → Val → Val) (ty : Fmt) (x y : Nat) : Nat × Flags :=
  roundVal ty .rne (g (decodeFloat ty x) (decodeFloat ty y))

def execVaddF (d a b : BitVec 5) (t : BitVec 2) (s : State) : Host.Outcome State Fault Refusal :=
  deliver s (s.fbin d a b t 4 (onVals (Val.add false)))
def execVsubF (d a b : BitVec 5) (t : BitVec 2) (s : State) : Host.Outcome State Fault Refusal :=
  deliver s (s.fbin d a b t 4 (onVals (fun x y => x.add false y.neg)))
def execVmulF (d a b : BitVec 5) (t : BitVec 2) (s : State) : Host.Outcome State Fault Refusal :=
  deliver s (s.fbin d a b t 4 (onVals Val.mul))
def execVfma (d a b : BitVec 5) (t : BitVec 2) (s : State) : Host.Outcome State Fault Refusal :=
  deliver s (s.ffma d a b t (fun x y c => (x.mul y).add false c))
def execVfms (d a b : BitVec 5) (t : BitVec 2) (s : State) : Host.Outcome State Fault Refusal :=
  deliver s (s.ffma d a b t (fun x y c => (x.mul y).add false c.neg))
def execVfnma (d a b : BitVec 5) (t : BitVec 2) (s : State) : Host.Outcome State Fault Refusal :=
  deliver s (s.ffma d a b t (fun x y c => c.add false (x.mul y).neg))
def execVdiv (d a b : BitVec 5) (t : BitVec 2) (s : State) : Host.Outcome State Fault Refusal :=
  deliver s (s.fbin d a b t 24 (fun ty x y => floatDiv ty (decodeFloat ty x) (decodeFloat ty y)))
def execVminF (d a b : BitVec 5) (t : BitVec 2) (s : State) : Host.Outcome State Fault Refusal :=
  deliver s (s.fbin d a b t 4 (fun ty x y => floatMinMax ty false x y))
def execVmaxF (d a b : BitVec 5) (t : BitVec 2) (s : State) : Host.Outcome State Fault Refusal :=
  deliver s (s.fbin d a b t 4 (fun ty x y => floatMinMax ty true x y))

/-- The sign bit cleared or inverted; a NaN becomes canonical (R226). -/
def signOp (neg : Bool) (ty : Fmt) (x : Nat) : Nat × Flags :=
  let v := decodeFloat ty x
  let top := 2 ^ (ty.width - 1)
  if v.isNaN then roundVal ty .rne v
  else if neg then ((x + top) % (2 * top), 0) else (x % top, 0)
def execVabsF (d a : BitVec 5) (t : BitVec 2) (s : State) : Host.Outcome State Fault Refusal :=
  deliver s (s.funary d a t 4 (signOp false))
def execVnegF (d a : BitVec 5) (t : BitVec 2) (s : State) : Host.Outcome State Fault Refusal :=
  deliver s (s.funary d a t 4 (signOp true))

/-- The natural format of a compare's result (R227, R230). -/
def natOf (w : Nat) : Fmt := if w = 8 then .n8 else if w = 16 then .n16 else if w = 32 then .n32 else .n64
def allOnes (w : Nat) (b : Bool) : Nat := if b then 2 ^ w - 1 else 0
/-- A compare (R227); `any` says that any NaN sets IV. -/
def State.fcmp (s : State) (d a b : BitVec 5) (t : BitVec 2) (any : Bool) (f : Val → Val → Bool) : Res := do
  let ty := floatType t
  s.tagCheck a ty
  s.tagCheck b ty
  let v (r : BitVec 5) : List Val := (vecCodes ty (s.rv r).pay).map (decodeFloat ty)
  .ok (s.putLanes d (natOf ty.width) 4 (List.zipWith (fun x y =>
    (allOnes ty.width (f x y), flagIf (x.isSig || y.isSig || (any && (x.isNaN || y.isNaN))) flIV)) (v a) (v b)))
def execVcmpeqF (d a b : BitVec 5) (t : BitVec 2) (s : State) : Host.Outcome State Fault Refusal :=
  deliver s (s.fcmp d a b t false Val.eqv)
def execVcmpltF (d a b : BitVec 5) (t : BitVec 2) (s : State) : Host.Outcome State Fault Refusal :=
  deliver s (s.fcmp d a b t true Val.lt)
def execVcmpleF (d a b : BitVec 5) (t : BitVec 2) (s : State) : Host.Outcome State Fault Refusal :=
  deliver s (s.fcmp d a b t true (fun x y => x.lt y || x.eqv y))
def execVcmpun (d a b : BitVec 5) (t : BitVec 2) (s : State) : Host.Outcome State Fault Refusal :=
  deliver s (s.fcmp d a b t false (fun x y => x.isNaN || y.isNaN))

/-- a × 2^k (R228). -/
def scalb (ty : Fmt) (x : Nat) (k : Int) : Nat × Flags :=
  match decodeFloat ty x with
  | .fin n m e => if m = 0 then (x, 0) else roundVal ty .rne (.fin n m (e + k))
  | v => roundVal ty .rne v
def execVscalb (d a b : BitVec 5) (t : BitVec 2) (s : State) : Host.Outcome State Fault Refusal :=
  deliver s (do
    let ty := floatType t
    let it : Fmt := if ty.width = 32 then .i32 else .i16
    s.tagCheck a ty
    s.tagCheck b it
    .ok (s.putLanes d ty 4 (List.zipWith (fun x y => scalb ty x (decodeInt it y)) (vecCodes ty (s.rv a).pay)
      (vecCodes it (s.rv b).pay))))

/-- A lane of VRINT (R229). -/
def rintLane (ty : Fmt) (rm : Rnd) (x : Nat) : Nat × Flags :=
  match decodeFloat ty x with
  | .fin n m e =>
    let (a, b) := fracOf m e
    let (i, inexact) := roundIntFrac rm n a b
    ((roundVal ty .rne (.fin n i.natAbs 0)).1, flagIf inexact flNX)
  | v => roundVal ty .rne v
def execVrint (d a : BitVec 5) (r : BitVec 3) (t : BitVec 2) (s : State) : Host.Outcome State Fault Refusal :=
  deliver s (do
    let ty := floatType t
    s.tagCheck a ty
    .ok (s.putLanes d ty 4 ((vecCodes ty (s.rv a).pay).zipIdx.map (fun p =>
      rintLane ty ((Rnd.ofCode r.toNat (srDraw s.ctx.csr.srseed p.2)).getD .rne) p.1))))

/-! ### Integer arithmetic (R230) -/

/-- Lanes of two sources read in their format, with the result's format. -/
def State.ibin (s : State) (u : BitVec 1) (d a b : BitVec 5) (w : BitVec 2) (lat : Nat)
    (f : Fmt → Int → Int → Nat × Flags) : Res := do
  let ty := intType u w
  s.tagCheck a ty
  s.tagCheck b ty
  let v (r : BitVec 5) : List Int := (vecCodes ty (s.rv r).pay).map (decodeInt ty)
  .ok (s.putLanes d ty lat (List.zipWith (f ty) (v a) (v b)))
def State.iunary (s : State) (u : BitVec 1) (d a : BitVec 5) (w : BitVec 2) (f : Fmt → Int → Int) : Res := do
  let ty := intType u w
  s.tagCheck a ty
  .ok (s.putLanes d ty 2 ((vecCodes ty (s.rv a).pay).map (fun x => (wrapCode ty.width (f ty (decodeInt ty x)), 0))))
def wrapLane (g : Int → Int → Int) (ty : Fmt) (x y : Int) : Nat × Flags := (wrapCode ty.width (g x y), 0)
/-- Lanes read as bit patterns. -/
def bitLane (g : Nat → Nat → Nat → Nat) (ty : Fmt) (x y : Int) : Nat × Flags :=
  (g ty.width (wrapCode ty.width x) (wrapCode ty.width y) % 2 ^ ty.width, 0)

def execVaddI (u : BitVec 1) (d a b : BitVec 5) (w : BitVec 2) (s : State) : Host.Outcome State Fault Refusal :=
  deliver s (s.ibin u d a b w 2 (wrapLane (· + ·)))
def execVsubI (u : BitVec 1) (d a b : BitVec 5) (w : BitVec 2) (s : State) : Host.Outcome State Fault Refusal :=
  deliver s (s.ibin u d a b w 2 (wrapLane (· - ·)))
def execVadds (u : BitVec 1) (d a b : BitVec 5) (w : BitVec 2) (s : State) : Host.Outcome State Fault Refusal :=
  deliver s (s.ibin u d a b w 2 (fun ty x y => satCode ty (x + y)))
def execVsubs (u : BitVec 1) (d a b : BitVec 5) (w : BitVec 2) (s : State) : Host.Outcome State Fault Refusal :=
  deliver s (s.ibin u d a b w 2 (fun ty x y => satCode ty (x - y)))
def execVmulI (u : BitVec 1) (d a b : BitVec 5) (w : BitVec 2) (s : State) : Host.Outcome State Fault Refusal :=
  deliver s (s.ibin u d a b w 4 (wrapLane (· * ·)))
def execVmulh (u : BitVec 1) (d a b : BitVec 5) (w : BitVec 2) (s : State) : Host.Outcome State Fault Refusal :=
  deliver s (s.ibin u d a b w 4 (fun ty x y => (wrapCode ty.width (x * y / (2 ^ ty.width : Nat)), 0)))
def execVminI (u : BitVec 1) (d a b : BitVec 5) (w : BitVec 2) (s : State) : Host.Outcome State Fault Refusal :=
  deliver s (s.ibin u d a b w 2 (wrapLane (fun x y => min x y)))
def execVmaxI (u : BitVec 1) (d a b : BitVec 5) (w : BitVec 2) (s : State) : Host.Outcome State Fault Refusal :=
  deliver s (s.ibin u d a b w 2 (wrapLane (fun x y => max x y)))

def State.icmp (s : State) (u : BitVec 1) (d a b : BitVec 5) (w : BitVec 2) (f : Int → Int → Bool) : Res := do
  let ty := intType u w
  s.tagCheck a ty
  s.tagCheck b ty
  let v (r : BitVec 5) : List Int := (vecCodes ty (s.rv r).pay).map (decodeInt ty)
  .ok (s.putLanes d (natOf ty.width) 2 (List.zipWith (fun x y => (allOnes ty.width (f x y), 0)) (v a) (v b)))
def execVcmpeqI (u : BitVec 1) (d a b : BitVec 5) (w : BitVec 2) (s : State) : Host.Outcome State Fault Refusal :=
  deliver s (s.icmp u d a b w (fun x y => decide (x = y)))
def execVcmpltI (u : BitVec 1) (d a b : BitVec 5) (w : BitVec 2) (s : State) : Host.Outcome State Fault Refusal :=
  deliver s (s.icmp u d a b w (fun x y => decide (x < y)))
def execVcmpleI (u : BitVec 1) (d a b : BitVec 5) (w : BitVec 2) (s : State) : Host.Outcome State Fault Refusal :=
  deliver s (s.icmp u d a b w (fun x y => decide (x ≤ y)))

def execVand (u : BitVec 1) (d a b : BitVec 5) (w : BitVec 2) (s : State) : Host.Outcome State Fault Refusal :=
  deliver s (s.ibin u d a b w 2 (bitLane (fun _ x y => x &&& y)))
def execVor (u : BitVec 1) (d a b : BitVec 5) (w : BitVec 2) (s : State) : Host.Outcome State Fault Refusal :=
  deliver s (s.ibin u d a b w 2 (bitLane (fun _ x y => x ||| y)))
def execVxor (u : BitVec 1) (d a b : BitVec 5) (w : BitVec 2) (s : State) : Host.Outcome State Fault Refusal :=
  deliver s (s.ibin u d a b w 2 (bitLane (fun _ x y => x ^^^ y)))
def execVnot (u : BitVec 1) (d a : BitVec 5) (w : BitVec 2) (s : State) : Host.Outcome State Fault Refusal :=
  deliver s (s.iunary u d a w (fun _ x => -1 - x))
def execVsll (u : BitVec 1) (d a b : BitVec 5) (w : BitVec 2) (s : State) : Host.Outcome State Fault Refusal :=
  deliver s (s.ibin u d a b w 2 (bitLane (fun n x y => x * 2 ^ (y % n))))
def execVsrl (u : BitVec 1) (d a b : BitVec 5) (w : BitVec 2) (s : State) : Host.Outcome State Fault Refusal :=
  deliver s (s.ibin u d a b w 2 (bitLane (fun n x y => x / 2 ^ (y % n))))
def execVsra (u : BitVec 1) (d a b : BitVec 5) (w : BitVec 2) (s : State) : Host.Outcome State Fault Refusal :=
  deliver s (s.ibin u d a b w 2 (bitLane (fun n x y => wrapCode n (signedOf n x / (2 ^ (y % n) : Nat)))))
def execVabsI (d a : BitVec 5) (w : BitVec 2) (s : State) : Host.Outcome State Fault Refusal :=
  deliver s (s.iunary 0 d a w (fun _ x => (x.natAbs : Int)))
def execVnegI (d a : BitVec 5) (w : BitVec 2) (s : State) : Host.Outcome State Fault Refusal :=
  deliver s (s.iunary 0 d a w (fun _ x => -x))

/-! ### The mask stack (R222–R224) -/

/-- Depth with the writes in flight: those of V0 in the same bundle (R223). -/
def State.depth (s : State) : Nat :=
  s.ctx.pend.foldl (fun n p => match p.wr with
    | .mpush _ => n + 1
    | .mpop => n - 1
    | _ => n) s.ctx.regs.k.length
def State.maskFault (s : State) (cause : Nat) : FaultRec := s.faultRec 0x10 cause 0 (BitVec.ofNat 64 s.depth)

/-- The string c of R222. -/
def nonzeroMask (f : Fmt) (pay : BitVec 2048) : BitVec 512 :=
  BitVec.ofNat 512 (packW 1 ((vecCodes f pay).map (fun x => if x = 0 then 0 else 1)))
def execMpush (a : BitVec 5) (s : State) : Host.Outcome State Fault Refusal :=
  deliver s (do
    let f ← s.tagIn a (fun _ => true)
    if s.depth ≥ 8 then failWith (s.maskFault 1) else .ok (s.put 1 (.mpush (nonzeroMask f (s.rv a).pay))))
def execMinv (s : State) : Host.Outcome State Fault Refusal :=
  deliver s (if s.depth = 0 then failWith (s.maskFault 2) else .ok (s.put 1 .minv))
def execMpop (s : State) : Host.Outcome State Fault Refusal :=
  deliver s (if s.depth = 0 then failWith (s.maskFault 2) else .ok (s.put 1 .mpop))

/-! ### Moves and permutes (R237, R238) -/

def execVmov (d a : BitVec 5) (s : State) : Host.Outcome State Fault Refusal := done (s.putV d 1 (s.rv a))

def unscaled (f : Fmt) : Bool := !f.isScaled
/-- The low `w` bits of a scalar. -/
def lowCode (w : Nat) (x : Word) : Nat := x.toNat % 2 ^ w
def nthCode (l : List Nat) (i : Nat) : Nat := (l[i]?).getD 0

def execVbcast (d a f : BitVec 5) (s : State) : Host.Outcome State Fault Refusal :=
  deliver s (match Fmt.ofCode f.toNat with
    | some ty => .ok (s.putLanes d ty 2 (List.replicate (2048 / ty.width) (lowCode ty.width (s.rs a), 0)))
    | none => .ok s)
def execVbcastl (d a b : BitVec 5) (s : State) : Host.Outcome State Fault Refusal :=
  deliver s (do
    let ty ← s.tagIn a unscaled
    let n := 2048 / ty.width
    .ok (s.putLanes d ty 2 (List.replicate n (nthCode (vecCodes ty (s.rv a).pay) ((s.rs b).toNat % n), 0))))
def execVperm (d a b : BitVec 5) (s : State) : Host.Outcome State Fault Refusal :=
  deliver s (do
    let ty ← s.tagIn a unscaled
    s.tagCheck b .n8
    let n := 2048 / ty.width
    let l := vecCodes ty (s.rv a).pay
    .ok (s.putAll d (s.rv a).tag ty.width 3 (((vecCodes .n8 (s.rv b).pay).take n).map (fun i => nthCode l (i % n)))))
def execVrot (d a b : BitVec 5) (s : State) : Host.Outcome State Fault Refusal :=
  deliver s (do
    let ty ← s.tagIn a unscaled
    let n := 2048 / ty.width
    let l := vecCodes ty (s.rv a).pay
    .ok (s.putAll d (s.rv a).tag ty.width 3 (l.rotateLeft ((s.rs b).toNat % n))))
/-- Two sources with equal tags that the entry allows. -/
def State.samePair (s : State) (a b : BitVec 5) : Except Stop Fmt := do
  let ty ← s.tagIn a unscaled
  if (s.rv a).tag = (s.rv b).tag then .ok ty else failWith (s.fmtFault b.toNat (s.rv b).tag)
def execVsel (d a b : BitVec 5) (s : State) : Host.Outcome State Fault Refusal :=
  deliver s (do
    let ty ← s.samePair a b
    let top := s.ctx.regs.top
    .ok (s.putAll d (s.rv a).tag ty.width 3 ((List.zip (vecCodes ty (s.rv a).pay) (vecCodes ty (s.rv b).pay)).zipIdx.map
      (fun p => if top.getLsbD p.2 then p.1.1 else p.1.2))))
def execVext (d a b : BitVec 5) (s : State) : Host.Outcome State Fault Refusal :=
  deliver s (do
    let ty ← s.tagIn a (fun _ => true)
    .ok (s.putS d 3 (BitVec.ofNat 64 (nthCode (vecCodes ty (s.rv a).pay) ((s.rs b).toNat % (2048 / ty.width))))))
def execVins (d a b : BitVec 5) (s : State) : Host.Outcome State Fault Refusal :=
  deliver s (do
    let ty ← s.tagIn d unscaled
    .ok (s.putAll d (s.rv d).tag ty.width 3
      ((vecCodes ty (s.rv d).pay).set ((s.rs b).toNat % (2048 / ty.width)) (lowCode ty.width (s.rs a)))))
def execVzip (d a b : BitVec 5) (h : BitVec 1) (s : State) : Host.Outcome State Fault Refusal :=
  deliver s (do
    let ty ← s.samePair a b
    let half := 1024 / ty.width
    let part (r : BitVec 5) : List Nat := ((vecCodes ty (s.rv r).pay).drop (h.toNat * half)).take half
    .ok (s.putAll d (s.rv a).tag ty.width 3 ((List.zip (part a) (part b)).flatMap (fun p => [p.1, p.2]))))
def execVunzip (d a b : BitVec 5) (o : BitVec 1) (s : State) : Host.Outcome State Fault Refusal :=
  deliver s (do
    let ty ← s.samePair a b
    let part (r : BitVec 5) : List Nat :=
      ((vecCodes ty (s.rv r).pay).zipIdx.filter (fun p => p.2 % 2 == o.toNat)).map Prod.fst
    .ok (s.putAll d (s.rv a).tag ty.width 3 (part a ++ part b)))

/-! ### Reductions and dot products (R239, R240) -/

/-- The mask's choice over a list (R217). -/
def maskList {α : Type} (top : BitVec 512) (l : List α) (off : α) : List α :=
  l.zipIdx.map (fun p => if top.getLsbD p.2 then p.1 else off)
def enabledOf {α : Type} (top : BitVec 512) (l : List α) : List α := (l.zipIdx.filter (fun p => top.getLsbD p.2)).map Prod.fst

def execVrsum (d a : BitVec 5) (s : State) : Host.Outcome State Fault Refusal :=
  deliver s (do
    let ty ← s.tagIn a unscaled
    let top := s.ctx.regs.top
    let l := vecCodes ty (s.rv a).pay
    if ty.isFloat then
      let r := dot (.vrsum ty) s.ctx.csr.srseed s.ctx.iss.np 0 (maskList top (l.map (decodeFloat ty)) Val.zero) 0
      .ok (s.putV d (if s.ctx.iss.np = 3 then 20 else 6) ⟨BitVec.ofNat 2048 r.1, 0, tagOf .f32⟩ r.2)
    else
      let rt : Fmt := if ty.isSigned then .i64 else .n64
      let r := satCode rt ((enabledOf top (l.map (decodeInt ty))).foldl (· + ·) 0)
      .ok (s.putV d 6 ⟨BitVec.ofNat 2048 r.1, 0, tagOf rt⟩ r.2))

/-- The reduction of VRMAX and VRMIN (R239). -/
def reduceMinMax (ty : Fmt) (isMax : Bool) (l : List Nat) : Nat × Flags :=
  match l with
  | [] => if ty.isFloat then (ty.params.nan.getD 0, 0) else (wrapCode ty.width (if isMax then intMin ty else intMax ty), 0)
  | x :: xs =>
    if ty.isFloat then
      (x :: xs).foldl (fun acc y => let r := floatMinMax ty isMax acc.1 y; (r.1, acc.2 ||| r.2)) (x, 0)
    else (xs.foldl (fun acc y =>
      if isMax == decide (decodeInt ty acc < decodeInt ty y) then y else acc) x, 0)
def State.reduce (s : State) (d a : BitVec 5) (isMax : Bool) : Res := do
  let ty ← s.tagIn a unscaled
  let r := reduceMinMax ty isMax (enabledOf s.ctx.regs.top (vecCodes ty (s.rv a).pay))
  .ok (s.putV d 6 ⟨BitVec.ofNat 2048 r.1, 0, (s.rv a).tag⟩ r.2)
def execVrmax (d a : BitVec 5) (s : State) : Host.Outcome State Fault Refusal := deliver s (s.reduce d a true)
def execVrmin (d a : BitVec 5) (s : State) : Host.Outcome State Fault Refusal := deliver s (s.reduce d a false)

/-- The operand pair of VDOT (R240). -/
def dotPair (a b : Fmt) : Bool :=
  match a, b with
  | .f32, .f32 => true
  | .bf16, .bf16 => true
  | .f16, .f16 => true
  | .e4m3, .e4m3 => true
  | .e4m3, .e5m2 => true
  | .e5m2, .e4m3 => true
  | .e5m2, .e5m2 => true
  | .e2m1, .e2m1 => true
  | _, _ => false

/-- One segment's blocks under profile 5 (R159, R240): `lo` is its first element, `bl` the block size. -/
def segBlocks (top : BitVec 512) (x y : VReg) (bl lo n : Nat) : List (List Val × Val × Val) :=
  let cx := ((vecCodes .e2m1 x.pay).drop lo).take n
  let cy := ((vecCodes .e2m1 y.pay).drop lo).take n
  let ps := (List.zipWith (fun a b => (decodeFloat .e2m1 a).mul (decodeFloat .e2m1 b)) cx cy).zipIdx.map
    (fun p => if top.getLsbD (lo + p.2) then p.1 else Val.zero)
  (chunksOf bl ps.length ps).zipIdx.map (fun p =>
    (p.1, decodeFloat .e5m2 (sideByte x.side (lo / bl + p.2)), decodeFloat .e5m2 (sideByte y.side (lo / bl + p.2))))

def execVdot (d a b : BitVec 5) (sg : BitVec 2) (s : State) : Host.Outcome State Fault Refusal :=
  deliver s (do
    s.tagCheck d .f32
    let ta ← s.tagIn a (fun _ => true)
    let tb ← s.tagIn b (fun _ => true)
    let va := s.rv a
    let vb := s.rv b
    if !dotPair ta ta then failWith (s.fmtFault a.toNat va.tag) else .ok ()
    if !dotPair ta tb ∨ bits va.tag 7 5 ≠ bits vb.tag 7 5 then failWith (s.fmtFault b.toNat vb.tag) else .ok ()
    let cnt := 4 ^ sg.toNat
    let len := 2048 / ta.width / cnt
    let bl := groupLen (bits va.tag 7 5)
    if ta = .e2m1 ∧ len % bl ≠ 0 then failWith (s.fmtFault a.toNat va.tag) else .ok ()
    let np := s.ctx.iss.np
    let seed := s.ctx.csr.srseed
    let top := s.ctx.regs.top
    let ps := maskList top (List.zipWith Val.mul (va.vals ta) (vb.vals tb)) Val.zero
    let r := (vecCodes .f32 (s.rv d).pay).zipIdx.map (fun p =>
      if p.2 < cnt then
        if ta = .e2m1 ∧ np = 5 then
          dotBlocks (.vdot ta tb) seed p.1 (segBlocks top va vb bl (p.2 * len) len) (tensorScale (bits va.tag 31 16))
            (tensorScale (bits vb.tag 31 16)) p.2
        else dot (.vdot ta tb) seed np p.1 ((ps.drop (p.2 * len)).take len) p.2
      else (p.1, 0))
    .ok (s.putV d (if np = 3 then 24 else 8) ⟨vecPay 32 (r.map Prod.fst), 0, tagOf .f32⟩ (orAll (r.map Prod.snd))))

/-! ### Transcendentals (R241–R243) -/

/-- `c` 1 selects the .C form. -/
def State.trans (s : State) (fn : Fn) (c : BitVec 1) (d a : BitVec 5) (t : BitVec 2) : Res :=
  if c = 1 then s.funary d a t 16 (fun ty x => fnC ty fn x) else s.funary d a t 8 (fun ty x => fnA ty fn x)
def execExp2 (c : BitVec 1) (d a : BitVec 5) (t : BitVec 2) (s : State) : Host.Outcome State Fault Refusal :=
  deliver s (s.trans .exp2 c d a t)
def execLog2 (c : BitVec 1) (d a : BitVec 5) (t : BitVec 2) (s : State) : Host.Outcome State Fault Refusal :=
  deliver s (s.trans .log2 c d a t)
def execRcp (c : BitVec 1) (d a : BitVec 5) (t : BitVec 2) (s : State) : Host.Outcome State Fault Refusal :=
  deliver s (s.trans .rcp c d a t)
def execRsq (c : BitVec 1) (d a : BitVec 5) (t : BitVec 2) (s : State) : Host.Outcome State Fault Refusal :=
  deliver s (s.trans .rsq c d a t)
def execSqrt (c : BitVec 1) (d a : BitVec 5) (t : BitVec 2) (s : State) : Host.Outcome State Fault Refusal :=
  deliver s (s.trans .sqrt c d a t)
def execSin (c : BitVec 1) (d a : BitVec 5) (t : BitVec 2) (s : State) : Host.Outcome State Fault Refusal :=
  deliver s (s.trans .sin c d a t)
def execCos (c : BitVec 1) (d a : BitVec 5) (t : BitVec 2) (s : State) : Host.Outcome State Fault Refusal :=
  deliver s (s.trans .cos c d a t)
def execTanh (c : BitVec 1) (d a : BitVec 5) (t : BitVec 2) (s : State) : Host.Outcome State Fault Refusal :=
  deliver s (s.trans .tanh c d a t)

end Sys2Proof.Machine
end

