-- ==== Sys2Proof/Machine/Convert.lean ====
section
/-! DEFINITION. Conversions between formats: CVT, QNT, DQNT (R48–R54, R231–R236). -/
namespace Sys2Proof.Machine
open Sys2Proof

/-! ### Quantising (R50–R52) -/

/-- (m₁ × 2^e₁) / (m₂ × 2^e₂) as a fraction. -/
def fracDiv (m1 : Nat) (e1 : Int) (m2 : Nat) (e2 : Int) : Nat × Nat :=
  let a := fracOf m1 e1
  let b := fracOf m2 e2
  (a.1 * b.2, a.2 * b.1)

def Val.mant : Val → Nat
  | .fin _ m _ => m
  | _ => 0

structure QGroup where
  codes : List Nat
  scale : Nat
  zp    : Nat
  flags : Flags
  deriving DecidableEq, Repr

/-- A Q8 or Q4 group (R51); `draw` gives the SR draw of element i of the group. A
group with a NaN or an infinity decodes to NaN throughout, which differs from every element that is none (NX, R50). -/
def quantQ (qmax rm : Nat) (draw : Nat → Nat) (xs : List Val) : QGroup :=
  if xs.any (fun x => !x.isFinite) then ⟨xs.map (fun _ => 0), 0x7E00, 0, flIV ||| flagIf (!xs.all Val.isNaN) flNX⟩
  else
    let k := minInt (xs.map Val.expo)
    let is := xs.map (fun x => x.scaled k)
    let lo := minInt (0 :: is)
    let hi := maxInt (0 :: is)
    let sf := if hi = lo then (1, 1) else let a := fracOf (hi - lo).natAbs k; (a.1, a.2 * qmax)
    let sc0 := (roundFrac .f16 .rup false sf.1 sf.2).1
    let sc := if sc0 = 0x7C00 then 0x7BFF else sc0
    let sv := decodeFloat .f16 sc
    let div (x : Int) (r : Rnd) : Int := let f := fracDiv x.natAbs k sv.mant sv.expo; (roundIntFrac r (x < 0) f.1 f.2).1
    let zp : Int := min qmax (max 0 (div (-lo) .rne))
    let cs := is.zipIdx.map (fun p => div p.1 ((Rnd.ofCode rm (draw p.2)).getD .rne) + zp)
    let code (c : Int) : Int := min qmax (max 0 c)
    let q := min k sv.expo
    let same (x c : Int) : Bool := (code c - zp) * (sv.scaled q) == x * (2 ^ (k - q).toNat : Nat)
    ⟨cs.map (fun c => (code c).toNat), sc, zp.toNat,
      flagIf (sc0 == 0x7C00) (flOF ||| flNX) ||| flagIf (cs.any (fun c => code c != c)) flSA |||
        flagIf (!(List.zipWith same is cs).all id) flNX⟩

/-- An E2M1 block (R52). -/
def quantE2m1 (ts rm : Nat) (draw : Nat → Nat) (xs : List Val) : QGroup :=
  let t := tensorScale ts
  if !t.isFinite || t.isZero || xs.any (fun x => !x.isFinite) then ⟨xs.map (fun _ => 0), 0x7E, 0, flIV⟩
  else
    let k := minInt (xs.map Val.expo)
    let a := maxInt (xs.map (fun x => ((x.scaled k).natAbs : Int)))
    let sf := fracDiv a.natAbs k (6 * t.mant) t.expo
    let bs0 := if a = 0 then 0x3C else (roundFrac .e5m2 .rup false sf.1 sf.2).1
    let bs := if bs0 = 0x7C then 0x7B else bs0
    let sv := decodeFloat .e5m2 bs
    let cs := xs.zipIdx.map (fun p =>
      let f := fracDiv p.1.mant p.1.expo (t.mant * sv.mant) (t.expo + sv.expo)
      roundFrac .e2m1 ((Rnd.ofCode rm (draw p.2)).getD .rne) (p.1.negSign ^^ t.negSign) f.1 f.2)
    ⟨cs.map Prod.fst, bs, 0,
      flagIf (bs0 == 0x7C) (flOF ||| flNX) ||| (orAll (cs.map Prod.snd) &&& (flNX ||| flUF))⟩

/-! ### The control word and the slice (R231–R233) -/

structure Slice where
  n     : Nat
  sbase : Nat
  dbase : Nat
  pmax  : Nat
  deriving DecidableEq, Repr
/-- R232, of element counts and PART. -/
def sliceOf (ns nd part : Nat) : Slice :=
  if ns ≥ nd then ⟨nd, part * nd, 0, ns / nd⟩ else ⟨ns, 0, part * ns, nd / ns⟩

/-- A conversion's control word, index base, source and destination formats and slice, after the checks of R233. -/
structure Conv where
  ctl : BitVec 32
  idx : Nat
  src : Fmt
  dst : Fmt
  sl  : Slice
  deriving DecidableEq, Repr

def ctlPart (x : BitVec 32) : Nat := x.toNat / 256 % 16
/-- The destination tag of a control word. -/
def ctlTag (x : BitVec 32) : BitVec 32 :=
  BitVec.ofNat 32 ((if ctlFmt x = 6 then ctlTs x * 65536 else 0) + ctlGs x * 32 + ctlFmt x)

def State.conv (s : State) (a b : BitVec 5) (wordOk : BitVec 32 → Bool) (srcOk : Fmt → Bool) (groups : Bool) :
    Except Stop Conv := do
  let (c, base) : BitVec 32 × Nat := match s.ctx.iss.x with
    | some x => (x, 0)
    | none => ((s.rs b).setWidth 32, bits (s.rs b) 63 32 * 65536)
  let bad : Except Stop Unit := failWith (s.fmtFault b.toNat c)
  if wordOk c then .ok () else bad
  let ty ← s.tagIn a srcOk
  match Fmt.ofCode (ctlFmt c) with
  | none => failWith (s.fmtFault b.toNat c)
  | some dt =>
    let sl := sliceOf (2048 / ty.width) (2048 / dt.width) (ctlPart c)
    if ctlPart c ≥ sl.pmax then bad else .ok ()
    if groups ∧ sl.n % groupLen (ctlGs c) ≠ 0 then bad else .ok ()
    .ok ⟨c, base, ty, dt, sl⟩

/-- The slice `new` laid over what the destination keeps (R232); `on` says which elements are written. -/
def layOver (old : List Nat) (dbase : Nat) (new : List (Nat × Flags)) (on : Nat → Bool) : List (Nat × Flags) :=
  old.zipIdx.map (fun p =>
    if dbase ≤ p.2 ∧ on p.2 then ((new[p.2 - dbase]?).getD (p.1, 0)) else (p.1, 0))

/-- CVT (R234); a source that carries the destination's tag is copied (R48). -/
def execCvt (d a b : BitVec 5) (s : State) : Host.Outcome State Fault Refusal :=
  deliver s (do
    let c ← s.conv a b cvtWordOk unscaled false
    let v := s.rv a
    let src := ((vecCodes c.src v.pay).drop c.sl.sbase).take c.sl.n
    let new : List (Nat × Flags) :=
      if tagSame v.tag (ctlTag c.ctl) then src.map (fun x => (x, 0))
      else src.zipIdx.map (fun p => convertVal c.dst
        ((Rnd.ofCode (ctlRm c.ctl) (srDraw s.ctx.csr.srseed (c.idx + c.sl.dbase + p.2))).getD .rne)
        c.src.isInt (c.ctl.getLsbD 15) (decodeElem c.src p.1))
    let r := layOver (s.kept d c.dst) c.sl.dbase new (fun i => s.ctx.regs.top.getLsbD i)
    .ok (s.putV d 4 ⟨vecPay c.dst.width (r.map Prod.fst), 0, tagOf c.dst⟩ (orAll (r.map Prod.snd))))

/-- DQNT (R236); the mask is ignored. -/
def execDqnt (d a b : BitVec 5) (s : State) : Host.Outcome State Fault Refusal :=
  deliver s (do
    let c ← s.conv a b dqntWordOk Fmt.isScaled false
    let src := (((s.rv a).vals c.src).drop c.sl.sbase).take c.sl.n
    let new := src.zipIdx.map (fun p => roundVal c.dst
      ((Rnd.ofCode (ctlRm c.ctl) (srDraw s.ctx.csr.srseed (c.idx + c.sl.dbase + p.2))).getD .rne) p.1)
    let r := layOver (s.kept d c.dst) c.sl.dbase new (fun _ => true)
    .ok (s.putV d 4 ⟨vecPay c.dst.width (r.map Prod.fst), 0, tagOf c.dst⟩ (orAll (r.map Prod.snd))))

/-- The side store of a quantised register (R37): groups outside the slice keep what `old` holds. -/
def sideOf (f : Fmt) (count first : Nat) (old : BitVec 512) (gs : List QGroup) : BitVec 512 :=
  let byte (i : Nat) : Nat :=
    let grp (g : Nat) : Option QGroup := if first ≤ g then gs[g - first]? else none
    if f = .e2m1 then (if i < count then ((grp i).map QGroup.scale).getD (sideByte old i) else 0)
    else if i < 32 then
      (if i / 2 < count then (((grp (i / 2)).map QGroup.scale).getD (sideF16 old (i / 2))) / 256 ^ (i % 2) % 256 else 0)
    else if i < 48 then (if i - 32 < count then ((grp (i - 32)).map QGroup.zp).getD (if f = .q4 then sideByte old i % 16 else sideByte old i) else 0)
    else 0
  BitVec.ofNat 512 (packW 8 ((List.range 64).map byte))

/-- QNT (R235). -/
def execQnt (d a b : BitVec 5) (s : State) : Host.Outcome State Fault Refusal :=
  deliver s (do
    let c ← s.conv a b qntWordOk (fun _ => true) true
    let v := s.rv a
    let tag := ctlTag c.ctl
    if tagSame v.tag tag then .ok (s.putV d 8 v)
    else
      let g := groupLen (ctlGs c.ctl)
      let xs := ((v.vals c.src).drop c.sl.sbase).take c.sl.n
      let gs := (chunksOf g xs.length xs).zipIdx.map (fun p =>
        let draw (i : Nat) : Nat := srDraw s.ctx.csr.srseed (c.idx + c.sl.dbase + p.2 * g + i)
        if c.dst = .e2m1 then quantE2m1 (ctlTs c.ctl) (ctlRm c.ctl) draw p.1
        else quantQ (if c.dst = .q8 then 255 else 15) (ctlRm c.ctl) draw p.1)
      let old := s.rv d
      let keep := tagSame old.tag tag
      let codes := if keep then vecCodes c.dst old.pay else List.replicate (2048 / c.dst.width) 0
      let r := layOver codes c.sl.dbase ((gs.flatMap QGroup.codes).map (fun x => (x, 0))) (fun _ => true)
      let side := sideOf c.dst (2048 / c.dst.width / g) (c.sl.dbase / g) (if keep then old.side else 0) gs
      .ok (s.putV d 8 ⟨vecPay c.dst.width (r.map Prod.fst), side, tag⟩ (orAll (gs.map QGroup.flags))))

end Sys2Proof.Machine
end

