-- ==== Sys2Proof/Machine/Gouge.lean ====
section
/-! DEFINITION. The Gouge units at the banks: nests, bodies and accumulators (R361–R369), timetables (R370–R376), commands
(R377–R387), the state window (R388–R390), power states (R391–R393). -/
namespace Sys2Proof.Machine
open Sys2Proof

/-! ### Descriptors (R365, R366) -/

def GUnit.w (u : GUnit) (i : Nat) : Word := (u.desc[i]?).getD 0
def GUnit.bmask (u : GUnit) : Nat := bits (u.w 0) 15 0
def GUnit.banks (u : GUnit) : List Nat := (List.range 16).filter (fun b => u.bmask.testBit b)
/-- XIX, YIX, DIX. -/
def GUnit.index (u : GUnit) (k : Nat) : Nat := bits (u.w 0) (63 - 16 * k) (48 - 16 * k)
/-- XBASE, YBASE, DBASE. -/
def GUnit.base (u : GUnit) (k : Nat) : Int := (bits (u.w 2) (63 - 16 * k) (48 - 16 * k) : Nat)
def GUnit.alpha (u : GUnit) : Val := decodeFloat .f32 (bits (u.w 1) 63 32)
def GUnit.beta (u : GUnit) : Val := decodeFloat .f32 (bits (u.w 1) 31 0)
def GUnit.body (u : GUnit) : Nat := bits (u.w 2) 7 4
def GUnit.alv (u : GUnit) : Nat := bits (u.w 2) 3 1
def GUnit.ainit (u : GUnit) : Nat := if (u.w 2).getLsbD 0 then 0xFF800000 else 0
def GUnit.lvl (u : GUnit) (v : Nat) : Word := u.w (3 + v)
def lvlStride (w : Word) (k : Nat) : Int := signedOf 16 (bits w (63 - 16 * k) (48 - 16 * k))
def lvlCnt (w : Word) : Nat := bits w 15 6
def lvlPadl (w : Word) : Nat := bits w 5 4
def lvlPadh (w : Word) : Nat := bits w 3 2
def lvlRule (w : Word) : Nat := bits w 1 0
/-- A pad iteration of a level (R367). -/
def lvlPad (w : Word) (i : Nat) : Bool := decide (i < lvlPadl w) || decide ((lvlCnt w : Int) - lvlPadh w < i)
/-- The address counter e of an iteration (R367). -/
def lvlE (w : Word) (i : Nat) : Int :=
  if lvlPad w i ∧ lvlRule w = 1 then min (max (i : Int) (lvlPadl w)) (max (lvlPadl w : Int) ((lvlCnt w : Int) - lvlPadh w)) else i

def GUnit.reset (u : GUnit) : GUnit :=
  { u with ctr := [0, 0, 0, 0, 0], acc := List.replicate 16 (List.replicate 32 u.ainit), fin := false, busy := false }

/-- Does the body use X, Y, D in its steps (R368)? -/
def bodyUses (body : Nat) : Bool × Bool × Bool :=
  match body with
  | 1 => (true, true, false)
  | 2 => (true, true, true)
  | 3 => (true, true, true)
  | 4 => (true, false, false)
  | 5 => (true, false, false)
  | 6 => (true, false, true)
  | 7 => (true, true, true)
  | _ => (false, false, false)
/-- A (R368). -/
def bodyA (body : Nat) : Nat :=
  match body with
  | 1 => 2 | 2 => 3 | 3 => 3 | 6 => 2 | 7 => 5 | _ => 1
def bodyAcc (body : Nat) : Bool := body == 1 || body == 4 || body == 5

/-! ### A step (R367–R369) -/

inductive PadMode where
  | normal | clamp | zero | skip
  deriving DecidableEq, Repr

/-- The mode and the address counters of a step. -/
def GUnit.modeOf (u : GUnit) (ctr : List Nat) : PadMode × List Int :=
  ctr.zipIdx.foldl (fun r x =>
    let w := u.lvl x.2
    let m := if !lvlPad w x.1 then r.1
      else if lvlRule w = 2 then .skip
      else if lvlRule w = 0 then (if r.1 = .skip then .skip else .zero)
      else if r.1 = .normal then .clamp else r.1
    (m, r.2 ++ [lvlE w x.1])) (.normal, [])
/-- Segment index of operand `k` (0 X, 1 Y, 2 D). -/
def GUnit.segOf (u : GUnit) (k : Nat) (e : List Int) : Int :=
  e.zipIdx.foldl (fun t x => t + x.1 * lvlStride (u.lvl x.2) k) (u.base k)

/-- The cell of segment `p` of bank `b` of die `d` in channel `h` (R362). -/
def segCell (h d b : Nat) (p : Int) : Nat := cellOf 1 h (d * 2 ^ 27 + b * 2 ^ 23 + p.toNat % 2 ^ 16 * 2 ^ 7)
def lanesOf (bs : List Byte) : List Nat := (List.range 32).map (fun j => leNat ((bs.drop (4 * j)).take 4))

/-- A segment in the DRAM cells, or the address of its error (R362, R386). -/
def Pack.segRead (k : Pack) (cell : Nat) : Except Nat (List Nat) :=
  match k.badUnit ⟨.dram, cell, 128⟩ with
  | some a => .error a
  | none => .ok (lanesOf (k.mem.read ⟨.dram, cell, 128⟩))
def laneBytes (l : List Nat) : List Byte := l.flatMap (leBytes 4)

/-- One lane of a body: new accumulator, Y, D, and the flags (R368). -/
def bodyLane (body : Nat) (al be : Val) (x y d acc : Nat) : Nat × Nat × Nat × Flags :=
  let v := decodeFloat .f32
  let one : Val := .fin false 1 0
  let rnd (t : Val) : Nat × Flags := roundVal .f32 .rne t
  let only (r : Nat × Flags) : Nat × Nat × Nat × Flags := (acc, y, r.1, r.2)
  match body with
  | 1 => let r := rnd (Val.add false (v acc) ((v x).mul (v y))); (r.1, y, d, r.2)
  | 2 => only (rnd (Val.add false (al.mul (v x)) (v y)))
  | 3 => only (rnd (Val.add false (al.mul (v x)) (be.mul (v y))))
  | 4 => let r := rnd (Val.add false (v acc) ((v x).mul (v x))); (r.1, y, d, r.2)
  | 5 => let r := floatMinMax .f32 true acc x; (r.1, y, d, r.2)
  | 6 => only (rnd (al.mul (v x)))
  | 7 =>
    let r := rnd (Val.add false (al.mul (v y)) ((Val.add false one al.neg).mul (v x)))
    let q := rnd (Val.add false (be.mul (v d)) (Val.prod [Val.add false one be.neg, v x, v x]))
    (acc, r.1, q.1, r.2 ||| q.2)
  | _ => (acc, y, d, 0)

/-- What a row pass has done: the package, the unit, its flags, the steps begun, the address of an error that stopped it. -/
structure PassRun where
  k   : Pack
  u   : GUnit
  fl  : Flags := 0
  n   : Nat := 0
  err : Option Nat := none
  deriving DecidableEq, Repr

/-- One step in one bank: reads before writes; CLAMP and ZERO write neither D nor Y (R367–R369). -/
def PassRun.bank (r : PassRun) (h : Nat) (mode : PadMode) (e : List Int) (b : Nat) : PassRun :=
  if r.err.isSome then r
  else
    let u := r.u
    let uses := bodyUses u.body
    let rd (need : Bool) (k : Nat) : Except Nat (List Nat) :=
      if need && mode != .zero then r.k.segRead (segCell h u.die b (u.segOf k e)) else .ok (List.replicate 32 0)
    match rd uses.1 0, rd uses.2.1 1, rd (u.body == 7) 2 with
    | .error a, _, _ => { r with err := some a }
    | _, .error a, _ => { r with err := some a }
    | _, _, .error a => { r with err := some a }
    | .ok x, .ok y, .ok d =>
      let acc := (u.acc[b]?).getD []
      let at_ (l : List Nat) (j : Nat) : Nat := (l[j]?).getD 0
      let out := (List.range 32).map (fun j => bodyLane u.body u.alpha u.beta (at_ x j) (at_ y j) (at_ d j) (at_ acc j))
      let fl := orAll (out.map (fun o => o.2.2.2))
      let k := r.k
      let k := if mode = .normal ∧ uses.2.2 then
        k.segWrite (segCell h u.die b (u.segOf 2 e)) (laneBytes (out.map (fun o => o.2.2.1))) else k
      let k := if mode = .normal ∧ u.body = 7 then
        k.segWrite (segCell h u.die b (u.segOf 1 e)) (laneBytes (out.map (fun o => o.2.1))) else k
      { r with k := k, u := { u with acc := u.acc.set b (out.map Prod.fst) }, fl := r.fl ||| fl }

/-- The iterations of level 0 in the next row pass: from the counter, which only a restore sets to another value than 0 (R383). -/
def GUnit.inner (u : GUnit) : List Nat := (List.range (lvlCnt (u.lvl 0) + 1)).drop (u.ctr.headD 0)
/-- The steps of level 0 in turn, each bank of BMASK in ascending order (R369). -/
def PassRun.steps (r : PassRun) (h : Nat) : PassRun :=
  let upper := r.u.ctr.drop 1
  r.u.inner.foldl (fun r i =>
    let (mode, e) := r.u.modeOf (i :: upper)
    if r.err.isSome || mode == .skip then r else r.u.banks.foldl (fun r b => r.bank h mode e b) { r with n := r.n + 1 }) r

/-- Is the accumulator stored at the end of this row pass (R369)? -/
def GUnit.storesNow (u : GUnit) : Bool :=
  u.alv ≤ 4 && (List.range 5).all (fun l => l == 0 || decide (u.alv < l) || (u.ctr[l]?).getD 0 == lvlCnt (u.lvl l))
/-- The address counters of an accumulator store: 0 up to ALV, the counters above; padding does not matter (R369). -/
def GUnit.storeE (u : GUnit) (ctr : List Nat) : List Int := ctr.zipIdx.map (fun x => if x.2 ≤ u.alv then 0 else (x.1 : Int))
def PassRun.store (r : PassRun) (h : Nat) : PassRun :=
  if r.err.isSome ∨ !r.u.storesNow then r
  else
    let p := r.u.segOf 2 (r.u.storeE r.u.ctr)
    r.u.banks.foldl (fun r b =>
      { r with k := r.k.segWrite (segCell h r.u.die b p) (laneBytes ((r.u.acc[b]?).getD []))
               u := { r.u with acc := r.u.acc.set b (List.replicate 32 r.u.ainit) } }) r

/-- Counters 1–4 after a row pass; the second component says that the nest is complete. -/
def nextCtr (u : GUnit) : Nat → Nat → List Nat → List Nat × Bool
  | _, _, [] => ([], true)
  | fuel, l, c :: cs =>
    if c < lvlCnt (u.lvl l) then ((c + 1) :: cs, false)
    else match fuel with
      | 0 => (0 :: cs, true)
      | f + 1 => let r := nextCtr u f (l + 1) cs; (0 :: r.1, r.2)
def GUnit.advance (u : GUnit) : GUnit :=
  let r := nextCtr u 4 1 (u.ctr.drop 1)
  { u with ctr := 0 :: r.1, fin := r.2 }

/-- A whole row pass (R372). -/
def Pack.rowPass (k : Pack) (h : Nat) (u : GUnit) : PassRun :=
  let r := (({ k := k, u := u } : PassRun).steps h).store h
  if r.err.isSome then r else { r with u := r.u.advance }

/-- Steps of level 0 that are not skipped, when no upper level skips. -/
def GUnit.liveSteps (u : GUnit) (is : List Nat) : Nat :=
  (is.filter (fun i => !(lvlPad (u.lvl 0) i && lvlRule (u.lvl 0) == 2))).length
def GUnit.oneCost (u : GUnit) : Nat := 16 * bodyA u.body * u.banks.length
/-- The cost of the unit's next row pass in channel cycles (R372). -/
def GUnit.passCost (u : GUnit) : Nat :=
  let skipped := (u.ctr.zipIdx.drop 1).any (fun x => lvlPad (u.lvl x.2) x.1 && lvlRule (u.lvl x.2) == 2)
  (if skipped then 0 else u.oneCost * u.liveSteps u.inner) + (if u.storesNow then 16 * u.banks.length else 0)
/-- The costliest row pass of the program (R376, R382). -/
def GUnit.worstPass (u : GUnit) : Nat :=
  let live (l : Nat) (i : Nat) : Bool := !(lvlPad (u.lvl l) i && lvlRule (u.lvl l) == 2)
  let some_ (l : Nat) : Bool := (List.range (lvlCnt (u.lvl l) + 1)).any (live l)
  let last (l : Nat) : Bool := live l (lvlCnt (u.lvl l))
  let whole := u.oneCost * u.liveSteps (List.range (lvlCnt (u.lvl 0) + 1))
  let plain := if [1, 2, 3, 4].all some_ then whole else 0
  let atStore := if [1, 2, 3, 4].all (fun l => if l ≤ u.alv then last l else some_ l) then whole else 0
  if u.alv ≤ 4 then max plain (atStore + 16 * u.banks.length) else plain

/-! ### Timetable images (R364–R376) -/

/-- An image's words: header, descriptors, entries. -/
def imgWord (img : List Byte) (off : Nat) : Word := BitVec.ofNat 64 (leNat ((img.drop off).take 8))
def imgDmask (img : List Byte) : Nat := bits (imgWord img 0) 31 16
def imgEntries (img : List Byte) : List Word := (List.range (bits (imgWord img 0) 7 0 + 1)).map (fun j => imgWord img (0x440 + 8 * j))
def imgUnits (img : List Byte) : List GUnit :=
  ((List.range 16).filter (fun d => (imgDmask img).testBit d)).map (fun d =>
    ({ die := d, desc := (List.range 8).map (fun i => imgWord img (0x40 + 0x40 * d + 8 * i)), ctr := [], acc := [] } : GUnit).reset)

/-- Cause IMAGE (R376) within the bytes read. -/
def imageBad (img : List Byte) : Bool :=
  let h := imgWord img 0
  bits h 63 32 != 0x6A5C0E01 || bits h 15 8 != 0 || imgDmask img == 0 || (List.range 7).any (fun i => imgWord img (8 + 8 * i) != 0) ||
  (imgUnits img).any (fun u =>
    u.bmask == 0 || bits (u.w 2) 15 8 != 0 || decide (7 < u.body) || u.alv == 5 || u.alv == 6 || (decide (u.alv ≤ 4) && !bodyAcc u.body) ||
    decide (7 < lvlCnt (u.lvl 0)) || (List.range 5).any (fun l => lvlRule (u.lvl l) == 3)) ||
  (imgEntries img).any (fun e => entKind e == 3 || bits e 61 16 != 0 || entLen e == 0)

/-- Every way to pick one element of each list. -/
def picks : List (List Int) → List (List Int)
  | [] => [[]]
  | xs :: rest => xs.flatMap (fun x => (picks rest).map (fun r => x :: r))
/-- Address counters of the steps in NORMAL or CLAMP mode. -/
def GUnit.touched (u : GUnit) : List (List Int) :=
  picks ((List.range 5).map (fun l =>
    let w := u.lvl l
    (((List.range (lvlCnt w + 1)).filter (fun i => !lvlPad w i || lvlRule w == 1)).map (lvlE w)).dedup))
/-- Address counters of the accumulator stores. -/
def GUnit.stored (u : GUnit) : List (List Int) :=
  if u.alv ≤ 4 then picks ((List.range 5).map (fun l =>
    if l ≤ u.alv then [0] else (List.range (lvlCnt (u.lvl l) + 1)).map Int.ofNat)) else []

/-- Does the buffer hold segment `p` of a bank in channel `h` (R68, R362)? -/
def BufEntry.holdsSeg (e : BufEntry) (h d b : Nat) (p : Int) : Bool :=
  let ca := d * 2 ^ 27 + b * 2 ^ 23 + p.toNat * 2 ^ 7
  let g := e.granule
  decide (0 ≤ p) && decide (p < 2 ^ 16) && decide (e.cgb ≤ h) && decide (h < e.cgb + 2 ^ e.cgn) && decide (e.base ≤ ca) &&
    decide (((ca - e.base) / g * 2 ^ e.cgn + (h - e.cgb)) * g + (ca - e.base) % g + 128 ≤ e.limit)

/-- Some cell of the buffer is protected (R453). -/
def Pack.bufferProtected (k : Pack) (e : BufEntry) : Bool :=
  !(k.ven.toList.flatMap VSlot.regions).isEmpty &&
    (List.range ((e.limit + 127) / 128)).any (fun i => (cellPieces e 2 (128 * i) (min 128 (e.limit - 128 * i))).any (fun p => (k.protected_ p.addr).isSome))

/-- Cause BUFFER for one operand of a unit. -/
def Pack.operandBad (k : Pack) (btab : Word) (owner h : Nat) (u : GUnit) (op : Nat) : Bool :=
  let uses := bodyUses u.body
  let step := if op = 0 then uses.1 else if op = 1 then uses.2.1 else uses.2.2
  let used := step || (op == 2 && decide (u.alv ≤ 4))
  let ix := u.index op
  if !used then ix != 0
  else if ix = 0 then true
  else
    let e := k.entryAt (bits btab 47 0) ix
    (k.handleBad btab owner ix 0 0 rGG false).isSome || e.tier != 2 || e.devn != 0xFF || e.win != 1 || e.cp != 2 || k.bufferProtected e ||
    !((if step then u.touched else []) ++ (if op = 2 then u.stored else [])).all (fun x =>
      u.banks.all (fun b => e.holdsSeg h u.die b (u.segOf op x)))

def kindCycles (es : List Word) (kind : Nat) : Nat := ((es.filter (fun e => entKind e == kind)).map entLen).foldl (· + ·) 0
/-- The longest run of entries that satisfy `f`, over the entries once around and again. -/
def longestRun (f : Word → Bool) (es : List Word) : Nat :=
  min (((es ++ es).foldl (fun (r : Nat × Nat) e => if f e then (max r.1 (r.2 + entLen e), r.2 + entLen e) else (r.1, 0)) (0, 0)).1)
    ((es.map entLen).foldl (· + ·) 0)
/-- WMAX (R373). -/
def wmaxOf (es : List Word) : Nat := longestRun (fun e => entKind e != 1) es + 48

/-- The cause a whole image fails with (R376). -/
def Pack.imageCause (k : Pack) (btab : Word) (owner h : Nat) (img : List Byte) : Option Nat :=
  let us := imgUnits img
  let es := imgEntries img
  let per := (es.map entLen).foldl (· + ·) 0
  if imageBad img then some 3
  else if us.any (fun u => [0, 1, 2].any (fun op => k.operandBad btab owner h u op)) then some 4
  else if bits (k.ioRd (0x50000 + 0x20 * h)) 39 32 * per < 256 * kindCycles es 0 then some 5
  else if !es.any (fun e => entKind e == 2) || es.any (fun e => entKind e == 2 && decide (entLen e < 288)) ||
      decide (5952 < longestRun (fun e => entKind e != 2) es) then some 6
  else if !es.any (fun e => entKind e == 1 && decide (64 ≤ entLen e)) then some 7
  else if es.any (fun e => entKind e == 0 && us.any (fun u => decide (entLen e < u.worstPass))) then some 8
  else none

/-! ### Commands at issue (R377, R378, R384) -/

def tlGouge (h : Nat) : Nat := 2304 + h
/-- A command is accepted, or stalls while 8 are not yet performed; a GTT takes 3,000 cc, within the 4 µs of R379 (log 5). -/
def State.gougeCmd (s : State) (cmd : Nat) (img : Handle) (start : Word) : Res :=
  let h := bits s.ctl 7 0
  if (s.pk.tl (tlGouge h)).open_.length ≥ 8 then .error .stall
  else
    let x := s.issueNumbered (tlGouge h) { id := 0, ctx := 0, kind := .gouge cmd h img start, waits := [s.ctlWait]
                                           wreg := BitVec.ofNat 8 s.waitReg, heads := s.ownHeads
                                           lat := if cmd = 0 then 3000 else 0 }
    .ok (x.2.putWitness s.cmdD x.1)
/-- The control word's reserved bits. -/
def State.gougeResv (s : State) : Except Stop Unit := if bits s.ctl 63 8 ≠ 0 then s.commandFault 2 s.ctl else .ok ()

/-- GTT (R379). -/
def execGtt (s : State) : Host.Outcome State Fault Refusal :=
  deliver s (do
    s.gougeResv
    let _ ← s.accessReg s.cmdA 0 1088 rRD
    s.witCheck s.waitReg s.ctlWait
    s.gougeCmd 0 (s.ra s.cmdA) 0)
/-- GGO (R380). -/
def execGgo (s : State) : Host.Outcome State Fault Refusal :=
  deliver s (do
    s.gougeResv
    s.witCheck s.waitReg s.ctlWait
    s.gougeCmd 1 0 (s.rs s.cmdA))
/-- GSAVE (R382). -/
def execGsave (s : State) : Host.Outcome State Fault Refusal :=
  deliver s (do
    s.gougeResv
    s.witCheck s.waitReg s.ctlWait
    s.gougeCmd 2 0 0)
/-- GRESTORE (R383). -/
def execGrestore (s : State) : Host.Outcome State Fault Refusal :=
  deliver s (do
    s.gougeResv
    s.witCheck s.waitReg s.ctlWait
    s.gougeCmd 3 0 (s.rs s.cmdA))
/-- GSTAT (R384): sampled on arrival at the base die, back as a base-die atomic's old value (R331). -/
def execGstat (s : State) : Host.Outcome State Fault Refusal :=
  let h := (s.rs s.cmdA).toNat % 256
  deliver s (s.issueLoad (.s s.cmdD.toNat 0) s.cmdD.toNat (s.loK s.cmdB)
    { id := 0, ctx := 0, kind := .gstat h, lat := if h / 128 = s.die then 40 else 90 })

/-! ### The run (R371, R372, R381, R386) -/

def Pack.updUnit (k : Pack) (h d : Nat) (f : GUnit → GUnit) : Pack :=
  k.setChan h (fun c => { c with units := c.units.map (fun u => if u.die = d then f u else u) })
/-- A unit is at work. -/
def Pack.unitsBusy (k : Pack) (h : Nat) : Bool := (k.chan h).units.any GUnit.busy

/-- The self-refresh request's areas are written once no row pass runs: 2,048 channel cycles later (R392, log 5). -/
def Pack.parkSoon (k : Pack) (h : Nat) : Pack :=
  if (k.chan h).parking ∧ !k.unitsBusy h then k.schedule 2560 .parkDone { n := h } else k

/-- Another class waits for the channel (R375). -/
def Pack.classWaits (k : Pack) (h : Nat) : Bool := (List.range 7).any (fun c => c != 2 && k.asks c (chanOff h))

/-- The channel cycles until a unit's pass ends, or stops at an error that one of its reads meets (R386). -/
def Pack.passTime (k : Pack) (h : Nat) (u : GUnit) : Nat :=
  let r := k.rowPass h u
  if r.err.isSome then r.n * u.oneCost else u.passCost
/-- Unit `d` decides on its next row pass at channel cycle `next` (R372, R375). -/
def Pack.tryPass (k : Pack) (h d : Nat) : Pack :=
  let c := k.chan h
  match c.units.find? (fun u => u.die == d) with
  | none => k
  | some u =>
    if c.state ≠ .running ∨ entKind c.entryWord ≠ 0 ∨ c.stopping ∨ c.asleep ∨ u.fin ∨ u.busy ∨ c.entryEnd < u.next + u.passCost ∨
        c.spent then k
    else if k.gtOver h ∧ k.classWaits h then k.setChan h (fun c => { c with spent := true })
    else (k.updUnit h d (fun u => { u with busy := true })).schedule (k.ticksToCh (u.next + k.passTime h u)) .rowPass
      { n := h, m := d, k := c.seq }

/-- An entry begins at its first channel cycle, with every bank closed (R373). -/
def Pack.beginEntry (k : Pack) (h : Nat) : Pack :=
  let k := k.closeRows h
  let c := k.chan h
  let k := k.setChan h (fun c => { c with units := c.units.map (fun u => if u.busy then u else { u with next := c.entryFrom }) })
  let k := c.units.foldl (fun (k : Pack) u => k.tryPass h u.die) k
  k.schedule (k.ticksToCh c.entryEnd) .timetableEntry { n := h, k := c.seq }

/-- Period 0 begins at channel cycle `start`. -/
def Pack.beginRun (k : Pack) (h start : Nat) : Pack :=
  (k.setChan h (fun c => { c with state := .running, start := start, entry := 0, entryFrom := start, gtFrom := start
                                  late_ := false })).beginEntry h

/-- Channel `n`'s armed timetable `k` starts; in self-refresh it waits for the exit (R371, R392). -/
def execTimetableStart (s : State) : Host.Outcome State Fault Refusal :=
  let h := s.pk.arg.n
  let c := s.pk.chan h
  done (if c.state ≠ .armed ∨ c.seq ≠ s.pk.arg.k then s
    else if c.asleep then s.updPk (fun k => k.setChan h (fun c => { c with late_ := true }))
    else s.updPk (fun k => k.beginRun h c.start))

/-- An entry of channel `n`'s timetable ends and the next begins, after the last one the first (R370). -/
def execTimetableEntry (s : State) : Host.Outcome State Fault Refusal :=
  let h := s.pk.arg.n
  let c := s.pk.chan h
  done (if c.state ≠ .running ∨ c.seq ≠ s.pk.arg.k then s
    else s.updPk (fun k =>
      (k.setChan h (fun c => { c.addUse c.entryEnd with entryFrom := c.entryEnd, entry := (c.entry + 1) % c.entries.length })).beginEntry h))

/-- The run's start point is performed, or failed. -/
def Pack.endPoint (k : Pack) (h : Nat) (ok : Bool) : Pack :=
  let c := k.chan h
  if ok then k.completeOp (tlGouge h) c.seq else k.failOp (tlGouge h) c.seq c.owner

/-- A row pass of unit `u` ends at channel cycle `t` as `r`: the nest's end, DONE, an error, the next pass. -/
def Pack.endPass (h t : Nat) (u : GUnit) (r : PassRun) : Pack :=
  let k := r.k.updUnit h u.die (fun _ => { r.u with busy := false, next := t })
  let k := k.setChan h (fun c => { c with flags := c.flags ||| r.fl })
  let k := match r.err with
    | some a => (k.logError 1 0x1FF a).setChan h (fun c => if c.state = .error then c
        else { c.addUse t with state := .error, cause := 0xA, periods := c.periodsAt t })
    | none => k
  let c := k.chan h
  if c.state = .error then (if k.unitsBusy h then k else (k.endPoint h false).parkSoon h)
  else if c.units.all GUnit.fin then
    (((k.setChan h (fun c => { c.addUse t with state := .done, periods := c.periodsAt t })).closeRows h).endPoint h true).parkSoon h
  else if c.asleep then k.parkSoon h
  else k.tryPass h u.die
/-- Unit `m` of channel `n` ends a row pass of run `k` (R369, R372), or stops in it at an error (R386). -/
def execRowPass (s : State) : Host.Outcome State Fault Refusal :=
  let h := s.pk.arg.n
  let c := s.pk.chan h
  done (if c.seq ≠ s.pk.arg.k ∨ (c.state ≠ .running ∧ c.state ≠ .error) then s
    else match c.units.find? (fun u => u.die == s.pk.arg.m && u.busy) with
    | none => s
    | some u =>
      let r := s.pk.rowPass h u
      let t := u.next + (if r.err.isSome then r.n * u.oneCost else u.passCost)
      if r.err.isNone ∧ s.pk.chCycle < t then s.updPk (fun k => k.schedule (k.ticksToCh t) .rowPass k.arg)
      else { s with pk := Pack.endPass h t u r })

/-! ### Commands acting (R378–R386) -/

/-- A command's point fails with a cause. -/
def State.gougeFail (s : State) (o : Op) (h cause : Nat) : State :=
  (s.updPk (fun k => k.setChan h (fun c => { c with cause := BitVec.ofNat 4 cause }))).failOpState o

/-- The acceptance table (R378): none, or the cause of refusal, OWNER before STATE; an EMPTY channel has no owner (log 60). -/
def Channel.refuses (c : Channel) (cmd : Nat) (owner : BitVec 16) : Option Nat :=
  let any := if cmd = 0 then [.empty, .done, .error, .save]
    else if cmd = 2 then [.loaded, .armed, .running, .done, .error] else []
  let own : List GState := if cmd = 0 then [.loaded] else if cmd = 1 then [.loaded, .done] else if cmd = 3 then [.save] else []
  if any.contains c.state then none
  else if c.owner ≠ owner ∧ c.state ≠ .empty ∧ (own.contains c.state ∨ cmd = 1 ∨ cmd = 3) then some 1
  else if own.contains c.state then none else some 2

/-- `f` acts for a command that is accepted now; a channel in self-refresh holds it (R392). -/
def State.gougeAct (s : State) (f : Op → Nat → Handle → Word → State → State) : State :=
  s.onOp (fun o s => match o.kind with
    | .gouge cmd h img start =>
      if (s.pk.chan h).asleep then s.poll o
      else match (s.pk.chan h).refuses cmd o.owner with
        | some c => s.gougeFail o h c
        | none => f o h img start s
    | _ => s) (fun o _ _ _ _ s => match o.kind with
      | .gouge _ h _ _ => s.gougeFail o h 0xB
      | _ => s.failOpState o)

/-- The parts of an image that are read, by offset and length (R364, R365): header, active descriptors, entries. -/
def imgSpans (head : List Byte) : List (Nat × Nat) :=
  (0, 64) :: ((List.range 16).filter (fun d => (imgDmask head).testBit d)).map (fun d => (0x40 + 0x40 * d, 64)) ++
    [(0x440, 8 * (bits (imgWord head 0) 7 0 + 1))]
/-- GTT acts: the image is read, validated and loaded (R376, R379), once the units that an error stops have stopped (R386). -/
def execGttLoad (s : State) : Host.Outcome State Fault Refusal :=
  done (s.gougeAct (fun o h img _ s =>
    let e := s.pk.entryAt (bits o.btab 47 0) (hIdx img)
    let range (x : Nat × Nat) : Range := entryRange e (hOff img + x.1) x.2
    let bad (n : Nat) : Bool := (s.pk.handleBad o.btab o.owner.toNat (hIdx img) (hOff img) n rRD false).isSome
    let head := s.pk.sourceBytes (range (0, 8))
    let len := 0x440 + 8 * (bits (imgWord head 0) 7 0 + 1)
    if s.pk.unitsBusy h then s.poll o
    else if bad 1088 then s.gougeFail o h 3
    else if s.pk.unreachable (range (0, 8)).via then s.gougeFail o h 0xA
    else match s.pk.rangeErrorAt (range (0, 64)) with
    | some x => (s.updPk (fun k => (k.logError x.1 0x1FF x.2).didRead (range (0, 64)))).gougeFail o h 0xA
    | none =>
      if bad len then (s.updPk (fun k => k.didRead (range (0, 8)))).gougeFail o h 3
      else
        let rs := (imgSpans head).map range
        let bs := s.pk.sourceBytes (range (0, len))
        let t := s.updPk (fun k => rs.foldl Pack.didRead k)
        match rs.findSome? s.pk.rangeErrorAt with
        | some x => (t.updPk (fun k => k.logError x.1 0x1FF x.2)).gougeFail o h 0xA
        | none =>
          match s.pk.imageCause o.btab o.owner.toNat h bs with
          | some c => t.gougeFail o h c
          | none => (t.updPk (fun k => k.setChan h (fun c => { c with
              state := .loaded, owner := o.owner, entries := imgEntries bs, units := imgUnits bs, wmax := wmaxOf (imgEntries bs)
              late := false, flags := 0, window := [] }))).finishOp o))

/-- The timetable is armed for start time `sa` with the command's point as start point (R371, R380). -/
def State.arm (s : State) (o : Op) (h : Nat) (sa : Word) : State :=
  let k := s.pk
  let want := (8 * sa.toNat + 4) / 5
  let first := max want k.chNext
  let k := k.setChan h (fun c => { c with state := .armed, start := first, seq := o.seq, part := false
                                          late := c.late || decide (want < first) })
  let k := { k with sched := { k.sched with launches := k.sched.launches.map (fun (l : Launch) =>
    if l.id = o.launch then { l with drain := l.drain ++ [(tlGouge h, o.seq)] } else l) } }
  { s with pk := k.schedule (k.ticksToCh first) .timetableStart { n := h, k := o.seq } }.dropOp o

/-- GGO acts (R380). -/
def execGgoArm (s : State) : Host.Outcome State Fault Refusal :=
  done (s.gougeAct (fun o h _ sa s =>
    let s := if (s.pk.chan h).state = .done then s.updPk (fun k => k.setChan h (fun c => { c with units := c.units.map GUnit.reset })) else s
    s.arm o h sa))

/-- The park area of a die (R389). -/
def Channel.areaOf (c : Channel) (st : GState) (periods d : Nat) : List Byte :=
  let z (n : Nat) : List Byte := List.replicate n 0
  let front := match c.units.find? (fun u => u.die == d) with
    | some u => u.acc.flatMap laneBytes ++ u.desc.flatMap (fun w => leBytes 8 w.toNat) ++ u.ctr.flatMap (leBytes 2) ++ z 54
    | none => z 2176
  let record := if d = 0 then leBytes 8 (gstateCode st) ++ leBytes 8 c.owner.toNat ++ leBytes 8 periods ++ leBytes 8 c.flagBits ++ z 96
    else z 128
  front ++ record ++ z 1792

/-- GSAVE acts (R382): a run first completes its row passes; the start point of a run or an armed start is performed, PART set. -/
def execSaveModeEntry (s : State) : Host.Outcome State Fault Refusal :=
  done (s.gougeAct (fun o h _ _ s =>
    if s.pk.unitsBusy h then (s.updPk (fun k => k.setChan h (fun c => { c with stopping := true }))).poll o
    else
      let c := s.pk.chan h
      let cut := c.state = .running ∨ c.state = .armed
      let per := if c.state = .running then c.periodsAt s.pk.chCycle else c.periods
      let s := if cut then s.updPk (fun k => k.endPoint h true) else s
      (s.updPk (fun k => k.setChan h (fun c => { (if c.state = .running then c.addUse k.chCycle else c) with
        state := .save, saved := c.state, stopping := false, part := c.part || decide cut, periods := per, late_ := false
        window := (List.range 16).map (fun d => (d, c.areaOf c.state per d)) }))).finishOp o))

/-- A word of a die's area. -/
def areaNat (a : List Byte) (off n : Nat) : Nat := leNat ((a.drop off).take n)
/-- The unit as its area records it (R383, R392). -/
def GUnit.fromArea (u : GUnit) (a : List Byte) : GUnit :=
  { u with ctr := (List.range 5).map (fun i => areaNat a (2048 + 64 + 2 * i) 2)
           acc := (List.range 16).map (fun b => lanesOf ((a.drop (128 * b)).take 128)) }
/-- Cause RESTORE (R383). -/
def Channel.restoreBad (c : Channel) : Bool :=
  let r := c.area 0
  c.units.any (fun u => (List.range 8).any (fun i => areaNat (c.area u.die) (2048 + 8 * i) 8 != (u.w i).toNat) ||
    (List.range 5).any (fun i => decide (lvlCnt (u.lvl i) < areaNat (c.area u.die) (2048 + 64 + 2 * i) 2))) ||
  !decide (1 ≤ areaNat r 2176 8 ∧ areaNat r 2176 8 ≤ 4) || areaNat r 2184 8 != c.owner.toNat

/-- The saved flags and LATE. -/
def Channel.withFlagBits (c : Channel) (x : Nat) : Channel :=
  { c with late := x.testBit 4, flags := flagIf (x.testBit 3) flIV ||| flagIf (x.testBit 2) flOF ||| flagIf (x.testBit 1) flUF ||| flagIf (x.testBit 0) flNX }

/-- A unit restored for recorded state `st`: that its nest was complete holds on only where a run was saved, for a run, with the
counters as they were (log 61). -/
def Channel.restoreUnit (c : Channel) (st : Nat) (u : GUnit) : GUnit :=
  let v := u.fromArea (c.area u.die)
  { v with fin := u.fin && c.saved == .running && st == 3 && v.ctr == u.ctr }
/-- GRESTORE acts (R383). -/
def execGougeRestore (s : State) : Host.Outcome State Fault Refusal :=
  done (s.gougeAct (fun o h _ sa s =>
    let c := s.pk.chan h
    if c.restoreBad then s.gougeFail o h 9
    else
      let st := areaNat (c.area 0) 2176 8
      let s := s.updPk (fun k => k.setChan h (fun c => { c.withFlagBits (areaNat (c.area 0) 2200 8) with
        units := c.units.map (c.restoreUnit st), window := [], part := false
        periods := areaNat (c.area 0) 2192 8 % 2 ^ 32, state := if st = 4 then .done else .loaded }))
      if st = 2 ∨ st = 3 then s.arm o h sa else s.finishOp o))

/-! ### Power states (R391–R393); `arg.v` is the word written to CHPWR -/

def Pack.ackPdref (k : Pack) (h : Nat) : Pack :=
  if k.arg.v.getLsbD 9 then k.setChan h (fun c => { c with pdref := false }) else k

/-- The segments of a die's park rows (R388, R389). -/
def Channel.parkSegs (c : Channel) (h d : Nat) : List Piece :=
  (List.range 32).map (fun g => ⟨.dram, cellOf 1 h (d * 2 ^ 27 + 15 * 2 ^ 23 + c.row * 2 ^ 10 + g * 128), 128⟩)
/-- The exit from self-refresh or power-down: parked units are restored and go on with the next RUN entry, a deferred start begins,
late (R392). A park row that carries an error makes the state ERROR with cause UNCORR, and a start point fails (R386, R496). -/
def Pack.wakeChannel (k : Pack) (h : Nat) : Pack :=
  let c := k.chan h
  let a (d : Nat) : List Byte := (c.parkSegs h d).flatMap k.mem.read
  let bad := if !c.parked then none
    else ((if c.state = .save then List.range 16 else c.units.map GUnit.die).flatMap (c.parkSegs h)).findSome? k.badUnit
  match bad with
  | some x =>
    let k := ((k.logError 1 0x1FF x).setChan h (fun c => { c with
      parked := false, pst := 0, parking := false, state := .error, cause := 0xA, late_ := false })).closeRows h
    if c.state = .armed ∨ c.state = .running then k.endPoint h false else k
  | none =>
  let k := if c.parked then
    k.setChan h (fun c => { c with
      parked := false, units := c.units.map (fun u => u.fromArea (a u.die))
      window := if c.state = .save then (List.range 16).map (fun d => (d, a d)) else [] }) else k
  let k := k.setChan h (fun c => { c with
    pst := 0, parking := false, units := c.units.map (fun u => if u.busy || !c.asleep then u else { u with next := c.entryEnd + 1 }) })
  if c.late_ ∧ c.state = .armed then (k.setChan h (fun c => { c with late := true })).beginRun h k.chNext else k

/-- Channel `n` is asked for self-refresh (R392): EMPTY enters at once, any other state parks first. -/
def execSelfRefreshRequest (s : State) : Host.Outcome State Fault Refusal :=
  let h := s.pk.arg.n
  done (s.updPk (fun k =>
    let k := (k.ackPdref h).setChan h (fun c => { c with req := 1 })
    if (k.chan h).pst = 1 ∨ (k.chan h).parking then k
    else if (k.chan h).state = .empty then (k.closeRows h).setChan h (fun c => { c with pst := 1 })
    else (k.setChan h (fun c => { c with pst := 0, parking := true })).parkSoon h))

/-- The park areas of channel `n` are written and it enters self-refresh (R389, R392). -/
def execParkDone (s : State) : Host.Outcome State Fault Refusal :=
  let h := s.pk.arg.n
  let c := s.pk.chan h
  done (if !c.parking ∨ s.pk.unitsBusy h then s
    else s.updPk (fun k =>
      let per := if c.state = .running then c.periodsAt k.chCycle else c.periods
      let k := (List.range 16).foldl (fun (k : Pack) d =>
        let a := if c.state = .save then c.area d else c.areaOf c.state per d
        (List.range 32).foldl (fun (k : Pack) g =>
          k.segWrite (((c.parkSegs h d)[g]?).map Piece.addr |>.getD 0) ((a.drop (128 * g)).take 128)) k) k
      (k.closeRows h).setChan h (fun c => { c with parking := false, parked := true, pst := 1 })))

/-- Channel `n` is asked for power-down (R393): refused while ARMED or RUNNING. -/
def execPowerDownRequest (s : State) : Host.Outcome State Fault Refusal :=
  let h := s.pk.arg.n
  done (s.updPk (fun k =>
    let k := ((k.ackPdref h).wakeChannel h).setChan h (fun c => { c with req := 2 })
    k.setChan h (fun c => if c.state = .armed ∨ c.state = .running then { c with pdref := true, pst := 0 } else { c with pst := 2 })))

/-- Channel `n` is asked to be active (R391, R392); REQ 0b11 acts as 0b00. -/
def execActiveRequest (s : State) : Host.Outcome State Fault Refusal :=
  let h := s.pk.arg.n
  done (s.updPk (fun k => ((k.ackPdref h).wakeChannel h).setChan h (fun c => { c with req := bits k.arg.v 1 0 })))

/-! ### Budget periods (R375) -/

/-- GT's use is counted anew, and units that wait decide again. -/
def Pack.gougePeriod (k : Pack) : Pack :=
  k.gouge.foldl (fun (k : Pack) e =>
    let k := k.setChan e.1 (fun c => { c with gtUsed := 0, rfUsed := 0, spent := false })
    if e.2.state ≠ .running then k
    else
      let k := k.setChan e.1 (fun c => { c with
        gtFrom := k.chNext, units := c.units.map (fun u => if u.busy then u else { u with next := max u.next k.chNext }) })
      e.2.units.foldl (fun (k : Pack) u => k.tryPass e.1 u.die) k) k

end Sys2Proof.Machine
end

