-- ==== Sys2Proof/Machine/Sched.lean ====
section
/-! DEFINITION. The stream scheduler: records and their checks (R82–R85), kernel objects (R88, R89), placement (R90, R91), context
starts (R92, R93), rounds, ageing and pre-emption (R86, R87, R98, R101), retirement (R498–R501), ramps (R174, R175). -/
namespace Sys2Proof.Machine
open Sys2Proof

/-! ### Records and kernel objects -/


def recKind (w : List Word) : Nat := bits (wordAt w 0) 63 60
def recNp (w : List Word) : Nat := bits (wordAt w 0) 57 54
def recTable (w : List Word) : Word := wordAt w 1

/-- Every field the kind does not list is zero (R82). -/
def recZero (w : List Word) : Bool :=
  let z (i h l : Nat) : Bool := bits (wordAt w i) h l == 0
  let all (l : List Nat) : Bool := l.all (fun i => wordAt w i == 0)
  z 0 51 48 && z 3 55 48 && all [5, 7] &&
  match recKind w with
  | 0 => z 0 47 0 && all [1, 4, 8, 9, 10, 11, 12, 13, 14, 15]
  | 1 => true
  | _ => z 0 47 0 && all [4, 12, 13, 14, 15] && z 8 63 56 && z 9 63 16 && z 10 63 30 && z 11 63 30

def koNcl (k : List Word) : Nat := bits (wordAt k 0) 55 50
def koAff (k : List Word) : Nat := bits (wordAt k 0) 49 48
def koTwo (k : List Word) : Bool := bits (wordAt k 0) 47 47 == 1
def koDet (k : List Word) : Bool := bits (wordAt k 0) 46 46 == 1
def koBgm (k : List Word) : Nat := bits (wordAt k 0) 31 16
/-- The WS window as (low, high); empty when unused. -/
def koWs (k : List Word) : Nat × Nat := (bits (wordAt k 3) 28 0, bits (wordAt k 3) 28 0 + bits (wordAt k 4) 29 0)
def roleAct (r : Word) : Bool := bits r 47 47 == 1

/-- Is a kernel object well formed (R88, R89)? -/
def koOk (dpa : Nat) (k roles : List Word) : Bool :=
  let z (i h l : Nat) : Bool := bits (wordAt k i) h l == 0
  let lenCode := bits (wordAt k 2) 31 0
  bits (wordAt k 0) 63 56 == 1 && decide (1 ≤ koNcl k) && decide (koNcl k ≤ 32) && koAff k != 3 && z 0 45 32 && z 0 15 0 &&
  z 1 63 48 && z 2 63 32 && z 3 63 29 && z 4 63 30 && wordAt k 5 == 0 && wordAt k 6 == 0 && wordAt k 7 == 0 &&
  koBgm k != 0 && decide ((koWs k).2 ≤ 2 ^ 29) && dpa % 64 == 0 && decide (dpa + 64 + 128 * koNcl k ≤ 2 ^ 39) &&
  roles.zipIdx.all (fun r =>
    bits r.1 46 32 == 0 && bits r.1 63 48 &&& koBgm k == bits r.1 63 48 &&
    (!roleAct r.1 || (bits r.1 31 0 % 4 == 0 && decide (bits r.1 31 0 < lenCode) && (koTwo k || r.2 % 2 == 0))))

/-- Clusters that AFF allows in the present service (R85 code 7, R503). -/
def Pack.nclMax (k : Pack) (ko : List Word) : Nat :=
  if k.reduced then (if koAff ko = 0 then 2 else 1) else if koAff ko = 0 then 32 else 16

/-- What an admitted record does. -/
inductive Work where
  | noop
  | kernel (ko roles : List Word)
  | wsload (src : Range) (die dst len : Nat)
  deriving DecidableEq, Repr
inductive Check where
  | refuse (code : Nat)
  | notReady
  | ready (w : Work)
  deriving DecidableEq, Repr

/-- The sectors of the kernel object that a record names which cannot be read (R496). -/
def Pack.koBad (k : Pack) (w : List Word) : List Nat :=
  let d := bits (wordAt w 0) 47 0
  k.dpaBad d (64 + 128 * koNcl (k.dpaWords d 8))
/-- The last checks, by kind (R85 codes 3, 7 and 9). A WS load's lengths that R82 forbids and a tier-3 source take code 9
(log 62), a kernel object that cannot be read code 3, a table entry that cannot be read code 9 (log 70). -/
def Pack.checkKind (k : Pack) (n : Nat) (w : List Word) : Check :=
  match recKind w with
  | 0 => .ready .noop
  | 1 =>
    let d := bits (wordAt w 0) 47 0
    let ko := k.dpaWords d 8
    let roles := k.dpaWords (d + 64) (16 * koNcl ko)
    if !koOk d ko roles ∨ !(k.koBad w).isEmpty then .refuse 3
    else if koNcl ko > k.nclMax ko then .refuse 7
    else .ready (.kernel ko roles)
  | _ =>
    let o := bits (wordAt w 8) 55 0
    let ix := bits (wordAt w 9) 15 0
    let dst := bits (wordAt w 10) 28 0
    let len := bits (wordAt w 11) 29 0
    if (k.handleBad (recTable w) (bits (k.csCtl n) 15 0) ix o len rCS false).isSome ∨ !(k.dpaBad (bits (recTable w) 47 0 + 32 * ix) 32).isEmpty ∨ dst % 128 ≠ 0 ∨ len % 128 ≠ 0 ∨ len = 0 ∨
        dst + len > 2 ^ 29 then .refuse 9
    else .ready (.wsload (entryRange (k.entryAt (bits (recTable w) 47 0) ix) o len) (bits (wordAt w 10) 29 29) dst len)

/-- The buffer service holds launches that name its table (R74, R75). -/
def Pack.tableHeld (k : Pack) (table : Word) : Bool :=
  match k.sched.service with
  | some b => table != 0 && bits table 47 0 == b.table
  | none => false

/-- The record at the head of stream `n` (R85); its WAIT covers only operations numbered before it (R401), and what a remote point's
answer raises refuses it. A record that cannot be read takes code 1 (R496, log 70). -/
def Pack.checkHead (k : Pack) (n : Nat) (w : List Word) : Check :=
  if !(k.dpaBad (k.ringSlot n (k.csHead n + 1)) 128).isEmpty ∨ recKind w ≥ 3 ∨ !recZero w then .refuse 1
  else if recNp w ≥ 7 then .refuse 2
  else if k.reduced ∧ (recNp w < 1 ∨ 3 < recNp w) then .refuse 8
  else if recTable w ≠ 0 ∧ (bits (recTable w) 47 40 ≠ 0 ∨ bits (recTable w) 4 0 ≠ 0) then .refuse 4
  else match (k.answerTo (waitOfStream n) (wordAt w 2)).getD
      (k.witness (wordAt w 2) (some ((k.stream n).ords.headD 0, (k.stream n).times.headD 0))) with
    | .bad 0x15 _ _ => .refuse 5
    | .bad 0x16 _ _ => .refuse 6
    | .bad _ _ _ => .refuse 10
    | .wait => .notReady
    | .ok => if k.tableHeld (recTable w) then .notReady else k.checkKind n w

/-! ### Candidates -/

/-- A candidate: a stream's head record or a saved launch (R86, R102). -/
structure Cand where
  prio   : Nat
  time   : Nat
  stream : Nat
  launch : Nat
  record : List Word
  work   : Work
  deriving DecidableEq, Repr

/-- Highest priority first, then oldest append, then stream number (R86). -/
def Cand.before (a b : Cand) : Bool :=
  decide (b.prio < a.prio) || (a.prio == b.prio && (decide (a.time < b.time) || (a.time == b.time && decide (a.stream ≤ b.stream))))
def sortCand : List Cand → List Cand
  | [] => []
  | c :: cs => ins c (sortCand cs)
where
  ins (c : Cand) : List Cand → List Cand
    | [] => [c]
    | x :: xs => if c.before x then c :: x :: xs else x :: ins c xs

/-- HEAD passes a record (R78). -/
def Pack.passHead (k : Pack) (n : Nat) : Pack :=
  (k.ioWr (csOff n 0x18) (BitVec.ofNat 64 (k.csHead n + 1))).updStream n (fun s => { s with times := s.times.drop 1, ords := s.ords.drop 1, age := 0, lift := 0 })
/-- The errors for which a record is refused are logged (R497). -/
def Pack.logRefused (k : Pack) (n : Nat) (w : List Word) (code : Nat) : Pack :=
  let k := k.logSectors (k.dpaBad (k.ringSlot n (k.csHead n + 1)) 128)
  if code = 3 then k.logSectors (k.koBad w)
  else if code = 9 then k.logSectors (k.dpaBad (bits (recTable w) 47 0 + 32 * bits (wordAt w 9) 15 0) 32) else k
/-- A refused record (R85): nothing runs, the stream halts. -/
def Pack.refuse (k : Pack) (n : Nat) (w : List Word) (code : Nat) : Pack :=
  let j := k.csHead n + 1
  let k := (k.passHead n).forget (waitOfStream n)
  let k := k.ioWr (csOff n 0x28) (setBits (k.csStat n ||| BitVec.ofNat 64 (2 ^ 63)) 62 59 code)
  k.endRecord n j w 1 code 0

/-- The streams' heads in turn: refusals are carried out, ready records become candidates. -/
def Pack.heads (k : Pack) : List Nat → Pack × List Cand
  | [] => (k, [])
  | n :: ns =>
    if !k.csEn n ∨ (k.csStat n).getLsbD 63 ∨ k.csHead n ≥ k.csTail n then k.heads ns
    else
      let w := k.dpaWords (k.ringSlot n (k.csHead n + 1)) 16
      match k.checkHead n w with
      | .refuse c => ((k.logRefused n w c).refuse n w c).heads ns
      | .notReady => (Pack.ask (waitOfStream n) k (wordAt w 2)).heads ns
      | .ready x =>
        let st := k.stream n
        let p := min 3 (min (bits (wordAt w 0) 59 58) (bits (k.csCtl n) 61 60) + st.lift)
        let r := k.heads ns
        (r.1, ⟨p, st.times.headD 0, n, 0, w, x⟩ :: r.2)

def Pack.savedCands (k : Pack) : List Cand :=
  (k.sched.launches.filter (fun l => l.phase == .saved)).map (fun l => ⟨l.prio, l.appended, l.stream, l.id, l.record, .kernel l.kobj l.roles⟩)

/-! ### Placement (R84, R90, R91) -/

def Seat.has (t : Seat) (side : Nat) : Bool := t.side == 2 || t.side == side
/-- Does a launch hold a side of a cluster? -/
def seatTaken (ls : List Launch) (closed : List Seat) (p side : Nat) : Bool :=
  (ls.flatMap Launch.seats ++ closed).any (fun t => t.pcl == p && t.has side)
/-- The bank groups launches hold on a cluster. -/
def bgmOn (ls : List Launch) (p : Nat) : Nat :=
  ((ls.filter (fun l => l.seats.any (fun t => t.pcl == p))).map (fun l => koBgm l.kobj)).foldl (· ||| ·) 0
/-- A running WS load into a die's window (R84). -/
def wsLoading (ls : List Launch) (die : Nat) (w : Nat × Nat) : Bool :=
  ls.any (fun l => l.phase == .wsload &&
    bits (wordAt l.record 10) 29 29 == die && decide (bits (wordAt l.record 10) 28 0 < w.2) &&
    decide (w.1 < bits (wordAt l.record 10) 28 0 + bits (wordAt l.record 11) 29 0))

/-- The side a kernel would take on cluster `p` (2 for both), if it may be placed there. -/
def Pack.sideOn (k : Pack) (ls : List Launch) (closed : List Seat) (ko : List Word) (p : Nat) : Option Nat :=
  let allowed := (koAff ko == 0 || koAff ko == p / 16 + 1) && (!k.reduced || p % 16 == 0) &&
    !(decide ((koWs ko).1 < (koWs ko).2) && wsLoading ls (p / 16) (koWs ko))
  let free (x : Nat) : Bool := !seatTaken ls closed p x
  let apart := koBgm ko &&& bgmOn ls p == 0
  if !allowed then none
  else if koTwo ko then (if free 0 && free 1 then some 2 else none)
  else if !apart then none
  else if free 0 then some 0
  else if free 1 then some 1
  else none

/-- R91: the first clusters in ascending number. -/
def Pack.placement (k : Pack) (ls : List Launch) (closed : List Seat) (ko : List Word) : Option (List Seat) :=
  let ps := ((List.range 32).filterMap (fun p => (k.sideOn ls closed ko p).map (fun x => (p, x)))).take (koNcl ko)
  if ps.length < koNcl ko then none
  else some (ps.zipIdx.map (fun x => { lcl := x.2, pcl := x.1.1, side := x.1.2 }))

/-! ### Context starts (R92, R93, R108) -/

def placeWord (bgm lcl pcl core role side : Nat) : Word :=
  BitVec.ofNat 64 (bgm * 2 ^ 48 + lcl * 2 ^ 16 + pcl * 2 ^ 8 + core * 2 ^ 4 + role * 2 + side)

/-- Role word of logical cluster `l`, core `i`, role `k` (R88). -/
def Launch.role (x : Launch) (l i k : Nat) : Word := wordAt x.roles ((l * 8 + i) * 2 + k)

/-- A context of a placed launch before its first cycle. -/
def Launch.newContext (x : Launch) (t : Seat) (i k : Nat) : Ctx :=
  let side := if t.side = 2 then k else t.side
  let r := x.role t.lcl i k
  let w := wordAt x.record
  { Ctx.idle (16 * t.pcl + 2 * i + side) with
    mode := .starting
    pc := BitVec.ofNat 48 (bits (wordAt x.kobj 1) 47 0 + bits r 31 0)
    regs := { Regs.zero with s := Vector.ofFn (fun (j : Fin 32) =>
      if 1 ≤ j.val ∧ j.val ≤ 8 then w (j.val + 7) else if j.val = 9 then BitVec.ofNat 64 t.lcl
      else if j.val = 10 then BitVec.ofNat 64 (2 * i + k) else 0) }
    csr := { srseed := w 4, npdef := BitVec.ofNat 64 (recNp x.record), btab := w 1, ownid := x.owner.zeroExtend 64
             lease := BitVec.ofNat 64 (bits r 63 48), place := placeWord (koBgm x.kobj) t.lcl t.pcl i k side
             issctl := if koDet x.kobj then 1 else 0 }
    code := BitVec.ofNat 48 (bits (wordAt x.kobj 1) 47 0)
    codelen := bits (wordAt x.kobj 2) 31 0
    wsbase := bits (wordAt x.kobj 3) 28 0
    wslen := bits (wordAt x.kobj 4) 29 0
    launch := x.id }

def Seat.roles (t : Seat) : List Nat := if t.side = 2 then [0, 1] else [0]
def Seat.ctxNum (t : Seat) (i k : Nat) : Nat := 16 * t.pcl + 2 * i + (if t.side = 2 then k else t.side)
/-- The context numbers a seat holds. -/
def Seat.ctxs (t : Seat) : List Nat := (List.range 8).flatMap (fun i => t.roles.map (fun k => t.ctxNum i k))

/-- The contexts of a seat set up (R92): one with ACT = 0 is left idle. -/
def State.seatContexts (s : State) (x : Launch) (t : Seat) : State :=
  (List.range 8).foldl (fun s i => t.roles.foldl (fun (s : State) k =>
    let n := t.ctxNum i k
    if roleAct (x.role t.lcl i k) then s.onCtx n (fun _ => x.newContext t i k) else s.onCtx n (fun _ => Ctx.idle n)) s) s

/-- The bank groups of a launch on a cluster zeroed (R91). -/
def Pack.zeroGroups (k : Pack) (bgm p : Nat) : Pack :=
  ((List.range 16).filter (fun g => bgm.testBit g)).foldl (fun (k : Pack) g =>
    let lo := p * 2 ^ 22 + g * 2 ^ 18
    { (k.clearBad ⟨.spad, lo, 2 ^ 18⟩) with mem := { k.mem with spad := k.mem.spad.clear lo (lo + 2 ^ 18) } }) k

def Pack.launch (k : Pack) (id : Nat) : Option Launch := k.sched.launches.find? (fun l => l.id == id)
def Pack.updLaunch (k : Pack) (id : Nat) (f : Launch → Launch) : Pack :=
  k.updSched (fun d => { d with launches := d.launches.map (fun l => if l.id = id then f l else l) })

/-- Zeroing is over: the contexts of launch `arg.n` start (R91, R92). -/
def execContextStart (s : State) : Host.Outcome State Fault Refusal :=
  done (match s.pk.launch s.pk.arg.n with
    | none => s
    | some l =>
      (l.seats.flatMap Seat.ctxs).foldl (fun (s : State) n =>
        s.onCtx n (fun c => if c.mode = .starting then { c.startFrame s.pk.halves with mode := .run } else c)) s)

/-! ### Admission -/

/-- A kernel placed (R91): contexts set up, zeroing begun, kernel starts noted. -/
def State.admitKernel (s : State) (c : Cand) (ko roles : List Word) (seats : List Seat) : State :=
  let k := s.pk
  let l : Launch := { id := k.sched.nextId, stream := c.stream, j := k.csHead c.stream + 1, record := c.record
                      owner := BitVec.ofNat 16 (bits (k.csCtl c.stream) 15 0), kobj := ko, roles := roles, seats := seats
                      prio := c.prio, appended := c.time, admitted := k.sched.nextId }
  let k := (k.passHead c.stream).updSched (fun d => { d with
    nextId := d.nextId + 1, launches := d.launches ++ [l], starts := d.starts ++ seats.map Seat.pcl })
  let s := seats.foldl (fun (s : State) t => (s.seatContexts l t).updPk (fun k => k.zeroGroups (koBgm l.kobj) t.pcl)) { s with pk := k }
  s.updPk (fun k => if roles.any roleAct then k.scheduleCc 512 .contextStart { n := l.id } else k.schedule 0 .launchRetire { n := l.id })

/-- A WS load begins (R83, R84). -/
def State.admitWs (s : State) (c : Cand) (src : Range) (len : Nat) : State :=
  let k := s.pk
  let l : Launch := { id := k.sched.nextId, stream := c.stream, j := k.csHead c.stream + 1, record := c.record
                      owner := BitVec.ofNat 16 (bits (k.csCtl c.stream) 15 0), phase := .wsload, prio := c.prio, appended := c.time
                      src := src }
  let k := (k.passHead c.stream).updSched (fun d => { d with nextId := d.nextId + 1, launches := d.launches ++ [l] })
  { s with pk := k.scheduleCc (110 + copyCycles len) .wsLoadDone { n := l.id } }

/-- Bytes a slot's save moves, as the restore finds them (R99, R102). -/
def Pack.slotBytes (k : Pack) (slot : Nat) : Nat :=
  let base := bits (k.ioRd 0x20018) 47 0 + slot * 2 ^ 24
  let rs := (List.range 16).map (fun i => k.dpaWord (base + 0x80 + 8 * i))
  let top := (rs.map (fun w => (bits w 63 32 + bits w 31 0) * 64)).foldl max 0x100
  let nr := (k.dpaWord (base + top)).toNat % 2 ^ 16
  let lens := (List.range nr).map (fun i => bits (k.dpaWord (base + top + 8 + 8 * i)) 44 22)
  top + 8 + 8 * nr + (lens.map (fun n => (n + 63) / 64 * 64)).foldl (· + ·) 0

/-- A saved launch takes its sides again (R102): the restore runs at 256 B per cc and cluster. -/
def State.resumeLaunch (s : State) (id : Nat) (seats : List Seat) : State :=
  match s.pk.launch id with
  | none => s
  | some l =>
    let t := (l.slots.map (fun x => (s.pk.slotBytes x.2 + 255) / 256)).foldl max 1
    s.updPk (fun k => ((k.updLaunch id (fun l => { l with seats := seats, phase := .restoring })).updSched (fun d =>
      { d with starts := d.starts ++ seats.map Seat.pcl })).scheduleCc t .contextRestore { n := id })

/-- The sides claims keep from other candidates (R86, R101). -/
def Pack.closed (k : Pack) : List Seat := k.sched.claims.flatMap Claim.seats

/-- A candidate placed, if it can be (R83, R84, R90, R91, R102). -/
def State.place (s : State) (c : Cand) : Option State :=
  match c.work with
  | .noop =>
    let j := s.pk.csHead c.stream + 1
    some { s with pk := ((s.pk.passHead c.stream).endRecord c.stream j c.record 0 0 0).roundNow }
  | .wsload src die dst len =>
    if s.pk.sched.launches.any (fun l => l.seats.any (fun t => t.pcl / 16 == die) && decide ((koWs l.kobj).1 < (koWs l.kobj).2) &&
        decide ((koWs l.kobj).1 < dst + len) && decide (dst < (koWs l.kobj).2)) then none
    else some (s.admitWs c src len)
  | .kernel ko roles =>
    (s.pk.placement s.pk.sched.launches s.pk.closed ko).map (fun seats =>
      if c.launch = 0 then s.admitKernel c ko roles seats else s.resumeLaunch c.launch seats)

/-! ### Pre-emption (R97–R101) -/

/-- Lowest priority first, youngest admission first. -/
def victimOrder (a b : Launch) : Bool := decide (a.prio < b.prio) || (a.prio == b.prio && decide (b.admitted ≤ a.admitted))
def sortVictims : List Launch → List Launch
  | [] => []
  | c :: cs => ins c (sortVictims cs)
where
  ins (c : Launch) : List Launch → List Launch
    | [] => [c]
    | x :: xs => if victimOrder c x then c :: x :: xs else x :: ins c xs

/-- Victims are added until the candidate fits (R98). -/
def Pack.victims (k : Pack) (ko : List Word) (chosen : List Launch) : List Launch → Option (List Launch × List Seat)
  | [] => none
  | v :: vs =>
    let chosen := chosen ++ [v]
    let ls := k.sched.launches.filter (fun l => !chosen.any (fun x => x.id == l.id))
    match k.placement ls k.closed ko with
    | some seats => some (chosen, seats)
    | none => k.victims ko chosen vs

def Pack.freeSlots (k : Pack) : List Nat :=
  let used := k.sched.launches.flatMap (fun l => l.slots.map Prod.snd)
  (List.range (bits (k.ioRd 0x20018) 55 48)).filter (fun x => !used.contains x)

/-- Each victim's logical clusters take free save slots, the lowest first (log 68). -/
def giveSlots : List Launch → List Nat → List (Nat × List (Nat × Nat))
  | [], _ => []
  | v :: vs, free => (v.id, (v.seats.map Seat.lcl).zip free) :: giveSlots vs (free.drop v.seats.length)

/-- A yield request reaches every context of a launch (R99); a cluster without a context that can yield is saved at once. -/
def State.requestYield (s : State) (l : Launch) : State :=
  l.seats.foldl (fun (s : State) t =>
    let s := t.ctxs.foldl (fun (s : State) n =>
      let till := s.ageOf (n) + bits (s.pk.ioRd 0x20008) 31 0
      s.onCtx n (fun c => if c.launch = l.id then { c with yield_ := some till } else c)) s
    s.updPk (fun k => k.scheduleCc 1 .contextSaveDone { n := t.ctxs.headD 0, m := 2 })) s

/-- A pre-emption (R98). A WS load that R84 blocks starts none: its die's windows are no sides (log 68). -/
def State.preempt (s : State) (c : Cand) : Option State :=
  match c.work with
  | .kernel ko _ =>
    let vs := sortVictims (s.pk.sched.launches.filter (fun l => l.phase == .running && !l.seats.isEmpty && decide (l.prio < c.prio)))
    match s.pk.victims ko [] vs with
    | none => none
    | some (chosen, seats) =>
      let need := (chosen.map (fun l => l.seats.length)).foldl (· + ·) 0
      if need > s.pk.freeSlots.length then none
      else
        let given := giveSlots chosen s.pk.freeSlots
        let k := given.foldl (fun (k : Pack) g => k.updLaunch g.1 (fun l => { l with phase := .saving, slots := g.2 })) s.pk
        let k := k.updSched (fun d => { d with claims := d.claims ++ [⟨c.stream, c.launch, seats, chosen.map Launch.id⟩] })
        some (chosen.foldl State.requestYield { s with pk := k })
  | _ => none

def Cand.owns (c : Cand) (x : Claim) : Bool := x.stream == c.stream && x.launch == c.launch

/-- Launches are being saved for a candidate of lower priority than `c`: `c` waits for the sides they free (R101). -/
def State.savesBelow (s : State) (all : List Cand) (c : Cand) : Bool :=
  s.pk.sched.claims.any (fun x => all.any (fun d => d.owns x && decide (d.prio < c.prio)))
/-- The walk of R86; `all` are the candidates of the round. -/
def State.walk (s : State) (all : List Cand) : List Cand → State
  | [] => s
  | c :: cs =>
    if s.pk.sched.claims.any c.owns then s.walk all cs
    else match s.place c with
      | some t => t.walk all cs
      | none => match (if s.savesBelow all c then none else s.preempt c) with
        | some t => t.walk all cs
        | none => s

/-- A candidate that stayed unplaced ages (R87). The priority that a saved launch has risen to stays its own once it runs again
(log 69). -/
def Pack.ageOne (k : Pack) (period : Nat) (before : Nat → Nat) (c : Cand) : Pack :=
  if c.launch ≠ 0 then
    k.updLaunch c.launch (fun l =>
      if l.phase ≠ .saved then l
      else if l.age + 1 ≥ period then { l with age := 0, prio := min 3 (l.prio + 1) } else { l with age := l.age + 1 })
  else if k.csHead c.stream ≠ before c.stream then k
  else k.updStream c.stream (fun t =>
    if t.age + 1 ≥ period then { t with age := 0, lift := if c.prio < 3 then t.lift + 1 else t.lift } else { t with age := t.age + 1 })

/-! ### Ramps (R174, R175) -/

/-- Dwell in ticks for a change of `n` clusters. -/
def Pack.dwell (k : Pack) (n : Nat) : Nat :=
  let rate := bits (k.ioRd 0x30008) 15 0
  let ns := (n * bits (k.ioRd 0x30010) 15 0 + rate - 1) / rate
  2 * ((ns + 9) / 10 * 10)

/-- The step of a cluster: the highest of its cores'. -/
def State.stepOf (s : State) (p : Nat) : Nat := (((s.boxes.map CoreBox.core).filter (fun c => c.num / 8 == p)).map Core.step).foldl max 0
/-- The kernel starts and ends since the last round begin their ramps. A ramp that runs goes on from its present step, filler begins
at the cluster's own, `step`, RATE = 0 stops no ramp that runs, and a start and an end on one side cancel too (log 64). -/
def Pack.takeRamps (k : Pack) (step : Nat → Nat) : Pack :=
  let up := k.sched.ends.dedup
  let down := k.sched.starts.dedup
  let all := (up ++ down).dedup
  let k := k.updSched (fun d => { d with starts := [], ends := [] })
  if bits (k.ioRd 0x30008) 15 0 = 0 then k
  else all.foldl (fun (k : Pack) p =>
    if up.contains p && down.contains p then k
    else
      match k.sched.ramps.find? (fun r => r.cluster == p) with
      | some r => k.updSched (fun d => { d with ramps := ({ r with up := up.contains p }) :: d.ramps.filter (fun x => x.cluster != p) })
      | none =>
        let w := k.dwell all.length
        let r : Ramp := ⟨p, up.contains p, if up.contains p then step p else 7, w⟩
        (k.updSched (fun d => { d with ramps := r :: d.ramps })).schedule w .rampDwell { n := p }) k

/-- A dwell of the ramp of cluster `arg.n` ends (R174). -/
def execRampDwell (s : State) : Host.Outcome State Fault Refusal :=
  let p := s.pk.arg.n
  done (match s.pk.sched.ramps.find? (fun r => r.cluster == p) with
    | none => s
    | some r =>
      let last := if r.up then decide (7 ≤ r.step) else decide (r.step ≤ 1)
      let rest (d : Sched) : List Ramp := d.ramps.filter (fun x => x.cluster != p)
      if last then s.updPk (fun k => k.updSched (fun d => { d with ramps := rest d }))
      else s.updPk (fun k => (k.updSched (fun d => { d with
        ramps := { r with step := if r.up then r.step + 1 else r.step - 1 } :: rest d })).schedule r.dwell .rampDwell { n := p }))

/-! ### Rounds -/

/-- Ticks to the next TSTAMP multiple of `n` ns. -/
def Pack.ticksTo (k : Pack) (n : Nat) : Nat := 2 * (n - k.tstamp % n) - k.tick % 2

/-- A scheduling round (R86, R87, R98, R174); with `arg.n` = 1 the periodic one. While the part moves to full service no record is
admitted (R504). -/
def execSchedulingRound (s : State) : Host.Outcome State Fault Refusal :=
  let s := if s.pk.arg.n = 1 then s.updPk (fun k => k.schedule (k.ticksTo 1000) .schedulingRound { n := 1 }) else s
  let alive (k : Pack) (x : Claim) : Bool := x.victims.any (fun v => (k.launch v).any (fun l => l.phase == .saving))
  let s := s.updPk (fun k => k.updSched (fun d => { d with claims := d.claims.filter (alive k) }))
  let r := s.pk.heads (List.range 64)
  let cands := sortCand (r.2 ++ r.1.savedCands)
  let before := r.1.csHead
  let t := { s with pk := r.1 }.walk cands (cands.filter (fun c => !s.pk.svc.moving || c.launch != 0))
  let period := max 1 (bits (t.pk.ioRd 0x20000) 15 0)
  done (t.updPk (fun k => (cands.foldl (fun (k : Pack) c => k.ageOne period before c) k).takeRamps t.stepOf))

/-- The buffer service looks again whether it may go on (R74). -/
def Pack.serviceAgain (k : Pack) : Pack := if k.sched.service.isSome then k.schedule 0 .bufferServiceResume {} else k

/-! ### WS loads (R83) -/

/-- The sectors of a WS load that carry an error: those whose read meets one, of another device those that it cannot give, chosen
freely, or that were lost on the way (R426, R496). -/
def Pack.wsLost (k : Pack) (l : Launch) (n : Nat) : List Nat :=
  let src := l.src
  (List.range n).filter (fun i =>
    if k.isRemote src.via then k.unreachable src.via || l.cut.contains i || (Config.freeBits k.freeCtr 3).testBit i
    else (k.rangeError (((src.pieces.flatMap (fun p =>
      (List.range p.len).map (fun j => (⟨p.space, p.addr + j, 1⟩ : Piece)))).drop (32 * i)).take 32)).isSome)
/-- A WS load waits for its channels, its ports' shares, or the accesses in flight when a port went down (R358, R373, R428). -/
def Pack.wsLoadHeld (k : Pack) (l : Launch) : Bool :=
  k.shareHeld 1 (k.passes l.src.via l.src.pieces) ||
    (if k.isRemote l.src.via then k.draining && !k.fab.drain.contains (2 ^ 60 + l.id) else k.bankHeld l.src.via l.src.pieces)
/-- WS load `arg.n`, with the source it was admitted with, has copied its bytes, and retires; a source sector with an error, or of
a device that does not answer, leaves its error in the weight store (R496, log 34). -/
def execWsLoadDone (s : State) : Host.Outcome State Fault Refusal :=
  done (match s.pk.launch s.pk.arg.n with
    | none => s
    | some l =>
      if s.pk.wsLoadHeld l then s.updPk (fun k => (k.noteWait (k.passes l.src.via l.src.pieces)).scheduleCc 1 .wsLoadDone k.arg)
      else
      let src := l.src
      let base := bits (wordAt l.record 10) 29 0
      let len := bits (wordAt l.record 11) 29 0
      let k := if s.pk.isRemote src.via then s.pk else s.pk.settle src.via src.pieces
      let bs := k.sourceBytes src
      let bad := k.wsLost l (len / 32)
      let k := if k.isRemote src.via then k
        else src.pieces.foldl (fun (k : Pack) p => k.logSectors (k.badSectors p.addr p.len)) k
      let k := k.didRead src
      let k := { (k.clearBad ⟨.ws, base, len⟩) with mem := k.mem.write .ws base bs }
      let k := { k with bad := k.bad ++ bad.map (fun i => (Space.ws, base + 32 * i)) }
      let k := k.updSched (fun d => { d with launches := d.launches.filter (fun x => x.id != l.id) })
      { s with pk := ((k.endRecord l.stream l.j l.record 0 0 0).roundNow).serviceAgain })

/-! ### Retirement (R498–R501) -/

/-- A context has ended, its place in the launch given up. -/
def Ctx.over (c : Ctx) (id : Nat) : Bool := c.launch != id || c.mode == .exited || c.mode == .idle
/-- The context's matrix work is done (R499 step 2). -/
def CoreBox.arrayFree (b : CoreBox) (c : Ctx) : Bool :=
  let side := c.num % 2
  c.mq.isEmpty && c.mwrites.isEmpty && !b.core.run.any (fun r => r.side == side) && !b.core.aside.any (fun r => r.side == side) &&
    !b.core.done.any (fun d => d.side == side)
/-- A cluster that launch `id` can give up (R499): nothing of it is still to reach the cluster's scratchpad. -/
def State.seatClear (s : State) (id : Nat) (t : Seat) : Bool :=
  (s.boxes.filter (fun b => b.core.num / 8 == t.pcl)).all (fun b =>
    [b.a, b.b].all (fun c => c.launch != id || b.arrayFree c)) &&
  !s.pk.board.any (fun e => e.cluster == t.pcl && s.pk.ops.any (fun o => o.id == e.id && o.launch == id)) &&
  !s.pk.ops.any (fun o => o.launch == id && !o.dropsAtExit && o.kind.pieces.any (fun p => p.space == .spad && p.addr / 2 ^ 22 == t.pcl))

/-- The drain set is complete (R498). -/
def Pack.drained (k : Pack) (l : Launch) : Bool :=
  !k.ops.any (fun o => o.launch == l.id && o.inDrainSet) && l.drain.all (fun p => decide ((k.tl p.1).head ≥ p.2))

/-- The contexts of launch `id` given up by a seat become idle, and the ports of its cores drop its entries. -/
def State.leaveSeat (s : State) (id : Nat) (t : Seat) : State :=
  t.ctxs.foldl (fun (s : State) n =>
    let s := (s.onCtx n (fun c => if c.launch = id then Ctx.idle n else c)).onCore (n / 2) (fun c =>
      { c with entries := c.entries.filter (fun e => e.launch != id) })
    s.updPk (fun k => (k.forget (waitOfCtx n)).forget (testOfCtx n))) s
/-- The energy counters of the launch's contexts on a seat. -/
def State.seatEnrg (s : State) (id : Nat) (t : Seat) : List Word :=
  t.ctxs.filterMap (fun n => ((s.getCtx n).filter (fun c => c.launch == id)).map (fun c => c.csr.enrg))

/-- The sides that a seat takes. -/
def Seat.sides (t : Seat) : List Nat := if t.side = 2 then [0, 1] else [t.side]
/-- The contexts of a seat on side `x`, as core and role. -/
def Seat.sideCtxs (t : Seat) (x : Nat) : List (Nat × Nat) := (List.range 8).map (fun i => (i, if t.side = 2 then x else 0))
/-- The side has had a context, and its last one has exited. -/
def State.sideGone (s : State) (l : Launch) (t : Seat) (x : Nat) : Bool :=
  (t.sideCtxs x).any (fun r => roleAct (l.role t.lcl r.1 r.2)) &&
    (t.sideCtxs x).all (fun r => (s.getCtx (t.ctxNum r.1 r.2)).all (fun c => c.over l.id))
/-- The kernel ends of a seat's sides that `f` picks and that have not begun (R174). -/
def Pack.endSides (k : Pack) (id : Nat) (t : Seat) (f : Nat → Bool) : Pack :=
  let new := t.sides.filter (fun x => !t.ended.contains x && f x)
  (k.updLaunch id (fun l => { l with seats := l.seats.map (fun y => if y.lcl = t.lcl then { y with ended := y.ended ++ new } else y) })).updSched
    (fun d => { d with ends := d.ends ++ new.map (fun _ => t.pcl) })
/-- The sides of a launch whose last context has exited begin their kernel end, each once (R174). -/
def State.noteEnds (s : State) (l : Launch) : State :=
  s.updPk (fun k => l.seats.foldl (fun (k : Pack) t => k.endSides l.id t (s.sideGone l t)) k)

/-- Launch `arg.n` on its way to retirement (R499): its last context has exited, sides are given up as they clear, then the drain
set, then completion with the sum of its contexts' energy (R500). With `arg.k` = 1 a completion record that was held for log space is
written on (R104, R455). -/
def execLaunchRetire (s : State) : Host.Outcome State Fault Refusal :=
  let a := s.pk.arg
  if a.k = 1 then done (s.updPk (fun k => k.finishRecord a.n a.m a.v a.bytes true))
  else done (match s.pk.launch a.n with
    | none => s
    | some l =>
      if l.phase ≠ .running then s
      else
        let s := s.noteEnds l
        if !(s.boxes.all (fun b => b.a.over l.id && b.b.over l.id)) then s
        else
          let s := if l.quit then s else s.updPk (fun k => (k.updLaunch l.id (fun l => { l with quit := true })).roundNow)
          let go := l.seats.filter (s.seatClear l.id)
          let keep := l.seats.filter (fun t => !s.seatClear l.id t)
          let used := go.flatMap (s.seatEnrg l.id)
          let s := go.foldl (fun (s : State) t => (s.leaveSeat l.id t).updPk (fun k => k.endSides l.id t (fun _ => true))) s
          let s := if go.isEmpty then s else s.updPk (fun k => (k.updLaunch l.id (fun l => { l with
            seats := l.seats.filter (fun t => keep.any (fun x => x.lcl == t.lcl)), enrg := l.enrg ++ used })).roundNow)
          if keep.isEmpty ∧ s.pk.drained l then
            let e := (((s.pk.launch l.id).map Launch.enrg).getD []).foldl (· + ·) 0
            let k := s.pk.updSched (fun d => { d with launches := d.launches.filter (fun x => x.id != l.id) })
            { s with pk := ((k.endRecord l.stream l.j l.record l.status 0 e).roundNow).serviceAgain }
          else s.updPk (fun k => k.scheduleCc 1 .launchRetire { n := l.id }))

/-! ### Energy (R176, R177) -/

/-- The ENRG word in the image of a saved context (R493). -/
def Pack.enrgWord (k : Pack) (l : Launch) (lcl role : Nat) : Option Nat :=
  (l.slots.find? (fun x => x.1 == lcl)).map (fun x =>
    k.slotBase x.2 + 64 * bits (k.dpaWord (k.slotBase x.2 + 0x80 + 8 * role)) 63 32 + 0x400 + 8 * 0x0B)
/-- Every µs each context's counter takes the part's own figure, never below what it was (log 14); for the engine commands still
running also that of a context that has left its side, and in its image that of a saved one (R177). -/
def execEnrgUpdate (s : State) : Host.Outcome State Fault Refusal :=
  let up (i : Nat) (x : Word) : Word := let e := Config.energy (s.pk.freeCtr + i); if x.toNat ≤ e.toNat then e else x
  let grow (c : Ctx) : Ctx := if c.launch = 0 then c else { c with csr := { c.csr with enrg := up c.num c.csr.enrg } }
  done ((s.onAll grow).updPk (fun k =>
    let k := k.updSched (fun d => { d with launches := d.launches.zipIdx.map (fun p =>
      { p.1 with enrg := p.1.enrg.zipIdx.map (fun x => up (1024 * (p.2 + 1) + x.2) x.1) }) })
    let k := k.ioWr 0x30018 (up 512 (k.ioRd 0x30018))
    let k := (k.sched.launches.flatMap (fun l => l.imgs.map (fun i => (l, i)))).foldl (fun (k : Pack) x =>
      if x.2.2.2.mode == .exited || !k.ops.any (fun o => o.launch == x.1.id && o.ctx == x.2.2.2.num) then k
      else match k.enrgWord x.1 x.2.1 x.2.2.1 with
        | some d => k.dpaWrite d (leBytes 8 (up x.2.2.2.num (k.dpaWord d)).toNat)
        | none => k) k
    { k with freeCtr := k.freeCtr + 1024 * (k.sched.launches.length + 1) }.schedule (k.ticksTo 1000) .enrgUpdate {}))

end Sys2Proof.Machine
end

