-- ==== Sys2Proof/Machine/Fabric.lean ====
section
/-! DEFINITION. The Tsumos fabric: ports, the domain, marks, queries, routes (R425–R434), COLL (R435–R440), EMBR (R419–R424, R442),
the host's CXL.mem accesses (R444). -/
namespace Sys2Proof.Machine
open Sys2Proof

/-! ### Queries (R433) -/

/-- Status and value of an answer for a point of this device; 0 while it is neither satisfied, failed nor AHEAD. -/
def Pack.answerFor (k : Pack) (tl seq : Nat) : Nat × Word :=
  match k.localPoint (pointWit tl seq) with
  | .ok => (1, 0)
  | .bad 0x17 _ v => (2, v)
  | .bad _ _ v => (3, v)
  | .wait => (0, 0)

/-- Device `k` asks for point (timeline `n`, number `m`); with `k` = 0xFF query `n` held here looks again. -/
def execRemoteQuery (s : State) : Host.Outcome State Fault Refusal :=
  let a := s.pk.arg
  let reply (k : Pack) (dev tl seq : Nat) (r : Nat × Word) : Pack := k.send (.answer dev tl seq r.1 r.2)
  done (s.updPk (fun k =>
    if a.k = 0xFF then
      match k.fab.queries.find? (fun q => !q.sent && q.id == a.n) with
      | none => k
      | some q =>
        let r := k.answerFor q.tl q.seq
        if r.1 = 0 then k.scheduleCc 1 .remoteQuery a
        else reply { k with fab := { k.fab with queries := k.fab.queries.filter (fun x => x.id != q.id) } } q.dev q.tl q.seq r
    else if !k.isMember a.k ∨ k.own = 0xFF then k.send (.failed a.k)
    else
      let r := k.answerFor a.n a.m
      if r.1 ≠ 0 then reply k a.k a.n a.m r
      else
        let id := k.opCtr
        let k := { k with opCtr := id + 1, fab := { k.fab with queries := k.fab.queries ++ [(⟨id, a.k, a.n, a.m, k.tick + 4000, false, 0⟩ : Query)] } }
        (k.schedule 4000 .queryHoldExpiry { n := id }).scheduleCc 1 .remoteQuery { n := id, k := 0xFF }))

/-- Query `n`, held for 2 µs, is answered not yet. -/
def execQueryHoldExpiry (s : State) : Host.Outcome State Fault Refusal :=
  done (match s.pk.fab.queries.find? (fun q => !q.sent && q.id == s.pk.arg.n) with
    | none => s
    | some q => s.updPk (fun k =>
        { k with fab := { k.fab with queries := k.fab.queries.filter (fun x => x.id != q.id) } }.send (.answer q.dev q.tl q.seq 0 0)))

/-- Device `k` answers for its point (timeline `n`, number `m`): `v` holds the status in [63:62] and the failure mark or issue
count below. After not yet, the query is sent again; any other answer goes to all who asked, each of whom it concerns once. -/
def execQueryAnswer (s : State) : Host.Outcome State Fault Refusal :=
  let a := s.pk.arg
  let mine (q : Query) : Bool := q.sent && q.dev == a.k && q.tl == a.n && q.seq == a.m
  done (s.updPk (fun k =>
    if !k.fab.queries.any mine then k
    else if bits a.v 63 62 = 0 then k.send (.query a.k a.n a.m)
    else { k with fab := { k.fab with
      queries := k.fab.queries.filter (fun q => !mine q)
      answers := k.fab.answers ++ (k.fab.queries.filter mine).map (fun q => ⟨q.who, a.k, a.n, a.m, bits a.v 63 62, bits a.v 61 0⟩) } }))

/-! ### Marks and membership (R429–R431) -/

/-- The largest TSTAMP before which every numbered operation is complete (R430). -/
def Pack.markStamp (k : Pack) : Nat :=
  (((k.tls.filter (fun e => !isStreamTl e.1)).flatMap (fun e => e.2.open_.map (fun o => o.2.1))).min?).getD k.tstamp

/-- A member sends its completion mark and the next 256 ns on (R430). -/
def execCompletionMark (s : State) : Host.Outcome State Fault Refusal :=
  done (if s.pk.own = 0xFF ∨ !s.pk.isMember s.pk.own ∨ s.pk.fab.live = 0 then s
    else s.updPk (fun k => (k.send (.mark k.markStamp)).schedule 512 .completionMark {}))

/-- The failure timer of a member starts (R431): 10 µs. -/
def Pack.watch (k : Pack) (d stamp : Nat) : Pack :=
  { k with fab := { k.fab with marks := (d, k.tick, stamp) :: k.fab.marks.filter (fun m => m.1 != d) } }.schedule 20000 .deviceFailed { n := d }
/-- A mark of member `n` with TSTAMP `m` arrives (R430, R431). -/
def execMarkReceived (s : State) : Host.Outcome State Fault Refusal :=
  let a := s.pk.arg
  done (if !s.pk.isMember a.n ∨ a.n = s.pk.own then s
    else
      let old := ((s.pk.fab.marks.find? (fun m => m.1 == a.n)).map (fun m => m.2.2)).getD 0
      s.updPk (fun k => k.watch a.n (max old a.m)))

/-- TSTAMP moved forward by `d` ns (R430): what begins at multiples of TSTAMP begins at the new ones, and a timetable keeps its
place in its own run. -/
def Pack.stepTime (k : Pack) (d : Nat) : Pack :=
  if d = 0 then k
  else
    let c0 := k.chCycle
    let k := { k with fab := { k.fab with step := k.fab.step + d } }
    let shift := k.chCycle - c0
    let periodic (e : Due) : Option Nat := match e.ev with
      | .schedulingRound => if e.arg.n = 1 then some 1000 else none
      | .enrgUpdate => some 1000
      | .budgetPeriod => some 10000
      | _ => none
    let moved := k.agenda.filterMap (fun e => (periodic e).map (fun p => (p, e)))
    let k := { k with agenda := k.agenda.filter (fun e => (periodic e).isNone) }
    let k := moved.foldl (fun (k : Pack) e => k.schedule (k.ticksTo e.1) e.2.ev e.2.arg) k
    k.gouge.foldl (fun (k : Pack) e =>
      if e.2.state = .running then k.setChan e.1 (fun c => { c with
        start := c.start + shift, entryFrom := c.entryFrom + shift, gtFrom := c.gtFrom + shift
        units := c.units.map (fun u => { u with next := u.next + shift }) })
      else if e.2.state = .armed then k.schedule (k.ticksToCh e.2.start) .timetableStart { n := e.1, k := e.2.seq }
      else k) k

/-- The part becomes a member at domain time `t`: its TSTAMP moves up to it, marks and failure timers start. -/
def Pack.joinDomain (k : Pack) (t : Nat) : Pack :=
  let k := k.stepTime (t - k.tstamp)
  ((k.members.filter (fun d => d != k.own)).foldl (fun (k : Pack) d => k.watch d 0) k).schedule 0 .completionMark {}
def Pack.inDomain (k : Pack) : Bool := k.own != 0xFF && k.isMember k.own

/-- DEVNUM written with `v` (R429, R503); `arg.m` is the domain's TSTAMP when the part becomes a member (R430). -/
def execDomainJoin (s : State) : Host.Outcome State Fault Refusal :=
  let v := bits s.pk.arg.v 7 0
  done (if s.pk.reduced ∨ (144 ≤ v ∧ v ≤ 254) then s
    else s.updPk (fun k =>
      let was := k.inDomain
      let k := k.ioWr 0x71000 (BitVec.ofNat 64 v)
      if k.inDomain ∧ !was then k.joinDomain k.arg.m else k))

/-! ### What a collective computes (R435–R439) -/

def collOpc (c : Word) : Nat := bits c 63 60
def collDt (c : Word) : Nat := bits c 59 58
def collNorm (c : Word) : Bool := c.getLsbD 57
def collRoot (c : Word) : Nat := bits c 55 48
def collChunk (c : Word) : Nat := bits c 31 0
def tlColl (ct : Nat) : Nat := 2048 + ct % 256

/-- One element reduced in rank order (R438); under NPDEF 0 in an order of the part's own, within the bound (log 7). -/
def reduceElem (np dt idx : Nat) (xs : List Nat) : Nat :=
  let sum (f : Fmt) : Nat :=
    let vs := xs.map (decodeFloat f)
    if np = 0 then
      let r := (sum0 (.coll f) vs.length (vs.headD Val.zero) (vs.drop 1) idx).1
      if f = .f32 then r else (roundVal f .rne (decodeFloat .f32 r)).1
    else
      let acc := (vs.drop 1).foldl (fun a v => decodeFloat .f32 (roundVal .f32 .rne (Val.add false a v)).1) (vs.headD Val.zero)
      (roundVal f .rne acc).1
  if dt = 0 then sum .f32 else if dt = 1 then sum .bf16 else xs.foldl (· + ·) 0 % 2 ^ 32
/-- Blocks of one size reduced (R438). -/
def reduceBlocks (np dt : Nat) (blocks : List (List Byte)) : List Byte :=
  let w := if dt = 1 then 2 else 4
  let elems := blocks.map (elemsOf w)
  ((List.range ((elems.headD []).length)).map (fun i => reduceElem np dt i (elems.map (fun l => (l[i]?).getD 0)))).flatMap (leBytes w)
/-- s of a reduced block (R439). -/
def normOf (dt : Nat) (bs : List Byte) : Nat :=
  let f : Fmt := if dt = 1 then .bf16 else .f32
  (elemsOf (if dt = 1 then 2 else 4) bs).foldl (fun s x =>
    let v := decodeFloat f x
    (roundVal .f32 .rne (Val.add false (decodeFloat .f32 s) (v.mul v))).1) 0

def blockOf (bs : List Byte) (j c : Nat) : List Byte := (bs.drop (j * c)).take c

/-- What a member's destination receives (R436, R439): `src` are its own source bytes, `peers` what comes from the ranks, one
block of CHUNK bytes each in rank order (one block in all for broadcast), then with NORM their s, 4 bytes each; its own blocks
there do not count. -/
def collResult (np : Nat) (c : Word) (rank n : Nat) (src peers : List Byte) : List Byte :=
  let m := collChunk c
  let opc := collOpc c
  let mine := if opc = 0 ∨ opc = 4 then blockOf src rank m else src
  let blocks := (List.range n).map (fun j => if j = rank then mine else blockOf peers j m)
  match opc with
  | 0 =>
    let r := reduceBlocks np (collDt c) blocks
    if collNorm c then
      let own := normOf (collDt c) r
      let ss := (List.range n).map (fun j => if j = rank then leBytes 4 own else (peers.drop (n * m + 4 * j)).take 4)
      r ++ reduceBlocks np 0 ss
    else r
  | 2 => reduceBlocks np (collDt c) blocks
  | 3 => if collRoot c = rank then src else peers.take m
  | _ => blocks.flatten

/-! ### Failures on the fabric (R426, R428, R431) -/

/-- A remote operation completes with an error (R431): operation `n`, to a device that has failed. -/
def execRemoteErrorTimeout (s : State) : Host.Outcome State Fault Refusal :=
  done (match s.findOp s.pk.arg.n with
    | some o => if (s.pk.bankRanges o).any (fun r => s.pk.unreachable r.1) then s.remoteError o else s
    | none => s)

def OpKind.isColl : OpKind → Bool
  | .coll .. => true
  | _ => false
/-- Of the sectors of a range those that the part chooses, with their bytes out of `new` (R437, R440; log 51). -/
def Pack.someSectors (k : Pack) (ps : List Piece) (new : List Byte) : List Piece × List Byte :=
  let cut := (splitPieces ps new).flatMap (fun x =>
    (sectors (x.1.len / 32 + 2) x.1.addr x.2).map (fun y => (({ x.1 with addr := y.1, len := y.2.length } : Piece), y.2)))
  let pick := (cut.zipIdx.filter (fun y => (Config.freeBits k.freeCtr 0).testBit y.2)).map Prod.fst
  (pick.map Prod.fst, pick.flatMap Prod.snd)
/-- A word of a command's progress to the other members of its route. -/
def Pack.collNews (k : Pack) (o : Op) (what : CollNews) : Pack :=
  match o.kind with
  | .coll c _ _ _ devs => (devs.filter (· != k.own)).foldl (fun (k : Pack) d => k.send (.coll d (bits c 47 40) o.idx what c)) k
  | _ => k
/-- A command is over: what the others' matching ones have sent is used up. -/
def Pack.collOver (k : Pack) (o : Op) : Pack :=
  match o.kind with
  | .coll c .. => { k with fab := { k.fab with peers := k.fab.peers.filter (fun p => !(p.route == bits c 47 40 && p.idx == o.idx)) } }
  | _ => k
/-- A collective fails (R440): once it has begun, each destination sector holds old or new contents, the new ones made of the own
source and of what the others may have sent (log 51). -/
def State.failColl (s : State) (o : Op) : State :=
  match o.kind with
  | .coll c src dst rank devs =>
    let far := leBytes (devs.length * (collChunk c + 4)) (Config.freeBits (s.pk.freeCtr + 1) 0)
    let own := if o.stage = 0 then s.pk.rangeBytes src.pieces else o.bytes
    let w := s.pk.someSectors dst.pieces
      (if 2 ≤ o.stage then o.bytes ++ far.take 4 else collResult o.npdef c rank devs.length own far)
    let k := { s.pk with freeCtr := s.pk.freeCtr + 2 }
    let k := if o.begun && !o.taken && (s.pk.rangeError src.pieces).isNone then (k.piecesWrite (dst.as 6).via 0 w.1 w.2).pack else k
    ({ s with pk := (k.collNews o .failed).collOver o } : State).failOpState o
  | _ => s.failOpState o
/-- A port goes down (R426, R428): what is in flight on it completes with errors, a collective of several members too; the others
in flight are those that further remote accesses wait for. -/
def State.portDown (s : State) (p : Nat) : State :=
  let many (o : Op) : Bool := match o.kind with
    | .coll _ _ _ _ devs => decide (1 < devs.length)
    | _ => false
  let away (o : Op) : Bool := o.begun && (match o.kind with
    | .embr .. => o.stage != 0
    | _ => true)
  let on (o : Op) : Bool := away o && (many o || (s.pk.bankRanges o).any (fun r =>
    s.pk.isRemote r.1 && r.2.any (fun x => s.pk.portOf r.1 x.addr == p)))
  let loads := s.pk.sched.launches.filter (fun l => l.phase == .wsload && s.pk.isRemote l.src.via)
  let cut (l : Launch) : List Nat := (List.range (l.src.len / 32)).filter (fun i =>
    (dropPieces (32 * i) l.src.pieces).head?.any (fun x => s.pk.portOf l.src.via x.addr == p))
  let hit := s.pk.ops.filter on
  let s := s.updPk (fun k => { k with
    fab := { k.fab with
      live := k.fab.live &&& ~~~(1#18 <<< p), retries := k.fab.retries.filter (fun r => r.1 != p)
      old := if k.draining then k.fab.old else k.fab.live
      drain := (k.ops.filter (fun o => away o && !on o && k.opRemote o)).map Op.id ++ loads.map (fun l => 2 ^ 60 + l.id) }
    sched := { k.sched with launches := k.sched.launches.map (fun l =>
      if loads.any (fun x => x.id == l.id) then { l with cut := l.cut ++ cut l } else l) } })
  hit.foldl (fun (s : State) o => if many o then s.failColl o else s.remoteError o) s
/-- A flit of port `n` is resent, or with `m` = 1 has been accepted; after eight retries the port goes down (R426). -/
def execFlitRetry (s : State) : Host.Outcome State Fault Refusal :=
  let p := s.pk.arg.n
  let c := countOf s.pk.fab.retries p
  done (if s.pk.arg.m = 1 then s.updPk (fun k => { k with fab := { k.fab with retries := k.fab.retries.filter (fun r => r.1 != p) } })
    else if !s.pk.fab.live.getLsbD p then s
    else if 8 ≤ c then s.portDown p
    else s.updPk (fun k => { k with fab := { k.fab with retries := bump k.fab.retries p } }))

/-! ### Routes (R434) -/

def Pack.rtctl (k : Pack) (t : Nat) : Word := k.ioRd (0x70000 + 0x10 * t)
/-- The members on a route's list. -/
def Pack.routeList (k : Pack) (t : Nat) : List Nat :=
  (k.dpaRead (bits (k.ioRd (0x70008 + 0x10 * t)) 47 0) (bits (k.rtctl t) 55 48)).map BitVec.toNat

/-- RTCTL of route `n` written with `v` (R434). The match counts begin anew; commands of the others that come while the route is off here
are those they have accepted since theirs was set, and stay (R437). -/
def execRouteEnable (s : State) : Host.Outcome State Fault Refusal :=
  let t := s.pk.arg.n % 64
  let v := s.pk.arg.v
  let off := 0x70000 + 0x10 * t
  done (s.updPk (fun k =>
    let cur := k.ioRd off
    if cur.getLsbD 63 then
      let k := k.ioWr off (setBits cur 63 63 (bits v 63 63))
      if v.getLsbD 63 then k else { k with fab := { k.fab with
        counts := k.fab.counts.filter (fun c => c.1 % 64 != t), peers := k.fab.peers.filter (fun p => p.route != t) } }
    else
      let k := k.ioWr off (setBits (v &&& 0x00FF_FF00_0000_0000) 62 62 (bits cur 62 62))
      if !v.getLsbD 63 then k
      else
        let n := bits v 55 48
        let rank := bits v 47 40
        let l := k.routeList t
        let ok := 1 ≤ n ∧ n ≤ 144 ∧ rank < n ∧ bits (k.ioRd (off + 8)) 47 40 = 0 ∧ (l[rank]?).getD 0xFF = k.own ∧ l.Nodup ∧ l.all k.isMember
        let k := k.ioWr off (setBits (k.ioRd off) 63 62 (if ok then 2 else 1))
        if ok then { k with fab := { k.fab with counts := k.fab.counts.filter (fun c => c.1 != t) } } else k))

/-! ### COLL (R435–R440) -/

/-- Source and destination bytes (R436). -/
def collSizes (c : Word) (n : Nat) : Nat × Nat :=
  let m := collChunk c
  match collOpc c with
  | 0 => (n * m, m + if collNorm c then 4 else 0)
  | 1 => (m, n * m)
  | 4 => (n * m, n * m)
  | _ => (m, m)

/-- A command enters a collective timeline, or stalls while 16 are not yet performed, which a command is that another before it
is not (R419, R435, R440); `idx` is its place on its route. -/
def State.collCmd (s : State) (ct idx : Nat) (kind : OpKind) : Res :=
  if (s.pk.tl (tlColl ct)).iss - (s.pk.tl (tlColl ct)).head ≥ 16 then .error .stall
  else
    let x := s.issueNumbered (tlColl ct) { id := 0, ctx := 0, kind := kind, waits := [s.ctlWait], idx := idx
                                           wreg := BitVec.ofNat 8 s.waitReg, heads := s.ownHeads }
    .ok (x.2.putWitness s.cmdD x.1)

/-- The DEVN of a handle's entry, where the handle passes R64. -/
def State.devnOf (s : State) (h : Handle) (n need : Nat) : Option Nat :=
  if (s.pk.handleBad s.ctx.csr.btab s.ownId.toNat (hIdx h) (hOff h) n need true).isSome then none
  else some (s.pk.entryAt (bits s.ctx.csr.btab 47 0) (hIdx h)).devn

/-- What must agree between matching commands: OPC, DT, NORM, ROOT, CHUNK (R437). -/
def collMatch (c : Word) : Word := c &&& 0xFEFF_0000_FFFF_FFFF
/-- The others are told of an accepted command; where the matching command of one of them differs or has failed, it fails (R437,
R440). -/
def Pack.tellRoute (k : Pack) (id : Nat) : Pack :=
  match k.ops.find? (fun o => o.id == id) with
  | some o =>
    match o.kind with
    | .coll c .. =>
      let k := k.collNews o .accepted
      if k.fab.peers.any (fun p => p.route == bits c 47 40 && p.idx == o.idx && (p.failed || collMatch p.ctl != collMatch c)) then
        k.scheduleCc 1 .collPerformed { n := id, k := 2 } else k
    | _ => k
  | none => k

/-- COLL (R435, R436): a tier-3 buffer raises buffer-rights, cause TIER. -/
def execColl (s : State) : Host.Outcome State Fault Refusal :=
  deliver s (do
    let c := s.ctl
    let t := bits c 47 40
    let opc := collOpc c
    let ctl := s.pk.rtctl (t % 64)
    let n := bits ctl 55 48
    let z := collSizes c n
    let far (d : Option Nat) : Bool := d.isSome && d != some 0xFF
    if 4 < opc ∨ c.getLsbD 56 ∨ (if opc = 3 then n ≤ collRoot c else collRoot c ≠ 0) ∨ (collNorm c ∧ (opc ≠ 0 ∨ 2 ≤ collDt c)) ∨
        collChunk c % 128 ≠ 0 ∨ 64 ≤ t ∨ !ctl.getLsbD 63 ∨ far (s.devnOf (s.ra s.cmdA) z.1 rCS) ∨ far (s.devnOf (s.ra s.cmdB) z.2 rCD) then
      s.commandFault 2 c
    let a ← s.accessReg s.cmdA 0 z.1 rCS
    let b ← s.accessReg s.cmdB 0 z.2 rCD
    s.witCheck s.waitReg s.ctlWait
    let i := countOf s.pk.fab.counts t
    let x ← s.collCmd (bits c 39 32) i (.coll c a b (bits ctl 47 40) (s.pk.routeList t))
    .ok (x.updPk (fun k => { k with fab := { k.fab with counts := bump k.fab.counts t } }.tellRoute s.pk.opCtr)))

/-- Result bytes written to the destination's pieces; what is left when log space is short is written later (R455). -/
def State.collWrite (s : State) (o : Op) (ps : List Piece) (bs : List Byte) : State :=
  match o.kind with
  | .coll c src dst rank devs =>
    match s.pk.piecesWrite (dst.as 6).via 0 ps bs with
    | .held k n fail =>
      let o := { o with kind := .coll c src { dst with pieces := dropPieces n ps } rank devs, fail := o.fail || fail, taken := true }
      ({ s with pk := k }.setOp o).updPk (fun k => k.scheduleCc 1 .collPerformed { n := o.id, k := 5, bytes := bs.drop n })
    | .ok k => s.written o (.ok ((k.collNews o (if o.fail then .failed else .part)).collOver o))
    | .failed k => s.written o (.failed ((k.collNews o .failed).collOver o))
  | _ => s
/-- The contents that result: where the source meets the destination, in such sectors of it as the part chooses (R437, log 51). -/
def State.collFinish (s : State) (o : Op) (bs : List Byte) : State :=
  match o.kind with
  | .coll _ src dst _ _ =>
    if src.pieces.any (fun p => dst.pieces.any p.meets) then
      let w := s.pk.someSectors dst.pieces bs
      (s.updPk (fun k => { k with freeCtr := k.freeCtr + 1 })).collWrite o w.1 w.2
    else s.collWrite o dst.pieces bs
  | _ => s
/-- What rank `j` gets of a member's source (R436). -/
def collBlock (c : Word) (src : List Byte) (j : Nat) : List Byte :=
  if collOpc c = 0 ∨ collOpc c = 4 then blockOf src j (collChunk c) else src
/-- Blocks, or with `norm` the s of a member, go to the other members of the route, as class CO. -/
def Pack.collSend (k : Pack) (o : Op) (norm : Bool) (f : Nat → List Byte) : Pack :=
  match o.kind with
  | .coll c src _ rank devs => (devs.zipIdx.filter (fun d => d.2 != rank)).foldl (fun (k : Pack) d =>
      ((linesOf src.pieces).foldl (fun (k : Pack) l => k.charge (portOff (k.portOf {} l)) 6 3) k).send
        (.blocks d.1 (bits c 47 40) o.idx norm (f d.2))) k
  | _ => k
/-- A member whose wait is over, as are those of all others, reads its source and sends what they are to receive of it (R437). One that
receives nothing, as the only member, the root of a broadcast and each member of a barrier, performs then. -/
def State.collStart (s : State) (o : Op) : State :=
  match o.kind with
  | .coll c src _ rank devs =>
    let n := devs.length
    if collOpc c = 3 ∧ collRoot c ≠ rank then
      let o := { o with stage := 1 }
      if collChunk c = 0 then s.collFinish o [] else s.setOp o
    else
      let s := s.updPk (fun k => k.settle src.via src.pieces)
      match s.pk.rangeError src.pieces with
      | some e => (s.updPk (fun k => k.logError e.1 0x1FF e.2)).failColl o
      | none =>
        let bs := s.pk.rangeBytes src.pieces
        let o := { o with bytes := bs, stage := 1 }
        let s := s.updPk (fun k => (k.touchAll (src.as 6).via src.pieces false).collSend o false (collBlock c bs))
        if n = 1 ∨ collOpc c = 3 ∨ (collChunk c = 0 ∧ !collNorm c) then s.collFinish o (collResult o.npdef c rank n bs []) else s.setOp o
  | _ => s
/-- What comes from the ranks has arrived (R437–R439): the blocks `bs`, one of each rank in order, from which a member's own s follows,
or with NORM then the s of the others. -/
def State.collNow (s : State) (o : Op) (bs : List Byte) : State :=
  match o.kind with
  | .coll c _ _ rank devs =>
    let n := devs.length
    if o.stage = 1 then
      let r := collResult o.npdef c rank n o.bytes bs
      if collNorm c then
        let block := r.take (collChunk c)
        let own := normOf (collDt c) block
        (s.setOp { o with bytes := block, stage := 2 + own }).updPk (fun k => k.collSend o true (fun _ => leBytes 4 own))
      else s.collFinish o r
    else
      let ss := (List.range n).map (fun j => if j = rank then leBytes 4 (o.stage - 2) else (bs.drop (4 * j)).take 4)
      s.collFinish o (o.bytes ++ reduceBlocks o.npdef 0 ss)
  | _ => s

/-- Every other member's matching command has been accepted and its wait is over (R437). -/
def Pack.allReady (k : Pack) (o : Op) : Bool :=
  match o.kind with
  | .coll c _ _ rank devs => (List.range devs.length).all (fun r => r == rank || k.fab.peers.any (fun p =>
      p.route == bits c 47 40 && p.idx == o.idx && p.rank == r && p.ready))
  | _ => false
/-- The command of this part at place `i` of a route. -/
def Pack.collAt (k : Pack) (t i : Nat) : Option Op := k.ops.find? (fun o => match o.kind with
  | .coll c .. => bits c 47 40 == t && o.idx == i
  | _ => false)
/-- Rank `r`'s next command on route `t` has been accepted there, with control word `c`: it matches the one at the same place
here, and fails it where they differ. -/
def State.peerCommand (s : State) (t r : Nat) (c : Word) : State :=
  let key := t + 64 * (r + 1)
  let i := countOf s.pk.fab.counts key
  let s := s.updPk (fun k => { k with fab := { k.fab with
    counts := bump k.fab.counts key, peers := k.fab.peers ++ [({ route := t, rank := r, idx := i, ctl := c } : Peer)] } })
  match s.pk.collAt t i with
  | some o => match o.kind with
    | .coll d .. => if collMatch c = collMatch d then s else s.failColl o
    | _ => s
  | none => s

/-- A command of device `d` on route `t` is taken from members only (R429), on a route that is enabled only from the list's device of
that rank. -/
def Pack.fromRank (k : Pack) (t rank d : Nat) : Bool :=
  k.isMember d && k.own != 0xFF && (!(k.rtctl t).getLsbD 63 || (k.routeList t)[rank]? == some d)
/-- Word of rank `m`'s command at place `v` / 4 of route `n`: ready (1), part done (2) or failed (3), as `v` mod 4 says. -/
def State.peerNews (s : State) (a : EventArg) : State :=
  let at_ (p : Peer) : Bool := p.route == a.n % 64 && p.rank == a.m && p.idx == a.v.toNat / 4
  let what := a.v.toNat % 4
  let s := s.updPk (fun k => { k with fab := { k.fab with peers := k.fab.peers.map (fun p => if at_ p then
    { p with ready := p.ready || decide (what = 1 ∨ what = 2), part := p.part || what == 2, failed := p.failed || what == 3 } else p) } })
  match s.pk.collAt (a.n % 64) (a.v.toNat / 4) with
  | none => s
  | some o => if what = 3 then s.failColl o else if o.begun ∧ o.stage = 0 then s.poll o else s
/-- The command's own wait is over, or another member has become ready. -/
def State.collReady (s : State) (o : Op) : State :=
  match o.kind with
  | .coll _ _ _ _ devs =>
    if devs.any (fun d => d != s.pk.own && (s.pk.devFailed d || s.pk.fab.live == 0)) then s.failColl o
    else if devs.length = 1 then s.collStart { o with begun := true }
    else if !o.begun then ((s.setOp { o with begun := true }).updPk (fun k => k.collNews o .ready)).poll o
    else if o.stage = 0 ∧ s.pk.allReady o then s.collStart o
    else s
  | _ => s
/-- COLL `n` (R437, R440): with `arg.k` = 0 its wait is over, or that of another member; with 1 `bytes` hold the blocks that come from the
ranks, with 6 their s; with 5 they are what is left to write; with 2 it has failed at another member. With 3 rank `m` of route `n` has
accepted a command with control word `v`; with 4 there is news of one (`peerNews`): `bytes` then hold the number of the sending device. -/
def execCollPerformed (s : State) : Host.Outcome State Fault Refusal :=
  let a := s.pk.arg
  let again (s : State) : State := s.updPk (fun k => k.scheduleCc 1 .collPerformed a)
  let dev := (a.bytes.headD 0xFF).toNat
  done (if a.k = 3 ∨ a.k = 4 then
      (if !s.pk.fromRank (a.n % 64) a.m dev then s.updPk (fun k => k.send (.failed dev))
       else if a.k = 3 then s.peerCommand (a.n % 64) a.m a.v else s.peerNews a)
    else match s.findOp a.n with
    | some o =>
      match o.kind with
      | .coll _ _ dst _ _ =>
        if a.k = 2 then s.failColl o
        else if a.k = 0 then s.onOp (fun o s => s.collReady o) (fun o _ _ _ _ s => s.failColl o)
        else if s.pk.opHeld o then again (s.updPk (fun k => k.noteWait (k.opPasses o)))
        else if a.k = 5 then s.collWrite o dst.pieces a.bytes
        else if o.stage = 0 ∨ (a.k = 6 ∧ o.stage = 1) then again s
        else s.collNow o a.bytes
      | _ => s
    | none => s)

/-! ### EMBR (R419–R424, R442) -/

/-- EMBR (R419–R422). -/
def execEmbr (s : State) : Host.Outcome State Fault Refusal :=
  deliver s (do
    let c := s.ctl
    let rb := embrRow c
    if bits c 47 40 ≠ 0 ∨ bits c 31 18 ≠ 0 then s.commandFault 2 c
    let _ ← s.accessReg s.cmdA 0 (4 * bits c 15 0) rRD
    let _ ← s.access 0 (embrTable c) 0 rb rCS
    let _ ← s.accessReg s.cmdB 0 rb rEM
    s.witCheck s.waitReg s.ctlWait
    s.collCmd (bits c 39 32) 0 (.embr c (s.ra s.cmdA) (s.ra s.cmdB)))

/-- A range that an EMBR has read, as class CO. -/
def Pack.embrRead (k : Pack) (r : Range) : Pack := k.didRead (r.as 6)
/-- An EMBR's request is on its way to another device and back (R428, R432, R442): the entry goes on at `stage` 1,000 cc later; while other
accesses are waited for after a port went down it is not sent. -/
def State.embrAway (s : State) (o : Op) (stage : Nat) (f : Pack → Pack) : State :=
  if s.pk.draining then (s.setOp o).poll o
  else ((s.setOp { o with stage := stage }).updPk f).updPk (fun k => k.scheduleCc 1000 .embrEntry { n := o.id })
/-- The next entry of the list. -/
def State.embrNext (s : State) (o : Op) : State :=
  (s.setOp { o with at_ := o.at_ + 1, bytes := [], stage := 0 }).updPk (fun k => k.scheduleCc 4 .embrEntry { n := o.id })
/-- The table row and the target row of the list entry that an EMBR is at: one update in one step at the row's base die (R423). -/
def State.embrUpdate (s : State) (o : Op) (src dst : Range) : State :=
  let k := s.pk
  let x := k.sourceBytes src
  let j := if k.isRemote src.via then k else k.embrRead src
  if k.unreachable dst.via then s.failOpState o
  else if k.isRemote dst.via then
    { s with pk := j }.embrAway o 3 (fun k => (k.chargePorts dst.via 6 dst.pieces).send
      (.row dst.via.dev.toNat (((dst.pieces.head?).map Piece.addr).getD 0) x))
  else match (j.settle { dst.via with ms := true } dst.pieces).rowAdd (dst.as 6).via dst.pieces x with
    | .inr e => { s with pk := (j.settle { dst.via with ms := true } dst.pieces).logError e.1 0x1FF e.2 }.failOpState o
    | .inl (.ok j) => { s with pk := j }.embrNext o
    | .inl (.held j _ _) => ({ s with pk := k.heldAs j }.setOp o).updPk (fun k => k.scheduleCc 1 .embrEntry { n := o.id })
    | .inl (.failed j) => { s with pk := j }.failOpState o

/-- An EMBR is at an entry of its list: the entry read, then the table row, then the update; each where it goes to another device on its
way there first. -/
def State.embrAt (s : State) (o : Op) (c : Word) (list target : Handle) : State :=
  let failAt (s : State) (r : Range) (e : Nat × Nat) : State :=
    (if s.pk.isRemote r.via then s else s.updPk (fun k => k.logError e.1 0x1FF e.2)).failOpState o
  match s.pk.embrRanges o c list target with
  | (some lr, src, dst) =>
    if s.pk.isRemote lr.via ∧ o.stage = 0 then s.embrAway o 1 (fun k => k.embrRead lr)
    else match (if o.bytes.isEmpty then s.pk.rangeErrorAt lr else none) with
    | some e => failAt s lr e
    | none =>
      if o.bytes.isEmpty ∧ s.pk.farFails lr.via then s.failOpState o
      else
        let s := if o.bytes.isEmpty ∧ !s.pk.isRemote lr.via then s.updPk (fun k => k.embrRead lr) else s
        let o := if o.bytes.isEmpty then { o with bytes := s.pk.sourceBytes lr } else o
        match src, dst with
        | some src, some dst =>
          if s.pk.isRemote src.via ∧ o.stage < 2 then s.embrAway o 2 (fun k => k.embrRead src)
          else if s.pk.farFails src.via then s.failOpState o
          else match s.pk.rangeErrorAt src with
            | some e => failAt s src e
            | none => s.embrUpdate o src dst
        | _, _ => s.failOpState o
  | _ => s.failOpState o

/-- An EMBR goes on with the next entry of its list (R423, R424); the first waits for the command's wait. A row update that another
device has answered is done, or has failed there. -/
def execEmbrEntry (s : State) : Host.Outcome State Fault Refusal :=
  done (s.onOp (fun o s => match o.kind with
    | .embr c list target =>
      let o := { o with begun := true }
      let s := s.setOp o
      let s := if o.stage = 0 then s else s.updPk (fun k => { k with fab := { k.fab with drain := k.fab.drain.filter (· != o.id) } })
      if bits c 15 0 ≤ o.at_ then s.finishOp o
      else if o.stage = 3 then
        let far := (s.pk.embrRanges o c list target).2.2
        if far.any (fun r => s.pk.unreachable r.via || s.pk.farFails r.via) then s.failOpState o else s.embrNext o
      else s.embrAt o c list target
    | _ => s) Op.badCommand)

/-! ### The host (R443, R444) -/

/-- A decoder in multiples of 256 MiB, its DPA range inside the interleaved window (log 41). -/
def hdmOk (base size dpa : Nat) : Bool :=
  base % 2 ^ 28 == 0 && size % 2 ^ 28 == 0 && dpa % 2 ^ 28 == 0 && decide (dpa + size ≤ 2 ^ 39)

/-- Host CXL.mem (R444): with `arg.k` = 0 `m` bytes read, or `bytes` written, at host address `n`; with 1 a write of the part itself
at DPA `n`; from 2 on decoder `k` − 2 is set to host base `n`, size `m`, DPA `v` (R443, log 41). What no decoder holds does not
reach the part's memory. -/
def execHostMemAccess (s : State) : Host.Outcome State Fault Refusal :=
  let a := s.pk.arg
  done (s.updPk (fun k =>
    if 2 ≤ a.k then (if hdmOk a.n a.m a.v.toNat then { k with hdm := k.hdm.setIfInBounds (a.k - 2) (a.n, a.m, a.v.toNat) } else k)
    else match (if a.k = 1 then some a.n else k.hdmDpa a.n) with
      | none => k.send (.failed 0xFF)
      | some d =>
        let n := if a.bytes.isEmpty then a.m else a.bytes.length
        let ps := linePieces (n / 128 + 2) (dpaCell d) n
        match k.servedLater 0xFF {} ps .hostMemAccess with
        | some k => k
        | none => if a.k = 1 then k.dpaWrite d a.bytes else if a.bytes.isEmpty then k.servedRead 0xFF {} ps else k.servedWrite 0xFF {} 0 ps .hostMemAccess))

end Sys2Proof.Machine
end

