-- ==== Sys2Proof/Machine/Host.lean ====
section
/-! DEFINITION. What the host asks of the part through its registers: command streams (R78, R79, R85), the buffer service
(R72–R76), pin windows (R353–R355), budgets (R357–R359), limits (R172). A step's `arg` gives the subject and the value written. -/
namespace Sys2Proof.Machine
open Sys2Proof

/-! ### Command streams -/

/-- A host write of `v` to CSTAIL of stream `n` (R78, R79). -/
def execCstail (s : State) : Host.Outcome State Fault Refusal :=
  let k := s.pk
  let n := k.arg.n
  let v := k.arg.v.toNat
  done (if (k.csCtl n).getLsbD 62 then s
    else if v < k.csTail n ∨ k.csHead n + k.ringLen n < v then
      s.updPk (fun k => k.ioWr (csOff n 0x28) (setBits (k.csStat n) 58 58 1))
    else s.updPk (fun k => k.appendTo n v))

/-- A write of `v` to CSCTL of stream `n` (R78): while EN = 1 only EN is written, and EN is set with a valid ring size only. -/
def execCsctlEn (s : State) : Host.Outcome State Fault Refusal :=
  let k := s.pk
  let n := k.arg.n
  let v := k.arg.v
  let rest := if k.csEn n then k.csCtl n &&& 0x7FFF_FFFF_FFFF_FFFF else v &&& 0x7000_0000_0000_FFFF
  let size := bits (k.csBase n) 55 48
  let en := v.getLsbD 63 && (k.csEn n || (decide (4 ≤ size) && decide (size ≤ 16)))
  done (s.updPk (fun k => k.ioWr (csOff n 8) (setBits rest 63 63 en.toNat)))

/-- A write of `v` to CSSTAT of stream `n`: ERR and BADTAIL are cleared where `v` is 1 (R78, R85). -/
def execCsstatErrClear (s : State) : Host.Outcome State Fault Refusal :=
  let n := s.pk.arg.n
  done (s.updPk (fun k => k.ioWr (csOff n 0x28) (k.csStat n &&& ~~~(k.arg.v &&& 0x8400_0000_0000_0000))))

/-! ### The buffer service -/

/-- An operation ends, or is refused, with a STATUS; one that begins leaves the last one's (R72). -/
def Pack.setBsstat (k : Pack) (status : Nat) : Pack := k.ioWr 0x20810 (BitVec.ofNat 64 (status * 2 ^ 59))
def Pack.bsBegin (k : Pack) : Pack := k.ioWr 0x20810 (setBits (k.ioRd 0x20810) 63 63 1)
def Pack.bsBusy (k : Pack) : Bool := (k.ioRd 0x20810).getLsbD 63
/-- An admitted launch names the table (R73, R74). -/
def Pack.tableUsed (k : Pack) (table : Nat) : Bool :=
  k.sched.launches.any (fun l => recTable l.record != 0 && bits (recTable l.record) 47 0 == table)
/-- R73 codes 2 and 3; an IDX of 0 takes code 2 (log 65). -/
def Pack.serviceBad (k : Pack) (table idx : Nat) : Option Nat :=
  let e := k.entryAt table idx
  if idx = 0 ∨ e.tier ≠ 2 ∨ !k.entryOk e ∨ !e.res ∨ (e.devn ≠ 0xFF ∧ e.devn ≠ k.own) then some 2
  else if e.vrid ≠ 0 then some 3
  else none

/-- UNMAP by a BSREQ1 write (R72–R74). -/
def execUnmap (s : State) : Host.Outcome State Fault Refusal :=
  let k := s.pk
  let table := bits (k.ioRd 0x20800) 47 0
  let idx := bits (k.ioRd 0x20800) 63 48
  done (if k.bsBusy then s
    else match k.serviceBad table idx with
      | some c => s.updPk (fun k => k.setBsstat c)
      | none =>
        let k := k.bsBegin.updSched (fun d => { d with service := some ⟨table, idx, false, 0, 0, [], 0, []⟩ })
        { s with pk := if k.tableUsed table then k else k.schedule 0 .bufferServiceResume {} })

/-- Do two tier-2 placements share a cell? Placements of different windows are compared line by line (R69, R70). -/
def sameCells (a b : BufEntry) : Bool :=
  decide (a.cgb < b.cgb + 2 ^ b.cgn) && decide (b.cgb < a.cgb + 2 ^ a.cgn) &&
  (if a.win = b.win then decide (a.base < b.base + b.span) && decide (b.base < a.base + a.span)
   else
    let lin := if a.win = 1 then a else b
    let int := if a.win = 1 then b else a
    (List.range (lin.span / 128)).any (fun i =>
      let c := bankToInter (lin.base + 128 * i)
      decide (int.base ≤ c) && decide (c < int.base + int.span)))

/-- MIGRATE by a BSREQ1 write (R72, R73, R75). The other entries of the table are those of its 65,535 slots, mapped or not (log 65). -/
def execMigrate (s : State) : Host.Outcome State Fault Refusal :=
  let k := s.pk
  let table := bits (k.ioRd 0x20800) 47 0
  let idx := bits (k.ioRd 0x20800) 63 48
  let cgb := bits k.arg.v 55 48
  let base := bits k.arg.v 30 0
  let new : BufEntry := { k.entryAt table idx with cgb := cgb, base := base }
  let clash := (List.range 65535).any (fun i =>
    let e := k.entryAt table (i + 1)
    i + 1 != idx && e.tier == 2 && k.entryOk e && (e.devn == 0xFF || e.devn == k.own) && sameCells e new)
  let refuse (c : Nat) : State := s.updPk (fun k => k.setBsstat c)
  done (if k.bsBusy then s
    else if k.tableUsed table then refuse 1
    else match k.serviceBad table idx with
      | some c => refuse c
      | none =>
        if !k.entryOk new ∨ clash then refuse 4
        else { s with pk := (k.bsBegin.updSched (fun d =>
          { d with service := some ⟨table, idx, true, cgb, base, [], 0, []⟩ })).schedule 0 .bufferServiceResume {} })

/-- A pin window's lines are ordinary again (R354); STATUS becomes `st`, EN reads 0. -/
def Pack.releasePin (k : Pack) (w : PinWin) (st : Nat) : Pack :=
  let k := { k with
    msc := k.msc.map (fun (l : MscLine) => if w.lines.contains l.line then { l with pinned := false } else l)
    pins := k.pins.map (fun (x : PinWin) => if x.die = w.die ∧ x.win = w.win then { x with status := st, lines := [], fcnt := 0 } else x) }
  let off := 0x60008 + 0x1000 * w.die + 0x20 * w.win
  k.ioWr off (setBits (k.ioRd off) 63 63 0)

/-- A storage sector carries an error, also where the MSC holds the rest of its line (R496). -/
def Pack.spoil (k : Pack) (a : Nat) : Pack :=
  let k := if k.bad.contains (.dram, a) then k else { k with bad := k.bad ++ [(.dram, a)] }
  match k.mscLine (a / 128 * 128) with
  | some l => if l.spent then k else k.setLine { l with lost := (a % 128 / 32 :: l.lost).dedup }
  | none => k

/-- Steps 3 and 4 of R74: the lines of a range written back and dropped, pin windows over them released; an unreadable sector leaves
its error in DRAM. -/
def Pack.vacate (k : Pack) (lines : List Nat) : Pack :=
  let k := lines.foldl (fun (k : Pack) l =>
    let k := k.writeBack l
    (((k.mscLine l).map MscLine.bad).getD []).foldl (fun (k : Pack) i => k.spoil (l + 32 * i)) k) k
  let k := (k.pins.filter (fun w => w.lines.any lines.contains)).foldl (fun (k : Pack) w => k.releasePin w 4) k
  lines.foldl (fun (k : Pack) l => k.dropLine l) k

/-- The old placement read on while its channels serve it (R75, R373): the bytes, and the sectors of `dst` that a bad one goes to. -/
def Pack.moveReads : List (Piece × Piece) → Pack → List Byte → List Nat → Pack × List Byte × List Nat
  | [], k, bs, bad => (k, bs, bad)
  | (p, q) :: ps, k, bs, bad =>
    if k.bankHeld { ms := true } [p] then (k, bs, bad)
    else
      let bad' := (k.badSectors p.addr p.len).map (fun x => q.addr + (x - p.addr))
      moveReads ps (k.reachBank 1 p.addr) (bs ++ k.rangeBytes [p]) (bad ++ bad')
/-- Bytes written on to the new placement by its entry's policy: how many reach it now. -/
def Pack.moveWrites (via : Via) : List Piece → Pack → List Byte → Nat → Pack × Nat
  | [], k, _, n => (k, n)
  | q :: qs, k, bs, n =>
    if k.bankHeld { via with ms := true } [q] then (k, n)
    else moveWrites via qs (k.pieceWrite via q (bs.take q.len)).pack (bs.drop q.len) (n + q.len)
/-- A migration goes on (R75): everything is read before anything is written, so that a new placement that meets the old one gets the
old bytes; errors move with their sectors. -/
def Pack.moveOn (k : Pack) (b : BufService) (src dst : Range) : Pack × BufService :=
  let r := moveReads ((dropPieces b.got.length src.pieces).zip (dropPieces b.got.length dst.pieces)) k b.got b.bad
  if r.2.1.length < src.len then (r.1, { b with got := r.2.1, bad := r.2.2 })
  else
    let w := moveWrites dst.via (dropPieces b.put dst.pieces) r.1 (r.2.1.drop b.put) b.put
    let k := if w.2 < dst.len then w.1 else r.2.2.foldl Pack.spoil w.1
    (k, { b with got := r.2.1, bad := r.2.2, put := w.2 })

/-- The buffer service goes on once no admitted launch names its table (R74, R75), and waits for channels that do not serve it. -/
def execBufferServiceResume (s : State) : Host.Outcome State Fault Refusal :=
  done (match s.pk.sched.service with
    | none => s
    | some b =>
      if s.pk.tableUsed b.table then s
      else
        let e := s.pk.entryAt b.table b.idx
        let old := entryRange e 0 e.limit
        let later (k : Pack) (b : BufService) : State :=
          { s with pk := (k.updSched (fun d => { d with service := some b })).scheduleCc 1 .bufferServiceResume {} }
        let k := (linesOf old.pieces).foldl (fun (k : Pack) l => if k.banksOpen (cellCh l) then k.writeBack l else k) s.pk
        if b.got.isEmpty ∧ (linesOf old.pieces).any (fun l => (k.mscLine l).any (fun x => x.owes && x.bad.isEmpty)) then later k b
        else
          let k := if b.got.isEmpty then k.vacate (linesOf old.pieces) else k
          let at_ := b.table + 32 * b.idx
          let finish (k : Pack) : State := { s with pk := (k.setBsstat 0).updSched (fun d => { d with service := none }) }
          if b.migrate then
            let new : BufEntry := { e with cgb := b.newcgb, base := b.newbase }
            let m := k.moveOn b old (entryRange new 0 e.limit)
            if m.2.put < e.limit then later m.1 m.2
            else finish ((m.1.dpaWrite at_ (leBytes 8 b.newbase)).dpaWrite (at_ + 22) (leBytes 1 b.newcgb))
          else finish (k.dpaWrite (at_ + 20) (leBytes 1 ((k.dpaRead (at_ + 20) 1).headD 0 &&& 0xFE).toNat)))

/-! ### Pin windows -/

def pinOff (die win reg : Nat) : Nat := 0x60000 + 0x1000 * die + 0x20 * win + reg
def Pack.pin (k : Pack) (die win : Nat) : PinWin := (k.pins.find? (fun w => w.die == die && w.win == win)).getD { die := die, win := win }
def Pack.setPin (k : Pack) (w : PinWin) : Pack :=
  { k with pins := if k.pins.any (fun x => x.die == w.die && x.win == w.win) then
      k.pins.map (fun x => if x.die = w.die ∧ x.win = w.win then w else x) else k.pins ++ [w] }

/-- The lines a window names: consecutive in CA of the DPA's channel (R353). -/
def pinLines (dpa len : Nat) : List Nat :=
  (List.range len).map (fun i => cellOf (dpa / 2 ^ 40) (dpa / 2 ^ 31 % 256) (dpa % 2 ^ 31 / 128 * 128 + 128 * i) / 128 * 128)

/-- Why a window is refused (R355). -/
def Pack.pinBad (k : Pack) (die dpa len : Nat) : Option Nat :=
  if 2 ≤ dpa / 2 ^ 40 ∨ dpa / 2 ^ 31 % 256 / 128 ≠ die ∨ 2 ^ 31 < dpa % 2 ^ 31 + 128 * len ∨ len = 0 then some 6
  else
    let lines := pinLines dpa len
    let held := (k.pins.filter (fun w => w.die == die)).flatMap PinWin.lines
    if lines.any held.contains then some 7
    else
      let sets := (lines ++ held).map Config.mscSet
      if sets.any (fun x => sets.count x > 12) then some 5 else none

/-- EN of window `m` of die `n` set by a write of `v` to PINCTL (R353–R355); a write while EN = 1 with EN = 1 changes nothing. -/
def execPinEnable (s : State) : Host.Outcome State Fault Refusal :=
  let k := s.pk
  let die := k.arg.n
  let win := k.arg.m
  let off := pinOff die win 8
  let v := k.arg.v &&& 0x80FF_FFFF_00FF_FFFF
  done (if (k.ioRd off).getLsbD 63 then s
    else if !v.getLsbD 63 then s.updPk (fun k => k.ioWr off v)
    else
      let dpa := bits (k.ioRd (pinOff die win 0)) 47 0
      let len := bits v 23 0
      match k.pinBad die dpa len with
      | some c => s.updPk (fun k => (k.ioWr off (setBits v 63 63 0)).setPin { k.pin die win with status := c, fcnt := 0, lines := [] })
      | none => s.updPk (fun k =>
          ((k.ioWr off v).setPin { k.pin die win with
            status := 1, fcnt := bits v 55 32, lines := pinLines dpa len, gen := (k.pin die win).gen + 1 }).scheduleCc (150 + len) .pinLoadDone
            { n := die, m := win, k := (k.pin die win).gen + 1 }))

/-- A line of a window that loads is taken, once its channel serves it (R354, R373); lines of a state window stay out (R390). -/
def Pack.pinFill (k : Pack) (l : Nat) : Pack :=
  if (k.windowAt l).isSome ∨ !k.absent l ∨ k.bankHeld {} [⟨.dram, l, 128⟩] then k else (k.reachBank 1 l).fill l
/-- Every line of window `m` of die `n` is held (R354): STATUS ACTIVE; the fade time counts from now. Until then the load goes on. -/
def execPinLoadDone (s : State) : Host.Outcome State Fault Refusal :=
  let w := s.pk.pin s.pk.arg.n s.pk.arg.m
  done (if w.status ≠ 1 ∨ w.gen ≠ s.pk.arg.k then s
    else s.updPk (fun k =>
      let k := w.lines.foldl Pack.pinFill k
      if w.lines.any k.absent then k.scheduleCc 1 .pinLoadDone k.arg
      else
        let k := w.lines.foldl (fun (k : Pack) l => match k.mscLine l with
          | some x => k.setLine { x with pinned := true, rc := 0, dirty := x.dirty || x.rc != 0 }
          | none => k) k
        let k := k.setPin { w with status := 2 }
        if w.fcnt = 0 then k else k.schedule 2000 .pinFade { n := w.die, m := w.win, k := w.gen }))

/-- EN of window `m` of die `n` cleared (R354). -/
def execPinRelease (s : State) : Host.Outcome State Fault Refusal :=
  let w := s.pk.pin s.pk.arg.n s.pk.arg.m
  done (if w.status = 1 ∨ w.status = 2 then s.updPk (fun k => k.releasePin w 0) else s)

/-- A µs passes for an active window `m` of die `n`: FCNT falls by one, and at 0 the window is released (R354). -/
def execPinFade (s : State) : Host.Outcome State Fault Refusal :=
  let w := s.pk.pin s.pk.arg.n s.pk.arg.m
  done (if w.status ≠ 2 ∨ w.fcnt = 0 ∨ w.gen ≠ s.pk.arg.k then s
    else if w.fcnt = 1 then s.updPk (fun k => k.releasePin w 3)
    else s.updPk (fun k => (k.setPin { w with fcnt := w.fcnt - 1 }).schedule 2000 .pinFade { n := w.die, m := w.win, k := w.gen }))

/-! ### Budgets (R357–R359) -/

def abshFields (v : Word) : List Nat := [bits v 55 48, bits v 47 40, bits v 39 32, bits v 31 24, bits v 23 16, bits v 15 8, bits v 7 0]
/-- Offsets of the enforcers: 256 channels, 18 ports. -/
def abshOffs : List Nat := (List.range 256).map chanOff ++ (List.range 18).map portOff

/-- A write of `v` to the ABSH at offset `n` (R359): RF is the controller's; on ports GT and RF read 0. The new shares wait for the
next period (R358). -/
def execAbsh (s : State) : Host.Outcome State Fault Refusal :=
  let off := s.pk.arg.n
  let port := decide (0x52000 ≤ off)
  let cur := s.pk.ioRd off
  let v := setBits (s.pk.arg.v &&& 0x00FF_FFFF_FFFF_FFFF) 31 24 (bits cur 31 24)
  let v := if port then setBits v 39 32 0 else v
  done (if !abshOffs.contains off then s
    else if (abshFields v).foldl (· + ·) 0 > 256 then s.updPk (fun k => k.ioWr (off + 8) (setBits (k.ioRd (off + 8)) 63 63 1))
    else s.updPk (fun k => k.ioWr off v))

/-- A class's use of the budget period that ends, in 1/256, saturating (R359). A controller that no timetable governs refreshes
within RF's share, how much is its own (log 5). -/
def Pack.useOf (k : Pack) (off cls : Nat) : Nat :=
  let h := (off - 0x50000) / 0x20
  let c := k.chan h
  let n := if 0x52000 ≤ off then k.usedBy off cls
    else if cls = 2 then k.entryUse h 0
    else if cls = 3 then k.entryUse h 2 +
      (if c.state = .running ∨ c.pst ≠ 0 then 0
       else (Config.freeWord (k.freeCtr + h)).toNat % (bits (k.shareOf off) 31 24 * 16000 / 256 + 1))
    else k.usedBy off cls
  min 255 (256 * n / periodOf off)
/-- A budget period begins (R357): ABSTAT tells the use of the last one, the shares written take effect (R358, R359). -/
def execBudgetPeriod (s : State) : Host.Outcome State Fault Refusal :=
  done (s.updPk (fun k =>
    let shares := (abshOffs.filter (fun o => k.ioRd o != ioReset o)).map (fun o => (o, k.ioRd o))
    let j := abshOffs.foldl (fun (j : Pack) o =>
      let use := (List.range 7).foldl (fun x c => x * 256 + k.useOf o c) 0
      j.ioWr (o + 8) (setBits (j.ioRd (o + 8)) 55 0 use)) k
    ({ j with shares := shares, usage := [], freeCtr := k.freeCtr + 256 }.gougePeriod).schedule (k.ticksTo 10000) .budgetPeriod {}))

/-! ### Limits (R172) -/

/-- The die temperature limit (`arg.m` = 0) or the package current limit (1) asks core `arg.n` for step `arg.k`, 0 to stop; the
current limit is the package's and acts on every core. -/
def execTemperatureOrCurrentLimit (s : State) : Host.Outcome State Fault Refusal :=
  let a := s.pk.arg
  done (if a.m = 0 then s.onCore a.n (fun c => { c with therm := a.k % 8 })
    else
      let f (b : CoreBox) : CoreBox := { b with core := { b.core with curr := a.k % 8 } }
      { s with core := { s.core with curr := a.k % 8 }, todo := s.todo.map f, past := s.past.map f })

end Sys2Proof.Machine
end

