-- ==== Sys2Proof/Machine/Matrix.lean ====
section
/-! DEFINITION. The M slot: operand records, checks at issue, direct moves, the matrix queue and the array (R245–R270). -/
namespace Sys2Proof.Machine
open Sys2Proof

/-! ### Operand records (R247, R248) -/

structure OpRec where
  resv : Nat
  sbase : Nat
  ts : Nat
  gs : Nat
  fmt : Nat
  klen : Nat
  rows : Nat
  stride : Nat
  base : Nat
  deriving DecidableEq, Repr

def opRec (d : BitVec 128) : OpRec where
  resv := bits d 127 110
  sbase := bits d 109 88
  ts := bits d 87 72
  gs := bits d 71 69
  fmt := bits d 68 64
  klen := bits d 63 51
  rows := bits d 50 44
  stride := bits d 43 22
  base := bits d 21 0

/-- Element width, 0 where FMT names no format (log 17). -/
def OpRec.width (r : OpRec) : Nat := ((Fmt.ofCode r.fmt).map Fmt.width).getD 0
/-- It has groups with scales: a scaled FMT under a GS that R33 allows it; with another GS it has none (log 17). -/
def OpRec.scaled (r : OpRec) : Bool := (6 ≤ r.fmt && r.fmt ≤ 8) && gsAllowed r.fmt r.gs
def OpRec.group (r : OpRec) : Nat := groupLen r.gs
/-- Bytes of one row, and scale bytes of one row. -/
def OpRec.rowLen (r : OpRec) : Nat := (r.klen * r.width + 7) / 8
def OpRec.spr (r : OpRec) : Nat :=
  if r.scaled then (if r.fmt = 6 then r.klen / r.group else 4 * (r.klen / r.group)) else 0
/-- The two footprints as (low, high). -/
def OpRec.foot (r : OpRec) : List (Nat × Nat) :=
  (r.base, r.base + (r.rows - 1) * r.stride + r.rowLen) ::
    (if r.scaled then [(r.sbase, r.sbase + r.rows * r.spr)] else [])
/-- The tag word the record's FMT, GS and TS make (R259). -/
def OpRec.tag (r : OpRec) : BitVec 32 := BitVec.ofNat 32 (r.ts * 65536 + r.gs * 32 + r.fmt)
/-- The bytes a record's rows and scales lie in, for the error check (R269). -/
def OpRec.reads (r : OpRec) : List (Nat × Nat) :=
  (List.range r.rows).map (fun i => (r.base + i * r.stride, r.rowLen)) ++
    (if r.scaled then [(r.sbase, r.rows * r.spr)] else [])

/-- A record with its register number. -/
abbrev NamedRec := Nat × BitVec 128

/-- The record checks in the order of R256. -/
def State.recordCheck (s : State) (kmax : Nat) (rs : List NamedRec) : Except Stop Unit :=
  let fail (cause : Nat) (r : NamedRec) : Except Stop Unit :=
    failWith (s.faultRec 0x11 cause r.1 (r.2.setWidth 64) (r.2.extractLsb' 64 64))
  let k0 := ((rs.head?).map (fun r => (opRec r.2).klen)).getD 0
  match rs.find? (fun r => (opRec r.2).resv != 0) with
  | some r => fail 1 r
  | none =>
    match rs.find? (fun r => let x := opRec r.2
        x.rows < 1 || 64 < x.rows || x.klen < 1 || kmax < x.klen || (x.scaled && x.klen % x.group != 0) || x.klen != k0) with
    | some r => fail 2 r
    | none =>
      match rs.find? (fun r => (opRec r.2).foot.any (fun f => 2 ^ 22 < f.2)) with
      | some r => fail 3 r
      | none => .ok ()

/-- The bank checks in the order of R256. -/
def State.bankCheck (s : State) (rs : List NamedRec) : Except Stop Unit :=
  let fail (cause : Nat) (r : NamedRec) : Except Stop Unit :=
    failWith (s.faultRec 0x12 cause r.1 (BitVec.ofNat 64 (opRec r.2).base))
  let grp (r : NamedRec) : Nat := (opRec r.2).base / 2 ^ 18
  match rs.find? (fun r => !s.ctx.csr.lease.getLsbD (grp r)) with
  | some r => fail 1 r
  | none =>
    match rs with
    | a :: b :: _ => if grp a = grp b then fail 2 b else spans fail grp
    | _ => spans fail grp
where
  spans (fail : Nat → NamedRec → Except Stop Unit) (grp : NamedRec → Nat) : Except Stop Unit :=
    match rs.find? (fun r => (opRec r.2).foot.any (fun f => f.1 < f.2 && (f.1 / 2 ^ 18 != grp r || (f.2 - 1) / 2 ^ 18 != grp r))) with
    | some r => fail 3 r
    | none => .ok ()

/-! ### Stalls -/

/-- R142, first row; step 1 of R255. -/
def State.tilesFree (s : State) (ts : List Nat) : Except Stop Unit :=
  if ts.any (fun t => s.ctx.busy.getLsbD t) then .error .stall else .ok ()

def State.sideNo (s : State) : Nat := s.ctx.num % 2
/-- The entries of the context in the array's hands: in occupancy or set aside (R252, R254). -/
def State.inArray (s : State) : List MxRun := (s.core.run.toList ++ s.core.aside.toList).filter (fun r => r.side == s.sideNo)
/-- Room for an instruction with work `w` (R250). -/
def State.queueRoom (s : State) (w : Nat) : Bool :=
  s.ctx.mq.length + s.inArray.length < 4 &&
    (s.ctx.mq.map MEntry.work).foldl (· + ·) 0 + (s.inArray.map MxRun.left).foldl (· + ·) 0 + w ≤ 4080

/-- Step 5 of R255: the range scoreboard with room for `n` entries (R257), then the queue (R250). -/
def State.arrayStall (s : State) (write : Bool) (rs : List NamedRec) (n w : Nat) : Except Stop Unit :=
  let rg := rs.flatMap (fun r => (opRec r.2).foot.map (fun f => (f.1, f.2 - f.1)))
  if rg.any (fun r => s.boardBlocks s.cluster write r.1 r.2) ∨ !s.queueRoom w ∨
      (s.pk.board.filter (fun b => b.cluster == s.cluster)).length + n > 32 then .error .stall
  else .ok ()

/-! ### Entering the queue -/

/-- An instruction enters its queue: its destination is busy, its ranges are on the scoreboard (R246, R257). `cls` is its class
of R416. -/
def State.enqueue (s : State) (e : MEntry) (cls : BitVec 8) (tile : Option Nat) (write : Bool) (rs : List NamedRec) : State :=
  let id := s.pk.opCtr
  let e := { e with id := id, from_ := s.core.cyc + 1, after := s.ctx.fenced cls, np := s.ctx.iss.np
                    seed := s.ctx.csr.srseed, pc := s.ctx.iss.pc, blen := s.ctx.iss.words }
  let s := s.updPk (fun k => { k with opCtr := k.opCtr + 1 })
  let s := rs.foldl (fun (s : State) r => s.takeBoard id write (opRec r.2).foot true) s
  s.updCtx (fun c => { c with mq := c.mq ++ [e], busy := match tile with
    | some t => c.busy ||| (1#16 <<< t)
    | none => c.busy })

/-- MAC rate of a format (R251). -/
def macRate (f : Nat) : Nat := if f = 2 ∨ f = 3 then 2 else if f = 6 ∨ f = 8 then 8 else 4
/-- Occupancy of an MMA (R251). -/
def mmaWork (kind fmt klen np : Nat) : Nat :=
  (klen + macRate fmt - 1) / macRate fmt * (if kind = 3 then 1 else if np = 4 then 2 else if np = 3 then 8 else 1)

/-- Formats of the two records and of the tile (R258), `m` the modifier. -/
def mmaFmts (kind m : Nat) : Nat × Nat × Nat :=
  match kind with
  | 0 => (2 + m % 2, 2 + m % 2, 1)
  | 1 => (4 + m % 2, 4 + m / 2 % 2, 1)
  | 2 => (6, 6, 1)
  | 3 => if m % 2 = 0 then (9, 9, 11) else (13, 13, 15)
  | 4 => (7, 7, 1)
  | _ => (8, 8, 1)

/-- Format checks of an MMA (R259): each record, equal sizes, the tile. -/
def State.mmaFormats (s : State) (zero : Bool) (kind m d : Nat) (a b : NamedRec) : Except Stop Unit := do
  let f := mmaFmts kind m
  let one (r : NamedRec) (want : Nat) : Except Stop Unit :=
    let x := opRec r.2
    if tagOk x.tag ∧ x.fmt = want then .ok () else failWith (s.fmtFault r.1 x.tag)
  one a f.1
  one b f.2.1
  if (opRec a.2).gs ≠ (opRec b.2).gs then failWith (s.fmtFault b.1 (opRec b.2).tag) else .ok ()
  let t := ((s.ctx.m[d]?).getD {}).tag
  if !zero && t.toNat ≠ f.2.2 then failWith (s.fmtFault d t) else .ok ()

/-- MMA and MMAZ at issue (R255–R259). -/
def State.mma (s : State) (zero : Bool) (kind m : Nat) (d a b : BitVec 5) : Res := do
  let ra : NamedRec := (a.toNat, s.rd a)
  let rb : NamedRec := (b.toNat, s.rd b)
  s.tilesFree [d.toNat]
  s.recordCheck 512 [ra, rb]
  s.mmaFormats zero kind m d.toNat ra rb
  s.bankCheck [ra, rb]
  let w := mmaWork kind (mmaFmts kind m).1 (opRec ra.2).klen s.ctx.iss.np
  s.arrayStall false [ra, rb] 2 w
  .ok (s.enqueue { op := .mma zero kind m, dst := d.toNat, ra := ra.2, rb := rb.2, work := w, from_ := 0, id := 0 }
    2 (some d.toNat) false [ra, rb])

def execMmaBf16 (d a b : BitVec 5) (t : BitVec 1) (s : State) : Host.Outcome State Fault Refusal :=
  deliver s (s.mma false 0 t.toNat d a b)
def execMmaFp8 (d a b : BitVec 5) (v u : BitVec 1) (s : State) : Host.Outcome State Fault Refusal :=
  deliver s (s.mma false 1 (2 * v.toNat + u.toNat) d a b)
def execMmaE2m1 (d a b : BitVec 5) (s : State) : Host.Outcome State Fault Refusal := deliver s (s.mma false 2 0 d a b)
def execMmaInt8 (d a b : BitVec 5) (sat t : BitVec 1) (s : State) : Host.Outcome State Fault Refusal :=
  deliver s (s.mma false 3 (2 * sat.toNat + t.toNat) d a b)
def execMmaQ8 (d a b : BitVec 5) (s : State) : Host.Outcome State Fault Refusal := deliver s (s.mma false 4 0 d a b)
def execMmaQ4 (d a b : BitVec 5) (s : State) : Host.Outcome State Fault Refusal := deliver s (s.mma false 5 0 d a b)
def execMmazBf16 (d a b : BitVec 5) (t : BitVec 1) (s : State) : Host.Outcome State Fault Refusal :=
  deliver s (s.mma true 0 t.toNat d a b)
def execMmazFp8 (d a b : BitVec 5) (v u : BitVec 1) (s : State) : Host.Outcome State Fault Refusal :=
  deliver s (s.mma true 1 (2 * v.toNat + u.toNat) d a b)
def execMmazE2m1 (d a b : BitVec 5) (s : State) : Host.Outcome State Fault Refusal := deliver s (s.mma true 2 0 d a b)
def execMmazInt8 (d a b : BitVec 5) (sat t : BitVec 1) (s : State) : Host.Outcome State Fault Refusal :=
  deliver s (s.mma true 3 (2 * sat.toNat + t.toNat) d a b)
def execMmazQ8 (d a b : BitVec 5) (s : State) : Host.Outcome State Fault Refusal := deliver s (s.mma true 4 0 d a b)
def execMmazQ4 (d a b : BitVec 5) (s : State) : Host.Outcome State Fault Refusal := deliver s (s.mma true 5 0 d a b)

/-! ### Tile moves -/

def tileTag (x : BitVec 32) : Bool := x == 1 || x == 11 || x == 15
/-- The tag of a tile type field (R264). -/
def tileType (t : Nat) : Nat := if t = 0 then 1 else if t = 1 then 11 else 15

/-- A direct tile write in two cycles' time (R264). -/
def State.putTile (s : State) (d : Nat) (t : Tile) : State :=
  s.updCtx (fun c => { c with busy := c.busy ||| (1#16 <<< d), mwrites := c.mwrites ++ [(s.core.cyc + 2, d, t)] })

def execMzero (d : BitVec 5) (t : BitVec 2) (s : State) : Host.Outcome State Fault Refusal :=
  deliver s (do
    s.tilesFree [d.toNat]
    .ok (s.putTile d.toNat ⟨0, BitVec.ofNat 32 (tileType t.toNat)⟩))
def execMmov (d a : BitVec 5) (s : State) : Host.Outcome State Fault Refusal :=
  deliver s (do
    s.tilesFree [d.toNat, a.toNat]
    .ok (s.putTile d.toNat (s.rm a)))
/-- Row `r` of a tile payload replaced. -/
def tileRow (pay : BitVec 131072) (r : Nat) (x : BitVec 2048) : BitVec 131072 :=
  BitVec.ofNat 131072 (pay.toNat - pay.toNat / 2 ^ (2048 * r) % 2 ^ 2048 * 2 ^ (2048 * r) + x.toNat * 2 ^ (2048 * r))
/-- MVROW (R265). -/
def execMvrow (d a b : BitVec 5) (s : State) : Host.Outcome State Fault Refusal :=
  deliver s (do
    s.tilesFree [d.toNat]
    let v := s.rv a
    let md := s.rm d
    if !tileTag v.tag then failWith (s.fmtFault a.toNat v.tag)
    else .ok (s.putTile d.toNat
      ⟨tileRow (if md.tag = v.tag then md.pay else 0) ((s.rs b).toNat % 64) v.pay, v.tag⟩))
/-- MROWV (R265). -/
def execMrowv (d a b : BitVec 5) (s : State) : Host.Outcome State Fault Refusal :=
  deliver s (do
    s.tilesFree [a.toNat]
    let t := s.rm a
    if !tileTag t.tag then failWith (s.fmtFault a.toNat t.tag)
    else .ok (s.putV d 6 ⟨BitVec.ofNat 2048 (t.pay.toNat / 2 ^ (2048 * ((s.rs b).toNat % 64))), 0, t.tag⟩))

/-- MREC and MRECR (R249). -/
def execMrec (d a b : BitVec 5) (s : State) : Host.Outcome State Fault Refusal :=
  done (s.put 1 (.d d.toNat (s.rs b ++ s.rs a)))
/-- `by_` added to the 22-bit field at bit `lo`. -/
def addField (x : BitVec 128) (lo : Nat) (by_ : Word) : BitVec 128 :=
  let old := bits x (lo + 21) lo
  BitVec.ofNat 128 (x.toNat - old * 2 ^ lo + (old + by_.toNat) % 2 ^ 22 * 2 ^ lo)
def execMrecr (d a b : BitVec 5) (m : BitVec 2) (s : State) : Host.Outcome State Fault Refusal :=
  let r := if m = 1 then s.rd a else addField (s.rd a) 0 (s.rs b)
  done (s.put 1 (.d d.toNat (if m = 0 then r else addField r 88 (s.rs b))))

/-- The checks of a tile move's record (R266). -/
def State.moveRecord (s : State) (r : NamedRec) : Except Stop Unit := do
  s.recordCheck 64 [r]
  if !tileTag (opRec r.2).tag then failWith (s.fmtFault r.1 (opRec r.2).tag) else .ok ()

def execMld (d a : BitVec 5) (s : State) : Host.Outcome State Fault Refusal :=
  deliver s (do
    let r : NamedRec := (a.toNat, s.rd a)
    s.tilesFree [d.toNat]
    s.moveRecord r
    s.bankCheck [r]
    s.arrayStall false [r] 1 32
    .ok (s.enqueue { op := .mld, dst := d.toNat, ra := r.2, work := 32, from_ := 0, id := 0 } 2 (some d.toNat) false [r]))
/-- MST (R266, R268): its point is numbered at issue. -/
def execMst (d a b : BitVec 5) (s : State) : Host.Outcome State Fault Refusal :=
  deliver s (do
    let r : NamedRec := (b.toNat, s.rd b)
    s.tilesFree [a.toNat]
    s.moveRecord r
    if (s.rm a).tag ≠ (opRec r.2).tag then failWith (s.fmtFault a.toNat (s.rm a).tag) else .ok ()
    s.bankCheck [r]
    s.arrayStall true [r] 1 32
    let n := s.pk.number s.tlM s.pk.opCtr
    let s' := { s with pk := n.2 }.enqueue
      { op := .mst, dst := a.toNat, ra := r.2, src := s.rm a, seq := n.1, work := 32, from_ := 0, id := 0 } 1 none true [r]
    .ok (s'.putWitness d (pointWit s.tlM n.1)))
def execMcvt (d a : BitVec 5) (sat : BitVec 1) (r : BitVec 3) (t : BitVec 2) (s : State) : Host.Outcome State Fault Refusal :=
  deliver s (do
    s.tilesFree [d.toNat, a.toNat]
    if !tileTag (s.rm a).tag then failWith (s.fmtFault a.toNat (s.rm a).tag) else .ok ()
    if !s.queueRoom 32 then .error .stall else .ok ()
    .ok (s.enqueue { op := .mcvt t.toNat r.toNat (sat == 1), dst := d.toNat, src := s.rm a, work := 32, from_ := 0, id := 0 }
      0 (some d.toNat) false []))

/-! ### What the array computes (R259–R267) -/

/-- The codes of row `i` of a record. -/
def rowCodes (m : Memory) (cl : Nat) (r : OpRec) (i : Nat) : List Nat :=
  (byteCodes r.width (m.read (cl * 2 ^ 22 + r.base + i * r.stride) r.rowLen)).take r.klen
/-- The scale bytes of row `i`. -/
def rowScales (m : Memory) (cl : Nat) (r : OpRec) (i : Nat) : List Byte := m.read (cl * 2 ^ 22 + r.sbase + i * r.spr) r.spr

/-- Row values of a float record (R260). -/
def rowVals (m : Memory) (cl : Nat) (r : OpRec) (i : Nat) : List Val :=
  let cs := rowCodes m cl r i
  if r.fmt = 6 then
    let sc := rowScales m cl r i
    cs.zipIdx.map (fun p => blockValue p.1 ((sc[p.2 / r.group]?).getD 0).toNat r.ts)
  else cs.map (fun c => match Fmt.ofCode r.fmt with
    | some f => decodeElem f c
    | none => Val.zero)

/-- The blocks of an E2M1 row: codes and block scale (R159). -/
def rowBlocks (m : Memory) (cl : Nat) (r : OpRec) (i : Nat) : List (List Val × Val) :=
  let cs := (rowCodes m cl r i).map (decodeFloat .e2m1)
  List.zip (chunksOf r.group cs.length cs) ((rowScales m cl r i).map (fun b => decodeFloat .e5m2 b.toNat))

/-- The groups of a Q row: codes, zero point, scale (R262). -/
def rowGroups (m : Memory) (cl : Nat) (r : OpRec) (i : Nat) : List (List Nat × Nat × Val) :=
  let cs := rowCodes m cl r i
  let es := chunksOf 4 (r.spr + 1) (rowScales m cl r i)
  List.zipWith (fun c e =>
    let zp := ((e[2]?).getD 0).toNat
    (c, if r.fmt = 8 then zp % 16 else zp, decodeFloat .f16 (leNat (e.take 2)))) (chunksOf r.group cs.length cs) es

/-- The term of one group of a Q form (R262). -/
def groupTerm (a b : List Nat × Nat × Val) : Val :=
  let i : Int := (List.zipWith (fun (x y : Nat) => ((x : Int) - a.2.1) * ((y : Int) - b.2.1)) a.1 b.1).foldl (· + ·) 0
  Val.qprod i [a.2.2, b.2.2]

/-- One element of an integer form (R261). -/
def intElem (acc : Nat) (signed sat : Bool) (a b : List Int) : Nat × Flags :=
  let f : Fmt := if signed then .i32 else .n32
  let start : Int := if signed then signedOf 32 acc else acc
  let step (s : Int × Flags) (p : Int × Int) : Int × Flags :=
    let t := s.1 + p.1 * p.2
    if sat then
      let r := satCode f t
      (if signed then signedOf 32 r.1 else r.1, s.2 ||| r.2)
    else (t, s.2)
  let r := (List.zip a b).foldl step (start, 0)
  (wrapCode 32 r.1, r.2)

/-- A row of either operand in the form its kind uses. -/
inductive RowData where
  | vals (l : List Val)
  | ints (l : List Int)
  | groups (l : List (List Nat × Nat × Val))
  | blocks (l : List (List Val × Val))
  deriving DecidableEq, Repr

def rowData (m : Memory) (cl kind np : Nat) (r : OpRec) (i : Nat) : RowData :=
  match kind with
  | 3 => .ints ((rowCodes m cl r i).map (fun c => if r.fmt = 9 then signedOf 8 c else c))
  | 4 => .groups (rowGroups m cl r i)
  | 5 => .groups (rowGroups m cl r i)
  | 2 => if np = 5 then .blocks (rowBlocks m cl r i) else .vals (rowVals m cl r i)
  | _ => .vals (rowVals m cl r i)

/-- One element of the result (R260–R262). -/
def mmaElem (op : SumOf) (seed : Word) (np m : Nat) (tx ty : Val) (acc e : Nat) : RowData → RowData → Nat × Flags
  | .vals a, .vals b => dot op seed np acc (List.zipWith Val.mul a b) e
  | .ints a, .ints b => intElem acc (m % 2 == 0) (m / 2 % 2 == 1) a b
  | .groups a, .groups b => dot op seed np acc (List.zipWith groupTerm a b) e
  | .blocks a, .blocks b =>
    dotBlocks op seed acc (List.zipWith (fun x y => (List.zipWith Val.mul x.1 y.1, x.2, y.2)) a b) tx ty e
  | _, _ => (acc, 0)

/-- The whole tile of an MMA, with its flags (R260–R263). -/
def mmaTile (m : Memory) (cl : Nat) (x : MEntry) (old : Tile) : Tile × Flags :=
  match x.op with
  | .mma zero kind mo =>
    let ra := opRec x.ra
    let rb := opRec x.rb
    let as_ := (List.range ra.rows).map (rowData m cl kind x.np ra)
    let bs := (List.range rb.rows).map (rowData m cl kind x.np rb)
    let accs := if zero then List.replicate 4096 0 else old.elems
    let r := accs.zipIdx.map (fun p =>
      match as_[p.2 / 64]?, bs[p.2 % 64]? with
      | some a, some b => mmaElem (.mma (8 * kind + mo)) x.seed x.np mo (tensorScale ra.ts) (tensorScale rb.ts) p.1 p.2 a b
      | _, _ => (p.1, 0))
    (Tile.of (mmaFmts kind mo).2.2 (r.map Prod.fst), orAll (r.map Prod.snd))
  | _ => (old, 0)

/-- The tile an MLD forms (R266). -/
def mldTile (m : Memory) (cl : Nat) (x : MEntry) (old : Tile) : Tile :=
  let r := opRec x.ra
  let rows := (List.range r.rows).map (rowCodes m cl r)
  let keep := if old.tag.toNat = r.fmt then old.elems else List.replicate 4096 0
  Tile.of r.fmt (keep.zipIdx.map (fun p => ((rows[p.2 / 64]?).bind (fun l => l[p.2 % 64]?)).getD p.1))

/-- The tile an MCVT forms, with its flags (R267); one that already has the format is copied (R48). -/
def mcvtTile (x : MEntry) : Tile × Flags :=
  match x.op with
  | .mcvt t rm sat =>
    if x.src.tag.toNat = tileType t then (x.src, 0)
    else match Fmt.ofCode x.src.tag.toNat, Fmt.ofCode (tileType t) with
    | some f, some g =>
      let r := x.src.elems.zipIdx.map (fun p =>
        convertVal g ((Rnd.ofCode rm (srDraw x.seed p.2)).getD .rne) f.isInt sat (decodeElem f p.1))
      (Tile.of (tileType t) (r.map Prod.fst), orAll (r.map Prod.snd))
    | _, _ => (x.src, 0)
  | _ => (x.src, 0)

/-! ### The array (R252–R254) -/

/-- The context of side `n` of the core in focus. -/
def State.side (s : State) (n : Nat) : Ctx := if s.ctx.num % 2 = n then s.ctx else s.sib
def State.updSide (s : State) (n : Nat) (f : Ctx → Ctx) : State :=
  if s.ctx.num % 2 = n then { s with ctx := f s.ctx } else { s with sib := f s.sib }

/-- Queued work of a side not yet past its occupancy. -/
def State.sideWork (s : State) (n : Nat) : Bool :=
  !(s.side n).mq.isEmpty || (s.core.run.toList ++ s.core.aside.toList).any (fun r => r.side == n)
/-- The side the array drains (R254, R481): the earlier trap or yield cycle first, A on a tie. -/
def State.drainSide (s : State) : Option Nat :=
  let f (n : Nat) : Option Nat := if s.sideWork n then (s.side n).drainAt.filter (fun t => decide (t ≤ s.core.cyc)) else none
  match f 0, f 1 with
  | some x, some y => some (if x ≤ y then 0 else 1)
  | some _, none => some 0
  | none, some _ => some 1
  | none, none => none

/-- A drain that has waited for a fence as long as the bound of R254 allows: what is left takes the rest of the 4,096 cycles, 16 of
them the tail (log 18). -/
def State.mustBegin (s : State) (n : Nat) : Bool :=
  s.drainSide == some n &&
    (s.side n).drainAt.any (fun f => decide (f + 4080 ≤ s.core.cyc + (((s.side n).mq.map MEntry.work).foldl (· + ·) 0)))
/-- May the first entry of a side begin in the present cycle (R252, R417)? -/
def State.headReady (s : State) (n : Nat) : Bool :=
  match (s.side n).mq with
  | e :: _ => e.from_ ≤ s.core.cyc && (s.mustBegin n || e.after.all (fun i => !s.idPending i))
  | [] => false

/-- What takes the array next: what was set aside, or the first entry of a side; or nothing, while a fence holds the first entry
of a drain, for which the other side's operation is set aside all the same (R252, R254, R417). -/
inductive Pick where
  | resume
  | head (n : Nat)
  | clear
  deriving DecidableEq, Repr
def State.pick (s : State) : Option Pick :=
  let asideOf (n : Nat) : Bool := s.core.aside.any (fun r => r.side == n)
  match s.drainSide with
  | some d =>
    if s.core.run.any (fun r => r.side == d) then none
    else if asideOf d then some .resume
    else if s.headReady d then some (.head d) else if s.core.run.isSome then some .clear else none
  | none =>
    if s.core.run.isSome then none
    else if s.core.aside.isSome then some .resume
    else match s.headReady 0, s.headReady 1 with
      | true, true => some (.head (if s.core.served = some 0 then 1 else 0))
      | true, false => some (.head 0)
      | false, true => some (.head 1)
      | false, false => none

/-- An occupancy begins or resumes; another side's operation in progress is set aside (R252, R254). -/
def State.startMatrix (s : State) : State :=
  match s.pick with
  | none => s
  | some .resume => s.updCore (fun c => { c with run := c.aside, aside := c.run })
  | some .clear => s.updCore (fun c => { c with run := none, aside := c.run.or c.aside })
  | some (.head n) =>
    match (s.side n).mq with
    | e :: es =>
      (s.updSide n (fun c => { c with mq := es })).updCore (fun c => { c with
        aside := c.run.or c.aside, run := some ⟨n, e, e.work⟩, served := some n })
    | [] => s
def execMatrixOccupancyStart (s : State) : Host.Outcome State Fault Refusal := done s.startMatrix

/-- A drain that begins in the present cycle takes the array in it (R254: at once). -/
def State.startDrain (s : State) : State :=
  if s.drainSide.any (fun d => (s.side d).drainAt == some s.core.cyc) then s.startMatrix else s

/-- One cycle of occupancy passes (R253, R171): MMAs take the accepted cycles of the throttle step, except in a drain. -/
def State.tickMatrix (s : State) : State :=
  let ok (e : MEntry) : Bool := match e.op with
    | .mma .. => s.drainSide.isSome || s.core.cyc % 8 < 8 - s.core.step
    | _ => true
  s.updCore (fun c => { c with run := c.run.map (fun r => if ok r.entry then { r with left := r.left - 1 } else r) })

/-- The scratchpads as an entry of context `n` reads them: that context's own earlier writes come first (R308). -/
def State.arrayMem (s : State) (n : Nat) (e : MEntry) : Memory :=
  (s.pk.localWrites n e.id).foldl (fun m w => m.write w.1.addr w.2) s.pk.mem.spad
/-- The first unreadable byte that an entry of context `n` reads (R269); an MST reads none. -/
def State.matrixError (s : State) (n : Nat) (e : MEntry) : Option (Nat × Nat) :=
  let rs := match e.op with
    | .mma .. => (opRec e.ra).reads ++ (opRec e.rb).reads
    | .mld => (opRec e.ra).reads
    | _ => []
  s.pk.localError n e.id (rs.map (fun r => s.spadPiece r.1 r.2))

def State.clearBoard (s : State) (id : Nat) (write : Bool) : State :=
  s.updPk (fun k => { k with board := k.board.filter (fun b => !(b.id == id && b.write == write)) })

/-- The occupancy has ended (R252, R257): operands are read, read entries clear, the result waits for its completion cycle. -/
def State.endMatrix (s : State) : State :=
  match s.core.run with
  | none => s
  | some r =>
    let e := r.entry
    let old := ((s.side r.side).m[e.dst]?).getD {}
    let n := (s.side r.side).num
    let err := s.matrixError n e
    let mem := s.arrayMem n e
    let res := match e.op with
      | .mma .. => mmaTile mem s.cluster e old
      | .mld => (mldTile mem s.cluster e old, 0)
      | .mcvt .. => mcvtTile e
      | .mst => (e.src, 0)
    let tail := match e.op with
      | .mma .. => 16
      | .mcvt .. => 16
      | _ => 0
    (s.clearBoard e.id false).updCore (fun c => { c with run := none, done := c.done ++
      [⟨r.side, e, c.cyc + tail, if err.isSome then old else res.1, if err.isSome then 0 else res.2, err⟩] })
def execMatrixOccupancyEnd (s : State) : Host.Outcome State Fault Refusal := done s.endMatrix

/-- The place of row `i` of an MST. -/
def State.storeRow (s : State) (e : MEntry) (i : Nat) : Piece :=
  let r := opRec e.ra
  s.spadPiece (r.base + i * r.stride) (4 * r.klen)
/-- The rows an MST stores; the row of higher number is written last (R266). -/
def State.storeTile (s : State) (e : MEntry) : State :=
  s.updPk (fun k => (List.range (opRec e.ra).rows).foldl (fun (k : Pack) i =>
    let p := s.storeRow e i
    { (k.clearBad p) with mem := k.mem.write .spad p.addr (leBytes p.len (e.src.pay.toNat / 2 ^ (2048 * i))) }) k)

/-- Work whose completion cycle has come. An MST waits for its context's earlier accesses to the bytes it stores, should a fence
or a witness hold them (R308). -/
def State.completes (s : State) (d : MxDone) : Bool :=
  decide (d.due ≤ s.core.cyc) && !(d.entry.op == .mst && s.pk.ops.any (fun q =>
    q.ctx == (s.side d.side).num && decide (q.id < d.entry.id) && !q.taken &&
      s.pk.anyMeets (q.kind.readsR ++ q.kind.writesR) [⟨(List.range (opRec d.entry.ra).rows).map (s.storeRow d.entry), {}, 0⟩]))

/-- The completion cycle (R246, R252, R268, R269). A context that has ended takes no fault; an MST fails its point. -/
def State.completeMatrix (s : State) : State :=
  match s.core.done.find? s.completes with
  | none => s
  | some d =>
    let e := d.entry
    let s := (s.clearBoard e.id true).updCore (fun c => { c with done := removeFirst' s.completes c.done })
    match e.op with
    | .mst =>
      match d.err with
      | none => (s.storeTile e).updPk (fun k => k.completeOp (1024 + (s.side d.side).num) e.seq)
      | some (kind, addr) =>
        let c := s.side d.side
        s.updPk (fun k => (k.logError kind c.num addr).failOp (1024 + c.num) e.seq (c.csr.ownid.setWidth 16))
    | _ =>
      let s := s.updSide d.side (fun c => { c with busy := c.busy &&& ~~~(1#16 <<< e.dst) })
      match d.err with
      | none => s.updSide d.side (fun c => { c with
          m := c.m.setIfInBounds e.dst d.tile, regs := c.regs.orFlags d.flags, undo := c.undo.map (fun g => g.orFlags d.flags) })
      | some (kind, addr) =>
        let c := s.side d.side
        let f : FaultRec := { code := 0x1E, slot := 4, defer := true, reg := BitVec.ofNat 8 e.dst
                              tval := BitVec.ofNat 64 addr, tval2 := BitVec.ofNat 64 kind, pc := e.pc, blen := e.blen }
        let s := s.updPk (fun k => k.logError kind c.num addr)
        match c.mode with
        | .entering => s.updSide d.side (fun c => { c with
            heldFaults := c.heldFaults ++ [f]
            csr := { c.csr with tstat := setBits c.csr.tstat 11 8 (min 15 (c.heldFaults.length + 1)) } })
        | .run => s.updSide d.side (fun c => { c with faults := c.faults ++ [f] })
        | .saving => s.updSide d.side (fun c => { c with faults := c.faults ++ [f] })
        | _ => s
where
  removeFirst' (f : MxDone → Bool) : List MxDone → List MxDone
    | [] => []
    | x :: xs => if f x then xs else x :: removeFirst' f xs
def execMatrixCompletion (s : State) : Host.Outcome State Fault Refusal := done s.completeMatrix

/-- The array's next step in the present cycle: completions, then the end of an occupancy, then a beginning. -/
def State.matrixStep (s : State) : Option Instr :=
  if s.core.done.any s.completes then some .matrixCompletion
  else if s.core.run.any (fun r => r.left == 0) then some .matrixOccupancyEnd
  else if s.pick.isSome then some .matrixOccupancyStart
  else none

/-- A context's matrix work is all complete (R254, R481). -/
def State.drained (s : State) (n : Nat) : Bool := !s.sideWork n && !s.core.done.any (fun d => d.side == n)

end Sys2Proof.Machine
end

