-- ==== Sys2Proof/Machine/Stream.lean ====
section
/-! DEFINITION. The stream queues of the L slot (R314–R318). -/
namespace Sys2Proof.Machine
open Sys2Proof

/-! ### Pattern records (R314, R315) -/

/-- Word `j` of a record. -/
def patWord (p : List Word) (j : Nat) : Word := (p[j]?).getD 0
def patTag (p : List Word) : BitVec 32 := BitVec.ofNat 32 (bits (patWord p 0) 63 32)
def patVec (p : List Word) : Bool := bits (patWord p 1) 53 53 == 1
def patInd (p : List Word) : Bool := bits (patWord p 1) 52 52 == 1
/-- Bytes of an element. -/
def patLen (p : List Word) : Nat := if patVec p then plainLen (patTag p) else 2 ^ bits (patWord p 1) 55 54
/-- Count and stride of the four dimensions, innermost first. -/
def patDims (p : List Word) : List (Nat × Int) :=
  [2, 3, 4, 5].map (fun j => (bits (patWord p j) 47 24 + 1, signedOf 24 (bits (patWord p j) 23 0)))
def patTotal (p : List Word) : Nat := ((patDims p).map Prod.fst).foldl (· * ·) 1
/-- The affine address of element `i` in generation order, from 0. -/
def patAddr (p : List Word) (i : Nat) : Int :=
  ((patDims p).foldl (fun (t : Int × Nat) d => (t.1 + (t.2 % d.1 : Nat) * d.2, t.2 / d.1)) ((bits (patWord p 0) 21 0 : Int), i)).1
/-- Reserved fields, TAG and ESZ as R316 asks. -/
def patOk (p : List Word) : Bool :=
  bits (patWord p 0) 31 26 == 0 && bits (patWord p 1) 63 56 == 0 && bits (patWord p 1) 51 22 == 0 &&
  [2, 3, 4, 5].all (fun j => bits (patWord p j) 63 48 == 0) && patWord p 6 == 0 && patWord p 7 == 0 &&
  (if patVec p then tagOk (patTag p) && bits (patWord p 1) 55 54 == 0 else patTag p == 0)

/-- The first answer of `f` among `n` addresses from `a` in steps of `str`. -/
def firstFrom {α : Type} (f : Int → Option α) (str : Int) : Nat → Int → Option α
  | 0, _ => none
  | n + 1, a => match f a with
    | some x => some x
    | none => firstFrom f str n (a + str)
/-- The first answer in generation order; the dimensions stand outermost first. -/
def firstElem {α : Type} (f : Int → Option α) : List (Nat × Int) → Int → Option α
  | [], a => f a
  | (n, str) :: ds, a => firstFrom (firstElem f ds) str (if str = 0 then 1 else n) a

/-- The affine ranges of a record under R298: EDGE before GROUP, and for the cause the earliest element. -/
def State.patRanges (s : State) (p : List Word) : Except Stop Unit :=
  let n := if patInd p then 4 else patLen p
  let at_ (cause : Nat) : Option Word :=
    firstElem (fun a => match s.localBad a n 1 with
      | some (c, x) => if c = cause then some x else none
      | none => none) (patDims p).reverse (bits (patWord p 0) 21 0)
  match at_ 2 with
  | some x => failWith (s.faultRec 0x13 2 0 x)
  | none => match at_ 1 with
    | some x => failWith (s.faultRec 0x13 1 0 x)
    | none => .ok ()

/-! ### Instructions (R316, R317) -/

def State.queue (s : State) (q : BitVec 5) : StreamQ := (s.ctx.q[q.toNat]?).getD {}
def Ctx.updQ (c : Ctx) (q : Nat) (f : StreamQ → StreamQ) : Ctx := { c with q := c.q.setIfInBounds q (f ((c.q[q]?).getD {})) }
def State.updQ (s : State) (q : BitVec 5) (f : StreamQ → StreamQ) : State := s.updCtx (fun c => c.updQ q.toNat f)
def State.streamFault {α : Type} (s : State) (cause : Nat) (q : BitVec 5) (addr : Word := 0) : Except Stop α :=
  failWith (s.faultRec 0x14 cause q.toNat addr)

/-- SPAT (R316): the stall while the record is read, then the checks in their order. A record whose range fails R298 stalls like
any other. -/
def execSpat (d a : BitVec 5) (s : State) : Host.Outcome State Fault Refusal :=
  deliver s.awaitRecord (do
    if !s.recordRead ∨ s.recordFenced then .error .stall
    if (s.queue d).run then s.streamFault 2 d
    let ea ← s.localCheck (s.eaL a) 64
    s.waitLocal false [(ea, 64)]
    let pc := s.spadPiece ea 64
    s.waitOwn pc
    match s.pk.readError pc with
    | some e => .error (.met (s.faultRec 0x1E 0 d.toNat (BitVec.ofNat 64 e.2) (BitVec.ofNat 64 e.1)))
    | none =>
      let p := (List.range 8).map (fun i => BitVec.ofNat 64 (leNat ((s.pk.mem.read pc).drop (8 * i) |>.take 8)))
      if patOk p then
        s.patRanges p
        .ok (s.updQ d (fun q => { q with pat := some p }))
      else s.streamFault 1 d)

/-- The L-slot stores the context still has under way (R316). -/
def State.localStores (s : State) : List Nat :=
  (s.pk.ops.filter (fun o => o.ctx == s.ctx.num && (match o.kind with
    | .store dst .. => dst.pieces.any (fun p => p.space = .spad)
    | .atomic _ loc .. => loc && !o.taken
    | _ => false))).map Op.id

/-- The generator of queue `q` of the context in focus acts no more at the times it had. -/
def Pack.stillStream (k : Pack) (ctx q : Nat) : Pack :=
  { k with agenda := k.agenda.filter (fun d => !(d.ev == .streamElement && d.arg.n == ctx && d.arg.m == q)) }

/-- SGO (R316): the first element after 8 cc (R299). -/
def execSgo (d : BitVec 5) (s : State) : Host.Outcome State Fault Refusal :=
  deliver s (do
    if (s.queue d).run ∨ (s.queue d).pat.isNone then s.streamFault 2 d
    let w := s.localStores
    .ok ((s.updQ d (fun q => { q with run := true, done := false, popped := 0, elems := [], made := 0, ahead := none, waits := w
      })).updPk (fun k => (k.stillStream s.ctx.num d.toNat).scheduleCc 8 .streamElement { n := s.ctx.num, m := d.toNat, k := s.core.age + 8 })))

/-- SSTOP (R316). -/
def execSstop (d : BitVec 5) (s : State) : Host.Outcome State Fault Refusal :=
  done ((s.updQ d (fun q => { q with run := false, elems := [], ahead := none })).updPk
    (fun k => k.stillStream s.ctx.num d.toNat))

/-- A popped element under the present record's tag, with the side bytes that the tag does not use as zero (R38, log 32). -/
def QVal.vec_ (tag : BitVec 32) : QVal → VReg
  | .vec x => { x with tag := tag, side := if tagScaled tag then sideClean tag x.side else 0 }
  | .scal x => { pay := x.zeroExtend 2048, tag := tag }
def QVal.scal_ : QVal → Word
  | .scal x => x
  | .vec x => x.pay.setWidth 64

/-- A pop (R316–R318): kind, an empty queue, then the element's own fault; the generator that waited for room goes on in the
next cycle. -/
def State.popStream (s : State) (isVec : Bool) (q : BitVec 5) (k : Nat) (dst : List Word → QVal → Wr) : Res :=
  let u := s.queue q
  match u.pat with
  | none => s.streamFault 4 q
  | some p =>
    if patVec p ≠ isVec then s.streamFault 3 q
    else match u.elems with
      | [] => if u.run then .error .stall else s.streamFault 4 q
      | e :: es =>
        match e.poison, e.err with
        | some x, _ => s.streamFault 5 q x
        | none, some x => failWith (s.faultRec 0x1E 0 q.toNat (BitVec.ofNat 64 x.2) (BitVec.ofNat 64 x.1))
        | none, none => do
          let s' ← s.landNow (dst p e.val) k
          let s' := s'.updQ q (fun u => { u with elems := es, popped := (u.popped + 1) % 2 ^ 48 })
          .ok (if u.ahead.isSome then
              s'.updPk (fun k => k.scheduleCc 1 .streamElement { n := s.ctx.num, m := q.toNat, k := s.core.age + 1 }) else s')

def execQpop (d a l : BitVec 5) (s : State) : Host.Outcome State Fault Refusal :=
  deliver s (s.popStream true a (l.toNat + 1) (fun p x => .v d.toNat (x.vec_ (patTag p))))
def execQpops (d a l : BitVec 5) (s : State) : Host.Outcome State Fault Refusal :=
  deliver s (s.popStream false a (l.toNat + 1) (fun _ x => .s d.toNat x.scal_))

/-- The status word (R316). -/
def StreamQ.status (u : StreamQ) : Word :=
  BitVec.ofNat 64 (u.run.toNat * 2 ^ 63 + u.pat.isSome.toNat * 2 ^ 62 + u.done.toNat * 2 ^ 61 + u.elems.length * 2 ^ 51 + u.popped)
/-- QSTAT. While all 32 landing-buffer entries are taken it waits for one as a load does: "never stalls" is read of the queue
(R142, R316; log 55). -/
def execQstat (d a l : BitVec 5) (s : State) : Host.Outcome State Fault Refusal :=
  deliver s (s.landNow (.s d.toNat (s.queue a).status) (l.toNat + 1))

/-! ### The generator (R315, R316) -/

/-- Element `i`: its indirect level, its bytes as the scratchpad stands now. None when its ranges wait on the scoreboard. -/
def State.makeElem (s : State) (c : Ctx) (p : List Word) (i : Nat) : Option QElem :=
  let cl := c.num / 16
  let piece (a n : Nat) : Piece := ⟨.spad, cl * 2 ^ 22 + a, n⟩
  let a := (patAddr p i).toNat
  let n := patLen p
  let body (e : Nat) : Option QElem :=
    if s.boardBlocks cl false e n then none
    else
      let bs := s.pk.mem.read (piece e n)
      some { val := if patVec p then .vec (vregOf (patTag p) bs) else .scal (BitVec.ofNat 64 (leNat bs))
             err := s.pk.readError (piece e n) }
  if !patInd p then body a
  else if s.boardBlocks cl false a 4 then none
  else
    let e := bits (patWord p 1) 21 0 + leNat (s.pk.mem.read (piece a 4)) * 2 ^ bits (patWord p 0) 25 22
    match s.pk.readError (piece a 4) with
    | some x => some { val := .scal 0, err := some x }
    | none =>
      if 2 ^ 22 < e + n ∨ (firstOutside (bits c.csr.place 63 48) e (e + n)).isSome then
        some { val := .scal 0, poison := some (BitVec.ofNat 64 e) }
      else body e

/-- The generator's next cycle (R316). `arg`: context, queue, the age of its core that it waits for (R299). At 16 elements it
keeps the next one ready and waits for a pop. -/
def execStreamElement (s : State) : Host.Outcome State Fault Refusal :=
  let cn := s.pk.arg.n
  let qn := s.pk.arg.m
  let age := s.ageOf cn
  let again (s : State) : State := s.updPk (fun k => k.scheduleCc 1 .streamElement { n := cn, m := qn, k := age + 1 })
  match s.getCtx cn with
  | none => done s
  | some c =>
    let u := (c.q[qn]?).getD {}
    match u.pat with
    | none => done s
    | some p =>
      let last (u : StreamQ) : StreamQ :=
        if u.made = patTotal p ∧ u.ahead.isNone then { u with run := false, done := true } else u
      let go (f : StreamQ → StreamQ) (s : State) : State := s.onCtx cn (fun c => c.updQ qn (fun u => last (f u)))
      if !u.run then done s
      else if age < s.pk.arg.k then done (s.updPk (fun k => k.scheduleCc 1 .streamElement k.arg))
      else match u.ahead with
        | some e =>
          if u.elems.length ≥ 16 then done s
          else
            let s := go (fun u => { u with elems := u.elems ++ [e], ahead := none }) s
            done (if u.made < patTotal p then again s else s)
        | none =>
          if u.waits.any (fun i => s.pk.ops.any (fun o => o.id == i && !o.taken)) then done (again s)
          else match s.makeElem c p u.made with
            | none => done (again s)
            | some e =>
              let s := match e.err with
                | some x => s.updPk (fun k => k.logError x.1 cn x.2)
                | none => s
              if u.elems.length ≥ 16 then done (go (fun u => { u with ahead := some e, made := u.made + 1 }) s)
              else
                let s := go (fun u => { u with elems := u.elems ++ [e], made := u.made + 1 }) s
                done (if u.made + 1 < patTotal p then again s else s)

end Sys2Proof.Machine
end

