-- ==== Sys2Proof/Machine/Save.lean ====
section
/-! DEFINITION. Saves and restores of contexts (R97, R99, R100, R102, R109, R135, R491–R495) and the release of frozen ones
(R486). -/
namespace Sys2Proof.Machine
open Sys2Proof

/-! ### Liveness (R109, R135, R491) -/

/-- A write's destination cut to what a record names. -/
def Wr.cut (w : List Word) : Wr → Option Wr
  | .s r x => if (wordAt w 0).getLsbD r then some (.s r x) else none
  | .a r x => if (wordAt w 0).getLsbD (32 + r) then some (.a r x) else none
  | .p r x => if (wordAt w 0).getLsbD (48 + r) then some (.p r x) else none
  | .preds m x => some (.preds (m &&& BitVec.ofNat 16 (bits (wordAt w 0) 63 48)) x)
  | .v r x => if (wordAt w 1).getLsbD r then some (.v r x) else none
  | .d r x => if (wordAt w 1).getLsbD (48 + r) then some (.d r x) else none
  | .mpush c => if (wordAt w 1).getLsbD 60 then some (.mpush c) else none
  | .minv => if (wordAt w 1).getLsbD 60 then some .minv else none
  | .mpop => if (wordAt w 1).getLsbD 60 then some .mpop else none
  | .stride r b => if (wordAt w 0).getLsbD (32 + r) then some (.stride r b) else none
  | .none => some .none
def cutPend (w : List Word) (l : List Pend) : List Pend := l.filterMap (fun p => (p.wr.cut w).map (fun x => { p with wr := x }))

/-- Free values of what a record does not name (log 10): `f i n` is the i-th string of n bytes. -/
def freeElem (f : Nat → Nat → Nat) (i : Nat) : QElem where
  val := if f i 1 % 2 = 0 then .scal (BitVec.ofNat 64 (f (i + 1) 8)) else
    .vec ⟨BitVec.ofNat 2048 (f (i + 1) 256), BitVec.ofNat 512 (f (i + 2) 64), BitVec.ofNat 32 (f (i + 3) 4)⟩
  poison := if f (i + 4) 1 % 2 = 0 then none else some (BitVec.ofNat 64 (f (i + 5) 8))
def freeQueue (f : Nat → Nat → Nat) (i : Nat) : StreamQ where
  pat := if f i 1 % 2 = 0 then none else some ((List.range 8).map (fun j => BitVec.ofNat 64 (f (i + 1 + j) 8)))
  run := f (i + 9) 1 % 2 == 1
  done := f (i + 9) 1 % 4 / 2 == 1
  popped := f (i + 10) 6 % 2 ^ 48
  elems := (List.range (f (i + 11) 1 % 17)).map (fun j => freeElem f (i + 20 + 6 * j))
  made := f (i + 12) 6
  ahead := if f (i + 13) 1 % 2 = 0 then none else some (freeElem f (i + 14))

/-- A context as a save at a PPT keeps it (R109, R491). -/
def Ctx.keepLive (c : Ctx) (w : List Word) (f : Nat → Nat → Nat) : Ctx :=
  let g := c.regs
  let l0 := wordAt w 0
  let l1 := wordAt w 1
  { c with
    regs := { g with
      s := Vector.ofFn (fun (i : Fin 32) => if i.val = 0 ∨ l0.getLsbD i.val then g.s[i] else BitVec.ofNat 64 (f i.val 8))
      a := Vector.ofFn (fun (i : Fin 16) => if l0.getLsbD (32 + i.val) then g.a[i] else BitVec.ofNat 72 (f (32 + i.val) 9))
      p := Vector.ofFn (fun (i : Fin 16) => if i.val = 0 ∨ l0.getLsbD (48 + i.val) then g.p[i] else f (48 + i.val) 1 % 2 == 1)
      v := Vector.ofFn (fun (i : Fin 32) => if l1.getLsbD i.val then g.v[i] else
        ⟨BitVec.ofNat 2048 (f (64 + i.val) 256), BitVec.ofNat 512 (f (96 + i.val) 64), BitVec.ofNat 32 (f (128 + i.val) 4)⟩)
      d := Vector.ofFn (fun (i : Fin 8) => if l1.getLsbD (48 + i.val) then g.d[i] else BitVec.ofNat 128 (f (160 + i.val) 16))
      k := if l1.getLsbD 60 then g.k else (List.range (f 168 1 % 9)).map (fun i => BitVec.ofNat 512 (f (170 + i) 64)) }
    m := Vector.ofFn (fun (i : Fin 16) => if l1.getLsbD (32 + i.val) then c.m[i] else
      ⟨BitVec.ofNat 131072 (f (180 + i.val) 16384), BitVec.ofNat 32 (f (200 + i.val) 4)⟩)
    q := Vector.ofFn (fun (i : Fin 4) => if l1.getLsbD (56 + i.val) then c.q[i] else freeQueue f (220 + 120 * i.val))
    pend := cutPend w c.pend
    held := cutPend w c.held }

/-! ### Images (R492–R494) -/

/-- Every context CSR as R493 stores it: unassigned numbers zero. -/
def Ctx.csrImage (c : Ctx) : List (Nat × Word) :=
  let r := c.csr
  [(0x00, c.regs.fstat.zeroExtend 64), (0x01, r.srseed), (0x02, r.npdef), (0x03, r.btab), (0x04, r.ownid), (0x05, r.place),
   (0x06, r.lease), (0x07, r.issctl), (0x08, r.frbase), (0x09, r.frlen), (0x0A, r.frpos), (0x0B, r.enrg), (0x0C, r.rsspill),
   (0x0D, BitVec.ofNat 64 (r.spilled.toNat * 2 ^ 32 + c.ras.length)), (0x0E, r.brdrop), (0x10, r.tovf), (0x40, r.tvec),
   (0x41, r.tpc), (0x42, r.tcause), (0x43, r.tval), (0x44, r.tval2), (0x45, r.tfpc), (0x46, r.tstat), (0x48, r.tscr0),
   (0x49, r.tscr1), (0x4A, r.tscr2), (0x4B, r.tscr3)]
/-- The CSR words of an image taken back; system software may have changed them (R493). -/
def Ctx.loadCsrs (c : Ctx) (f : Nat → Word) : Ctx :=
  { c with
    regs := { c.regs with fstat := (f 0).setWidth 6 }
    csr := { srseed := f 1, npdef := f 2 &&& 0xF, btab := f 3, ownid := f 4 &&& 0xFFFF, place := f 5, lease := f 6 &&& 0xFFFF
             issctl := f 7 &&& 1, frbase := f 8, frlen := clampLen (f 9 &&& 0xFFF), frpos := f 0xA, enrg := f 0xB
             rsspill := f 0xC &&& 0xFFFF_FFFF_FFFF_FFF8, spilled := ((f 0xD) >>> 32).setWidth 16, brdrop := f 0xE &&& 0xFFFF_FFFF
             tovf := f 0x10 &&& 0xFFFF_FFFF_FFFF_FF01, tvec := f 0x40 &&& 0x8000_0000_FFFF_FFFF, tpc := f 0x41 &&& 0xFFFF_FFFF_FFFF
             tcause := f 0x42 &&& 0xFFFF_FF00_FFFF_0000, tval := f 0x43, tval2 := f 0x44, tfpc := f 0x45 &&& 0xFFFF_FFFF_FFFF, tstat := f 0x46 &&& 0xFF07
             tscr0 := f 0x48, tscr1 := f 0x49, tscr2 := f 0x4A, tscr3 := f 0x4B } }

def VReg.stored (v : VReg) : Bool := v.pay != 0 || v.side != 0 || v.tag != 0
def Tile.stored (t : Tile) : Bool := t.pay != 0 || t.tag != 0
def words8 (l : List Word) : List Byte := l.flatMap (fun w => leBytes 8 w.toNat)

/-- Bytes of the opaque section of an image (log 10). -/
def opaqueLen : Nat := 8192

/-- A context image (R493); `rec` is the liveness record of a save at a PPT, after which what it does not name is free,
`opaque_` the part's own section. -/
def ctxImage (c : Ctx) (rec_ : Option (List Word)) (opaque_ : List Byte) : List Byte :=
  if c.mode = .exited then padTo 64 (leBytes 8 (0xC7A5 * 2 ^ 48 + 1 * 2 ^ 40 + 1))
  else
    let g := c.regs
    let named (i : Nat) : Bool := match rec_ with
      | some w => (wordAt w 1).getLsbD i
      | none => true
    let vs := (List.range 32).filter (fun i => named i && (g.rv i).stored)
    let ms := (List.range 16).filter (fun i => named (32 + i) && ((c.m[i]?).getD {}).stored)
    let csrs := c.csrImage
    let frozen := match c.mode with
      | .frozen _ => 1
      | _ => 0
    let body :=
      leBytes 8 c.pc.toNat ++
      words8 ((List.range 31).map (fun i => g.rs (i + 1))) ++
      leBytes 8 (((List.range 16).map (fun i => (g.rp i).toNat * 2 ^ i)).foldl (· + ·) 0) ++
      (List.range 16).flatMap (fun i => leBytes 16 (g.ra i).toNat) ++
      (List.range 8).flatMap (fun i => leBytes 16 (g.rd i).toNat) ++
      padTo 128 (c.ras.reverse.flatMap (fun r => leBytes 8 r.toNat)) ++
      padTo 24 (words8 (c.points.map (fun p => pointWit p.1 p.2))) ++
      leBytes 8 ((vs.map (fun i => 2 ^ i)).foldl (· + ·) 0 + (ms.map (fun i => 2 ^ (32 + i))).foldl (· + ·) 0) ++
      leBytes 16 g.k.length ++
      padTo 64 (match rec_ with
        | some w => words8 w
        | none => []) ++
      c.skew.toList.flatMap (fun p => padTo 32 (words8 p)) ++
      words8 ((List.range 0x4C).map (fun n => ((csrs.find? (fun e => e.1 == n)).map Prod.snd).getD 0)) ++
      padTo 512 (g.k.reverse.flatMap (fun e => leBytes 64 e.toNat)) ++
      List.replicate 32 0 ++
      vs.flatMap (fun i => padTo 384 (imageBytes (g.rv i))) ++
      ms.flatMap (fun i => leBytes 16384 ((c.m[i]?).getD {}).pay.toNat ++ leBytes 64 ((c.m[i]?).getD {}).tag.toNat) ++
      opaque_
    let len := (body.length + 8 + 63) / 64
    let kind := if rec_.isSome then 1 else 2
    padTo (64 * len) (leBytes 8 (0xC7A5 * 2 ^ 48 + 1 * 2 ^ 40 + kind * 2 ^ 38 + frozen * 2 ^ 37 + c.csr.inHandler.toNat * 2 ^ 36 + len) ++ body)

/-- The scratchpad section (R494) of cluster `p`. -/
def Pack.spadSection (k : Pack) (p : Nat) (rs : List (Nat × Nat)) : List Byte :=
  leBytes 8 rs.length ++ words8 (rs.map (fun r => BitVec.ofNat 64 (r.2 * 2 ^ 22 + r.1))) ++
    rs.flatMap (fun r => padTo ((r.2 + 63) / 64 * 64) (k.mem.read ⟨.spad, p * 2 ^ 22 + r.1, r.2⟩))

/-- The contexts of launch `id` on a seat, by role index. -/
def State.seatRoles (s : State) (id : Nat) (t : Seat) : List (Nat × Ctx) :=
  (List.range 8).flatMap (fun i => t.roles.filterMap (fun k =>
    ((s.getCtx (t.ctxNum i k)).filter (fun c => c.launch == id)).map (fun c => (2 * i + k, c))))

/-- Ranges of the scratchpad section: all of BGM after a full save by any context, else the live ranges (R494). -/
def saveRanges (bgm : Nat) (cs : List Ctx) : List (Nat × Nat) :=
  let kept := cs.filter (fun c => c.mode != .exited)
  if kept.any (fun c => c.live.isNone) then
    ((List.range 16).filter (fun g => bgm.testBit g)).map (fun g => (g * 2 ^ 18, 2 ^ 18))
  else ((kept.flatMap (fun c => (c.live.map liveRanges).getD []))).dedup

/-- A frozen context holds at its save the points of its slot too (R396); every other context has them from its yield. -/
def State.heldPoints (s : State) (c : Ctx) : Ctx :=
  if c.mode != .exited && c.points.isEmpty then
    { c with points := [2 * c.num, 2 * c.num + 1, 1024 + c.num].map (fun t => (t, (s.pk.tl t).iss)) }
  else c

/-- The bytes of a slot (R492), with each image's context as it will be restored; `ctr` numbers the free values. -/
def State.slotImage (s : State) (l : Launch) (t : Seat) (ctr : Nat) : List Byte × List (Nat × Ctx) :=
  let k := s.pk
  let cs := s.seatRoles l.id t
  let made := cs.map (fun x =>
    let rec_ := x.2.live
    let y := s.heldPoints x.2
    let f (i n : Nat) : Nat := Config.freeBits (ctr + 1000 * x.1 + i) n
    let c := match rec_ with
      | some w => y.keepLive w f
      | none => y
    (x.1, c, ctxImage c rec_ (leBytes opaqueLen (f 999 opaqueLen))))
  let place := made.foldl (fun (a : Nat × List (Nat × Nat × Nat)) x =>
    (a.1 + x.2.2.length / 64, a.2 ++ [(x.1, a.1, x.2.2.length / 64)])) (4, [])
  let roles := (List.range 16).map (fun i => match place.2.find? (fun e => e.1 == i) with
    | some (_, o, n) => BitVec.ofNat 64 (o * 2 ^ 32 + n)
    | none => 0#64)
  (leBytes 8 (0x5A7E * 2 ^ 48 + l.stream * 2 ^ 32 + t.lcl * 2 ^ 16 + koBgm l.kobj) ++ leBytes 8 l.j ++ List.replicate 112 0 ++
    words8 roles ++ made.flatMap (fun x => x.2.2) ++ k.spadSection t.pcl (saveRanges (koBgm l.kobj) (cs.map Prod.snd)),
   made.map (fun x => (x.1, x.2.1)))

/-! ### Saving (R99) -/

/-- The units of a cluster's saved ranges that carry an error: it stays with the bytes the save keeps (R496). -/
def State.saveMarks (s : State) (l : Launch) (t : Seat) : List (Nat × Nat) :=
  let rs := saveRanges (koBgm l.kobj) ((s.seatRoles l.id t).map Prod.snd)
  let lo := t.pcl * 2 ^ 22
  s.pk.bad.filterMap (fun b =>
    if b.1 == .spad && rs.any (fun r => decide (lo + r.1 < b.2 + 8 ∧ b.2 < lo + r.1 + r.2)) then some (t.lcl, b.2 - lo) else none)
/-- They carry it in the cluster `p` that a restore writes them to, where no command has written them since. -/
def Pack.remark (k : Pack) (l : Launch) (lcl slot p : Nat) : Pack :=
  let add := (l.marks.filter (fun m => m.1 == lcl && k.bad.contains (Space.spad, slotCluster slot * 2 ^ 22 + m.2))).map
    (fun m => (Space.spad, p * 2 ^ 22 + m.2))
  { k with bad := k.bad ++ add.filter (fun b => !k.bad.contains b) }

/-- A piece of cluster `a`'s scratchpad as one of cluster `b`'s. -/
def Piece.rehome (a b : Nat) (p : Piece) : Piece :=
  if p.space = .spad ∧ p.addr / 2 ^ 22 = a then { p with addr := b * 2 ^ 22 + p.addr % 2 ^ 22 } else p
def Range.rehome (a b : Nat) (r : Range) : Range := { r with pieces := r.pieces.map (Piece.rehome a b) }
def OpKind.rehome (a b : Nat) : OpKind → OpKind
  | .load dst shape src l1 => .load dst shape (src.rehome a b) l1
  | .store dst bs count => .store (dst.rehome a b) bs count
  | .atomic at_ loc fn v cmp ret => .atomic (at_.rehome a b) loc fn v cmp ret
  | .copy src dst q => .copy (src.rehome a b) (dst.rehome a b) q
  | .skew src via dst dstr esz rows cols q => .skew src via (dst.rehome a b) dstr esz rows cols q
  | .wlds src dst => .wlds src (dst.rehome a b)
  | k => k
/-- The operations of launch `id` that act on cluster `a`'s scratchpad act on cluster `b`'s, with their scoreboard entries. -/
def Pack.rehome (k : Pack) (id a b : Nat) : Pack :=
  let mine (i : Nat) : Bool := k.ops.any (fun o => o.id == i && o.launch == id)
  { k with ops := k.ops.map (fun o => if o.launch = id then { o with kind := o.kind.rehome a b } else o)
           board := k.board.map (fun e => if mine e.id ∧ e.cluster = a then { e with cluster := b } else e) }
/-- The bank groups of cluster `p` as the commands of a saved launch find them in save slot `slot`. -/
def Pack.keepSpad (k : Pack) (bgm p slot : Nat) : Pack :=
  let q := slotCluster slot
  let gs := (List.range 16).filter (fun g => bgm.testBit g)
  let mem := gs.foldl (fun (m : Stores) g => m.write .spad (q * 2 ^ 22 + g * 2 ^ 18) (m.read ⟨.spad, p * 2 ^ 22 + g * 2 ^ 18, 2 ^ 18⟩)) k.mem
  { k with mem := mem
           bad := k.bad ++ k.bad.filterMap (fun b => if b.1 = .spad ∧ b.2 / 2 ^ 22 = p ∧ bgm.testBit (b.2 % 2 ^ 22 / 2 ^ 18) then
             some (.spad, q * 2 ^ 22 + b.2 % 2 ^ 22) else none) }
/-- The save slot is given back. -/
def Pack.dropSpad (k : Pack) (slot : Nat) : Pack :=
  let lo := slotCluster slot * 2 ^ 22
  { k with mem := { k.mem with spad := k.mem.spad.clear lo (lo + 2 ^ 22) }
           bad := k.bad.filter (fun b => !(b.1 == .spad && decide (lo ≤ b.2) && decide (b.2 < lo + 2 ^ 22))) }

/-- A context that keeps a save waiting. -/
def Ctx.unsaved (c : Ctx) (id : Nat) : Bool :=
  c.launch == id && (match c.mode with
    | .exited => false
    | .frozen _ => false
    | .saving => false
    | .idle => false
    | _ => true)
/-- Matrix work of the launch's contexts on a cluster still drains. -/
def State.seatDrains (s : State) (id : Nat) (t : Seat) : Bool :=
  (s.boxes.filter (fun b => b.core.num / 8 == t.pcl)).any (fun b =>
    [b.a, b.b].any (fun c => c.launch == id && !b.arrayFree c))

/-- The cluster's save has been written: its sides are free (R99), and with the last cluster the launch waits for resumption
(R102), which is the completed save that begins a round (R86, log 63). -/
def State.finishSave (s : State) (l : Launch) (t : Seat) : State :=
  let ctr := s.pk.freeCtr
  let r := s.slotImage l t ctr
  let slot := ((l.slots.find? (fun x => x.1 == t.lcl)).map Prod.snd).getD 0
  let k := { s.pk with freeCtr := ctr + 20000 }
  let k := k.dpaWrite (k.slotBase slot) r.1
  let k := (k.keepSpad (koBgm l.kobj) t.pcl slot).rehome l.id t.pcl (slotCluster slot)
  let k := t.ctxs.foldl (fun k n => (List.range 4).foldl (fun (k : Pack) q => k.stillStream n q) k) k
  let k := (k.endSides l.id t (fun _ => true)).updLaunch l.id (fun l =>
    let seats := l.seats.filter (fun x => x.lcl != t.lcl)
    { l with seats := seats, imgs := l.imgs ++ r.2.map (fun x => (t.lcl, x.1, x.2)), marks := l.marks ++ s.saveMarks l t, age := 0
             phase := if seats.isEmpty then .saved else l.phase })
  let s := { s with pk := k }
  (s.leaveSeat l.id t).updPk (fun k => if (k.launch l.id).any (fun x => x.phase == .saved) then k.roundNow else k)

/-- A context on its way to being saved. `arg`: context, and 1 when its cluster's bytes have been moved. When every context of the
cluster has yielded or ended and the tile operations have drained, the save moves 256 B per cc (R99). -/
def execContextSaveDone (s : State) : Host.Outcome State Fault Refusal :=
  let n := s.pk.arg.n
  done (match s.pk.sched.launches.find? (fun l => l.phase == .saving && l.seats.any (fun t => t.ctxs.contains n)) with
    | none => s
    | some l =>
      match l.seats.find? (fun t => t.ctxs.contains n) with
      | none => s
      | some t =>
        let moving := s.pk.agenda.any (fun d => d.ev == .contextSaveDone && d.arg.m == 1 && t.ctxs.contains d.arg.n)
        if s.pk.arg.m = 1 then s.finishSave l t
        else if moving ∨ t.ctxs.any (fun i => (s.getCtx i).any (fun c => c.unsaved l.id)) then s
        else if s.seatDrains l.id t then s.updPk (fun k => k.scheduleCc 1 .contextSaveDone { n := n })
        else
          let bytes := (s.slotImage l t s.pk.freeCtr).1.length
          s.updPk (fun k => k.scheduleCc ((bytes + 255) / 256) .contextSaveDone { n := n, m := 1 }))

/-! ### Restoring (R102, R495) -/

/-- `n` bytes of a save at DPA `d` written to the scratchpad from `a` up; a sector of it that carries an error leaves it in the words
written (R496, log 70). -/
def Pack.restoreRange (k : Pack) (a d n : Nat) : Pack :=
  let c := dpaCell d
  let bs := k.dpaRead d n
  let bad := (k.dpaBad d n).flatMap (fun x => (List.range 5).filterMap (fun i =>
    let u := (a + x - c) / 8 * 8 + 8 * i
    if a + x < c + u + 8 ∧ u + c < a + x + 32 ∧ a < u + 8 ∧ u < a + n then some (Space.spad, u) else none))
  let k := (k.logSectors (k.dpaBad d n)).clearBad ⟨.spad, a, n⟩
  { k with mem := k.mem.write .spad a bs, bad := k.bad ++ bad.filter (fun b => !k.bad.contains b) }
/-- The scratchpad section of a slot written back to cluster `p`; bytes of BGM that were not saved are undefined (R494). -/
def Pack.restoreSpad (k : Pack) (slot bgm p : Nat) : Pack :=
  let ranges := k.slotRanges slot
  let groups := (List.range 16).filter (fun g => bgm.testBit g && !ranges.any (fun r => r.1 == g * 2 ^ 18 && r.2.1 == 2 ^ 18))
  let k := groups.foldl (fun (k : Pack) g =>
    { k with freeCtr := k.freeCtr + 1
             mem := k.mem.write .spad (p * 2 ^ 22 + g * 2 ^ 18) (leBytes (2 ^ 18) (Config.freeBits k.freeCtr (2 ^ 18))) }) k
  ranges.foldl (fun (k : Pack) r => k.restoreRange (p * 2 ^ 22 + r.1) r.2.2 r.2.1) k

/-- A saved context in its new slot (R93, R396, R495): it waits for its points. Where the image cannot be read whole, the error is the
context's own (R496, log 70). -/
def State.placeContext (s : State) (x : Launch) (t : Seat) (base role : Nat) (c : Ctx) : State :=
  let k := role % 2
  let n := t.ctxNum (role / 2) k
  let side := if t.side = 2 then k else t.side
  let place := s.pk.dpaWord (base + 0x80 + 8 * role)
  let img := base + 64 * bits place 63 32
  let bad := s.pk.dpaBad base 0x100 ++ s.pk.dpaBad img (64 * bits place 31 0)
  let s := s.updPk (fun k => k.logSectors bad)
  let cyc := ((s.getCore (n / 2)).map Core.cyc).getD 0
  let c' := if c.mode = .exited then c else c.loadCsrs (fun i => s.pk.dpaWord (img + 0x400 + 8 * i))
  let c' := { c' with
    num := n
    notBefore := cyc + c'.notBefore
    yield_ := none
    live := none
    drainAt := none
    csr := { c'.csr with place := placeWord (koBgm x.kobj) t.lcl t.pcl (role / 2) k side }
    framed := c'.csr.det
    ue := c'.ue || (!bad.isEmpty && c.mode != .exited)
    mode := if c'.mode = .saving then .waiting else c'.mode }
  let s := s.onCtx n (fun _ => c')
  let s := (List.range 4).foldl (fun (s : State) q =>
    let u := (c'.q[q]?).getD {}
    if u.run && (u.ahead.isNone || u.elems.length < 16) then s.updPk (fun k => k.scheduleCc 1 .streamElement { n := n, m := q })
    else s) s
  s.updPk (fun k => k.updSched (fun d => { d with frozen := d.frozen.map (fun z =>
    if z.launch = x.id ∧ z.ctx = c.num then { z with ctx := n } else z) }))

/-- The operations of launch `x` still under way, and their scoreboard entries, go over to the numbers its contexts now have. -/
def Pack.renumber (k : Pack) (x : Launch) : Pack :=
  let now (n : Nat) : Nat := ((x.imgs.find? (fun i => i.2.2.num == n)).bind (fun i =>
    (x.seats.find? (fun t => t.lcl == i.1)).map (fun t => t.ctxNum (i.2.1 / 2) (i.2.1 % 2)))).getD n
  let mine (id : Nat) : Bool := k.ops.any (fun o => o.id == id && o.launch == x.id)
  { k with ops := k.ops.map (fun o => if o.launch = x.id then { o with ctx := now o.ctx } else o)
           board := k.board.map (fun b => if mine b.id then { b with ctx := now b.ctx } else b) }

/-- Launch `arg.n` has been restored: its contexts resume and its save slots are free (R97, R495). -/
def execContextRestore (s : State) : Host.Outcome State Fault Refusal :=
  done (match s.pk.launch s.pk.arg.n with
    | none => s
    | some l =>
      let s := s.updPk (fun k => k.renumber l)
      let s := l.slots.foldl (fun (s : State) x =>
        let base := s.pk.slotBase x.2
        match l.seats.find? (fun t => t.lcl == x.1) with
        | none => s
        | some t =>
          let s := s.updPk (fun k =>
            let k := (k.ops.filter (fun o => o.launch == l.id)).foldl Pack.saveThrough k
            (((k.restoreSpad x.2 (koBgm l.kobj) t.pcl).remark l x.1 x.2 t.pcl).rehome l.id (slotCluster x.2) t.pcl).dropSpad x.2)
          (l.imgs.filter (fun i => i.1 == x.1)).foldl (fun (s : State) i => s.placeContext l t base i.2.1 i.2.2) s) s
      s.updPk (fun k => (k.updLaunch l.id (fun l => { l with phase := .running, slots := [], imgs := [], marks := [] })).schedule 0 .launchRetire { n := l.id }))

/-! ### Release (R486) -/

/-- CSFRZ.REL of stream `arg.n` (R485, R486): the oldest frozen context counts as having executed EXIT, and its launch will
retire with STATUS 2 (R106). -/
def execContextRelease (s : State) : Host.Outcome State Fault Refusal :=
  done (match s.pk.sched.frozen.find? (fun z => z.stream == s.pk.arg.n) with
    | none => s
    | some z =>
      let exited (c : Ctx) : Ctx :=
        if c.num == z.ctx && c.launch == z.launch && (match c.mode with
          | .frozen _ => true
          | _ => false) then { c with mode := .exited } else c
      match s.pk.launch z.launch with
      | none => s
      | some l =>
        let s := s.onCtx z.ctx exited
        s.updPk (fun k => ((k.updLaunch l.id (fun l => { l with status := 2, imgs := l.imgs.map (fun i => (i.1, i.2.1, exited i.2.2)) })).updSched
          (fun d => { d with frozen := removeFirst (fun y => y.stream == z.stream) d.frozen })).schedule 0 .launchRetire { n := l.id }))
where
  removeFirst (f : Frozen → Bool) : List Frozen → List Frozen
    | [] => []
    | x :: xs => if f x then xs else x :: removeFirst f xs

end Sys2Proof.Machine
end

