-- ==== Sys2Proof/Machine/Scalar.lean ====
section
/-! DEFINITION. Integer arithmetic and logic, compares, predicates and handles of the S slot (R183–R191). -/
namespace Sys2Proof.Machine
open Sys2Proof

/-- a / b truncated toward zero; b = 0 gives −1, −2^63 / −1 gives −2^63 (R183). -/
def divTrunc (a b : Word) : Word := if b = 0 then BitVec.allOnes 64 else BitVec.ofInt 64 (a.toInt.tdiv b.toInt)
def divN (a b : Word) : Word := if b = 0 then BitVec.allOnes 64 else BitVec.ofNat 64 (a.toNat / b.toNat)
def remTrunc (a b : Word) : Word := a - b * divTrunc a b
def remN (a b : Word) : Word := if b = 0 then a else BitVec.ofNat 64 (a.toNat % b.toNat)

/-- Leading zero bits, counting from bit `n` − 1 down. -/
def clzFrom (x : Word) : Nat → Nat
  | 0 => 0
  | n + 1 => if x.getLsbD n then 0 else 1 + clzFrom x n
/-- Trailing zero bits among the `n` bits from bit `i` up. -/
def ctzFrom (x : Word) (i : Nat) : Nat → Nat
  | 0 => 0
  | n + 1 => if x.getLsbD i then 0 else 1 + ctzFrom x (i + 1) n
def popcount (x : Word) : Nat → Nat
  | 0 => 0
  | n + 1 => (x.getLsbD n).toNat + popcount x n

/-- Low `w` bits sign-extended to 64; the whole word for w ≥ 64, 0 for w = 0. -/
def sextLow (x : Word) (w : Nat) : Word := if w = 0 then 0 else BitVec.ofInt 64 (signedOf w x.toNat)
def zextLow (x : Word) (w : Nat) : Word := BitVec.ofNat 64 (x.toNat % 2 ^ w)

/-- Position and length of a bit field (R185). -/
def bfPos (b : Word) : Nat := bits b 5 0
def bfLen (b : Word) : Nat := min (bits b 14 8) 64
def bfExtract (a b : Word) (sx : Bool) : Word :=
  if sx then sextLow (a >>> bfPos b) (bfLen b) else zextLow (a >>> bfPos b) (bfLen b)
/-- Bits pos to pos + len − 1 of `old` replaced by the low bits of `a`; bits past 63 are dropped (R185). -/
def bfInsert (old a b : Word) : Word :=
  let m : Word := BitVec.ofNat 64 (2 ^ bfLen b - 1) <<< bfPos b
  (old &&& ~~~m) ||| ((a <<< bfPos b) &&& m)

def execAdd (d a b : BitVec 5) (s : State) : Host.Outcome State Fault Refusal :=
  done (s.putS d 1 (s.rs a + s.rs b))
def execSub (d a b : BitVec 5) (s : State) : Host.Outcome State Fault Refusal :=
  done (s.putS d 1 (s.rs a - s.rs b))
def execMul (d a b : BitVec 5) (s : State) : Host.Outcome State Fault Refusal :=
  done (s.putS d 3 (s.rs a * s.rs b))
def execMulh (d a b : BitVec 5) (s : State) : Host.Outcome State Fault Refusal :=
  done (s.putS d 3 (BitVec.ofInt 64 ((s.rs a).toInt * (s.rs b).toInt / 2 ^ 64)))
def execMulhn (d a b : BitVec 5) (s : State) : Host.Outcome State Fault Refusal :=
  done (s.putS d 3 (BitVec.ofNat 64 ((s.rs a).toNat * (s.rs b).toNat / 2 ^ 64)))
def execDiv (d a b : BitVec 5) (s : State) : Host.Outcome State Fault Refusal :=
  done (s.putS d 20 (divTrunc (s.rs a) (s.rs b)))
def execDivn (d a b : BitVec 5) (s : State) : Host.Outcome State Fault Refusal :=
  done (s.putS d 20 (divN (s.rs a) (s.rs b)))
def execRem (d a b : BitVec 5) (s : State) : Host.Outcome State Fault Refusal :=
  done (s.putS d 20 (remTrunc (s.rs a) (s.rs b)))
def execRemn (d a b : BitVec 5) (s : State) : Host.Outcome State Fault Refusal :=
  done (s.putS d 20 (remN (s.rs a) (s.rs b)))
def execAnd (d a b : BitVec 5) (s : State) : Host.Outcome State Fault Refusal :=
  done (s.putS d 1 (s.rs a &&& s.rs b))
def execOr (d a b : BitVec 5) (s : State) : Host.Outcome State Fault Refusal :=
  done (s.putS d 1 (s.rs a ||| s.rs b))
def execXor (d a b : BitVec 5) (s : State) : Host.Outcome State Fault Refusal :=
  done (s.putS d 1 (s.rs a ^^^ s.rs b))
def execAndn (d a b : BitVec 5) (s : State) : Host.Outcome State Fault Refusal :=
  done (s.putS d 1 (s.rs a &&& ~~~(s.rs b)))
def execSll (d a b : BitVec 5) (s : State) : Host.Outcome State Fault Refusal :=
  done (s.putS d 1 (s.rs a <<< bits (s.rs b) 5 0))
def execSrl (d a b : BitVec 5) (s : State) : Host.Outcome State Fault Refusal :=
  done (s.putS d 1 (s.rs a >>> bits (s.rs b) 5 0))
def execSra (d a b : BitVec 5) (s : State) : Host.Outcome State Fault Refusal :=
  done (s.putS d 1 ((s.rs a).sshiftRight (bits (s.rs b) 5 0)))
def execMin (d a b : BitVec 5) (s : State) : Host.Outcome State Fault Refusal :=
  done (s.putS d 1 (if (s.rs a).slt (s.rs b) then s.rs a else s.rs b))
def execMax (d a b : BitVec 5) (s : State) : Host.Outcome State Fault Refusal :=
  done (s.putS d 1 (if (s.rs a).slt (s.rs b) then s.rs b else s.rs a))
def execMinn (d a b : BitVec 5) (s : State) : Host.Outcome State Fault Refusal :=
  done (s.putS d 1 (if (s.rs a).ult (s.rs b) then s.rs a else s.rs b))
def execMaxn (d a b : BitVec 5) (s : State) : Host.Outcome State Fault Refusal :=
  done (s.putS d 1 (if (s.rs a).ult (s.rs b) then s.rs b else s.rs a))
def execClz (d a : BitVec 5) (s : State) : Host.Outcome State Fault Refusal :=
  done (s.putS d 1 (BitVec.ofNat 64 (clzFrom (s.rs a) 64)))
def execCtz (d a : BitVec 5) (s : State) : Host.Outcome State Fault Refusal :=
  done (s.putS d 1 (BitVec.ofNat 64 (ctzFrom (s.rs a) 0 64)))
def execPopc (d a : BitVec 5) (s : State) : Host.Outcome State Fault Refusal :=
  done (s.putS d 1 (BitVec.ofNat 64 (popcount (s.rs a) 64)))
def execMov (d a : BitVec 5) (s : State) : Host.Outcome State Fault Refusal :=
  done (s.putS d 1 (s.rs a))
/-- ADDS: SA when it clamps (R184). -/
def execAdds (d a b : BitVec 5) (t : BitVec 1) (s : State) : Host.Outcome State Fault Refusal :=
  let r := satAdd (t.setWidth 2) (s.rs a) (s.rs b)
  done (s.put 1 (.s d.toNat r.1) r.2)
/-- SUBS: SA when it clamps (R184). -/
def execSubs (d a b : BitVec 5) (t : BitVec 1) (s : State) : Host.Outcome State Fault Refusal :=
  let r := satSub (t.setWidth 2) (s.rs a) (s.rs b)
  done (s.put 1 (.s d.toNat r.1) r.2)
def execSext (d a : BitVec 5) (w : BitVec 2) (s : State) : Host.Outcome State Fault Refusal :=
  done (s.putS d 1 (sextLow (s.rs a) (8 * 2 ^ w.toNat)))
def execZext (d a : BitVec 5) (w : BitVec 2) (s : State) : Host.Outcome State Fault Refusal :=
  done (s.putS d 1 (zextLow (s.rs a) (8 * 2 ^ w.toNat)))
def execBfx (d a b : BitVec 5) (x : BitVec 1) (s : State) : Host.Outcome State Fault Refusal :=
  done (s.putS d 1 (bfExtract (s.rs a) (s.rs b) (x == 1)))
def execBfi (d a b : BitVec 5) (s : State) : Host.Outcome State Fault Refusal :=
  done (s.putS d 1 (bfInsert (s.rs d) (s.rs a) (s.rs b)))

/-! ### Immediate forms (R186) -/

def execAddi (d a : BitVec 5) (i : BitVec 7) (s : State) : Host.Outcome State Fault Refusal :=
  done (s.putS d 1 (s.rs a + s.imm i))
def execMuli (d a : BitVec 5) (i : BitVec 7) (s : State) : Host.Outcome State Fault Refusal :=
  done (s.putS d 3 (s.rs a * s.imm i))
def execAndi (d a : BitVec 5) (i : BitVec 7) (s : State) : Host.Outcome State Fault Refusal :=
  done (s.putS d 1 (s.rs a &&& s.imm i))
def execOri (d a : BitVec 5) (i : BitVec 7) (s : State) : Host.Outcome State Fault Refusal :=
  done (s.putS d 1 (s.rs a ||| s.imm i))
def execXori (d a : BitVec 5) (i : BitVec 7) (s : State) : Host.Outcome State Fault Refusal :=
  done (s.putS d 1 (s.rs a ^^^ s.imm i))
def execSlli (d a : BitVec 5) (i : BitVec 7) (s : State) : Host.Outcome State Fault Refusal :=
  done (s.putS d 1 (s.rs a <<< bits (s.imm i) 5 0))
def execSrli (d a : BitVec 5) (i : BitVec 7) (s : State) : Host.Outcome State Fault Refusal :=
  done (s.putS d 1 (s.rs a >>> bits (s.imm i) 5 0))
def execSrai (d a : BitVec 5) (i : BitVec 7) (s : State) : Host.Outcome State Fault Refusal :=
  done (s.putS d 1 ((s.rs a).sshiftRight (bits (s.imm i) 5 0)))
def execMini (d a : BitVec 5) (i : BitVec 7) (s : State) : Host.Outcome State Fault Refusal :=
  done (s.putS d 1 (if (s.rs a).slt (s.imm i) then s.rs a else s.imm i))
def execMaxi (d a : BitVec 5) (i : BitVec 7) (s : State) : Host.Outcome State Fault Refusal :=
  done (s.putS d 1 (if (s.rs a).slt (s.imm i) then s.imm i else s.rs a))
def execLih (d a : BitVec 5) (i : BitVec 7) (s : State) : Host.Outcome State Fault Refusal :=
  done (s.putS d 1 (s.imm32 i ++ (s.rs a).setWidth 32))
def execLi (d : BitVec 5) (i : BitVec 7) (s : State) : Host.Outcome State Fault Refusal :=
  done (s.putS d 1 (s.imm i))

/-! ### Compares and predicates (R187, R188) -/

def execCmpeq (d a b : BitVec 5) (s : State) : Host.Outcome State Fault Refusal :=
  done (s.putP d (s.rs a == (s.rs b)))
def execCmpne (d a b : BitVec 5) (s : State) : Host.Outcome State Fault Refusal :=
  done (s.putP d (s.rs a != (s.rs b)))
def execCmplt (d a b : BitVec 5) (s : State) : Host.Outcome State Fault Refusal :=
  done (s.putP d ((s.rs a).slt (s.rs b)))
def execCmple (d a b : BitVec 5) (s : State) : Host.Outcome State Fault Refusal :=
  done (s.putP d ((s.rs a).sle (s.rs b)))
def execCmpltn (d a b : BitVec 5) (s : State) : Host.Outcome State Fault Refusal :=
  done (s.putP d ((s.rs a).ult (s.rs b)))
def execCmplen (d a b : BitVec 5) (s : State) : Host.Outcome State Fault Refusal :=
  done (s.putP d ((s.rs a).ule (s.rs b)))
def execCmpeqi (d a : BitVec 5) (i : BitVec 7) (s : State) : Host.Outcome State Fault Refusal :=
  done (s.putP d (s.rs a == (s.imm i)))
def execCmpnei (d a : BitVec 5) (i : BitVec 7) (s : State) : Host.Outcome State Fault Refusal :=
  done (s.putP d (s.rs a != (s.imm i)))
def execCmplti (d a : BitVec 5) (i : BitVec 7) (s : State) : Host.Outcome State Fault Refusal :=
  done (s.putP d ((s.rs a).slt (s.imm i)))
def execCmplei (d a : BitVec 5) (i : BitVec 7) (s : State) : Host.Outcome State Fault Refusal :=
  done (s.putP d ((s.rs a).sle (s.imm i)))
def execCmpgti (d a : BitVec 5) (i : BitVec 7) (s : State) : Host.Outcome State Fault Refusal :=
  done (s.putP d (((s.imm i)).slt (s.rs a)))
def execCmpgei (d a : BitVec 5) (i : BitVec 7) (s : State) : Host.Outcome State Fault Refusal :=
  done (s.putP d (((s.imm i)).sle (s.rs a)))
def execPand (d a b : BitVec 5) (s : State) : Host.Outcome State Fault Refusal :=
  done (s.putP d (s.rp a && s.rp b))
def execPor (d a b : BitVec 5) (s : State) : Host.Outcome State Fault Refusal :=
  done (s.putP d (s.rp a || s.rp b))
def execPxor (d a b : BitVec 5) (s : State) : Host.Outcome State Fault Refusal :=
  done (s.putP d (s.rp a ^^ s.rp b))
def execPandn (d a b : BitVec 5) (s : State) : Host.Outcome State Fault Refusal :=
  done (s.putP d (s.rp a && !(s.rp b)))
def execPnot (d a : BitVec 5) (s : State) : Host.Outcome State Fault Refusal :=
  done (s.putP d (!(s.rp a)))
def execPmov (d a : BitVec 5) (s : State) : Host.Outcome State Fault Refusal :=
  done (s.putP d (s.rp a))
def execPset (d : BitVec 5) (v : BitVec 2) (s : State) : Host.Outcome State Fault Refusal :=
  done (s.putP d (v == 1))
/-- p15 ‖ … ‖ p1 ‖ 1 (R188). -/
def predBits (g : Regs) : Word := BitVec.ofNat 64 (leNatBits ((List.range 16).map g.rp))
where leNatBits : List Bool → Nat
  | [] => 0
  | b :: bs => b.toNat + 2 * leNatBits bs
def execPtos (d : BitVec 5) (s : State) : Host.Outcome State Fault Refusal :=
  done (s.putS d 1 (predBits s.ctx.regs))
def execSpred (a b : BitVec 5) (s : State) : Host.Outcome State Fault Refusal :=
  done (s.put 1 (.preds ((s.rs b).setWidth 16) ((s.rs a).setWidth 16)))

/-! ### Handles (R189–R191) -/

/-- ad := index and a new offset, or handle-range with the failing exact offset (R189, R190, R474). -/
def moveOffset (d a : BitVec 5) (o : Int) (s : State) : Res :=
  if 0 ≤ o ∧ o < 2 ^ 56 then .ok (s.putA d (mkHandle (hIdx (s.ra a)) o.toNat))
  else failWith (s.faultRec 0x09 0 a.toNat (BitVec.ofInt 64 o) (BitVec.ofNat 64 (hOff (s.ra a))) (hIdx (s.ra a)))
def execHmk (d a b : BitVec 5) (s : State) : Host.Outcome State Fault Refusal :=
  deliver s
    (if (s.rs a).toNat ≥ 2 ^ 16 then failWith (s.faultRec 0x09 0 a.toNat (s.rs a))
     else if (s.rs b).toNat ≥ 2 ^ 56 then failWith (s.faultRec 0x09 0 b.toNat (s.rs b))
     else .ok (s.putA d (mkHandle (s.rs a).toNat (s.rs b).toNat)))
def execHadd (d a b : BitVec 5) (s : State) : Host.Outcome State Fault Refusal :=
  deliver s (moveOffset d a (hOff (s.ra a) + (s.rs b).toInt) s)
def execHaddi (d a : BitVec 5) (i : BitVec 7) (s : State) : Host.Outcome State Fault Refusal :=
  deliver s (moveOffset d a (hOff (s.ra a) + (s.imm i).toInt) s)
def execHidx (d a : BitVec 5) (s : State) : Host.Outcome State Fault Refusal :=
  done (s.putS d 1 (BitVec.ofNat 64 (hIdx (s.ra a))))
def execHoff (d a : BitVec 5) (s : State) : Host.Outcome State Fault Refusal :=
  done (s.putS d 1 (BitVec.ofNat 64 (hOff (s.ra a))))
def execHseto (d a b : BitVec 5) (s : State) : Host.Outcome State Fault Refusal :=
  deliver s
    (if (s.rs b).toNat ≥ 2 ^ 56 then
       failWith (s.faultRec 0x09 0 b.toNat (s.rs b) (BitVec.ofNat 64 (hOff (s.ra a))) (hIdx (s.ra a)))
     else .ok (s.putA d (mkHandle (hIdx (s.ra a)) (s.rs b).toNat)))
def execHmov (d a : BitVec 5) (s : State) : Host.Outcome State Fault Refusal :=
  done (s.putA d (s.ra a))
end Sys2Proof.Machine
end

