-- ==== Sys2Proof/Machine/Veneer.lean ====
section
/-! DEFINITION. Veneer (R445–R472): slots and their checks, the code over GF(2^8), rounds and their commit, resolve and rollback,
rebuild into the standby; member failures (R431, R440). In the steps `arg.n` is the slot and `arg.k` a rank, plus 1. -/
namespace Sys2Proof.Machine
open Sys2Proof

/-! ### Placement (R447–R451) -/

def vOff (g : Nat) : Nat := 0x80000 + 0x100 * g
def tlRound (g : Nat) : Nat := 2560 + g
def Pack.vDlen (k : Pack) (g : Nat) : Nat := bits (k.ioRd (vOff g + 0x10)) 27 0
def Pack.vOwner (k : Pack) (g : Nat) : BitVec 16 := BitVec.ofNat 16 (bits (k.vgctl g) 31 16)
def Pack.vStandby (k : Pack) (g : Nat) : Bool := k.vRank g == 31
/-- Stripes of the group: n × DLEN / K. -/
def Pack.vStripes (k : Pack) (g : Nat) : Nat := k.vN g * (k.vDlen g / max 1 (k.vK g))
/-- Parity units of a member. -/
def Pack.vParUnits (k : Pack) (g : Nat) : Nat := k.vDlen g * k.vM g / max 1 (k.vK g)
/-- Cell of a parity-area offset (R451). -/
def Pack.parityCell (k : Pack) (g off : Nat) : Nat :=
  let p := k.ioRd (vOff g + 0x18)
  let v := off / 4096
  let c := 2 ^ bits p 47 44
  cellOf 0 (bits p 55 48 + v % c) ((bits p 18 0 + v / c) * 4096 + off % 4096)
/-- Cell of a data-space offset, where a region covers it (R448). -/
def Pack.dataCell (k : Pack) (g off : Nat) : Option Nat :=
  (k.slot g).regions.findSome? (fun r =>
    let base := bits r.2.1 27 0 * 4096
    let len := bits r.2.2 18 0 * 4096
    if base ≤ off ∧ off < base + len * 2 ^ bits r.2.1 47 44 then
      some (cellOf 0 (bits r.2.1 55 48 + (off - base) / max 1 len) (bits r.2.2 50 32 * 4096 + (off - base) % max 1 len))
    else none)

/-- An area in channels [lo, hi) and 4 KiB units [from, to) of each. -/
structure Area where
  lo : Nat
  hi : Nat
  uFrom : Nat
  uTo : Nat
  deriving DecidableEq, Repr
/-- A cell lies in both; an empty area meets none. -/
def Area.meets (a b : Area) : Bool :=
  decide (max a.lo b.lo < min a.hi b.hi) && decide (max a.uFrom b.uFrom < min a.uTo b.uTo)
def regionArea (q0 q1 : Word) : Area :=
  ⟨bits q0 55 48, bits q0 55 48 + 2 ^ bits q0 47 44, bits q1 50 32, bits q1 50 32 + bits q1 18 0⟩
def Pack.parityArea (k : Pack) (g : Nat) : Area :=
  let p := k.ioRd (vOff g + 0x18)
  let c := 2 ^ bits p 47 44
  ⟨bits p 55 48, bits p 55 48 + c, bits p 18 0, bits p 18 0 + (k.vParUnits g + c - 1) / c⟩
def Pack.logArea (k : Pack) (g reg : Nat) : Area :=
  let l := k.ioRd (vOff g + reg)
  ⟨0, 256, bits l 50 32, bits l 50 32 + bits l 18 0⟩
/-- The park rows of a channel: bank 15 has lines in every unit of their row addresses (R69, R388). -/
def Pack.parkArea (k : Pack) (h : Nat) : Area := ⟨h, h + 1, (k.chan h).row * 64, (k.chan h).row * 64 + 256⟩

/-- The regions that belong to a slot in the region table (R448). -/
def Pack.tableRegions (k : Pack) (g : Nat) : List (Nat × Word × Word) :=
  let base := bits (k.ioRd 0x81000) 47 0
  (List.range 4095).filterMap (fun i =>
    let q0 := k.dpaWord (base + 16 * (i + 1))
    let q1 := k.dpaWord (base + 16 * (i + 1) + 8)
    if q0.getLsbD 63 ∧ bits q0 59 56 = g then some (i + 1, q0, q1) else none)
/-- Entry `r` of the member table (R447). -/
def Pack.memberEntry (k : Pack) (g r : Nat) : Nat × Nat × Nat :=
  let b := k.dpaRead (bits (k.ioRd (vOff g + 8)) 47 0 + 4 * r) 4
  let at_ (i : Nat) : Nat := ((b[i]?).getD 0).toNat
  (at_ 0, at_ 1, at_ 2)

/-! ### The code (R452) -/

def gfInv (a : Nat) : Nat := ((List.range 256).find? (fun x => gmul a x == 1)).getD 0
/-- Determinant of a square matrix over GF(2^8), by its first row. -/
def gfDet : Nat → List (List Nat) → Nat
  | 0, _ => 1
  | _, [] => 1
  | f + 1, r :: rs => r.zipIdx.foldl (fun t x => t ^^^ gmul x.1 (gfDet f (rs.map (fun row => row.eraseIdx x.2)))) 0
/-- Every choice of `n` elements in order. -/
def choose : Nat → List Nat → List (List Nat)
  | 0, _ => [[]]
  | _ + 1, [] => []
  | n + 1, x :: xs => (choose n xs).map (fun l => x :: l) ++ choose (n + 1) xs
/-- Every square submatrix of the coefficients in use is nonsingular (R449). -/
def Pack.coefOk (k : Pack) (g : Nat) : Bool :=
  let K := k.vK g
  let M := k.vM g
  (List.range (min M K)).all (fun z => (choose (z + 1) (List.range M)).all (fun rows => (choose (z + 1) (List.range K)).all (fun cols =>
    gfDet (z + 1) (rows.map (fun i => cols.map (fun j => k.vCoef g i j))) != 0)))

def xorRow (a b : List Nat) : List Nat := List.zipWith (· ^^^ ·) a b
def scaleRow (c : Nat) (r : List Nat) : List Nat := r.map (gmul c)
/-- The inverse of a nonsingular K × K matrix over GF(2^8), by elimination on rows with the unit matrix beside them. -/
def gfInverse (K : Nat) (A : List (List Nat)) : List (List Nat) :=
  let rows := A.zipIdx.map (fun r => r.1 ++ (List.range K).map (fun j => if j = r.2 then 1 else 0))
  let at_ (r : List Nat) (c : Nat) : Nat := (r[c]?).getD 0
  let out := (List.range K).foldl (fun rows c =>
    match ((List.range K).drop c).find? (fun i => at_ ((rows[i]?).getD []) c != 0) with
    | none => rows
    | some p =>
      let pr := (rows[p]?).getD []
      let rows := (rows.set p ((rows[c]?).getD [])).set c (scaleRow (gfInv (at_ pr c)) pr)
      let pv := (rows[c]?).getD []
      rows.zipIdx.map (fun r => if r.2 = c then r.1 else xorRow r.1 (scaleRow (at_ r.1 c) pv))) rows
  out.map (fun r => r.drop K)

/-- The shard of stripe `s` that a rank holds: its row of G (R451, R468). -/
def shardOf (n s rank : Nat) : Nat := (rank + n - s % n) % n
def Pack.gRow (k : Pack) (g x : Nat) : List Nat :=
  let K := k.vK g
  if x < K then (List.range K).map (fun j => if j = x then 1 else 0) else (List.range K).map (fun j => k.vCoef g (x - K) j)
/-- A unit from K shares, each with its rank (R468). -/
def Pack.decodeUnit (k : Pack) (g s rank : Nat) (shares : List (Nat × List Byte)) : List Byte :=
  let K := k.vK g
  let n := k.vN g
  let B := gfInverse K (shares.map (fun x => k.gRow g (shardOf n s x.1)))
  let row := k.gRow g (shardOf n s rank)
  let coef := (List.range shares.length).map (fun t =>
    (List.range K).foldl (fun a j => a ^^^ gmul ((row[j]?).getD 0) ((((B[j]?).getD [])[t]?).getD 0)) 0)
  (List.range 4096).map (fun o => BitVec.ofNat 8 (shares.zipIdx.foldl (fun a x =>
    a ^^^ gmul ((coef[x.2]?).getD 0) (((x.1.2[o]?).getD 0).toNat)) 0))

/-- The bytes of a part of this member's unit of stripe `s` and their cells: 32 bytes at a time. -/
def Pack.unitCell (k : Pack) (g s rank o : Nat) : Option Nat :=
  let K := k.vK g
  let n := max 1 (k.vN g)
  let x := shardOf n s rank
  let b := s / n
  if x < K then k.dataCell g ((b * K + x) * 4096 + o) else some (k.parityCell g ((b * k.vM g + (x - K)) * 4096 + o))
def Pack.readUnit (k : Pack) (g s rank : Nat) : List Byte :=
  (List.range 128).flatMap (fun i => match k.unitCell g s rank (32 * i) with
    | some c => k.mem.read ⟨.dram, c, 32⟩
    | none => List.replicate 32 0)
/-- What this member reads or writes of its unit of a stripe: the cells, the first error met (R496), a channel that does not serve
them now (R373). -/
def Pack.unitCells (k : Pack) (g s rank : Nat) : List Piece :=
  (List.range 128).filterMap (fun i => (k.unitCell g s rank (32 * i)).map (fun c => ⟨.dram, c, 32⟩))
def Pack.unitError (k : Pack) (g s rank : Nat) : Option (Nat × Nat) := (k.unitCells g s rank).findSome? k.readError
def Pack.unitHeld (k : Pack) (g s rank : Nat) : Bool := k.bankHeld { ms := true } (k.unitCells g s rank)
def Pack.writeUnit (k : Pack) (g s rank : Nat) (bs : List Byte) : Pack :=
  (List.range 128).foldl (fun (k : Pack) i => match k.unitCell g s rank (32 * i) with
    | some c => k.bankWrite 5 c ((bs.drop (32 * i)).take 32)
    | none => k) k
/-- The lines of such a unit are read, as class RB (R456). -/
def Pack.chargeUnit (k : Pack) (g s rank : Nat) : Pack :=
  (List.range 32).foldl (fun (k : Pack) i => match k.unitCell g s rank (128 * i) with
    | some c => k.reachBank 5 c
    | none => k) k

/-! ### Enabling a slot (R446, R449, R450) -/

/-- The causes SHAPE, MEMBERS, DOMAIN, SPACE, COEF in order (R449). -/
def Pack.vMembersBad (k : Pack) (g : Nat) (m : List (Nat × Nat × Nat)) : Bool :=
  let n := k.vN g
  let sb := ((m[n]?).map Prod.fst).getD 0xFF
  let real := if sb = 0xFF then m.take n else m
  ((m[if k.vStandby g then n else k.vRank g]?).map Prod.fst).getD 0xFF != k.own || k.own == 0xFF ||
    real.any (fun e => !k.isMember e.1) || !(real.map Prod.fst).Nodup
def vDomainBad (n : Nat) (m : List (Nat × Nat × Nat)) : Bool :=
  let real := if ((m[n]?).map Prod.fst).getD 0xFF = 0xFF then m.take n else m
  !(real.map (fun e => e.2.1)).Nodup || !(real.map (fun e => e.2.2)).Nodup
/-- No two of a list meet. -/
def apart : List Area → Bool
  | [] => true
  | a :: l => l.all (fun b => !a.meets b) && apart l
def Pack.vSpaceBad (k : Pack) (g : Nat) (rs : List (Nat × Word × Word)) : Bool :=
  let d := k.vDlen g
  let K := max 1 (k.vK g)
  let span (r : Nat × Word × Word) : Nat × Nat := (bits r.2.1 27 0, bits r.2.1 27 0 + 2 ^ bits r.2.1 47 44 * bits r.2.2 18 0)
  let areas := rs.map (fun r => regionArea r.2.1 r.2.2)
  let others := ((List.range 16).filter (· != g)).flatMap (fun h =>
    (if k.slotOn h then (k.slot h).regions else k.tableRegions h).map (fun r => regionArea r.2.1 r.2.2))
  let own := [k.parityArea g, k.logArea g 0x20, k.logArea g 0x28]
  let fits (a : Area) : Bool := decide (a.hi ≤ 256) && decide (a.uTo ≤ 2 ^ 19)
  d == 0 || d % K != 0 || decide (2 ^ 27 * k.vK g < d * k.vN g) ||
  rs.any (fun r => decide (8 < bits r.2.1 47 44) || decide (d < (span r).2)) || !areas.all fits || !apart (areas ++ others.filter (fun b => areas.any b.meets)) ||
  (rs.zipIdx).any (fun x => (rs.drop (x.2 + 1)).any (fun y => decide (max (span x.1).1 (span y).1 < min (span x.1).2 (span y).2))) ||
  !own.all fits || !apart own || own.any (fun a => (areas ++ others).any a.meets) ||
  own.any (fun a => (List.range 256).any (fun h => a.meets (k.parkArea h)))
def Pack.vEnableCause (k : Pack) (g : Nat) (m : List (Nat × Nat × Nat)) (rs : List (Nat × Word × Word)) : Option Nat :=
  let K := k.vK g
  let M := k.vM g
  if k.reduced then some 7
  else if !(1 ≤ K ∧ K ≤ 19 ∧ 1 ≤ M ∧ M ≤ 4 ∧ K + M ≤ 20 ∧ (k.vRank g < K + M ∨ k.vRank g = 31)) then some 1
  else if k.vMembersBad g m then some 2
  else if vDomainBad (K + M) m then some 3
  else if k.vSpaceBad g rs then some 4
  else if !k.coefOk g then some 5
  else none

def vgctlMask : Word := 0x00FF_F800_FFFF_FFFF

/-- What a slot in JOIN exchanges (R450): K, M, GID as they stand in VGCTL; DLEN, the member table and the coefficients c[i][j]. -/
def Pack.joinShape (k : Pack) (g : Nat) : Word := k.vgctl g &&& 0x00FF_0000_0000_FFFF
def Pack.joinRest (k : Pack) (g : Nat) : List Byte :=
  leBytes 4 (k.vDlen g) ++ (k.slot g).members.flatMap (fun e => [BitVec.ofNat 8 e.1, BitVec.ofNat 8 e.2.1, BitVec.ofNat 8 e.2.2]) ++
    (List.range 4).flatMap (fun i => (List.range 19).map (fun j => BitVec.ofNat 8 (k.vCoef g i j)))
/-- The other devices of the member table, by rank (the standby is rank n). -/
def Pack.tableOthers (k : Pack) (g : Nat) : List Nat :=
  ((k.slot g).members.zipIdx.filter (fun e => e.1.1 != 0xFF && e.1.1 != k.own)).map Prod.snd
def Pack.sendJoin (k : Pack) (g r : Nat) (ask : Bool) : Pack := k.vsend g r (.join (k.joinShape g) (k.joinRest g) ask)

/-- The two pin windows that the standby's service core takes for a rebuild, for the decode tables and the progress record (R353, R468):
which, at which DPA and how long is free (log 42); a window that is enabled stays as it is. -/
def Pack.pinRebuild (k : Pack) (g : Nat) : Pack :=
  let f (i n : Nat) : Nat := Config.freeBits (k.freeCtr + i) n
  let ws := ((List.range 2).map (fun i => (f i 0 % 2, f i 1 % 16, f i 2 % 2 ^ 41 / 128 * 128, f i 3 % 2 ^ 24))).filter (fun w =>
    !(k.ioRd (pinOff w.1 w.2.1 8)).getLsbD 63)
  let k := ws.foldl (fun (k : Pack) w => (k.ioWr (pinOff w.1 w.2.1 0) (BitVec.ofNat 64 w.2.2.1)).schedule 0 .pinEnable
    { n := w.1, m := w.2.1, v := BitVec.ofNat 64 (2 ^ 63 + w.2.2.2) }) { k with freeCtr := k.freeCtr + 2 }
  k.setSlot g (fun x => { x with pinned := x.pinned ++ ws.map (fun w => (w.1, w.2.1)) })
def Pack.unpinRebuild (k : Pack) (g : Nat) : Pack :=
  ((k.slot g).pinned.foldl (fun (k : Pack) w => if (k.pin w.1 w.2).status ∈ [1, 2] then k.releasePin (k.pin w.1 w.2) 0 else k) k).setSlot g
    (fun x => { x with pinned := [] })

/-- Round `n` is numbered and opens (R458); a round passed over is numbered as failed. -/
def Pack.openRound (k : Pack) (g n : Nat) : Pack :=
  ((k.number (tlRound g) k.opCtr).2).setSlot g (fun x => { x with vopen := n })
def Pack.passRounds (k : Pack) (g : Nat) : Nat → Pack
  | 0 => k
  | m + 1 =>
    let n := (k.slot g).vopen + 1
    let k := k.openRound g n
    (k.failOp (tlRound g) ((k.slot g).base + n) (k.vOwner g)).passRounds g m
/-- The points of rounds above `L` that are numbered and not decided fail. -/
def Pack.failRounds (k : Pack) (g L : Nat) : Pack :=
  let t := k.tl (tlRound g)
  (t.open_.filter (fun o => decide ((k.slot g).base + L < o.1))).foldl (fun (k : Pack) o => k.failOp (tlRound g) o.1 (k.vOwner g)) k

/-- The slot leaves its group: OFF, EN = 0, its copies dropped, its undecided rounds failed. -/
def Pack.slotOff (k : Pack) (g : Nat) : Pack :=
  let k := (k.failRounds g (k.slot g).lcr).unpinRebuild g
  (k.ioWr (vOff g) (setBits (k.vgctl g) 63 63 0)).setSlot g (fun x => { x with
    state := .off, regions := [], members := [], held := [], owed := [], owes := false })

/-- Every byte and MSC copy of an area's cells becomes 0, errors with them (R450, R453, R496). -/
def Pack.zeroArea (k : Pack) (a : Area) : Pack :=
  (List.range (a.hi - a.lo)).foldl (fun (k : Pack) i =>
    let lo := cellOf 0 (a.lo + i) 0 + a.uFrom * 4096
    let hi := cellOf 0 (a.lo + i) 0 + a.uTo * 4096
    { k with mem := { k.mem with dram := k.mem.dram.clear lo hi }
             msc := k.msc.filter (fun (l : MscLine) => decide (l.line + 128 ≤ lo) || decide (hi ≤ l.line))
             bad := k.bad.filter (fun b => !(b.1 == Space.dram && decide (lo ≤ b.2) && decide (b.2 < hi))) }) k

def VSlot.liveRanks (v : VSlot) (n : Nat) : List Nat := (List.range n).filter (fun r => !v.dead.getLsbD r)

/-! ### Rounds (R458–R464) -/

def Pack.vLive (k : Pack) (g : Nat) : List Nat := (k.slot g).liveRanks (k.vN g)
def Pack.isCrd (k : Pack) (g : Nat) : Bool := (k.slot g).crd == k.vRank g

/-- A staged entry folded into parity with its applied bit, or a delta rolled back, in one step (R454, R466). A sector with an error is
left as it stands (R496, log 42). -/
def Pack.xorEntry (k : Pack) (g cell reg : Nat) (e : LogEntry) : Pack :=
  match k.readError ⟨.dram, cell, 32⟩ with
  | some x => k.logError x.1 0x1FF x.2
  | none => (k.rawWrite cell (xorBytes (k.mem.read ⟨.dram, cell, 32⟩) e.delta)).logWrite g reg { e with applied := true }
/-- The cell that an entry of a decided round changes, and its log's register: true a fold, false a rollback. -/
def Pack.owedCell (k : Pack) (g : Nat) (e : Bool × LogEntry) : Option Nat :=
  if e.1 then some (k.parityCell g e.2.off) else k.dataCell g e.2.off
def owedReg (e : Bool × LogEntry) : Nat := if e.1 then 0x28 else 0x20

/-- A channel that a write of the slot's protocol needs does not serve it now (R373). -/
def Pack.rawHeld (k : Pack) (cell : Nat) : Bool := k.bankHeld { ms := true } [⟨.dram, cell, 32⟩]
/-- Folds and rollbacks that the channels now serve are made (R459, R466); the others stay owed. -/
def Pack.payEntries (k : Pack) (g : Nat) : Pack :=
  (k.slot g).owed.foldl (fun (k : Pack) e => match k.owedCell g e with
    | some c =>
      if k.rawHeld c || k.rawHeld (k.logCell g (owedReg e) e.2) then k
      else (k.xorEntry g c (owedReg e) e.2).setSlot g (fun x => { x with owed := x.owed.erase e })
    | none => k.setSlot g (fun x => { x with owed := x.owed.erase e })) k
/-- Writes held for log space stay held where their channel's log is still full (R455). -/
def Pack.freeHeld (k : Pack) (g : Nat) : Pack :=
  k.setSlot g (fun x => { x with held := x.held.filter (fun c => decide (k.logCap g 0x20 ≤ x.inLog false (cellCh c))) })

/-- A slot is lost (R465): undecided rounds fail, nothing else changes. -/
def Pack.loseSlot (k : Pack) (g : Nat) : Pack :=
  ((k.failRounds g (k.slot g).lcr).unpinRebuild g).setSlot g (fun x => { x with state := .lost, cause := 9, owed := [], owes := false })

/-- This part's units of the stripes from the next one on, sent to the standby as their channels serve them (R468, R373); one with an
error is not sent (R470, R496). -/
def Pack.sendShares (k : Pack) (g : Nat) : Nat → Pack
  | 0 => k
  | fuel + 1 =>
    let st := (k.slot g).stripe
    let r := k.vRank g
    if k.vStripes g ≤ st then k
    else if k.unitHeld g st r then k.scheduleCc 1 .rebuildShare { n := g }
    else match k.unitError g st r with
      | some e => k.logError e.1 0x1FF e.2
      | none => (((k.chargeUnit g st r).vsend g (k.vN g) (.share st (k.readUnit g st r))).setSlot g (fun x => { x with stripe := st + 1 })).sendShares g fuel
/-- This member is one of the K lowest live ranks, which send their units (R468). -/
def Pack.isSender (k : Pack) (g : Nat) : Bool := ((k.vLive g).take (k.vK g)).contains (k.vRank g)
/-- REBUILD on a survivor (R468, R469). -/
def Pack.beginRebuild (k : Pack) (g : Nat) : Pack :=
  if (k.vLive g).length < k.vK g then k.loseSlot g
  else
    let k := k.setSlot g (fun x => { x with state := .rebuild, stripe := 0 })
    if k.isSender g then k.sendShares g (k.vStripes g) else k
/-- The coordinator's decision (R465): REBUILD if a standby is named, else DEGRADED. -/
def Pack.decide_ (k : Pack) (g : Nat) : Pack :=
  let v := k.slot g
  let rb := !v.sbnone && v.dead != 0
  let dests := (k.vLive g).filter (· != k.vRank g) ++ (if rb then [k.vN g] else [])
  let k := dests.foldl (fun (k : Pack) r => k.vsend g r (.decision rb v.level v.opened v.dead)) k
  if rb then k.beginRebuild g else k.setSlot g (fun x => { x with state := .degraded })
/-- ROLLEDBACK counted at the coordinator; with all in, the decision goes out (R465 step 5). -/
def Pack.checkRolled (k : Pack) (g : Nat) : Pack :=
  let v := k.slot g
  if v.state = .rollback ∧ k.isCrd g ∧ (k.vLive g).all v.rolled.contains then k.decide_ g else k

/-- Folds and rollbacks go on (R459, R466); with none left COMMITTED of the last round committed is sent, and in ROLLBACK ROLLEDBACK
(R465 step 4). -/
def Pack.payOwed (k : Pack) (g : Nat) : Pack :=
  let k := k.payEntries g
  let v := k.slot g
  let r := k.vRank g
  if v.state = .off ∨ v.state = .lost then k
  else if !v.owed.isEmpty then
    if k.agenda.any (fun d => d.ev == .rolledback && d.arg.n == g && d.arg.k == 0) then k else k.scheduleCc 1 .rolledback { n := g }
  else
    let k := if !v.owes then k
      else if k.isCrd g then k.setSlot g (fun x => { x with owes := false, committed := x.committed ++ [(r, x.lcr)] })
      else (k.setSlot g (fun x => { x with owes := false })).vsend g v.crd (.committed v.lcr)
    if v.state ≠ .rollback ∨ v.rolled.contains r then k
    else
      let k := k.setSlot g (fun x => { x with rolled := r :: x.rolled })
      if k.isCrd g then k.checkRolled g else k.vsend g v.crd (.rolledback v.dead)

/-- COMMIT n on this member (R459, R460): VGLCR, the delta entries discarded, the point; the fold follows, and COMMITTED after it. -/
def Pack.commitRound (k : Pack) (g n : Nat) : Pack :=
  let k := k.setSlot g (fun x => { x with
    lcr := n, dlog := x.dlog.filter (fun e => e.round != n), slog := x.slog.filter (fun e => e.round != n)
    owed := x.owed ++ (x.slog.filter (fun e => e.round == n)).map (fun e => (true, e)), owes := true
    sealed_ := x.sealed_.filter (· != n), sentPrep := x.sentPrep.filter (· != n) }) |>.freeHeld g
  (k.completeOp (tlRound g) ((k.slot g).base + n)).payOwed g

/-- The round that a member commits next (R459): after a recovery the first one opened since (R458). -/
def VSlot.nextCommit (v : VSlot) : Nat := max v.lcr v.cbase + 1
/-- The coordinator commits round `n` once every live member has prepared it and committed the round before (R459). -/
def Pack.tryCommit (k : Pack) (g n : Nat) : Pack :=
  let v := k.slot g
  let live := k.vLive g
  if v.state = .active ∧ k.isCrd g ∧ n = v.nextCommit ∧ v.sentPrep.contains n ∧ live.all (fun r => v.prepared.contains (r, n)) ∧
      (n ≤ v.cbase + 1 ∨ live.all (fun r => v.committed.contains (r, n - 1))) then
    (live.filter (· != k.vRank g)).foldl (fun (k : Pack) r => k.vsend g r (.commit n)) (k.commitRound g n)
  else k

/-- Every delta of a sealed round is acknowledged: PREPARED (R459). -/
def Pack.checkPrepared (k : Pack) (g n : Nat) : Pack :=
  let v := k.slot g
  if v.state ≠ .active ∨ !v.sealed_.contains n ∨ v.sentPrep.contains n ∨ v.unacked.any (fun u => u.1 == n) then k
  else
    let k := k.setSlot g (fun x => { x with sentPrep := x.sentPrep ++ [n] })
    if k.isCrd g then (k.setSlot g (fun x => { x with prepared := x.prepared ++ [(k.vRank g, n)] })).tryCommit g n
    else k.vsend g v.crd (.prepared n)

/-- VPREP acts on round `n` (R461). -/
def Pack.sealRound (k : Pack) (g : Nat) (n : Int) : Pack :=
  let v := k.slot g
  if n < v.vopen then k
  else if v.state ≠ .active then k.setSlot g (fun x => { x with cause := 7 })
  else if n ≠ v.vopen then k
  else ((k.setSlot g (fun x => { x with sealed_ := x.sealed_ ++ [v.vopen] })).openRound g (v.vopen + 1)).checkPrepared g v.vopen

/-- VPREP at issue (R461, R463). -/
def execVprep (s : State) : Host.Outcome State Fault Refusal :=
  deliver s (do
    let c := s.ctl
    let g := bits c 3 0
    let v := s.pk.slot g
    let fault (cause : Nat) : Except Stop Unit := failWith (s.faultRec 0x19 cause 0 c)
    if bits c 31 4 ≠ 0 then s.commandFault 2 c
    if v.state = .off ∨ s.pk.vStandby g then fault 1
    if s.ownId ≠ s.pk.vOwner g then fault 2
    let n := nearest 32 (bits c 63 32) v.vopen
    if n > v.vopen then fault 3
    s.witCheck s.waitReg s.ctlWait
    if (s.pk.ops.filter (fun o => match o.kind with
      | .vprep h _ => h == g
      | _ => false)).length ≥ 4 then .error .stall
    let t := s.issueOp { id := 0, ctx := 0, kind := .vprep g n, waits := [s.ctlWait], wreg := BitVec.ofNat 8 s.waitReg, heads := s.ownHeads }
    let seq := (v.base : Int) + n
    let t := t.updPk (fun k => { k with sched := { k.sched with launches := k.sched.launches.map (fun (l : Launch) =>
      if l.id = s.ctx.launch then { l with drain := l.drain ++ [(tlRound g, seq.toNat)] } else l) } })
    .ok (t.putWitness s.cmdD (pointWit (tlRound g) (seq % 2 ^ 42).toNat)))

/-- VROUND, VROUND.OPEN and VSTAT (R462): as from the near base die. -/
def State.vreadOp (s : State) (which : Nat) (d : BitVec 5) (slot k : Nat) : Res :=
  s.issueLoad (.s d.toNat 0) d.toNat k { id := 0, ctx := 0, kind := .vstat which slot, lat := 40 }
def execVround (d a l : BitVec 5) (o : BitVec 1) (s : State) : Host.Outcome State Fault Refusal :=
  deliver s (s.vreadOp o.toNat d ((s.rs a).toNat % 16) (s.loK l))
def execVstat (s : State) : Host.Outcome State Fault Refusal :=
  deliver s (s.vreadOp 2 s.cmdD ((s.rs s.cmdA).toNat % 16) (s.loK s.cmdB))

/-- PREPARED of round `m` reaches the coordinator from a rank (R459). With `arg.k` = 0 the VPREP `n` of this part acts, which
seals its round and, with no delta outstanding, forms its own PREPARED (R461). -/
def execPrepared (s : State) : Host.Outcome State Fault Refusal :=
  let a := s.pk.arg
  done (if a.k = 0 then
      s.onOp (fun o s => match o.kind with
        | .vprep g n => (s.dropOp o).updPk (fun k => k.sealRound g n)
        | _ => s) (fun o _ _ _ _ s => s.dropOp o)
    else s.updPk (fun k =>
      (k.setSlot a.n (fun x => { x with prepared := x.prepared ++ [(a.k - 1, a.m)] })).tryCommit a.n a.m))

/-- COMMIT of round `m` reaches a member (R459), in RESOLVE too (R465). -/
def execCommit (s : State) : Host.Outcome State Fault Refusal :=
  let a := s.pk.arg
  let v := s.pk.slot a.n
  done (if (v.state = .active ∨ v.state = .resolve) ∧ v.sentPrep.contains a.m ∧ a.m = v.nextCommit then
      s.updPk (fun k => k.commitRound a.n a.m)
    else s)

/-- COMMITTED of round `m` reaches the coordinator from a rank (R459). -/
def execCommitted (s : State) : Host.Outcome State Fault Refusal :=
  let a := s.pk.arg
  done (if a.k = 0 then s
    else s.updPk (fun k => (k.setSlot a.n (fun x => { x with committed := x.committed ++ [(a.k - 1, a.m)] })).tryCommit a.n (a.m + 1)))

/-- The holder acknowledges the delta of round `m` with the parity-area offset in `v` (R459). -/
def execDeltaAcknowledgement (s : State) : Host.Outcome State Fault Refusal :=
  let a := s.pk.arg
  done (s.updPk (fun k =>
    (k.setSlot a.n (fun x => { x with unacked := x.unacked.erase (a.m, a.v.toNat) })).checkPrepared a.n a.m))

/-- A delta of round `m` from a rank arrives for the parity-area offset in `v` (R456); a full staging log (R455) or a channel that
does not serve it (R373) keeps it waiting. -/
def execStagingDelta (s : State) : Host.Outcome State Fault Refusal :=
  let a := s.pk.arg
  let x := s.pk.slot a.n
  done (if (x.state ≠ .active ∧ x.state ≠ .resolve) ∨ a.k = 0 ∨ a.m < x.nextCommit then s
    else
      let off := a.v.toNat / 32 * 32
      let ch := cellCh (s.pk.parityCell a.n off)
      if x.inLog true ch ≥ s.pk.logCap a.n 0x28 ∨
          s.pk.rawHeld (s.pk.logCell a.n 0x28 { ch := ch, pos := countOf x.scount ch, off := off, round := a.m, delta := [] }) then s.updPk (fun k => k.scheduleCc 1 .stagingDelta a)
      else
        let e : LogEntry := { ch := ch, pos := countOf x.scount ch, off := off, round := a.m, delta := a.bytes.take 32 ++ List.replicate (32 - a.bytes.length) 0 }
        s.updPk (fun k => ((k.logWrite a.n 0x28 e).setSlot a.n (fun x => { x with slog := x.slog ++ [e], scount := bump x.scount ch })).vsend
          a.n (a.k - 1) (.ack off a.m)))

/-! ### Writes to a region -/

/-- A store to a protected cell passes the delta engine (R453). -/
def execDeltaWrite (s : State) : Host.Outcome State Fault Refusal := done (s.onOp State.serveStore Op.badCommand)
/-- A write held for delta-log space tries again (R455). -/
def execDeltaLogRelease (s : State) : Host.Outcome State Fault Refusal :=
  match s.findOp s.pk.arg.n with
  | some o =>
    match o.kind with
    | .copy .. => execCopyPerformed s
    | .wlds .. => execWldsComplete s
    | .atomic _ false .. => execHomeAtomic s
    | _ => execDeltaWrite s
  | none => done s

/-! ### When a member dies (R465–R467) -/

/-- Steps 2–4 of R465 with L and the highest round opened known: COMMIT L completed, rounds above aborted and rolled back. -/
def Pack.applyLevel (k : Pack) (g L hi : Nat) : Pack :=
  let k := if (k.slot g).lcr < L ∧ (k.slot g).sealed_.contains L then k.commitRound g L else k
  let k := k.passRounds g (hi - (k.slot g).vopen)
  let k := k.failRounds g L
  (k.setSlot g (fun x => { x with
    state := .rollback, level := L, opened := max hi x.vopen
    owed := x.owed ++ (x.dlog.filter (fun e => decide (L < e.round))).map (fun e => (false, e))
    dlog := x.dlog.filter (fun e => decide (e.round ≤ L)), slog := x.slog.filter (fun e => decide (e.round ≤ L))
    sealed_ := [], sentPrep := [], unacked := [], prepared := [], committed := [] })).payOwed g |>.freeHeld g

/-- With the VGLCR of every survivor of this resolve in, the coordinator sets L (R465 steps 1–3). -/
def Pack.checkReports (k : Pack) (g : Nat) : Pack :=
  let v := k.slot g
  let live := k.vLive g
  let rs := v.report.filter (fun x => x.2.2.2 == v.dead)
  if v.state ≠ .resolve ∨ !k.isCrd g ∨ !live.all (fun r => rs.any (fun x => x.1 == r)) then k
  else
    let L := (rs.map (fun x => x.2.1)).foldl max 0
    let hi := (rs.map (fun x => x.2.2.1)).foldl max 0
    let k := (live.filter (· != k.vRank g)).foldl (fun (k : Pack) r =>
      let k := if rs.any (fun x => x.1 == r && decide (x.2.1 < L)) then k.vsend g r (.commit L) else k
      k.vsend g r (.level L hi v.dead)) k
    k.applyLevel g L hi

/-- Every survivor enters RESOLVE; the lowest live rank coordinates (R465). Reports of this resolve that came before it count. -/
def Pack.beginResolve (k : Pack) (g : Nat) : Pack :=
  let crd := ((k.vLive g).head?).getD 31
  let k := k.setSlot g (fun x => { x with state := .resolve, crd := crd, rolled := [], report := x.report.filter (fun r => r.2.2.2 == x.dead) })
  let v := k.slot g
  if k.isCrd g then (k.setSlot g (fun x => { x with report := (k.vRank g, x.lcr, x.vopen, x.dead) :: x.report })).checkReports g
  else k.vsend g crd (.lcr v.lcr v.vopen v.dead)

/-- A device reported failed, as slot `g` sees it (R450, R465, R469). -/
def Pack.slotFailure (k : Pack) (g d : Nat) : Pack :=
  let v := k.slot g
  let n := k.vN g
  if !k.slotOn g ∨ v.state = .off ∨ v.state = .lost then k
  else if d = k.own then k.loseSlot g
  else if ((v.members[n]?).map Prod.fst).getD 0xFF = d then
    k.setSlot g (fun x => { x with sbnone := true, state := if x.state = .rebuild then .degraded else x.state })
  else
    let r := (v.members.take n).findIdx (fun e => e.1 == d)
    if n ≤ r ∨ v.dead.getLsbD r then k
    else
      let k := k.setSlot g (fun x => { x with dead := x.dead ||| (1#20 <<< r), stripe := 0, shares := x.shares.filter (fun y => y.1 != r) })
      let dead := ((List.range 20).filter (fun i => (k.slot g).dead.getLsbD i)).length
      if k.vM g < dead then k.loseSlot g
      else if v.state = .join ∨ k.vStandby g then k
      else k.beginResolve g

/-- An operation names device `d`; a collective of which member `d` has not done its part. -/
def Pack.opTo (k : Pack) (d : Nat) (o : Op) : Bool := (k.bankRanges o).any (fun r => k.isRemote r.1 && r.1.dev.toNat == d)
def Pack.collNeeds (k : Pack) (d : Nat) (o : Op) : Bool :=
  match o.kind with
  | .coll c _ _ _ devs => devs.contains d && !k.fab.peers.any (fun p =>
      p.route == bits c 47 40 && p.idx == o.idx && devs[p.rank]? == some d && p.part)
  | _ => false
/-- No mark from member `n` for 10 µs, or with `k` = 1 the report of another member (R431): its DEVFAIL bit, collectives of which its
part is not done (R440), operations with it, the slots. Who finds it tells the other members, and queries to it are over. -/
def execDeviceFailed (s : State) : Host.Outcome State Fault Refusal :=
  let d := s.pk.arg.n
  let late := s.pk.arg.k == 1 || (match s.pk.fab.marks.find? (fun m => m.1 == d) with
    | some (_, t, _) => decide (t + 20000 ≤ s.pk.tick)
    | none => false)
  done (if !late ∨ !s.pk.isMember d ∨ s.pk.devFailed d then s
    else
      let off := 0x71020 + 8 * (d / 64)
      let s := s.updPk (fun k => k.ioWr off (setBits (k.ioRd off) (d % 64) (d % 64) 1))
      let others := if s.pk.arg.k = 1 then [] else s.pk.members.filter (fun m => m != s.pk.own && m != d)
      let s := s.updPk (fun k => others.foldl (fun (k : Pack) m => k.send (.report m d))
        { k with fab := { k.fab with queries := k.fab.queries.filter (fun q => !(q.sent && q.dev == d)) } })
      let s := (s.pk.ops.filter (s.pk.collNeeds d)).foldl (fun (s : State) o => s.failColl o) s
      let s := (s.pk.ops.filter (s.pk.opTo d)).foldl
        (fun (s : State) o => s.updPk (fun k => k.schedule 4000 .remoteErrorTimeout { n := o.id })) s
      s.updPk (fun k => (List.range 16).foldl (fun (k : Pack) g => k.slotFailure g d) k))

/-- A survivor's VGLCR `m` and highest round opened `v` in the resolve of the dead ranks `bytes` reach its coordinator, where they
are kept if it has not begun that resolve; from the coordinator they are L and the highest round opened of all (R458, R465). -/
def execResolveVglcrReport (s : State) : Host.Outcome State Fault Refusal :=
  let a := s.pk.arg
  let v := s.pk.slot a.n
  let dead := BitVec.ofNat 20 (leNat a.bytes)
  done (if !s.pk.slotOn a.n ∨ v.state = .lost ∨ a.k = 0 then s
    else s.updPk (fun k =>
      if v.state = .resolve ∧ v.dead = dead ∧ !k.isCrd a.n ∧ a.k - 1 = v.crd then k.applyLevel a.n a.m a.v.toNat
      else (k.setSlot a.n (fun x => { x with
        report := (a.k - 1, a.m, a.v.toNat, dead) :: x.report.filter (fun r => !(r.1 == a.k - 1 && r.2.2.2 == dead)) })).checkReports a.n))

/-- ROLLEDBACK of a rank, in the resolve of the dead ranks `bytes`, reaches the coordinator (R465). With `arg.k` = 0 what this part
still has to fold or roll back goes on. -/
def execRolledback (s : State) : Host.Outcome State Fault Refusal :=
  let a := s.pk.arg
  done (s.updPk (fun k =>
    if a.k = 0 then
      let k := (k.payOwed a.n).freeHeld a.n
      k.tryCommit a.n (k.slot a.n).nextCommit
    else if (k.slot a.n).dead = BitVec.ofNat 20 (leNat a.bytes) then
      (k.setSlot a.n (fun x => { x with rolled := (a.k - 1) :: x.rolled })).checkRolled a.n
    else k))

/-! ### Joining and leaving (R450, R472) -/

/-- All n ranks have joined (R450): the members zero their areas and enter ACTIVE with round 1 open; a standby stays in JOIN. With a
member dead since it joined they resolve at once (R465, log 42). -/
def Pack.checkJoined (k : Pack) (g : Nat) : Pack :=
  let v := k.slot g
  if v.state ≠ .join ∨ k.vStandby g ∨ !(List.range (k.vN g)).all v.joined.contains then k
  else
    let areas := v.regions.map (fun r => regionArea r.2.1 r.2.2) ++ [k.parityArea g, k.logArea g 0x20, k.logArea g 0x28]
    let k := areas.foldl (fun (k : Pack) x => k.zeroArea x) k
    let k := (k.setSlot g (fun x => { x with
      state := .active, lcr := 0, dlog := [], slog := [], dcount := [], scount := [], owed := [], owes := false
      crd := ((x.liveRanks (k.vN g)).head?).getD 0, cbase := 0 })).openRound g 1
    if (k.slot g).dead = 0 then k else k.beginResolve g

/-- VGCTL of slot `n` written with `v` while EN is 0 (R446, R449, R450); folds and rollbacks
that a reset of the part cut short go on (R467, log 42). -/
def execVeneerEnable (s : State) : Host.Outcome State Fault Refusal :=
  let g := s.pk.arg.n % 16
  let v := s.pk.arg.v
  done (if s.pk.slotOn g then s
    else s.updPk (fun k =>
      let k := k.ioWr (vOff g) (v &&& vgctlMask)
      if !v.getLsbD 63 then k
      else
        let m := (List.range (k.vN g + 1)).map (k.memberEntry g)
        let rs := k.tableRegions g
        match k.vEnableCause g m rs with
        | some c => k.setSlot g (fun x => { x with state := .off, cause := BitVec.ofNat 4 c })
        | none =>
          let k := k.ioWr (vOff g) (setBits (k.vgctl g) 63 63 1)
          let k := k.setSlot g (fun x => {
            state := .join, joined := [if k.vStandby g then k.vN g else k.vRank g], cause := x.cause, drop := x.drop, vopen := x.vopen, lcr := x.lcr, owed := x.owed, regions := rs, members := m
            sbnone := ((m[k.vN g]?).map Prod.fst).getD 0xFF == 0xFF, base := (k.tl (tlRound g)).iss })
          let k := (k.tableOthers g).foldl (fun (k : Pack) r => k.sendJoin g r true) (k.payOwed g)
          k.checkJoined g))

/-- The exchange of R450 on slot `n`: the values of rank `k` − 1 come (the standby is rank n), K, M and GID in `v` and the rest in
`bytes`; with `m` = 2 it asks for this slot's own. With `m` = 1 another device reports a difference. A difference sends this slot to
OFF and, where it is found, every other device of the table is told (log 66). A standby whose values agree lets a DEGRADED group
rebuild (R472). -/
def execGroupJoinDone (s : State) : Host.Outcome State Fault Refusal :=
  let a := s.pk.arg
  let g := a.n % 16
  let r := a.k - 1
  let v := s.pk.slot g
  let off (k : Pack) : Pack := (k.slotOff g).setSlot g (fun x => { x with cause := 6 })
  let same := a.v &&& 0x00FF_0000_0000_FFFF == s.pk.joinShape g && a.bytes == s.pk.joinRest g
  done (if !s.pk.slotOn g then s
    else s.updPk (fun k =>
      if a.m = 1 then off k
      else if a.k = 0 ∨ !(k.tableOthers g).contains r then k
      else if !same then off ((k.tableOthers g).foldl (fun (k : Pack) r => k.vsend g r .mismatch) k)
      else
        let k := if a.m = 2 then k.sendJoin g r false else k
        if v.state = .join then (k.setSlot g (fun x => { x with joined := r :: x.joined.filter (· != r) })).checkJoined g
        else if r = k.vN g ∧ v.state = .degraded ∧ k.isCrd g ∧ v.dead ≠ 0 ∧ !v.sbnone then k.decide_ g
        else k))

/-- SBUP of slot `n` (R450): entry n is read again, MEMBERS and DOMAIN of R449 applied to it; a member asks the standby it names for its
values, and in REBUILD sends it the shares that had no one to go to. -/
def execStandbyUpdate (s : State) : Host.Outcome State Fault Refusal :=
  let g := s.pk.arg.n % 16
  let v := s.pk.slot g
  done (if !s.pk.slotOn g then s
    else s.updPk (fun k =>
      let n := k.vN g
      let e := k.memberEntry g n
      let m := v.members.take n
      let refuse (c : Nat) : Pack := k.setSlot g (fun x => { x with sbnone := true, cause := BitVec.ofNat 4 c })
      if (k.vStandby g ∧ e.1 ≠ k.own) ∨ (e.1 ≠ 0xFF ∧ (!k.isMember e.1 ∨ m.any (fun x => x.1 == e.1))) then refuse 2
      else if e.1 ≠ 0xFF ∧ m.any (fun x => x.2.1 == e.2.1 || x.2.2 == e.2.2) then refuse 3
      else
        let k := k.setSlot g (fun x => { x with members := m ++ [e], sbnone := e.1 == 0xFF })
        if e.1 = 0xFF ∨ k.vStandby g then k
        else
          let k := k.sendJoin g n true
          if v.state = .rebuild ∧ v.sbnone ∧ k.isSender g then
            (k.setSlot g (fun x => { x with stripe := 0 })).sendShares g (k.vStripes g)
          else k))

/-- EN := 0 written to slot `n` (R450): in JOIN, LOST, or ACTIVE with every sealed round committed; the open round is aborted, and
every other device of the table is told. With `m` = 1 such word comes from another. -/
def execVeneerDissolve (s : State) : Host.Outcome State Fault Refusal :=
  let g := s.pk.arg.n % 16
  let v := s.pk.slot g
  done (if !s.pk.slotOn g then s
    else if s.pk.arg.m = 1 then s.updPk (fun k => k.slotOff g)
    else if v.state = .join ∨ v.state = .lost ∨ (v.state = .active ∧ v.sealed_.isEmpty ∧ v.owed.isEmpty) then
      s.updPk (fun k => ((k.tableOthers g).foldl (fun (k : Pack) r => k.vsend g r .dissolve) k).slotOff g)
    else s)

/-! ### Rebuild (R468–R472) -/

/-- The rank that a rebuild fills: the lowest dead one. -/
def VSlot.lowestDead (v : VSlot) : Nat := (List.range 20).findIdx (fun r => v.dead.getLsbD r)

/-- The standby becomes rank r on this part (R468, R471): the member table, DEAD, SBNONE; ACTIVE when no rank stays dead. -/
def Pack.rebuildDone (k : Pack) (g : Nat) : Pack :=
  let v := k.slot g
  let n := k.vN g
  let r := v.lowestDead
  let sb := (v.members[n]?).getD (0xFF, 0, 0)
  let at_ := bits (k.ioRd (vOff g + 8)) 47 0
  let wasStandby := k.vStandby g
  let k := (k.dpaWrite (at_ + 4 * r) [BitVec.ofNat 8 sb.1, BitVec.ofNat 8 sb.2.1, BitVec.ofNat 8 sb.2.2, 0]).dpaWrite (at_ + 4 * n) [0xFF]
  let k := if wasStandby then k.ioWr (vOff g) (setBits (k.vgctl g) 47 43 r) else k
  let k := k.setSlot g (fun x => { x with
    members := (x.members.set r sb).set n (0xFF, sb.2.1, sb.2.2), dead := x.dead &&& ~~~(1#20 <<< r), sbnone := true
    lcr := x.level, cbase := x.opened, stripe := 0, shares := [] }) |>.unpinRebuild g
  let k := k.setSlot g (fun x => { x with crd := ((x.liveRanks n).head?).getD 31 })
  -- the former standby numbers the rounds so far: up to L complete, above failed
  let k := if wasStandby then
      let k := (List.range v.opened).foldl (fun (k : Pack) i => k.openRound g (i + 1)) k
      let k := (List.range v.level).foldl (fun (k : Pack) i => k.completeOp (tlRound g) ((k.slot g).base + i + 1)) k
      k.failRounds g v.level
    else k
  if (k.slot g).dead = 0 then (k.setSlot g (fun x => { x with state := .active })).openRound g (v.opened + 1)
  else k.setSlot g (fun x => { x with state := .degraded })

/-- Stripes decoded while all K shares of the next one are in (R468, R470). -/
def Pack.decodeStripes (k : Pack) (g : Nat) : Nat → Pack
  | 0 => k
  | fuel + 1 =>
    let v := k.slot g
    let need := ((k.vLive g).filter (· != v.lowestDead)).take (k.vK g)
    let have_ := need.filterMap (fun r => (v.shares.find? (fun x => x.1 == r && x.2.1 == v.stripe)).map (fun x => (r, x.2.2)))
    if have_.length < k.vK g ∨ k.vStripes g ≤ v.stripe then k
    else if k.unitHeld g v.stripe v.lowestDead then k.scheduleCc 1 .rebuildShare { n := g }
    else
      let k := k.writeUnit g v.stripe v.lowestDead (k.decodeUnit g v.stripe v.lowestDead have_)
      (k.setSlot g (fun x => { x with stripe := x.stripe + 1, shares := x.shares.filter (fun y => y.2.1 != v.stripe) })).decodeStripes g fuel

/-- The standby decodes what it can; after the last stripe it tells the survivors and becomes rank r (R468). -/
def Pack.shareRound (k : Pack) (g : Nat) : Pack :=
  if (k.slot g).state ≠ .rebuild then k
  else
    let k := k.decodeStripes g (k.slot g).shares.length
    if k.vStripes g ≤ (k.slot g).stripe then ((k.vLive g).foldl (fun (k : Pack) r => k.vsend g r .rebuilt) k).rebuildDone g else k

/-- The coordinator's decision reaches slot `n`: `m` = 1 REBUILD, 0 DEGRADED, 2 the rebuild is complete. The standby takes L
from `arg.k`, the highest round opened from `v`, the dead ranks from `bytes` (R465, R468). -/
def execResolveDecision (s : State) : Host.Outcome State Fault Refusal :=
  let a := s.pk.arg
  let g := a.n % 16
  let v := s.pk.slot g
  done (s.updPk (fun k =>
    if a.m = 2 then (if v.state = .rebuild ∧ !k.vStandby g then k.rebuildDone g else k)
    else if k.vStandby g then
      (if a.m = 1 ∧ (v.state = .join ∨ v.state = .rebuild) then
          let dead := BitVec.ofNat 20 (leNat a.bytes)
          let k := k.setSlot g (fun x => { x with
            state := .rebuild, level := a.k, lcr := a.k, opened := a.v.toNat, dead := dead
            stripe := 0, shares := x.shares.filter (fun y => !dead.getLsbD y.1), dlog := [], slog := [] })
          let k := if v.state = .join then k.pinRebuild g else k
          k.shareRound g
        else k)
    else if v.state = .rollback ∨ (v.state = .degraded ∧ v.dead ≠ 0) then
      (if a.m = 1 then k.beginRebuild g else k.setSlot g (fun x => { x with state := .degraded }))
    else k))

/-- A share of stripe `m` from a rank reaches the standby (R470); after the last stripe it becomes rank r (R468). With `arg.k` = 0 this
part's own sending or decoding goes on. -/
def execRebuildShare (s : State) : Host.Outcome State Fault Refusal :=
  let a := s.pk.arg
  let v := s.pk.slot a.n
  done (if a.k = 0 then s.updPk (fun k =>
      if v.state ≠ .rebuild then k else if k.vStandby a.n then k.shareRound a.n else k.sendShares a.n (k.vStripes a.n))
    else if (v.state ≠ .rebuild ∧ v.state ≠ .join) ∨ !s.pk.vStandby a.n ∨ v.dead.getLsbD (a.k - 1) then s
    else s.updPk (fun k => (k.setSlot a.n (fun x => { x with
      shares := (a.k - 1, a.m, a.bytes) :: x.shares.filter (fun y => !(y.1 == a.k - 1 && y.2.1 == a.m)) })).shareRound a.n))

end Sys2Proof.Machine
end

