-- ==== Sys2Proof/Machine/Service.lean ====
section
/-! DEFINITION. The service side: writes to plain registers (R11, R77, R194), firmware and attestation (R502–R508), fatal errors
(R509, R510), reset (R503). A step's `arg` gives the subject and the value written. -/
namespace Sys2Proof.Machine
open Sys2Proof

/-! ### What a register reads -/

/-- A CXL.io register of the package, derived ones included (R77, R178, R359, R385, R388, R391, R446, R485, R507). -/
def Pack.regRead (k : Pack) (off : Nat) : Word :=
  if 0x21000 ≤ off ∧ off < 0x22000 ∧ off % 0x40 ≥ 0x30 then
    match k.sched.frozen.find? (fun z => z.stream == (off - 0x21000) / 0x40) with
    | none => 0
    | some z =>
      if off % 0x40 = 0x38 then z.tcause
      else BitVec.ofNat 64 (2 ^ 63 + z.cause.toNat * 2 ^ 58 + z.ctx % 512 * 2 ^ 49 + z.pc.toNat)
  else if 0x31000 ≤ off ∧ off < 0x32400 then
    k.islStat ((off - 0x31000) / 8)
  else if 0x60000 ≤ off ∧ off < 0x62000 ∧ off % 0x1000 < 0x200 ∧ off % 0x20 = 0x10 then
    let w := k.pin ((off - 0x60000) / 0x1000) (off % 0x1000 / 0x20)
    BitVec.ofNat 64 (w.status * 2 ^ 60 + w.fcnt)
  else if 0x80000 ≤ off ∧ off < 0x81000 ∧ off % 0x100 = 0x30 then k.vread 1 ((off - 0x80000) / 0x100)
  else if 0x80000 ≤ off ∧ off < 0x81000 ∧ off % 0x100 = 0x38 then k.vread 0 ((off - 0x80000) / 0x100)
  else if 0x80000 ≤ off ∧ off < 0x81000 ∧ off % 0x100 = 0x40 then k.vread 2 ((off - 0x80000) / 0x100)
  else if 0x90000 ≤ off ∧ off < 0x92000 then
    let h := (off - 0x90000) / 0x20
    if off % 0x20 = 0 then k.gchstat h else if off % 0x20 = 8 then k.chpwr h else if off % 0x20 = 0x10 then k.chpark h else 0
  else if 0x74000 ≤ off ∧ off < 0x74A20 then
    BitVec.ofNat 64 (leNat ((Config.publicKey.drop (off - 0x74000)).take 8))
  else k.ioRd off

/-- CSR `n` of core `c`, 0x20 to 0x27, as system software reads it (R194). -/
def State.coreReg (s : State) (c n : Nat) : Word :=
  match s.getCore c with
  | some x => (State.csrRead { s with core := x } n).getD 0
  | none => 0

/-! ### Plain register writes (R11, R12) -/

def ifW (b : Bool) (m : Word) : Option Word := if b then some m else none
def Pack.csOpen (k : Pack) (off : Nat) : Bool := !k.csEn ((off - 0x21000) / 0x40)
def Pack.vClosed (k : Pack) (off : Nat) : Bool := !k.slotOn ((off - 0x80000) / 0x100)
/-- The bytes of VGCOEF that hold coefficients (R446). -/
def coefMask (off : Nat) : Word := if off % 32 = 16 then 0xFF_FFFF else if off % 32 = 24 then 0 else BitVec.allOnes 64
/-- The bits of a plain register that a write sets now; none for a register without RW fields, one that a write does not reach
while its unit is enabled, and one whose write is a step of its own. -/
def Pack.rwMask (k : Pack) (off : Nat) : Option Word :=
  if off = 0x20000 then some 0xFFFF
  else if off = 0x20008 ∨ off = 0x20010 then some 0xFFFF_FFFF
  else if off = 0x20018 then some 0x00FF_FFFF_FFFF_FFFF
  else if off = 0x20020 then some (BitVec.allOnes 64)
  else if off = 0x20800 then ifW (!k.bsBusy) (BitVec.allOnes 64)
  else if 0x21000 ≤ off ∧ off < 0x22000 ∧ off % 0x40 = 0 then ifW (k.csOpen off) 0x00FF_FFFF_FFFF_FFFF
  else if off = 0x30000 then some 0xF
  else if off = 0x30008 then some 0xFFFF
  else if 0x60000 ≤ off ∧ off < 0x62000 ∧ off % 0x1000 < 0x200 ∧ off % 0x20 = 0 then
    ifW (!(k.ioRd (off + 8)).getLsbD 63) 0xFFFF_FFFF_FF80
  else if 0x70000 ≤ off ∧ off < 0x70400 ∧ off % 0x10 = 8 then ifW (!(k.ioRd (off - 8)).getLsbD 63) 0xFFFF_FFFF_FFFF
  else if off = 0x71008 ∨ off = 0x71010 then some (BitVec.allOnes 64)
  else if off = 0x71018 then some 0xFFFF
  else if off = 0x72000 then some 0xFFFF_FFFF
  else if off = 0x73008 then some (BitVec.allOnes 64)
  else if off = 0x73020 ∨ off = 0x73100 then some 0xFFFF_FFFF_FFFF
  else if off = 0x73108 then some 0xFF
  else if off = 0x81000 then some 0xFFFF_FFFF_FFFF
  else if 0x80000 ≤ off ∧ off < 0x81000 then
    let r := off % 0x100
    if r = 8 then ifW (k.vClosed off) 0xFFFF_FFFF_FFFF
    else if r = 0x10 then ifW (k.vClosed off) 0xFFF_FFFF
    else if r = 0x18 then ifW (k.vClosed off) 0x00FF_F000_0007_FFFF
    else if r = 0x20 ∨ r = 0x28 then ifW (k.vClosed off) 0x0007_FFFF_0007_FFFF
    else if r ≥ 0x80 then ifW (k.vClosed off) (coefMask off)
    else none
  else none

/-- The write-1-to-clear bits of a plain register. -/
def w1cMask (off : Nat) : Word :=
  if 0x50000 ≤ off ∧ off < 0x52240 ∧ off % 0x20 = 8 then 0x8000_0000_0000_0000
  else if off = 0x60808 ∨ off = 0x61808 ∨ (0x62000 ≤ off ∧ off < 0x62040) then 1
  else if off = 0x71020 ∨ off = 0x71028 then BitVec.allOnes 64
  else if off = 0x71030 then 0xFFFF
  else 0

/-- GCHSTAT's flags and CHPARK of a channel (R385, R388). -/
def Pack.channelWrite (k : Pack) (off : Nat) (v : Word) : Pack :=
  let h := (off - 0x90000) / 0x20
  if off % 0x20 = 0 then
    let f := BitVec.ofNat 6 (bits v 54 54 * 16 + bits v 53 53 * 4 + bits v 52 51)
    k.setChan h (fun c => { c with late := c.late && !v.getLsbD 55, flags := c.flags &&& ~~~f })
  else if off % 0x20 = 0x10 ∧ (k.chan h).state = .empty ∧ !(k.chan h).parked then
    k.setChan h (fun c => { c with row := bits v 12 2 * 4 })
  else k

/-- Members that a write of DOMMAP or DEVFAIL brings under watch (R431); `was` is the package before it. TSTAMP moves forward to `t`
where a member of later time has joined (R430). -/
def Pack.newlyWatched (k was : Pack) (t : Nat) : Pack :=
  if !k.inDomain then k
  else if !was.inDomain then k.joinDomain t
  else
    let k := if k.members.any (fun d => !was.isMember d) then k.stepTime (t - k.tstamp) else k
    (k.members.filter (fun d => d != k.own && !k.devFailed d && (!was.isMember d || was.devFailed d))).foldl
      (fun (k : Pack) d => k.watch d 0) k

/-- A write of `v` to the register at offset `n` (R11); a register with a step of its own is written by that step. `arg.m` is the
domain's TSTAMP when the write makes the part or another device a member (R430). -/
def execRegisterWrite (s : State) : Host.Outcome State Fault Refusal :=
  let off := s.pk.arg.n
  let v := s.pk.arg.v
  done (if 0x100000 ≤ off ∧ off < 0x140000 then
      let c := (off - 0x100000) / 0x400
      if off % 0x400 = 0x110 then s.onCore c (fun x => { x with mergeage := v &&& 0xFF })
      else if off % 0x400 = 0x118 then s.onCore c (fun x => { x with ddthr := v &&& 0x83FF })
      else s
    else if 0x90000 ≤ off ∧ off < 0x92000 then s.updPk (fun k => k.channelWrite off v)
    else if off = 0x60800 ∨ off = 0x61800 then if v = 0 then s else s.updPk (fun k => k.ioWr off 0)
    else s.updPk (fun k =>
      let cur := k.ioRd off
      let new := match k.rwMask off with
        | some m => (cur &&& ~~~m) ||| (v &&& m)
        | none => cur &&& ~~~(v &&& w1cMask off)
      let k1 := if new = cur then k else k.ioWr off new
      if 0x71008 ≤ off ∧ off < 0x71038 then k1.newlyWatched k k.arg.m else k1))

/-! ### Firmware (R504–R506) -/

def Pack.fwst (k : Pack) : Nat := bits (k.ioRd 0x73000) 59 56
def Pack.setFwst (k : Pack) (x : Nat) : Pack := k.ioWr 0x73000 (setBits (k.ioRd 0x73000) 59 56 x)

/-- FWCMD written with `v`: a load reads LEN bytes at FWADDR; how long reading and verifying take is the part's own (log 5). -/
def execFirmwareLoad (s : State) : Host.Outcome State Fault Refusal :=
  let v := s.pk.arg.v
  done (if !v.getLsbD 63 ∨ s.pk.fwst = 1 then s
    else s.updPk (fun k =>
      let img := k.mem.read ⟨.host, (k.ioRd 0x73008).toNat, bits v 31 0⟩
      { k.setFwst 1 with svc := { k.svc with image := some img, inFull := k.full } }.schedule (2 * (1000 + bits v 31 0)) .firmwareVerifyDone {}))

/-- The outcome of verifying an image (R506), with its version and digest. -/
def Pack.verify (k : Pack) (img : List Byte) : Nat × Nat × BitVec 512 :=
  let f (o n : Nat) : Nat := leNat ((img.drop o).take n)
  let body := f 8 8
  let ver := f 4 2
  if img.length < 0x100 ∨ f 0 4 ≠ 0x5F1AE7C3 ∨ f 6 2 ≠ 0 ∨ f 0x10 0xF0 ≠ 0 ∨ img.length ≠ 0x100 + body + 4627 then (3, ver, 0)
  else
    let d := Config.sha3_512 (img.take (0x100 + body))
    if !Config.mldsaVerify Config.romKey (leBytes 64 d.toNat) (img.drop (0x100 + body)) then (4, ver, d)
    else if ver < bits (k.ioRd 0x73000) 31 16 then (5, ver, d)
    else (2, ver, d)

/-- Verification ends (R506); with `arg.k` = 1 the read from the host has failed. An image whose load was
issued in full service waits for reset. -/
def execFirmwareVerifyDone (s : State) : Host.Outcome State Fault Refusal :=
  done (match s.pk.svc.image with
    | none => s
    | some img => s.updPk (fun k =>
      let r := if k.arg.k = 1 then (6, 0, 0) else k.verify img
      let k := { k.setFwst r.1 with svc := { k.svc with image := none } }
      if r.1 ≠ 2 then k
      else if k.svc.inFull then { k with svc := { k.svc with next := some (r.2.1, r.2.2) } }
      else { k.ioWr 0x73000 (setBits (k.ioRd 0x73000) 15 0 r.2.1) with svc := { k.svc with digest := r.2.2 } }))

/-- Firmware moves the part to full service (R504): admission stops, and once no launch is running or saved the core clock is
2,000 MHz (R180), the ports are up, and admission resumes. -/
def execFullServiceEntry (s : State) : Host.Outcome State Fault Refusal :=
  done (if !s.pk.reduced ∨ bits (s.pk.ioRd 0x73000) 15 0 = 0 then s
    else s.updPk (fun k =>
      let k := { k with svc := { k.svc with moving := true } }
      if !k.sched.launches.isEmpty then k.scheduleCc 1 .fullServiceEntry {}
      else
        let k := k.ioWr 0x73000 (setBits (k.ioRd 0x73000) 63 60 2)
        { k with svc := { k.svc with moving := false }, period := 1, fab := { k.fab with live := BitVec.allOnes 18 } }.roundNow))

/-! ### Attestation (R507, R508) -/

/-- ATADDR fails R67: a reserved WSEL, or bit 39. -/
def dpaMalformed (d : Word) : Bool := decide (2 ≤ bits d 47 40) || d.getLsbD 39
def Pack.setAtcmd (k : Pack) (busy : Bool) (status : Nat) : Pack :=
  k.ioWr 0x73028 (BitVec.ofNat 64 (busy.toNat * 2 ^ 62 + status * 2 ^ 58))

/-- ATCMD written with `v` (R507); forming a report takes the part's own time (log 5). -/
def execAttestationRequest (s : State) : Host.Outcome State Fault Refusal :=
  done (if !s.pk.arg.v.getLsbD 63 ∨ (s.pk.ioRd 0x73028).getLsbD 62 then s
    else s.updPk (fun k =>
      if bits (k.ioRd 0x73000) 15 0 = 0 then k.setAtcmd false 1
      else if dpaMalformed (k.ioRd 0x73020) then k.setAtcmd false 2
      else (k.setAtcmd true 0).schedule 2000 .attestationDone {}))

/-- What the slots' digest covers of slot `g`. -/
def Pack.slotAttest (k : Pack) (g : Nat) : List Byte :=
  if !k.slotOn g then List.replicate 256 0
  else
    let r (o : Nat) : List Byte := leBytes 8 (k.ioRd (vOff g + o)).toNat
    r 0 ++ r 0x10 ++ r 0x18 ++ (List.range 16).flatMap (fun i => r (0x80 + 8 * i)) ++
      k.dpaRead (bits (k.ioRd (vOff g + 8)) 47 0) (4 * (k.vN g + 1))
/-- Bytes 0 to 0xFF of the report (R508). -/
def Pack.attestHead (k : Pack) (nonce : List Byte) : List Byte :=
  leBytes 8 0x1A77E ++ leBytes 8 Config.serial.toNat ++ nonce ++ leBytes 64 k.svc.digest.toNat ++
  [0x71000, 0x71008, 0x71010, 0x71018].flatMap (fun o => leBytes 8 (k.ioRd o).toNat) ++
  leBytes 64 (Config.sha3_512 ((List.range 16).flatMap k.slotAttest)).toNat ++ leBytes 8 k.tstamp ++ leBytes 8 (k.ioRd 0x73000).toNat

/-- The signed report is written and BUSY clears (R508). -/
def execAttestationDone (s : State) : Host.Outcome State Fault Refusal :=
  done (if !(s.pk.ioRd 0x73028).getLsbD 62 then s
    else s.updPk (fun k =>
      let d := bits (k.ioRd 0x73020) 47 0
      let head := k.attestHead (k.dpaRead d 64)
      let sig := padTo 4627 ((Config.mldsaSign Config.fusedKey (leBytes 64 (Config.sha3_512 head).toNat)).take 4627)
      ((linePieces 40 d 4883).foldl (fun (x : Pack × List Byte) p => (x.1.dpaWrite p.addr (x.2.take p.len), x.2.drop p.len)) (k, head ++ sig)).1.setAtcmd false 0))

/-! ### Fatal errors (R509, R510) -/

def Pack.regBytes (k : Pack) (offs : List Nat) : List Byte := offs.flatMap (fun o => leBytes 8 (k.regRead o).toNat)
/-- The dump below the zeros (R510), for reason `r` and with the complete bit clear. -/
def State.dumpBytes (s : State) (r : Nat) : List Byte :=
  let k := s.pk
  let core (c : Nat) : List Byte :=
    padTo 0x80 ((List.range 8).flatMap (fun i => leBytes 8 (s.coreReg c (0x20 + i)).toNat) ++
      [2 * c, 2 * c + 1].flatMap (fun n => leBytes 8 (((s.getCtx n).map (fun x => x.pc.toNat)).getD 0)))
  padTo 0x1000 (leBytes 8 0xD03F1E ++ leBytes 8 r ++ leBytes 8 k.tstamp ++ leBytes 8 0 ++ k.regBytes [0x73000, 0x72000, 0x72008, 0x72010]) ++
  padTo 0x1000 ((List.range 64).flatMap (fun n => k.regBytes ((List.range 8).map (fun i => csOff n (8 * i))))) ++
  (List.range 256).flatMap core ++
  (List.range 16).flatMap (fun g => k.regBytes ((List.range 32).map (fun i => vOff g + 8 * i))) ++
  k.regBytes [0x71000, 0x71008, 0x71010, 0x71018, 0x71020, 0x71028, 0x71030]

/-- Lines written in turn, as far as the first that does not succeed. -/
def Pack.dumpLines (k : Pack) (d : Nat) : Nat → List Byte → Pack × Bool
  | 0, _ => (k, true)
  | fuel + 1, bs =>
    if bs.isEmpty then (k, true)
    else match k.pieceWrite {} ⟨.dram, dpaCell d, min 128 bs.length⟩ (bs.take 128) with
      | .ok k => k.dumpLines (d + 128) fuel (bs.drop 128)
      | w => (w.pack, false)

/-- A fatal error for reason `n` (R509): issue and streams stop, the ports go down, the dump is written, MODE 3, and the fatal
interrupt is sent. -/
def execFatalError (s : State) : Host.Outcome State Fault Refusal :=
  let s := s.updPk (fun k => { k with svc := { k.svc with fatal := true }, fab := { k.fab with live := 0 } })
  let d := bits (s.pk.ioRd 0x73100) 47 0
  done (s.updPk (fun k =>
    let r := k.dumpLines d 0x2000 (padTo 0x100000 (s.dumpBytes k.arg.n))
    let k := if r.2 then
        (r.1.pieceWrite {} ⟨.dram, dpaCell (d + 0x18), 1⟩ [1]).pack
      else r.1
    let k := k.ioWr 0x73000 (setBits (k.ioRd 0x73000) 63 60 3)
    k.sendIrq (bits (k.ioRd 0x73108) 7 0) 1))

/-! ### Reset (R503) -/

/-- Part reset: everything as `State.reset` has it but what storage holds (log 2), an image verified in full service running now
(R506). Free values go on, and so do the folds and rollbacks that the Veneer's logs hold unapplied (R467, log 42). -/
def execPartReset (s : State) : Host.Outcome State Fault Refusal :=
  let k := s.pk
  let p := { Pack.reset with mem := k.mem, bad := k.bad, freeCtr := k.freeCtr, ven := k.ven.map (fun v => { ({} : VSlot) with owed := v.owed }) }
  done { State.reset with pk := match k.svc.next with
    | some (ver, d) => { (p.ioWr 0x73000 (BitVec.ofNat 64 (0x1200_0000_0001_0000 + ver))) with svc := { p.svc with digest := d } }
    | none => p }

end Sys2Proof.Machine
end

