-- ==== Sys2Proof/Machine/Tape.lean ====
section
/-! DEFINITION. The Spindle (R271–R295): records and their encodings, frames, chains, and the backward walk of a replay. Its
reads take no time of their own (log 5). -/
namespace Sys2Proof.Machine
open Sys2Proof

/-! ### Packing (R281) -/

def byteGroups : Nat → List Byte → List (List Byte)
  | 0, _ => []
  | fuel + 1, bs => if bs.isEmpty then [] else bs.take 4 :: byteGroups fuel (bs.drop 4)
def isZeroWord (w : List Byte) : Bool := w.all (· == 0)
def zrunWords : Nat → List (List Byte) → List Byte
  | 0, _ => []
  | _, [] => []
  | fuel + 1, w :: ws =>
    let z := isZeroWord w
    let r := min 128 (((w :: ws).takeWhile (fun x => isZeroWord x == z)).length)
    let rest := zrunWords fuel ((w :: ws).drop r)
    if z then BitVec.ofNat 8 (r - 1) :: rest
    else BitVec.ofNat 8 (0x80 + r - 1) :: ((w :: ws).take r).flatten ++ rest
def zrun (v : List Byte) : List Byte := zrunWords (v.length + 1) (byteGroups v.length v)
/-- What a packed body gives; none where it runs past its end. -/
def unzrunGo : Nat → List Byte → Option (List Byte)
  | 0, _ => some []
  | _, [] => some []
  | fuel + 1, c :: bs =>
    let r := 4 * (c.toNat % 128 + 1)
    if c.toNat ≥ 128 then
      if bs.length < r then none else (unzrunGo fuel (bs.drop r)).map (bs.take r ++ ·)
    else (unzrunGo fuel bs).map (List.replicate r 0 ++ ·)
/-- unzrun to exactly `n` bytes (R290). -/
def unzrun (n : Nat) (bs : List Byte) : Option (List Byte) := (unzrunGo bs.length bs).filter (fun v => v.length == n)

/-! ### Faults (R295, R474) -/

/-- Handle offset of the open frame. -/
def Spindle.openOff (p : Spindle) : Nat :=
  match p.mode with
  | .idle => 0
  | .record => hOff p.cur + 64 * (p.opened - 1)
  | .replay => hOff p.frame
/-- A Spindle fault: `code` 0x1A to 0x1D, `site` its site tag. -/
def State.tapeFault (s : State) (code cause site : Nat) : FaultRec :=
  s.faultRec code cause site (BitVec.ofNat 64 s.ctx.spin.openOff)
def State.updSpin (s : State) (f : Spindle → Spindle) : State := s.updCtx (fun c => { c with spin := f c.spin })

/-! ### Writing (R279–R285) -/

def trailer (end_ ft fseq : Nat) : List Byte := leBytes 4 (end_ * 2 ^ 26 + ft * 2 ^ 24 + fseq % 2 ^ 24)
/-- The handle of frame `i` of a buffer. -/
def frameHandle (h : Handle) (i : Nat) : Handle := mkHandle (hIdx h) (hOff h + 64 * i)
/-- The range of a handle as the table gives it now. -/
def State.rangeOf (s : State) (h : Handle) (n : Nat) : Range :=
  entryRange (s.pk.entryAt (bits s.ctx.csr.btab 47 0) (hIdx h)) (hOff h) n

/-- A data or link frame written on the G timeline (R292). -/
def State.writeFrame (s : State) (h : Handle) (bytes : List Byte) : State :=
  ((s.storeNum (s.rangeOf h 64) bytes 0).2).updSpin (fun p => { p with frames := p.frames + 1, last := h, fseq := p.fseq + 1 })
/-- The open frame is closed; one without a piece is not written (R283). -/
def State.closeFrame (s : State) : State :=
  let p := s.ctx.spin
  if p.bytes.isEmpty then s
  else (s.writeFrame (frameHandle p.cur (p.opened - 1)) (padTo 60 p.bytes ++ trailer p.bytes.length 0 p.fseq)).updSpin
    (fun p => { p with bytes := [] })
def State.nextFrame (s : State) : State := s.closeFrame.updSpin (fun p => { p with opened := p.opened + 1 })

/-- The pieces of a record (R283); `tail` holds SITE, RK, ENC, AN and PV in their places (R280). -/
def State.placePieces (s : State) (tail : Nat) : Nat → Bool → List Byte → State
  | 0, _, _ => s
  | fuel + 1, first, body =>
    let f := 60 - s.ctx.spin.bytes.length
    let add (s : State) (seg : Nat) (bs : List Byte) : State :=
      let s := s.updSpin (fun p => { p with bytes := p.bytes ++ bs ++ leBytes 4 (tail + seg * 2 ^ 17 + bs.length) })
      if s.ctx.spin.bytes.length = 60 then s.nextFrame else s
    if body.length + 4 ≤ f then add s (if first then 0 else 3) body
    else if f ≥ 8 then (add s (if first then 1 else 2) (body.take (f - 4))).placePieces tail fuel false (body.drop (f - 4))
    else s.nextFrame.placePieces tail fuel first body

def recTail (site rk enc an pv : Nat) : Nat := site * 2 ^ 24 + rk * 2 ^ 22 + enc * 2 ^ 20 + an * 2 ^ 19 + pv * 2 ^ 16
def rkOf (vec : Bool) : Nat := if vec then 2 else 0
/-- RAW or ZRUN, whichever is shorter (R282). -/
def State.placeValue (s : State) (site an : Nat) (vec : Bool) (v : List Byte) : State :=
  let z := zrun v
  if z.length < v.length then s.placePieces (recTail site (rkOf vec) 1 an 0) 400 true z
  else s.placePieces (recTail site (rkOf vec) 0 an 0) 400 true v

def Spindle.site (p : Spindle) (site : BitVec 8) (vec : Bool) : Option Site :=
  p.sites.find? (fun e => e.site == site && e.vec == vec)
def Spindle.without (p : Spindle) (site : BitVec 8) (vec : Bool) : List Site :=
  p.sites.filter (fun e => !(e.site == site && e.vec == vec))

/-- A scalar or vector record (R282, R285). -/
def State.encodeValue (s : State) (site : BitVec 8) (vec : Bool) (v : List Byte) : State :=
  let s := s.updSpin (fun p => { p with recs := p.recs + 1 })
  match s.ctx.spin.site site vec with
  | some e =>
    (s.updSpin (fun p => { p with sites := ⟨site, vec, v⟩ :: p.without site vec })).placePieces
      (recTail site.toNat (rkOf vec) 2 0 0) 400 true (zrun (xorBytes v e.val))
  | none =>
    let s := if s.ctx.spin.sites.length < 8 then s
      else match s.ctx.spin.sites.getLast? with
        | some e => (s.placeValue e.site.toNat 1 e.vec e.val).updSpin (fun p => { p with sites := p.sites.dropLast })
        | none => s
    (s.updSpin (fun p => { p with sites := ⟨site, vec, v⟩ :: p.sites })).placeValue site.toNat 0 vec v

/-! ### Overflow and chains (R284, R286, R287) -/

/-- An error met by a read of the Spindle, logged where it is an uncorrectable one (R497). -/
def State.logRead (s : State) (r : Range) (u : Nat × Nat) : State :=
  if s.pk.isRemote r.via then s else s.updPk (fun k => k.logError u.1 s.ctx.num u.2)

/-- The chain entry read and checked (R274, R286): its handle and capacity, with the package as the read leaves it. -/
def State.chainEntry (s : State) (site : Nat) : Except (FaultRec × State) (State × Handle × Nat) :=
  let t := s.ctx.csr.tovf
  let next := bits t 15 8
  let bad (x : Handle) (n need : Nat) : Bool :=
    (s.pk.handleBad s.ctx.csr.btab s.ownId.toNat (hIdx x) (hOff x) n need false).isSome
  if !t.getLsbD 0 then .error (s.tapeFault 0x1B 1 site, s)
  else if bits t 63 48 = 0 ∨ next ≥ bits t 23 16 then .error (s.tapeFault 0x1B 2 site, s)
  else
    let e := mkHandle (bits t 63 48) (16 * (bits t 47 24 + next))
    if bad e 16 rRD then .error (s.tapeFault 0x1B 3 site, s)
    else
      let r := s.rangeOf e 16
      match s.ownError r with
      | some u => .error (s.faultRec 0x1E 0 0 (BitVec.ofNat 64 u.2) (BitVec.ofNat 64 u.1), s.logRead r u)
      | none =>
        let bs := s.ownBytes r
        let h : Handle := BitVec.ofNat 72 (leNat (bs.take 9))
        let n := leNat ((bs.drop 12).take 4)
        if hOff h % 64 ≠ 0 ∨ leNat ((bs.drop 9).take 3) ≠ 0 ∨ n < 16 ∨ bad h (64 * n) rWR then
          .error (s.tapeFault 0x1B 3 site, s.updPk (fun k => k.didRead r))
        else .ok (s.updPk (fun k => k.didRead r), h, n)

/-- A chain taken (R287). -/
def State.chain (s : State) (h : Handle) (n : Nat) : State :=
  let s := s.closeFrame
  let link := leBytes 9 s.ctx.spin.last.toNat ++ List.replicate 51 0 ++ trailer 9 1 s.ctx.spin.fseq
  let s := s.updCtx (fun c => { c with
    csr := { c.csr with tovf := setBits c.csr.tovf 15 8 (bits c.csr.tovf 15 8 + 1) }
    spin := { c.spin with cur := h, nfr := n } })
  (s.writeFrame h link).updSpin (fun p => { p with opened := 2 })

/-- Room for `need` frames: chains are taken while a shortfall remains, and stay taken if a later one fails (R18, R286). -/
def State.room (s : State) (need site : Nat) : Nat → State × Option FaultRec
  | 0 => (s, none)
  | fuel + 1 =>
    if s.ctx.spin.nfr - s.ctx.spin.opened ≥ need then (s, none)
    else match s.chainEntry site with
      | .error r => (r.2, some r.1)
      | .ok e => (e.1.chain e.2.1 e.2.2).room need site fuel

/-- With room for `need`, `f`. -/
def State.withRoom (s : State) (need site : Nat) (f : State → State) : Host.Outcome State Fault Refusal :=
  match s.room need site 257 with
  | (t, some r) => deliver t (failWith r)
  | (t, none) => done (f t)

/-- The mode a Spindle instruction needs (R278). -/
def State.needMode (s : State) (m : TapeMode) (site : Nat) (f : Unit → Host.Outcome State Fault Refusal) :
    Host.Outcome State Fault Refusal :=
  if s.ctx.spin.mode = m then f ()
  else deliver s (failWith (s.tapeFault 0x1A (if m = .idle then 3 else if s.ctx.spin.mode = .idle then 1 else 2) site))

/-! ### Recording (R276–R285) -/

def execTbegin (a b : BitVec 5) (s : State) : Host.Outcome State Fault Refusal :=
  s.needMode .idle 0 (fun _ =>
    let h := s.ra a
    let n := (s.rs b).toNat
    deliver s (
      if hOff h % 64 ≠ 0 ∨ n < 16 ∨ 2 ^ 32 ≤ n then failWith (s.tapeFault 0x1A 4 0)
      else do
        let _ ← s.accessReg a 0 (64 * n) rWR
        .ok (s.updSpin (fun _ => { mode := .record, origin := h, cur := h, nfr := n, opened := 2, fseq := 1, last := h }))))

/-- TREC (R282, R284): a vector record is 324 bytes. -/
def execTrec (t : BitVec 8) (r : BitVec 5) (k : BitVec 2) (s : State) : Host.Outcome State Fault Refusal :=
  s.needMode .record t.toNat (fun _ =>
    if k = 0 then s.withRoom 9 t.toNat (fun u => u.encodeValue t false (leBytes 8 (s.rs r).toNat))
    else s.withRoom 14 t.toNat (fun u => u.encodeValue t true (imageBytes (s.rv r))))
def execTrecp (t : BitVec 8) (r : BitVec 5) (s : State) : Host.Outcome State Fault Refusal :=
  s.needMode .record t.toNat (fun _ =>
    s.withRoom 1 t.toNat (fun u => (u.updSpin (fun p => { p with recs := p.recs + 1 })).placePieces
      (recTail t.toNat 1 0 0 (s.rp r).toNat) 3 true []))

/-- The anchors of TEND in their order (R285). -/
def siteBefore (x y : Site) : Bool := x.site < y.site || (x.site == y.site && (!x.vec || y.vec))
def siteInsert (x : Site) : List Site → List Site
  | [] => [x]
  | y :: ys => if siteBefore x y then x :: y :: ys else y :: siteInsert x ys
def Spindle.sorted (p : Spindle) : List Site := p.sites.foldl (fun l x => siteInsert x l) []

/-- The header frame (R285). -/
def Spindle.header (p : Spindle) : List Byte :=
  leBytes 4 0x7A9ED21C ++ leBytes 4 p.frames ++ leBytes 9 p.last.toNat ++ List.replicate 7 0 ++ leBytes 8 p.recs ++
    List.replicate 28 0 ++ trailer 0 2 0
/-- The tape sealed; gives the witness of the header write. -/
def State.seal (s : State) : Word × State :=
  let s := s.ctx.spin.sorted.foldl (fun (s : State) e => s.placeValue e.site.toNat 1 e.vec e.val) s
  let s := s.closeFrame
  let r := s.storeNum (s.rangeOf s.ctx.spin.origin 64) s.ctx.spin.header 0
  (r.1, r.2.updSpin (fun _ => {}))
def execTend (d : BitVec 5) (s : State) : Host.Outcome State Fault Refusal :=
  match s.ctx.spin.mode with
  | .idle => deliver s (failWith (s.tapeFault 0x1A 1 0))
  | .replay => done ((s.updSpin (fun _ => {})).putS d 4 0)
  | .record =>
    s.withRoom ((s.ctx.spin.sites.map (fun e => if e.vec then 7 else 2)).foldl (· + ·) 0) 0
      (fun u => let r := u.seal; r.2.putS d 4 r.1)

/-! ### Replaying (R288–R291) -/

/-- TREV (R288): stalls until its witness is satisfied. -/
def execTrev (a b : BitVec 5) (s : State) : Host.Outcome State Fault Refusal :=
  let who := waitOfCtx s.ctx.num
  s.needMode .idle 0 (fun _ =>
    match s.accessReg a 0 64 rRD with
    | .error e => deliver s (.error e)
    | .ok r =>
      match (s.pk.answerTo who (s.rs b)).getD (s.pk.witness (s.rs b) none) with
      | .bad code cause t => deliver (s.updPk (fun k => k.forget who)) (failWith (s.witFault b.toNat (s.rs b) code cause t))
      | .wait => deliver (s.updPk (fun k => Pack.ask who k (s.rs b))) (.error .stall)
      | .ok =>
        match s.ownError r with
        | some u => deliver (s.logRead r u) (failWith (s.faultRec 0x1E 0 0 (BitVec.ofNat 64 u.2) (BitVec.ofNat 64 u.1)))
        | none =>
          let bs := s.ownBytes r
          let s' := s.updPk (fun k => k.didRead r)
          if leNat (bs.take 4) ≠ 0x7A9ED21C ∨ leNat (bs.drop 60) ≠ 2 * 2 ^ 24 + leNat (bs.drop 60) / 2 ^ 26 * 2 ^ 26 then
            deliver s' (failWith (s.tapeFault 0x1D 1 0))
          else
            done (s'.updSpin (fun _ => {
              mode := .replay, origin := s.ra a, recs := leNat ((bs.drop 24).take 8)
              frame := BitVec.ofNat 72 (leNat ((bs.drop 8).take 9)) })))

/-- Why a walk fails: tape-format, tape-divergence, or an error met by the read of a range. -/
inductive TapeErr where
  | fmt (cause : Nat)
  | div (cause : Nat)
  | ue (r : Range) (kind addr : Nat)
  deriving DecidableEq, Repr
def State.walkFault (s : State) (site reg : Nat) : TapeErr → FaultRec
  | .fmt c => s.tapeFault 0x1D c site
  | .div c => s.tapeFault 0x1C c site
  | .ue _ k a => s.faultRec 0x1E 0 reg (BitVec.ofNat 64 a) (BitVec.ofNat 64 k)
/-- The pop that needs the data logs its error (R288, R497). -/
def State.logWalk (s : State) : TapeErr → State
  | .ue r k a => s.logRead r (k, a)
  | _ => s

/-- A walk: the package as its reads leave it, the Spindle as its position stands. In REPLAY `opened` is 1 once a frame is
under the walk, `bytes` are its 64 bytes. -/
structure Walk where
  pk : Pack
  sp : Spindle
  deriving DecidableEq, Repr

/-- The frame before the walk position's (R289, R290): the first, the one a link names, or the one below. `origin` ends it:
inside a record that is a record cut short. -/
def State.walkFrame (s : State) (w : Walk) (inside : Bool) : Except (TapeErr × Pack) Walk :=
  let p := w.sp
  let t := leNat (p.bytes.drop 60)
  let link := p.opened = 1 ∧ t / 2 ^ 24 % 4 = 1
  let via := p.opened = 0 ∨ link
  if !via ∧ hOff p.frame < 64 then .error (.fmt 2, w.pk)
  else
    let h := if p.opened = 0 then p.frame else if link then BitVec.ofNat 72 (leNat (p.bytes.take 9))
      else mkHandle (hIdx p.frame) (hOff p.frame - 64)
    if h = p.origin then .error (if inside then .fmt 2 else .div 3, w.pk)
    else if (s.pk.handleBad s.ctx.csr.btab s.ownId.toNat (hIdx h) (hOff h) 64 rRD false).isSome then
      .error (.fmt (if via then 3 else 2), w.pk)
    else
      let r := s.rangeOf h 64
      match s.ownError r with
      | some u => .error (.ue r u.1 u.2, w.pk)
      | none =>
        let bs := s.ownBytes r
        let t := leNat (bs.drop 60)
        let ft := t / 2 ^ 24 % 4
        let e := t / 2 ^ 26
        let fseq := t % 2 ^ 24
        if ft > 1 ∨ e > 60 ∨ (ft = 1 ∧ e ≠ 9) ∨ !((bs.take 60).drop e).all (· == 0) ∨
            (p.opened = 1 ∧ fseq ≠ (p.fseq + 2 ^ 24 - 1) % 2 ^ 24) then .error (.fmt 2, w.pk.didRead r)
        else .ok ⟨w.pk.didRead r,
          { p with frame := h, bytes := bs, pos := if ft = 1 then 0 else e, fseq := fseq, opened := 1 }⟩

/-- Frames passed until a piece ends at the walk position. -/
def State.walkToPiece (s : State) (inside : Bool) : Nat → Walk → Except (TapeErr × Pack) Walk
  | 0, w => .error (.fmt 2, w.pk)
  | fuel + 1, w =>
    if w.sp.opened = 1 ∧ w.sp.pos ≠ 0 then .ok w
    else match s.walkFrame w inside with
      | .ok w => s.walkToPiece inside fuel w
      | .error e => .error e

/-- A tail's fields. -/
structure Tail where
  site : Nat
  rk   : Nat
  enc  : Nat
  an   : Bool
  seg  : Nat
  pv   : Bool
  deriving DecidableEq, Repr

/-- The piece that ends at the walk position (R280, R290). -/
def State.walkPiece (s : State) (inside : Bool) (w : Walk) : Except (TapeErr × Pack) (Tail × List Byte × Walk) :=
  match s.walkToPiece inside (2 ^ 24) w with
  | .error e => .error e
  | .ok w =>
    let p := w.sp
    if p.pos < 4 then .error (.fmt 2, w.pk)
    else
      let t := leNat ((p.bytes.drop (p.pos - 4)).take 4)
      let len := t % 64
      let tl : Tail := ⟨t / 2 ^ 24 % 256, t / 2 ^ 22 % 4, t / 2 ^ 20 % 4, t / 2 ^ 19 % 2 == 1, t / 2 ^ 17 % 4, t / 2 ^ 16 % 2 == 1⟩
      if t / 64 % 1024 ≠ 0 ∨ tl.rk = 3 ∨ tl.enc = 3 ∨ (tl.pv ∧ tl.rk ≠ 1) ∨ p.pos < 4 + len then .error (.fmt 2, w.pk)
      else .ok (tl, (p.bytes.drop (p.pos - 4 - len)).take len, { w with sp := { p with pos := p.pos - 4 - len } })

/-- The pieces before a last or middle one, back to the first (R289). -/
def State.walkRest (s : State) (tl : Tail) : Nat → List Byte → Walk → Except (TapeErr × Pack) (List Byte × Walk)
  | 0, _, w => .error (.fmt 2, w.pk)
  | fuel + 1, body, w =>
    match s.walkPiece true w with
    | .error e => .error e
    | .ok (t, b, w) =>
      if { t with seg := 0 } ≠ { tl with seg := 0 } ∨ t.seg = 0 ∨ t.seg = 3 then .error (.fmt 2, w.pk)
      else if t.seg = 1 then .ok (b ++ body, w)
      else s.walkRest tl fuel (b ++ body) w

/-- The newest remaining record: its tail, its unpacked value (for XDEL the difference) and the position before it. -/
def State.walkRecord (s : State) (w : Walk) : Except (TapeErr × Pack) (Tail × List Byte × Walk) :=
  match s.walkPiece false w with
  | .error e => .error e
  | .ok (tl, b, w) =>
    let whole : Except (TapeErr × Pack) (List Byte × Walk) :=
      if tl.seg = 0 then .ok (b, w) else if tl.seg = 3 then s.walkRest tl (2 ^ 24) b w else .error (.fmt 2, w.pk)
    match whole with
    | .error e => .error e
    | .ok (body, w) =>
      if tl.rk = 1 then (if tl.an ∨ tl.enc ≠ 0 ∨ !body.isEmpty then .error (.fmt 2, w.pk) else .ok (tl, [], w))
      else
        let n := if tl.rk = 0 then 8 else 324
        if tl.an ∧ tl.enc = 2 then .error (.fmt 2, w.pk)
        else if tl.enc = 0 then (if body.length = n then .ok (tl, body, w) else .error (.fmt 2, w.pk))
        else match unzrun n body with
          | some v => .ok (tl, v, w)
          | none => .error (.fmt 2, w.pk)

/-- A walk past the anchors (R289): each is applied where it stands, and stays applied; then the record. -/
def State.walkPop (s : State) : Nat → Walk → Walk × Except (TapeErr × Pack) (Tail × List Byte × Walk)
  | 0, w => (w, .error (.fmt 2, w.pk))
  | fuel + 1, w =>
    match s.walkRecord w with
    | .error e => (w, .error e)
    | .ok (tl, v, w') =>
      if tl.an then
        let site := BitVec.ofNat 8 tl.site
        let vec := tl.rk = 2
        if (w'.sp.site site vec).isNone ∧ w'.sp.sites.length ≥ 8 then (w, .error (.fmt 2, w'.pk))
        else s.walkPop fuel { w' with sp := { w'.sp with sites := ⟨site, vec, v⟩ :: w'.sp.without site vec } }
      else (w, .ok (tl, v, w'))

/-- A pop of a record of kind `rk` under `site` into register `reg` (R289, R290). -/
def State.pop (s : State) (site : BitVec 8) (rk reg : Nat) (wr : List Byte → Bool → Wr) : Host.Outcome State Fault Refusal :=
  let r := s.walkPop (2 ^ 24) ⟨s.pk, s.ctx.spin⟩
  let base (k : Pack) : State := ({ s with pk := k }).updSpin (fun _ => r.1.sp)
  match r.2 with
  | .error (e, k) => deliver ((base k).logWalk e) (failWith ((base k).walkFault site.toNat reg e))
  | .ok (tl, v, w) =>
    let base := base w.pk
    let vec := tl.rk == 2
    let old := w.sp.site site vec
    if tl.site ≠ site.toNat then deliver base (failWith (base.tapeFault 0x1C 1 site.toNat))
    else if tl.rk ≠ rk then deliver base (failWith (base.tapeFault 0x1C 2 site.toNat))
    else if tl.enc = 2 ∧ old.isNone then deliver base (failWith (base.tapeFault 0x1D 4 site.toNat))
    else
      let oldVal := (old.map Site.val).getD []
      let (x, sites) : List Byte × List Site :=
        if tl.enc = 2 then
          (oldVal, w.sp.sites.map (fun e => if e.site = site ∧ e.vec = vec then { e with val := xorBytes oldVal v } else e))
        else (v, if rk = 1 then w.sp.sites else w.sp.without site vec)
      done ((({ s with pk := w.pk }).updSpin (fun _ => { w.sp with sites := sites, recs := w.sp.recs - 1 })).put 4 (wr x tl.pv))

def execTpop (t : BitVec 8) (r : BitVec 5) (k : BitVec 2) (s : State) : Host.Outcome State Fault Refusal :=
  s.needMode .replay t.toNat (fun _ =>
    if k = 0 then s.pop t 0 r.toNat (fun v _ => .s r.toNat (BitVec.ofNat 64 (leNat v)))
    else s.pop t 2 r.toNat (fun v _ => .v r.toNat (vregImage v)))
def execTpopp (t : BitVec 8) (r : BitVec 5) (s : State) : Host.Outcome State Fault Refusal :=
  s.needMode .replay t.toNat (fun _ => s.pop t 1 r.toNat (fun _ b => .p r.toNat b))

end Sys2Proof.Machine
end

