-- ==== Sys2Proof/Machine/Dispatch.lean ====
section
/-! DEFINITION. One arm for each constructor of `Instr`: a direct call of its meaning. -/
namespace Sys2Proof.Machine
open Sys2Proof

def exec (i : Instr) (s : State) : Host.Outcome State Fault Refusal :=
  match i with
  | .add d a b => Sys2Proof.Machine.execAdd d a b s
  | .sub d a b => Sys2Proof.Machine.execSub d a b s
  | .mul d a b => Sys2Proof.Machine.execMul d a b s
  | .mulh d a b => Sys2Proof.Machine.execMulh d a b s
  | .mulhn d a b => Sys2Proof.Machine.execMulhn d a b s
  | .div d a b => Sys2Proof.Machine.execDiv d a b s
  | .divn d a b => Sys2Proof.Machine.execDivn d a b s
  | .rem d a b => Sys2Proof.Machine.execRem d a b s
  | .remn d a b => Sys2Proof.Machine.execRemn d a b s
  | .and d a b => Sys2Proof.Machine.execAnd d a b s
  | .or d a b => Sys2Proof.Machine.execOr d a b s
  | .xor d a b => Sys2Proof.Machine.execXor d a b s
  | .andn d a b => Sys2Proof.Machine.execAndn d a b s
  | .sll d a b => Sys2Proof.Machine.execSll d a b s
  | .srl d a b => Sys2Proof.Machine.execSrl d a b s
  | .sra d a b => Sys2Proof.Machine.execSra d a b s
  | .min d a b => Sys2Proof.Machine.execMin d a b s
  | .max d a b => Sys2Proof.Machine.execMax d a b s
  | .minn d a b => Sys2Proof.Machine.execMinn d a b s
  | .maxn d a b => Sys2Proof.Machine.execMaxn d a b s
  | .clz d a => Sys2Proof.Machine.execClz d a s
  | .ctz d a => Sys2Proof.Machine.execCtz d a s
  | .popc d a => Sys2Proof.Machine.execPopc d a s
  | .adds d a b t => Sys2Proof.Machine.execAdds d a b t s
  | .subs d a b t => Sys2Proof.Machine.execSubs d a b t s
  | .sext d a w => Sys2Proof.Machine.execSext d a w s
  | .zext d a w => Sys2Proof.Machine.execZext d a w s
  | .bfx d a b x => Sys2Proof.Machine.execBfx d a b x s
  | .bfi d a b => Sys2Proof.Machine.execBfi d a b s
  | .mov d a => Sys2Proof.Machine.execMov d a s
  | .addi d a i_ => Sys2Proof.Machine.execAddi d a i_ s
  | .muli d a i_ => Sys2Proof.Machine.execMuli d a i_ s
  | .andi d a i_ => Sys2Proof.Machine.execAndi d a i_ s
  | .ori d a i_ => Sys2Proof.Machine.execOri d a i_ s
  | .xori d a i_ => Sys2Proof.Machine.execXori d a i_ s
  | .slli d a i_ => Sys2Proof.Machine.execSlli d a i_ s
  | .srli d a i_ => Sys2Proof.Machine.execSrli d a i_ s
  | .srai d a i_ => Sys2Proof.Machine.execSrai d a i_ s
  | .mini d a i_ => Sys2Proof.Machine.execMini d a i_ s
  | .maxi d a i_ => Sys2Proof.Machine.execMaxi d a i_ s
  | .li d i_ => Sys2Proof.Machine.execLi d i_ s
  | .lih d a i_ => Sys2Proof.Machine.execLih d a i_ s
  | .cmpeq d a b => Sys2Proof.Machine.execCmpeq d a b s
  | .cmpne d a b => Sys2Proof.Machine.execCmpne d a b s
  | .cmplt d a b => Sys2Proof.Machine.execCmplt d a b s
  | .cmple d a b => Sys2Proof.Machine.execCmple d a b s
  | .cmpltn d a b => Sys2Proof.Machine.execCmpltn d a b s
  | .cmplen d a b => Sys2Proof.Machine.execCmplen d a b s
  | .cmpeqi d a i_ => Sys2Proof.Machine.execCmpeqi d a i_ s
  | .cmpnei d a i_ => Sys2Proof.Machine.execCmpnei d a i_ s
  | .cmplti d a i_ => Sys2Proof.Machine.execCmplti d a i_ s
  | .cmplei d a i_ => Sys2Proof.Machine.execCmplei d a i_ s
  | .cmpgti d a i_ => Sys2Proof.Machine.execCmpgti d a i_ s
  | .cmpgei d a i_ => Sys2Proof.Machine.execCmpgei d a i_ s
  | .pand d a b => Sys2Proof.Machine.execPand d a b s
  | .por d a b => Sys2Proof.Machine.execPor d a b s
  | .pxor d a b => Sys2Proof.Machine.execPxor d a b s
  | .pandn d a b => Sys2Proof.Machine.execPandn d a b s
  | .pnot d a => Sys2Proof.Machine.execPnot d a s
  | .pmov d a => Sys2Proof.Machine.execPmov d a s
  | .pset d v => Sys2Proof.Machine.execPset d v s
  | .ptos d => Sys2Proof.Machine.execPtos d s
  | .spred a b => Sys2Proof.Machine.execSpred a b s
  | .hmk d a b => Sys2Proof.Machine.execHmk d a b s
  | .hadd d a b => Sys2Proof.Machine.execHadd d a b s
  | .haddi d a i_ => Sys2Proof.Machine.execHaddi d a i_ s
  | .hidx d a => Sys2Proof.Machine.execHidx d a s
  | .hoff d a => Sys2Proof.Machine.execHoff d a s
  | .hseto d a b => Sys2Proof.Machine.execHseto d a b s
  | .hmov d a => Sys2Proof.Machine.execHmov d a s
  | .hchk d a b c => Sys2Proof.Machine.execHchk d a b c s
  | .b o => Sys2Proof.Machine.execB o s
  | .bx a => Sys2Proof.Machine.execBx a s
  | .call o => Sys2Proof.Machine.execCall o s
  | .callx a => Sys2Proof.Machine.execCallx a s
  | .ret => Sys2Proof.Machine.execRet s
  | .bempty o w => Sys2Proof.Machine.execBempty o w s
  | .loop l a n => Sys2Proof.Machine.execLoop l a n s
  | .lstrd l a b => Sys2Proof.Machine.execLstrd l a b s
  | .lbrk l => Sys2Proof.Machine.execLbrk l s
  | .launch d a b => Sys2Proof.Machine.execLaunch d a b s
  | .exit => Sys2Proof.Machine.execExit s
  | .ppt r => Sys2Proof.Machine.execPpt r s
  | .frame a b m => Sys2Proof.Machine.execFrame a b m s
  | .nop => Sys2Proof.Machine.execNop s
  | .wmrg d a b x => Sys2Proof.Machine.execWmrg d a b x s
  | .wwait a => Sys2Proof.Machine.execWwait a s
  | .wtest d a => Sys2Proof.Machine.execWtest d a s
  | .tlread d a m => Sys2Proof.Machine.execTlread d a m s
  | .fence p s_ => Sys2Proof.Machine.execFence p s_ s
  | .whzn d m => Sys2Proof.Machine.execWhzn d m s
  | .csrr d c => Sys2Proof.Machine.execCsrr d c s
  | .csrw d a c => Sys2Proof.Machine.execCsrw d a c s
  | .csrs d a c => Sys2Proof.Machine.execCsrs d a c s
  | .csrc d a c => Sys2Proof.Machine.execCsrc d a c s
  | .rdts d => Sys2Proof.Machine.execRdts d s
  | .trap a n => Sys2Proof.Machine.execTrap a n s
  | .rett => Sys2Proof.Machine.execRett s
  | .tbegin a b => Sys2Proof.Machine.execTbegin a b s
  | .trec t r k => Sys2Proof.Machine.execTrec t r k s
  | .trecp t r => Sys2Proof.Machine.execTrecp t r s
  | .tend d => Sys2Proof.Machine.execTend d s
  | .trev a b => Sys2Proof.Machine.execTrev a b s
  | .tpop t r k => Sys2Proof.Machine.execTpop t r k s
  | .tpopp t r => Sys2Proof.Machine.execTpopp t r s
  | .vaddF d a b t => Sys2Proof.Machine.execVaddF d a b t s
  | .vsubF d a b t => Sys2Proof.Machine.execVsubF d a b t s
  | .vmulF d a b t => Sys2Proof.Machine.execVmulF d a b t s
  | .vfma d a b t => Sys2Proof.Machine.execVfma d a b t s
  | .vfms d a b t => Sys2Proof.Machine.execVfms d a b t s
  | .vfnma d a b t => Sys2Proof.Machine.execVfnma d a b t s
  | .vdiv d a b t => Sys2Proof.Machine.execVdiv d a b t s
  | .vminF d a b t => Sys2Proof.Machine.execVminF d a b t s
  | .vmaxF d a b t => Sys2Proof.Machine.execVmaxF d a b t s
  | .vabsF d a t => Sys2Proof.Machine.execVabsF d a t s
  | .vnegF d a t => Sys2Proof.Machine.execVnegF d a t s
  | .vcmpeqF d a b t => Sys2Proof.Machine.execVcmpeqF d a b t s
  | .vcmpltF d a b t => Sys2Proof.Machine.execVcmpltF d a b t s
  | .vcmpleF d a b t => Sys2Proof.Machine.execVcmpleF d a b t s
  | .vcmpun d a b t => Sys2Proof.Machine.execVcmpun d a b t s
  | .vscalb d a b t => Sys2Proof.Machine.execVscalb d a b t s
  | .vrint d a r t => Sys2Proof.Machine.execVrint d a r t s
  | .vaddI u d a b w => Sys2Proof.Machine.execVaddI u d a b w s
  | .vsubI u d a b w => Sys2Proof.Machine.execVsubI u d a b w s
  | .vadds u d a b w => Sys2Proof.Machine.execVadds u d a b w s
  | .vsubs u d a b w => Sys2Proof.Machine.execVsubs u d a b w s
  | .vmulI u d a b w => Sys2Proof.Machine.execVmulI u d a b w s
  | .vmulh u d a b w => Sys2Proof.Machine.execVmulh u d a b w s
  | .vminI u d a b w => Sys2Proof.Machine.execVminI u d a b w s
  | .vmaxI u d a b w => Sys2Proof.Machine.execVmaxI u d a b w s
  | .vcmpeqI u d a b w => Sys2Proof.Machine.execVcmpeqI u d a b w s
  | .vcmpltI u d a b w => Sys2Proof.Machine.execVcmpltI u d a b w s
  | .vcmpleI u d a b w => Sys2Proof.Machine.execVcmpleI u d a b w s
  | .vand u d a b w => Sys2Proof.Machine.execVand u d a b w s
  | .vor u d a b w => Sys2Proof.Machine.execVor u d a b w s
  | .vxor u d a b w => Sys2Proof.Machine.execVxor u d a b w s
  | .vnot u d a w => Sys2Proof.Machine.execVnot u d a w s
  | .vsll u d a b w => Sys2Proof.Machine.execVsll u d a b w s
  | .vsrl u d a b w => Sys2Proof.Machine.execVsrl u d a b w s
  | .vsra u d a b w => Sys2Proof.Machine.execVsra u d a b w s
  | .vabsI d a w => Sys2Proof.Machine.execVabsI d a w s
  | .vnegI d a w => Sys2Proof.Machine.execVnegI d a w s
  | .cvt d a b => Sys2Proof.Machine.execCvt d a b s
  | .qnt d a b => Sys2Proof.Machine.execQnt d a b s
  | .dqnt d a b => Sys2Proof.Machine.execDqnt d a b s
  | .vmov d a => Sys2Proof.Machine.execVmov d a s
  | .vbcast d a f => Sys2Proof.Machine.execVbcast d a f s
  | .vbcastl d a b => Sys2Proof.Machine.execVbcastl d a b s
  | .vperm d a b => Sys2Proof.Machine.execVperm d a b s
  | .vrot d a b => Sys2Proof.Machine.execVrot d a b s
  | .vsel d a b => Sys2Proof.Machine.execVsel d a b s
  | .vrsum d a => Sys2Proof.Machine.execVrsum d a s
  | .vrmax d a => Sys2Proof.Machine.execVrmax d a s
  | .vrmin d a => Sys2Proof.Machine.execVrmin d a s
  | .vdot d a b s_ => Sys2Proof.Machine.execVdot d a b s_ s
  | .vext d a b => Sys2Proof.Machine.execVext d a b s
  | .vins d a b => Sys2Proof.Machine.execVins d a b s
  | .vzip d a b h => Sys2Proof.Machine.execVzip d a b h s
  | .vunzip d a b o => Sys2Proof.Machine.execVunzip d a b o s
  | .exp2 c d a t => Sys2Proof.Machine.execExp2 c d a t s
  | .log2 c d a t => Sys2Proof.Machine.execLog2 c d a t s
  | .rcp c d a t => Sys2Proof.Machine.execRcp c d a t s
  | .rsq c d a t => Sys2Proof.Machine.execRsq c d a t s
  | .sqrt c d a t => Sys2Proof.Machine.execSqrt c d a t s
  | .sin c d a t => Sys2Proof.Machine.execSin c d a t s
  | .cos c d a t => Sys2Proof.Machine.execCos c d a t s
  | .tanh c d a t => Sys2Proof.Machine.execTanh c d a t s
  | .mpush a => Sys2Proof.Machine.execMpush a s
  | .minv => Sys2Proof.Machine.execMinv s
  | .mpop => Sys2Proof.Machine.execMpop s
  | .mmaBf16 d a b t => Sys2Proof.Machine.execMmaBf16 d a b t s
  | .mmaFp8 d a b v u => Sys2Proof.Machine.execMmaFp8 d a b v u s
  | .mmaE2m1 d a b => Sys2Proof.Machine.execMmaE2m1 d a b s
  | .mmaInt8 d a b s_ t => Sys2Proof.Machine.execMmaInt8 d a b s_ t s
  | .mmaQ8 d a b => Sys2Proof.Machine.execMmaQ8 d a b s
  | .mmaQ4 d a b => Sys2Proof.Machine.execMmaQ4 d a b s
  | .mmazBf16 d a b t => Sys2Proof.Machine.execMmazBf16 d a b t s
  | .mmazFp8 d a b v u => Sys2Proof.Machine.execMmazFp8 d a b v u s
  | .mmazE2m1 d a b => Sys2Proof.Machine.execMmazE2m1 d a b s
  | .mmazInt8 d a b s_ t => Sys2Proof.Machine.execMmazInt8 d a b s_ t s
  | .mmazQ8 d a b => Sys2Proof.Machine.execMmazQ8 d a b s
  | .mmazQ4 d a b => Sys2Proof.Machine.execMmazQ4 d a b s
  | .mzero d t => Sys2Proof.Machine.execMzero d t s
  | .mld d a => Sys2Proof.Machine.execMld d a s
  | .mst d a b => Sys2Proof.Machine.execMst d a b s
  | .mrowv d a b => Sys2Proof.Machine.execMrowv d a b s
  | .mvrow d a b => Sys2Proof.Machine.execMvrow d a b s
  | .mcvt d a s_ r t => Sys2Proof.Machine.execMcvt d a s_ r t s
  | .mrec d a b => Sys2Proof.Machine.execMrec d a b s
  | .mrecr d a b m => Sys2Proof.Machine.execMrecr d a b m s
  | .mmov d a => Sys2Proof.Machine.execMmov d a s
  | .ldl d a l z => Sys2Proof.Machine.execLdl d a l z s
  | .stl d a b z => Sys2Proof.Machine.execStl d a b z s
  | .ldlv d a b v => Sys2Proof.Machine.execLdlv d a b v s
  | .stlv d a b v => Sys2Proof.Machine.execStlv d a b v s
  | .ldlx d a b => Sys2Proof.Machine.execLdlx d a b s
  | .stlx d a b => Sys2Proof.Machine.execStlx d a b s
  | .ldlw d a b z => Sys2Proof.Machine.execLdlw d a b z s
  | .ldlvw d a b v => Sys2Proof.Machine.execLdlvw d a b v s
  | .ldc d a l z => Sys2Proof.Machine.execLdc d a l z s
  | .ldcw d a b z => Sys2Proof.Machine.execLdcw d a b z s
  | .spat d a => Sys2Proof.Machine.execSpat d a s
  | .sgo d => Sys2Proof.Machine.execSgo d s
  | .sstop d => Sys2Proof.Machine.execSstop d s
  | .qpop d a l => Sys2Proof.Machine.execQpop d a l s
  | .qpops d a l => Sys2Proof.Machine.execQpops d a l s
  | .qstat d a l => Sys2Proof.Machine.execQstat d a l s
  | .laadd d a b w z => Sys2Proof.Machine.execLaadd d a b w z s
  | .lamin d a b w z => Sys2Proof.Machine.execLamin d a b w z s
  | .lamax d a b w z => Sys2Proof.Machine.execLamax d a b w z s
  | .laand d a b w z => Sys2Proof.Machine.execLaand d a b w z s
  | .laor d a b w z => Sys2Proof.Machine.execLaor d a b w z s
  | .laxor d a b w z => Sys2Proof.Machine.execLaxor d a b w z s
  | .laswp d a b w z => Sys2Proof.Machine.execLaswp d a b w z s
  | .lacas d a b w z => Sys2Proof.Machine.execLacas d a b w z s
  | .lafadd d a b w => Sys2Proof.Machine.execLafadd d a b w s
  | .lafmin d a b w => Sys2Proof.Machine.execLafmin d a b w s
  | .lafmax d a b w => Sys2Proof.Machine.execLafmax d a b w s
  | .wld d a b v => Sys2Proof.Machine.execWld d a b v s
  | .wldx d a l z => Sys2Proof.Machine.execWldx d a l z s
  | .wlds d a b => Sys2Proof.Machine.execWlds d a b s
  | .wsnext d a l => Sys2Proof.Machine.execWsnext d a l s
  | .sinv a b => Sys2Proof.Machine.execSinv a b s
  | .sinva => Sys2Proof.Machine.execSinva s
  | .ldg d a l z => Sys2Proof.Machine.execLdg d a l z s
  | .stg d a b z => Sys2Proof.Machine.execStg d a b z s
  | .ldgv d a b v => Sys2Proof.Machine.execLdgv d a b v s
  | .stgv d a b v => Sys2Proof.Machine.execStgv d a b v s
  | .ldgx d a b => Sys2Proof.Machine.execLdgx d a b s
  | .stgx d a b => Sys2Proof.Machine.execStgx d a b s
  | .ldgw d a b z => Sys2Proof.Machine.execLdgw d a b z s
  | .ldgvw d a b v => Sys2Proof.Machine.execLdgvw d a b v s
  | .ldgxw d a b m => Sys2Proof.Machine.execLdgxw d a b m s
  | .strc d a b z => Sys2Proof.Machine.execStrc d a b z s
  | .strcv d a b v => Sys2Proof.Machine.execStrcv d a b v s
  | .stred d a b t => Sys2Proof.Machine.execStred d a b t s
  | .copy => Sys2Proof.Machine.execCopy s
  | .copyl => Sys2Proof.Machine.execCopyl s
  | .copyg => Sys2Proof.Machine.execCopyg s
  | .pref a b f => Sys2Proof.Machine.execPref a b f s
  | .skrd => Sys2Proof.Machine.execSkrd s
  | .skpat => Sys2Proof.Machine.execSkpat s
  | .gaadd d a b w z => Sys2Proof.Machine.execGaadd d a b w z s
  | .gamin d a b w z => Sys2Proof.Machine.execGamin d a b w z s
  | .gamax d a b w z => Sys2Proof.Machine.execGamax d a b w z s
  | .gaand d a b w z => Sys2Proof.Machine.execGaand d a b w z s
  | .gaor d a b w z => Sys2Proof.Machine.execGaor d a b w z s
  | .gaxor d a b w z => Sys2Proof.Machine.execGaxor d a b w z s
  | .gaswp d a b w z => Sys2Proof.Machine.execGaswp d a b w z s
  | .gacas d a b w z => Sys2Proof.Machine.execGacas d a b w z s
  | .gafadd d a b w => Sys2Proof.Machine.execGafadd d a b w s
  | .gafmin d a b w => Sys2Proof.Machine.execGafmin d a b w s
  | .gafmax d a b w => Sys2Proof.Machine.execGafmax d a b w s
  | .mscwb d a b => Sys2Proof.Machine.execMscwb d a b s
  | .mscinv d a b => Sys2Proof.Machine.execMscinv d a b s
  | .gtt => Sys2Proof.Machine.execGtt s
  | .ggo => Sys2Proof.Machine.execGgo s
  | .gsave => Sys2Proof.Machine.execGsave s
  | .grestore => Sys2Proof.Machine.execGrestore s
  | .gstat => Sys2Proof.Machine.execGstat s
  | .coll => Sys2Proof.Machine.execColl s
  | .embr => Sys2Proof.Machine.execEmbr s
  | .vprep => Sys2Proof.Machine.execVprep s
  | .vround d a l o => Sys2Proof.Machine.execVround d a l o s
  | .vstat => Sys2Proof.Machine.execVstat s
  | .idleBundle => Sys2Proof.Machine.execIdleBundle s
  | .emptyStampedBundle => Sys2Proof.Machine.execEmptyStampedBundle s
  | .nullifiedBundle => Sys2Proof.Machine.execNullifiedBundle s
  | .fixedLatencyWrite => Sys2Proof.Machine.execFixedLatencyWrite s
  | .landing => Sys2Proof.Machine.execLanding s
  | .loadDataArrival => Sys2Proof.Machine.execLoadDataArrival s
  | .droopTrip => Sys2Proof.Machine.execDroopTrip s
  | .stretchEnd => Sys2Proof.Machine.execStretchEnd s
  | .halfIssueEnd => Sys2Proof.Machine.execHalfIssueEnd s
  | .throttleStepChange => Sys2Proof.Machine.execThrottleStepChange s
  | .rampDwell => Sys2Proof.Machine.execRampDwell s
  | .enrgUpdate => Sys2Proof.Machine.execEnrgUpdate s
  | .schedulingRound => Sys2Proof.Machine.execSchedulingRound s
  | .contextStart => Sys2Proof.Machine.execContextStart s
  | .wsLoadDone => Sys2Proof.Machine.execWsLoadDone s
  | .yieldWindowExpiry => Sys2Proof.Machine.execYieldWindowExpiry s
  | .contextSaveDone => Sys2Proof.Machine.execContextSaveDone s
  | .contextRestore => Sys2Proof.Machine.execContextRestore s
  | .cstail => Sys2Proof.Machine.execCstail s
  | .csctlEn => Sys2Proof.Machine.execCsctlEn s
  | .csstatErrClear => Sys2Proof.Machine.execCsstatErrClear s
  | .contextRelease => Sys2Proof.Machine.execContextRelease s
  | .launchRetire => Sys2Proof.Machine.execLaunchRetire s
  | .coalesceExpiry => Sys2Proof.Machine.execCoalesceExpiry s
  | .unmap => Sys2Proof.Machine.execUnmap s
  | .migrate => Sys2Proof.Machine.execMigrate s
  | .bufferServiceResume => Sys2Proof.Machine.execBufferServiceResume s
  | .matrixOccupancyStart => Sys2Proof.Machine.execMatrixOccupancyStart s
  | .matrixOccupancyEnd => Sys2Proof.Machine.execMatrixOccupancyEnd s
  | .matrixCompletion => Sys2Proof.Machine.execMatrixCompletion s
  | .streamElement => Sys2Proof.Machine.execStreamElement s
  | .wldsComplete => Sys2Proof.Machine.execWldsComplete s
  | .wsReadRelease => Sys2Proof.Machine.execWsReadRelease s
  | .copyPerformed => Sys2Proof.Machine.execCopyPerformed s
  | .copyFailure => Sys2Proof.Machine.execCopyFailure s
  | .pageRequestTimeout => Sys2Proof.Machine.execPageRequestTimeout s
  | .storePerformed => Sys2Proof.Machine.execStorePerformed s
  | .homeAtomic => Sys2Proof.Machine.execHomeAtomic s
  | .mscRead => Sys2Proof.Machine.execMscRead s
  | .pinEnable => Sys2Proof.Machine.execPinEnable s
  | .pinLoadDone => Sys2Proof.Machine.execPinLoadDone s
  | .pinRelease => Sys2Proof.Machine.execPinRelease s
  | .pinFade => Sys2Proof.Machine.execPinFade s
  | .budgetPeriod => Sys2Proof.Machine.execBudgetPeriod s
  | .absh => Sys2Proof.Machine.execAbsh s
  | .gttLoad => Sys2Proof.Machine.execGttLoad s
  | .ggoArm => Sys2Proof.Machine.execGgoArm s
  | .timetableStart => Sys2Proof.Machine.execTimetableStart s
  | .timetableEntry => Sys2Proof.Machine.execTimetableEntry s
  | .rowPass => Sys2Proof.Machine.execRowPass s
  | .saveModeEntry => Sys2Proof.Machine.execSaveModeEntry s
  | .gougeRestore => Sys2Proof.Machine.execGougeRestore s
  | .stateWindowAccess => Sys2Proof.Machine.execStateWindowAccess s
  | .selfRefreshRequest => Sys2Proof.Machine.execSelfRefreshRequest s
  | .powerDownRequest => Sys2Proof.Machine.execPowerDownRequest s
  | .activeRequest => Sys2Proof.Machine.execActiveRequest s
  | .parkDone => Sys2Proof.Machine.execParkDone s
  | .remoteAccess => Sys2Proof.Machine.execRemoteAccess s
  | .remoteQuery => Sys2Proof.Machine.execRemoteQuery s
  | .queryAnswer => Sys2Proof.Machine.execQueryAnswer s
  | .completionMark => Sys2Proof.Machine.execCompletionMark s
  | .deviceFailed => Sys2Proof.Machine.execDeviceFailed s
  | .remoteErrorTimeout => Sys2Proof.Machine.execRemoteErrorTimeout s
  | .flitRetry => Sys2Proof.Machine.execFlitRetry s
  | .domainJoin => Sys2Proof.Machine.execDomainJoin s
  | .routeEnable => Sys2Proof.Machine.execRouteEnable s
  | .collPerformed => Sys2Proof.Machine.execCollPerformed s
  | .embrEntry => Sys2Proof.Machine.execEmbrEntry s
  | .hostMemAccess => Sys2Proof.Machine.execHostMemAccess s
  | .veneerEnable => Sys2Proof.Machine.execVeneerEnable s
  | .standbyUpdate => Sys2Proof.Machine.execStandbyUpdate s
  | .veneerDissolve => Sys2Proof.Machine.execVeneerDissolve s
  | .groupJoinDone => Sys2Proof.Machine.execGroupJoinDone s
  | .deltaWrite => Sys2Proof.Machine.execDeltaWrite s
  | .deltaLogRelease => Sys2Proof.Machine.execDeltaLogRelease s
  | .stagingDelta => Sys2Proof.Machine.execStagingDelta s
  | .prepared => Sys2Proof.Machine.execPrepared s
  | .commit => Sys2Proof.Machine.execCommit s
  | .committed => Sys2Proof.Machine.execCommitted s
  | .rolledback => Sys2Proof.Machine.execRolledback s
  | .resolveDecision => Sys2Proof.Machine.execResolveDecision s
  | .rebuildShare => Sys2Proof.Machine.execRebuildShare s
  | .deferredFault => Sys2Proof.Machine.execDeferredFault s
  | .handlerStart => Sys2Proof.Machine.execHandlerStart s
  | .heldSnapshotReplay => Sys2Proof.Machine.execHeldSnapshotReplay s
  | .firmwareLoad => Sys2Proof.Machine.execFirmwareLoad s
  | .firmwareVerifyDone => Sys2Proof.Machine.execFirmwareVerifyDone s
  | .fullServiceEntry => Sys2Proof.Machine.execFullServiceEntry s
  | .attestationRequest => Sys2Proof.Machine.execAttestationRequest s
  | .attestationDone => Sys2Proof.Machine.execAttestationDone s
  | .fatalError => Sys2Proof.Machine.execFatalError s
  | .partReset => Sys2Proof.Machine.execPartReset s
  | .registerWrite => Sys2Proof.Machine.execRegisterWrite s
  | .targetCycleEnd => Sys2Proof.Machine.execTargetCycleEnd s
  | .temperatureOrCurrentLimit => Sys2Proof.Machine.execTemperatureOrCurrentLimit s
  | .queryHoldExpiry => Sys2Proof.Machine.execQueryHoldExpiry s
  | .deltaAcknowledgement => Sys2Proof.Machine.execDeltaAcknowledgement s
  | .resolveVglcrReport => Sys2Proof.Machine.execResolveVglcrReport s
  | .markReceived => Sys2Proof.Machine.execMarkReceived s

end Sys2Proof.Machine
end

