-- ==== Sys2Proof/Machine/Issue.lean ====
section
/-! DEFINITION. A cycle of a core: the writes due, the array, the two contexts' turns under the merge stage, the end of the
cycle (R137–R156, R165–R171, R296); and the order of the cores in time (log 6). -/
namespace Sys2Proof.Machine
open Sys2Proof

/-! ### Turns -/

/-- The contexts change places in focus. -/
def State.swap (s : State) : State := { s with ctx := s.sib, sib := s.ctx }
def State.aFirst (s : State) : State := if s.ctx.num % 2 = 0 then s else s.swap
/-- The context in focus has had its turn. -/
def State.passTurn (s : State) : State :=
  if s.core.turn = 1 then { s.swap with core := { s.core with turn := 2 } } else { s.aFirst with core := { s.core with turn := 3 } }
def thenDo (f : State → State) : Host.Outcome State Fault Refusal → Host.Outcome State Fault Refusal
  | .next t => .next (f t)
  | o => o

/-- Half nanoseconds of the present cycle (R165). -/
def State.cycleLen (s : State) : Nat := if s.core.phase > 64 then 2 * s.pk.period else s.pk.period
/-- A cycle that may carry no slot (R165), and one that issues at most one bundle (R166). -/
def Core.blocked (c : Core) : Bool := 0 < c.phase && c.phase ≤ 64 && c.phase % 2 == 1
def Core.halfIssue (c : Core) : Bool := 0 < c.phase && c.phase ≤ 64

/-- Where a stamped bundle stands (R153, R154). -/
inductive Stamp where
  | free | early | now | late | range
  deriving DecidableEq, Repr
def State.stampOf (s : State) (c : Ctx) (h : Header) : Stamp :=
  if !c.csr.det || h.sv == 0 then .free
  else if (h.stamp.toNat : Int) ≥ c.frLen then .range
  else
    let now := c.ft s.pk.halves
    let t := c.targetFt s.pk.halves h
    if t < now then .late else if now + s.cycleLen ≤ t then .early else .now

/-- The header at a context's pc. -/
def State.headerOf (s : State) (c : Ctx) : Header := decodeHeader (BitVec.ofNat 32 (leNat (s.pk.dpaRead c.pc.toNat 4)))
/-- The context's next bundle is a stamped one in its target cycle (R154). -/
def State.stampDue (s : State) (c : Ctx) : Bool :=
  c.mode == .run && c.faults.isEmpty && c.owe == 0 && c.notBefore ≤ s.core.cyc && !c.framed &&
    (s.headerOf c).pm != 0 && s.stampOf c (s.headerOf c) == .now
/-- Which context goes first (R140, R141, R154): the contexts stand with A in focus. -/
def State.bFirst (s : State) : Bool :=
  if s.stampDue s.ctx then false
  else if s.stampDue s.sib then true
  else s.core.bdefer ≥ max 1 (bits s.core.mergeage 7 0)

/-! ### One bundle -/

/-- The issue record set for one slot (R117: the X word belongs to the slot that XR names). -/
def State.openSlot (s : State) (b : Bundle) (p : Slot × BitVec 32 × SlotInstr) : State :=
  s.updIss (fun i => { i with
    slot := p.1, word := p.2.1, ops := p.2.2.ops
    x := if xSlot b.hdr.xr = some p.1 then b.xw else none
    stalled := false, fault := none })

/-- What an attempt that issued nothing leaves behind: the queries it asked of other devices, the reading of a pattern record
(R142, R316) and the entries its port asks for (R331). -/
def State.keepAsked (s0 t : State) : State :=
  ((s0.updPk (fun k => { k with fab := t.pk.fab, opCtr := t.pk.opCtr })).updCtx (fun c => { c with stallAt := t.ctx.stallAt })).updCore
    (fun c => { c with entries := t.core.entries })
/-- A stall undoes the bundle. -/
def State.asStalled (s0 t : State) : State := (s0.keepAsked t).updIss (fun i => { i with stalled := true })
/-- A fault of a later slot undoes the bundle and is taken (R18, R479); an error that `t` has met stays logged (R497). -/
def State.asFaulted (s0 t : State) (r : FaultRec) : State :=
  (if r.code = 0x1E then s0.updPk (fun k => [0x72000, 0x72008, 0x72010].foldl (fun (k : Pack) o => k.ioWr o (t.pk.ioRd o)) k) else s0).takeFault r

/-- The executing slots in order, from `t`; `flt` is the outcome of the first that failed, `first` that none has executed yet.
A stall of any slot comes before the fault of another (R142, R479; log 19). -/
def runSlots (b : Bundle) (s0 : State) :
    State → Option State → Bool → List (Slot × BitVec 32 × SlotInstr) → Host.Outcome State Fault Refusal
  | t, flt, _, [] => .next (flt.getD t)
  | t, flt, first, p :: ps =>
    if s0.ctx.executes b.hdr.lql.toNat p.2.2 then
      match exec p.2.2.i (t.openSlot b p) with
      | .next u =>
        if u.ctx.iss.stalled then .next (s0.asStalled u)
        else match u.ctx.iss.fault with
          | some r => runSlots b s0 t (flt.or (some (if first then u else s0.asFaulted u r))) first ps
          | none => runSlots b s0 u flt false ps
      | o => o
    else runSlots b s0 t flt first ps

/-- The record of an encoding fault (R121, R474, R477). -/
def State.encFault (s : State) (e : EncFault) (words : Nat) : FaultRec :=
  let mk (code : Nat) (sl : Slot) (w : BitVec 32) : FaultRec :=
    { s.faultRec code 0 0 (w.zeroExtend 64) with slot := sl.code, pc := s.ctx.pc, blen := words }
  match e with
  | .reservedEncoding sl w => mk 0x02 sl w
  | .illegalProfile w => mk 0x03 .header w
  | .illegalXRole sl w => mk 0x04 sl w
  | .illegalOpcode sl w => mk 0x05 sl w

/-- What becomes of the bundle at the pc in the present cycle: it waits, the state as the attempt leaves it; or it takes its fault,
`reads` when that may rest on a register whose landing has no data yet; or it issues or passes. -/
inductive Turn where
  | waits (t : State)
  | faults (reads : Bool) (t : State)
  | goes (o : Host.Outcome State Fault Refusal)

/-- The other context's bundle of this cycle keeps these slots out (R140, R166). -/
def State.clashes (s : State) (mine : List Slot) : Bool :=
  !s.core.taken.isEmpty && (s.core.halfIssue || mine.any s.core.taken.contains)

/-- B's ready bundle is deferred for a slot clash with A's (R141). -/
def State.deferB (s : State) : State :=
  if s.ctx.num % 2 = 1 ∧ s.core.turn = 2 then s.updCore (fun c => { c with bdefer := c.bdefer + 1 }) else s
/-- A stamped bundle in its target cycle that does not issue in it (R154). -/
def State.misses (s : State) : Turn :=
  match exec .targetCycleEnd s with
  | .next t => .faults false t
  | o => .goes o
/-- A word that may name register `r`, itself or as one of the up to four that a field names. -/
def wordNames (r : Nat) (w : BitVec 32) : Bool :=
  let e := engineOpsOf w.toNat
  [e.d, e.a, e.b].any (fun f => decide ((r + 32 - f.toNat) % 32 < 4))
/-- An executing slot of the bundle may read a register whose landing is due and has no data (R146). -/
def State.readsAbsent (s : State) (b : Bundle) : Bool :=
  let ws := (b.slots.filter (fun p => s.ctx.executes b.hdr.lql.toNat p.2.2)).map (fun p => p.2.1) ++ b.xw.toList
  s.ctx.pend.any (fun p => decide (p.due ≤ s.core.cyc) && !p.ready && (match p.wr with
    | .s r _ => ws.any (wordNames r)
    | .v r _ => ws.any (wordNames r)
    | .none => false
    | _ => true))

/-- A bundle with slots issues, stalls, faults or is deferred (R140–R142, R149, R154, R165, R166). -/
def State.tryBundle (s : State) (b : Bundle) (st : Stamp) : Turn :=
  let mine := b.slots.map Prod.fst ++ (if b.xw.isSome then [Slot.X] else [])
  let clash := s.clashes mine
  let miss (t : State) : Turn := if st = .now then t.misses else .waits t
  if s.core.blocked then miss s
  else if clash && st == .now && s.core.stampTaken && mine.any s.core.taken.contains then .faults false (s.enterTrap (s.overrun 3))
  else
    let s1 := s.openBundle s.headerWord
    match runSlots b s1 s1 none true b.slots with
    | .next t =>
      if t.ctx.iss.stalled then miss t
      else if clash then miss s.deferB
      else if t.ctx.iss.fault.isSome then .faults (s.readsAbsent b) t
      else .goes (.next ((t.endBundle s.ctx.flying b.slots).updCore (fun c => { c with
        taken := c.taken ++ mine
        bdefer := if s.ctx.num % 2 = 1 then 0 else c.bdefer
        stampTaken := c.stampTaken || st == .now })).passTurn)
    | o => .goes o

/-- The slots a header presents (R112). -/
def slotsOf (h : Header) : List Slot :=
  (List.zip [Slot.X, .G, .L, .M, .V1, .V0, .S] (List.range 7)).reverse.filterMap (fun p => if h.pm.getLsbD p.2 then some p.1 else none)

/-- A bundle that fails a check of R121 takes its fault, as `t`, in the cycle in which it would otherwise issue: it waits for its
stamp, for a permitted cycle, and for its slots, deferred like any other (R140, R141, R166, R479). One whose header cannot be
fetched has neither stamp nor slots: it waits for a cycle that half issue leaves it. -/
def State.turnOfBad (s t : State) (h : Option Header) : Turn :=
  match h with
  | none => if s.core.blocked then .waits s else if s.clashes [] then .waits s.deferB else .faults false t
  | some h =>
    let st := s.stampOf s.ctx h
    if st = .early ∨ (h.pm ≠ 0 ∧ s.core.blocked) then .waits s
    else if h.pm ≠ 0 ∧ s.clashes (slotsOf h) ∧ st ≠ .now then .waits s.deferB
    else .faults false t

/-- The bundle at the pc of the context in focus in the present cycle (R118, R121, R149, R153, R154). An idle bundle begins in no
blocked cycle (log 25). -/
def State.turnOf (s : State) : Turn :=
  let c := s.ctx
  let hw := s.headerWord
  let h := decodeHeader hw
  let st := s.stampOf c h
  match s.fetchFault with
  | some r => s.turnOfBad ((s.logFetch r).enterTrap r) (if s.headerBad then none else some h)
  | none =>
    match decodeBundle s.pk.reduced hw ((s.bundleWords (1 + h.slotWords)).drop 1) with
    | .error e => s.turnOfBad (s.enterTrap (s.encFault e (1 + h.slotWords))) (some h)
    | .ok b =>
      if st = .range then .faults false (s.enterTrap (s.overrun 2))
      else if st = .late then .faults false (s.enterTrap (s.overrun 1))
      else if st = .early then .waits s
      else if h.pm = 0 then
        if h.sv = 1 then .goes (thenDo State.passTurn (exec .emptyStampedBundle s))
        else if s.core.blocked then .waits s
        else .goes (thenDo State.passTurn (exec .idleBundle s))
      else if b.slots.all (fun p => c.knownIdle h.lql.toNat p.2.2) then
        if c.nullCosts then .goes (thenDo State.passTurn (exec .nullifiedBundle s)) else .goes (exec .nullifiedBundle s)
      else s.tryBundle b st

/-- The turn of a bundle with which held results replay. -/
def State.replayTurn (s : State) : Turn := (s.updCtx (fun c => c.replayNow s.core.cyc)).turnOf
/-- The bundle's turn. Held results replay with the bundle that goes, not with one that waits (R156, R489); with one that takes a
fault they stay held (R490). -/
def State.bundleTurn (s : State) : Host.Outcome State Fault Refusal :=
  if s.ctx.replaysNow then
    match s.replayTurn with
    | .waits t => .next ((s.keepAsked t).updCore (fun c => { c with bdefer := t.core.bdefer })).passTurn
    | .faults _ t => .next (t.updCtx (fun c => if c.mode = .entering then { c with held := s.ctx.heldAgain s.core.cyc } else c)).passTurn
    | .goes o => if s.ctx.replayWaits then .next s.passTurn else match o with
      | .next _ => exec .heldSnapshotReplay s
      | _ => o
  else match s.turnOf with
    | .waits t => .next t.passTurn
    | .faults _ t => .next t.passTurn
    | .goes o => o

/-- The points a restored context waits for are complete (R396). -/
def State.pointsMet (s : State) : Bool := s.ctx.points.all (fun p => (s.pk.tl p.1).head ≥ p.2)
/-- An uncorrectable error in the context's own state (R484, R496, R497): logged with KIND 6, and a context that is
neither frozen nor ended freezes. -/
def State.coreError (s : State) : State :=
  let s := s.updCtx (fun c => { c with ue := false })
  if s.ctx.mode = .run ∨ s.ctx.mode = .entering ∨ s.ctx.mode = .waiting ∨ s.ctx.mode = .saving ∨ s.ctx.mode = .starting then
    (s.updPk (fun k => k.logError 6 s.ctx.num 0)).freeze 3 s.ctx.pc { s.faultRec 0x1E 0 with slot := 0 }
  else s

/-- The turn of the context in focus. -/
def State.contextTurn (s : State) : Host.Outcome State Fault Refusal :=
  let c := s.ctx
  if c.ue then .next s.coreError.passTurn
  else match c.mode with
  | .run =>
    if c.pptYields s.core.cyc then .next (s.yieldHere c.pptRec).passTurn
    else if !c.faults.isEmpty then thenDo State.passTurn (exec .deferredFault s)
    else if c.owe > 0 then
      .next (s.updCtx (fun c => let c := { c with owe := c.owe - 1 }
                                if c.framed then c else c.markFrame s.pk.halves)).passTurn
    else if c.notBefore > s.core.cyc then .next s.passTurn
    else if c.windowOver s.core.age then thenDo State.passTurn (exec .yieldWindowExpiry s)
    else if c.framed then .next s.passTurn
    else s.bundleTurn
  | .entering =>
    if c.notBefore ≤ s.core.cyc && s.drained s.sideNo then exec .handlerStart s else .next s.passTurn
  | .waiting =>
    if c.windowOver s.core.age then thenDo State.passTurn (exec .yieldWindowExpiry s)
    else if s.pointsMet then .next (s.updCtx (fun c => { c with mode := .run, points := [] })) else .next s.passTurn
  | _ => .next s.passTurn

/-! ### One cycle -/

/-- Direct tile writes fall due (R264). -/
def Ctx.writeTiles (c : Ctx) (cyc : Nat) : Ctx :=
  let now := c.mwrites.filter (fun w => decide (w.1 ≤ cyc))
  { c with
    m := now.foldl (fun m w => m.setIfInBounds w.2.1 w.2.2) c.m
    busy := now.foldl (fun (b : BitVec 16) w => b &&& ~~~(1#16 <<< w.2.1)) c.busy
    mwrites := c.mwrites.filter (fun w => decide (cyc < w.1)) }
def Ctx.tilesDue (c : Ctx) (cyc : Nat) : Bool := c.mwrites.any (fun w => decide (w.1 ≤ cyc))

def State.updSib (s : State) (f : Ctx → Ctx) : State := { s with sib := f s.sib }

/-- The step that writes one due entry. -/
def dueStep (p : Pend) : Instr := if p.land ≠ 0 ∨ p.buf then .landing else .fixedLatencyWrite

/-- A context that waits for FRPOS.POS reaches it in the present cycle, and that frame is its reference (R156). -/
def State.frameComes (s : State) (c : Ctx) : Bool := s.atBundle c && c.framed && c.atPosition s.pk.halves s.cycleLen
def State.unframe (s : State) (c : Ctx) : Ctx :=
  if s.frameComes c then { c.refer (c.positionFt s.pk.halves) with framed := false } else c

/-- After FRAME the reference frame is the present one when the context reaches its next bundle (R151, R198). -/
def State.reframes (s : State) (c : Ctx) : Bool := s.atBundle c && !c.framed && c.reframe
def State.reframed (s : State) (c : Ctx) : Ctx :=
  if s.reframes c then { c.refer (c.ft s.pk.halves) with reframe := false } else c

/-- The state as the first context's turn leaves it, within `n` of its parts. -/
def State.afterFirst : Nat → State → State
  | 0, s => s
  | n + 1, s =>
    if s.core.turn = 1 then match s.contextTurn with
      | .next t => t.afterFirst n
      | _ => s
    else s
/-- The bundle of the context in focus issues in this cycle but for a landing that replays with it and has no data, or takes a fault
that may rest on that data: the core freezes (R146, R489, log 58). -/
def State.replayHolds (s : State) : Bool :=
  s.ctx.replaysNow && s.ctx.replayWaits && s.atBundle s.ctx && !s.ctx.framed && !s.ctx.ue && !s.ctx.pptYields s.core.cyc &&
    !s.ctx.windowOver s.core.age && (match s.replayTurn with
      | .waits _ => false
      | .faults reads _ => reads
      | .goes _ => true)
/-- Either context's does; the second's is judged after the first's turn. -/
def State.replayFreezes (s : State) : Bool :=
  s.replayHolds || (s.sib.replaysNow && s.sib.replayWaits && (s.afterFirst 8).replayHolds)

/-- The turns begin. -/
def State.firstTurn (s : State) : State :=
  let s := s.aFirst
  if s.bFirst then { s.swap with core := { s.core with turn := 1 } } else { s with core := { s.core with turn := 1 } }

/-- The beginning of a cycle: what falls due in it, then the first turn. A stretched cycle's second period passes first. -/
def State.cycleStart (s : State) : Host.Outcome State Fault Refusal :=
  let cyc := s.core.cyc
  if s.core.stretched then .next (s.updCore (fun c => { c with stretched := false, turn := 5 }))
  else if s.frameComes s.ctx || s.frameComes s.sib then .next ((s.updCtx s.unframe).updSib s.unframe)
  else if s.core.thaw || s.ctx.lateEntry cyc || s.sib.lateEntry cyc then exec .landing s
  else match s.ctx.dueEntry cyc with
    | some p => exec (dueStep p) s
    | none =>
      if (s.sib.dueEntry cyc).isSome then .next s.swap
      else if s.reframes s.ctx || s.reframes s.sib then .next ((s.updCtx s.reframed).updSib s.reframed)
      else if s.ctx.tilesDue cyc || s.sib.tilesDue cyc then
        .next ((s.updCtx (fun c => c.writeTiles cyc)).updSib (fun c => c.writeTiles cyc))
      else if cyc % 8 = 0 ∧ s.core.step ≠ s.pk.wantedStep s.core then exec .throttleStepChange s
      else match s.matrixStep with
        | some i => exec i s
        | none =>
          if s.firstTurn.replayFreezes then exec .landing (s.updCore (fun c => { c with thaw := true })) else .next s.firstTurn

/-- The end of a cycle. -/
def State.cycleEnd (s : State) : Host.Outcome State Fault Refusal :=
  let s := s.startDrain.tickMatrix
  if s.core.phase = 65 then exec .stretchEnd s
  else if s.core.phase = 1 then exec .halfIssueEnd s
  else .next (s.endCycle (s.core.phase - 1))

/-! ### The cores in time -/

/-- A context that asks nothing of its core. -/
def Ctx.quiet (c : Ctx) : Bool :=
  (match c.mode with
  | .idle => true
  | .exited => true
  | .frozen _ => true
  | _ => false) && c.pend.isEmpty && c.mq.isEmpty && c.mwrites.isEmpty
/-- A core whose cycles would change nothing but CYC. -/
def Pack.quiet (k : Pack) (b : CoreBox) : Bool :=
  b.a.quiet && b.b.quiet && b.core.run.isNone && b.core.aside.isNone && b.core.done.isEmpty && b.core.phase == 0 &&
    !b.core.trip && !b.core.stretched && b.core.step == k.wantedStep b.core
def CoreBox.skip (n : Nat) (b : CoreBox) : CoreBox := { b with core := { b.core with cyc := b.core.cyc + n, turn := 5 } }
def CoreBox.wake (b : CoreBox) : CoreBox := { b with core := { b.core with turn := 0 } }
/-- The box in focus, context A first. -/
def State.box (s : State) : CoreBox := let t := s.aFirst; ⟨t.core, t.ctx, t.sib⟩
def State.focus (s : State) (b : CoreBox) (todo past : List CoreBox) : State :=
  { s with core := b.core, ctx := b.a, sib := b.b, todo := todo, past := past }

/-- The cores' cycle at the present tick begins: those with work run, the others pass it, and while none has work they pass all
cycles before the next action. -/
def State.beginCycle (s : State) : State :=
  let k := s.pk
  let all := s.past ++ [s.box]
  let busy := all.filter (fun b => !k.quiet b)
  let rest := all.filter k.quiet
  match busy with
  | b :: bs => ({ s with pk := { k with fresh := false } }).focus b.wake (bs.map CoreBox.wake) (rest.map (CoreBox.skip 1))
  | [] =>
    let r := match (k.agenda.head?).map Due.at_ with
      | some a => ((a - k.tick + k.period - 1) / k.period, a, a % k.period == 0)
      | none => (1, k.tick, false)
    match rest.map (CoreBox.skip r.1) with
    | b :: bs => ({ s with pk := { k with tick := r.2.1, fresh := r.2.2 } }).focus b [] bs
    | [] => s

/-- The core in focus has spent its period: the next core, else the next time at which anything happens. -/
def State.nextCore (s : State) : State :=
  match s.todo with
  | b :: bs => s.focus b bs (s.past ++ [s.box])
  | [] =>
    if s.pk.fresh then s.beginCycle
    else
      let k := s.pk
      let edge := (k.tick / k.period + 1) * k.period
      match (k.agenda.head?).map Due.at_ with
      | some a => if a < edge then { s with pk := { k with tick := a } } else { s with pk := { k with tick := edge, fresh := true } }
      | none => { s with pk := { k with tick := edge, fresh := true } }

/-- The part of a cycle that `turn` says. -/
def State.coreStep (s : State) : Host.Outcome State Fault Refusal :=
  match s.core.turn with
  | 0 => s.cycleStart
  | 1 => s.contextTurn
  | 2 => s.contextTurn
  | 3 => s.cycleEnd
  | _ => .next s.nextCore

/-- The writes of CXL.io registers with what the service core does for them, and reset: what the part still serves after a fatal error
(R509). -/
def servedAfterFatal : Instr → Bool
  | .registerWrite | .partReset | .cstail | .csctlEn | .csstatErrClear | .unmap | .migrate | .pinEnable | .pinRelease | .absh
  | .selfRefreshRequest | .powerDownRequest | .activeRequest | .domainJoin | .routeEnable | .veneerEnable | .standbyUpdate
  | .veneerDissolve | .firmwareLoad | .firmwareVerifyDone | .attestationRequest | .attestationDone | .contextRelease => true
  | _ => false
/-- A step after a fatal error: time goes on to the first such entry of the agenda; with none the machine stands still (R509, log 39). -/
def State.afterFatal (s : State) : Host.Outcome State Fault Refusal :=
  match s.pk.agenda.find? (fun d => servedAfterFatal d.ev) with
  | some d => exec d.ev (s.updPk (fun k => { k with tick := max k.tick d.at_, agenda := k.agenda.erase d, arg := d.arg }))
  | none => .fault .fatalService

/-- One step: what is due on the agenda, else the next part of the cycle of the core in focus. -/
def State.advance (s : State) : Host.Outcome State Fault Refusal :=
  match s.pk.agenda with
  | d :: ds =>
    if d.at_ ≤ s.pk.tick then exec d.ev (s.updPk (fun k => { k with agenda := ds, arg := d.arg }))
    else s.coreStep
  | [] => s.coreStep

end Sys2Proof.Machine
end

