-- ==== Sys2Proof/Machine/Step.lean ====
section
/-! DEFINITION. One step of the machine, and a word placed where the next step fetches. -/
namespace Sys2Proof.Machine
open Sys2Proof

/-- One step; after a fatal error the part only serves its registers (R509). -/
def step (s : State) : Host.Outcome State Fault Refusal :=
  if s.pk.svc.fatal then s.afterFatal else s.advance

/-- PM of a bundle with one slot of a class (R111). -/
def pmOf : SlotClass → BitVec 7
  | .S => 64
  | .V => 32
  | .M => 8
  | .L => 4
  | .G => 2

/-- `s` with a bundle of the one slot word `w` (its class as `classOfWord` reads it, profile 1) at the pc of the core's first
context, that context running and at its turn, and nothing due before it (log 3). -/
def State.withFetchWord (s : State) (nbits w : Nat) : State :=
  let pm := match classOfWord (if nbits = 32 then w else 0) with
    | some (c, _) => pmOf c
    | none => 64
  let hd := encodeHeader { pm := pm, fa := 0, np := 1, sv := 0, stamp := 0, xr := 0, lql := 0, low := 0 }
  let t := s.aFirst
  let cell := dpaCell t.ctx.pc.toNat
  { t with
    ctx := { t.ctx with
      mode := .run, faults := [], owe := 0, notBefore := 0, framed := false, reframe := false, replay := false, resume := false, ue := false
      yield_ := none, pptRec := none, code := t.ctx.pc, codelen := 8
      csr := { t.ctx.csr with issctl := 0 } }
    core := { t.core with turn := 1, phase := 0, taken := [], stampTaken := false }
    pk := { t.pk with
      agenda := t.pk.agenda.filter (fun d => t.pk.tick < d.at_)
      svc := { t.pk.svc with fatal := false }
      msc := t.pk.msc.filter (fun l => l.line != cell / 128 * 128 && l.line != (cell + 4) / 128 * 128)
      bad := t.pk.bad.filter (fun b => b.1 != .dram)
      mem := t.pk.mem.write .dram cell (leBytes 4 hd.toNat ++ leBytes 4 w) } }

end Sys2Proof.Machine
end

