-- ==== Sys2Proof/Safety.lean ====
section
/-! DEFINITION. What a safe state is: every byte store in its canonical form (log 1). The words in which the statements say what
an instruction leaves as it was, and what issuing an operation does. -/
namespace Sys2Proof.Machine
open Sys2Proof

/-- The four byte stores are in canonical form. -/
def Stores.wf (m : Stores) : Bool := m.dram.wf && m.spad.wf && m.ws.wf && m.host.wf
def State.wf (s : State) : Bool := s.pk.mem.wf

/-- The MSC's copies stand rightly over DRAM (R61, R337): one entry for a line at most, at a line's address, and but for a spent
one of 128 bytes; a clean line, and a sector that was unreadable when its line was taken, hold what DRAM holds. -/
def Pack.copiesSound (k : Pack) : Prop :=
  (k.msc.map MscLine.line).Nodup ∧ ∀ l ∈ k.msc, l.line % 128 = 0 ∧ (l.spent = false → l.bytes.length = 128 ∧
    ∀ i < 128, (l.owes = false ∨ l.lost.contains (i / 32) = true) → l.bytes[i]? = some (k.mem.dram.get (l.line + i)))

/-- Every general register, tile and CSR of the context in focus, its return store, loop nest, Spindle, stream queues, Skew
patterns and matrix queue, every byte of memory, the MSC, the CXL.io registers and every other context are the same. -/
def State.keeps (s t : State) : Prop :=
  t.ctx.regs = s.ctx.regs ∧ t.ctx.m = s.ctx.m ∧ t.ctx.csr = s.ctx.csr ∧ t.ctx.ras = s.ctx.ras ∧ t.ctx.lnu = s.ctx.lnu ∧
  t.ctx.spin = s.ctx.spin ∧ t.ctx.q = s.ctx.q ∧ t.ctx.skew = s.ctx.skew ∧ t.ctx.mq = s.ctx.mq ∧ t.pk.mem = s.pk.mem ∧
  t.pk.msc = s.pk.msc ∧ t.pk.io = s.pk.io ∧ t.sib = s.sib ∧ t.todo = s.todo ∧ t.past = s.past

/-- `t` has one more operation outstanding, issued by the context in focus: its kind, class of R416, times, witnesses, and the
earlier operations that fences put before it. -/
def State.hasIssued (s t : State) (kind : OpKind) (cls : BitVec 8) (lat lat2 : Nat) (waits : List Word) : Prop :=
  ∃ o, t.pk.ops.getLast? = some o ∧ o.id = s.pk.opCtr ∧ o.ctx = s.ctx.num ∧ o.owner = s.ownId ∧ o.kind = kind ∧ o.cls = cls ∧
    o.lat = lat ∧ o.lat2 = lat2 ∧ o.waits = waits ∧ o.after = s.ctx.fenced cls

/-- The operation is the next of timeline `tl` (R394). -/
def State.hasNumbered (s t : State) (tl : Nat) : Prop :=
  (t.pk.tl tl).iss = (s.pk.tl tl).iss + 1 ∧
  ∃ o, t.pk.ops.getLast? = some o ∧ o.tl = tl ∧ o.seq = (s.pk.tl tl).iss + 1

/-- `t` is `s` after a load: the operation, and a landing-buffer entry due in cycle `k` from now (R144, R145). -/
def State.hasLoaded (s t : State) (dst : Wr) (k : Nat) (kind : OpKind) (cls : BitVec 8) (lat lat2 : Nat) (waits : List Word) : Prop :=
  s.hasIssued t kind cls lat lat2 waits ∧ s.keeps t ∧
  t.ctx.pend = s.ctx.pend ++ [{ due := s.core.cyc + k, wr := dst, land := s.pk.opCtr, ready := false, buf := true }]

/-- `t` is `s` after an operation that returns its witness at latency 2 (R138, R394, R397). -/
def State.hasWitnessed (s t : State) (tl : Nat) (d : BitVec 5) (kind : OpKind) (cls : BitVec 8) (lat lat2 : Nat)
    (waits : List Word) : Prop :=
  s.hasIssued t kind cls lat lat2 waits ∧ s.hasNumbered t tl ∧ s.keeps t ∧
  t.ctx.pend = s.ctx.pend ++ [{ due := s.core.cyc + 2, wr := .s d.toNat (pointWit tl ((s.pk.tl tl).iss + 1)) }]

/-! ### When an access through a handle passes -/

/-- The core's port holds the entry of buffer `idx`, and reading it meets no error (R63, R331, R496). -/
def State.entryReady (s : State) (idx : Nat) : Prop := s.portHolds idx = true ∧ s.pk.readError (entryPiece s.ctx.table idx) = none
/-- R64, R65: an access of `n` bytes at offset `o` of buffer `idx` passes every check for the rights `need`, `copy` saying that it is a
copy's: an index of the table that is not 0, a valid and well-formed entry, its owner, its residence (no buffer service holds it), its
tier, its rights, its limit. -/
def State.passesChecks (s : State) (idx : Nat) (o : Int) (n need : Nat) (copy : Bool) : Prop :=
  let e := s.pk.entryAt (bits s.ctx.csr.btab 47 0) idx
  idx ≠ 0 ∧ idx ≤ bits s.ctx.csr.btab 63 48 ∧ e.tier ≠ 0 ∧ s.pk.entryOk e = true ∧ (e.owner = 0xFFFF ∨ e.owner = s.ownId.toNat) ∧
  e.res = true ∧ (∀ b, s.pk.sched.service = some b → ¬ (b.migrate = true ∧ b.idx = idx ∧ b.table = bits s.ctx.csr.btab 47 0)) ∧
  (e.tier = 3 → copy = true) ∧ e.rights &&& need = need ∧ 0 ≤ o ∧ o + n ≤ e.limit
/-- It does, and the port holds the entry. -/
def State.mayReach (s : State) (idx : Nat) (o : Int) (n need : Nat) (copy : Bool) : Prop :=
  s.passesChecks idx o n need copy ∧ s.entryReady idx
/-- So for `n` bytes at displacement `d` from the handle in register `a`. -/
def State.mayAccess (s : State) (a : BitVec w) (d : Int) (n need : Nat) (copy : Bool := false) : Prop :=
  s.mayReach (hIdx (s.ra a)) ((hOff (s.ra a) : Int) + d) n need copy
/-- The bytes that such an access names (R66–R69). -/
def State.reach (s : State) (a : BitVec w) (d : Int) (n : Nat) : Range :=
  entryRange (s.pk.entryAt (bits s.ctx.csr.btab 47 0) (hIdx (s.ra a))) ((hOff (s.ra a) : Int) + d).toNat n
/-- The bytes of 4-byte lanes at the offsets of a list. -/
def State.reachLanes (s : State) (a : BitVec w) (d : Int) : List Int → Range
  | [] => {}
  | o :: os => let r := s.reach a (d + o) 4; { r with pieces := r.pieces ++ (s.reachLanes a d os).pieces }

/-! ### What the arithmetic rules say of one element -/

/-- The number that a finite value stands for. -/
def Val.num : Val → ℚ
  | .fin n m e => (if n then -1 else 1) * m * 2 ^ e
  | _ => 0
/-- A magnitude's code with a sign bit; the code of an infinity; the canonical NaN (R23, R24). -/
def Fmt.signed (f : Fmt) (n : Bool) (mag : Nat) : Nat := if n then 2 ^ (f.params.width - 1) + mag else mag
def Fmt.infinity (f : Fmt) (n : Bool) : Nat := f.signed n (f.params.inf.getD f.params.maxCode)
def Fmt.nanCode (f : Fmt) : Nat := f.params.nan.getD 0
/-- The canonical NaN, with IV when a signalling one takes part. -/
def Fmt.nanLane (f : Fmt) (sig : Bool) : Nat × Flags := (f.nanCode, flagIf sig flIV)
/-- A flag is set. -/
def Flags.has (f g : Flags) : Prop := f &&& g ≠ 0

/-- `r` is round(±y, f, rm) with its flags, y ≥ 0 an exact number (R40). -/
def Fmt.rounds (f : Fmt) (rm : Rnd) (neg : Bool) (y : ℚ) (r : Nat × Flags) : Prop :=
  ∃ num den : Nat, 0 < den ∧ (num : ℚ) / den = y ∧ r = roundFrac f rm neg num den
/-- `i` is round_int(±y, rm), y ≥ 0, and `nx` that it differs (R42). -/
def Rnd.rounds (rm : Rnd) (neg : Bool) (y : ℚ) (i : Int) (nx : Bool) : Prop :=
  ∃ num den : Nat, 0 < den ∧ (num : ℚ) / den = y ∧ (i, nx) = roundIntFrac rm neg num den

/-- A lane of VDIV (R225). -/
def IsQuotient (f : Fmt) (a b : Val) (r : Nat × Flags) : Prop :=
  match a, b with
  | .fin x m _, .fin y n _ =>
    if n ≠ 0 then f.rounds .rne (x ^^ y) (|a.num| / |b.num|) r
    else if m ≠ 0 then r = (f.infinity (x ^^ y), flDZ)
    else r = f.nanLane true
  | .fin x _ _, .inf y => r = (f.signed (x ^^ y) 0, 0)
  | .inf x, .fin y _ _ => r = (f.infinity (x ^^ y), 0)
  | .inf _, .inf _ => r = f.nanLane true
  | _, _ => r = f.nanLane (a.isSig || b.isSig)

/-- The place of a code that is no NaN in the order of numbers, −0 below +0. -/
def Fmt.place (f : Fmt) (c : Nat) : Int :=
  let h := 2 ^ (f.params.width - 1)
  if c < h then c else -((c - h : Nat) : Int) - 1
/-- The least or greatest of float codes (R226). -/
def IsExtreme (f : Fmt) (isMax : Bool) (l : List Nat) (r : Nat × Flags) : Prop :=
  let nans := l.any (fun c => (decodeFloat f c).isNaN)
  (nans = true → r = f.nanLane (l.any (fun c => (decodeFloat f c).isSig))) ∧
  (nans = false → ∃ c ∈ l, r = (c, 0) ∧ ∀ y ∈ l, if isMax then f.place y ≤ f.place c else f.place c ≤ f.place y)

/-- A lane of VSCALB (R228). -/
def IsScaledBy (f : Fmt) (x : Nat) (k : Int) (r : Nat × Flags) : Prop :=
  match decodeFloat f x with
  | .fin n m e => if m = 0 then r = (x, 0) else f.rounds .rne n (m * 2 ^ (e + k)) r
  | .inf _ => r = (x, 0)
  | .nan sig => r = f.nanLane sig

/-- A lane of VRINT (R229). -/
def IsIntegral (f : Fmt) (rm : Rnd) (x : Nat) (r : Nat × Flags) : Prop :=
  match decodeFloat f x with
  | .fin n m e => ∃ i nx, rm.rounds n (m * 2 ^ e) i nx ∧ (decodeFloat f r.1).isFinite = true ∧ (decodeFloat f r.1).num = i ∧
      (decodeFloat f r.1).negSign = n ∧ r.2 = flagIf nx flNX
  | .inf _ => r = (x, 0)
  | .nan sig => r = f.nanLane sig

/-- An element converted by the table of R49; `srcInt` says that the source is In or Nn, `sat` is the saturate bit. -/
def IsConverted (f : Fmt) (rm : Rnd) (srcInt sat : Bool) (v : Val) (r : Nat × Flags) : Prop :=
  let code (i : Int) : Nat := (i % 2 ^ f.width).toNat
  match v with
  | .nan sig => r = if f.isInt then (0, flIV) else f.nanLane sig
  | .inf n => r = if f.isInt then (code (if n then intMin f else intMax f), flIV) else (f.infinity n, flagIf (f == .e4m3) flIV)
  | .fin n m e =>
    if f.isInt then ∃ i nx, rm.rounds n (m * 2 ^ e) i nx ∧
      if srcInt && !sat then r = (code i, 0)
      else
        let c := max (intMin f) (min (intMax f) i)
        r = (code c, flagIf (c != i) flSA ||| flagIf nx flNX)
    else f.rounds rm n (m * 2 ^ e) r

/-- A group quantised by R51: `mode i` is the rounding mode with the draw of element i. -/
def IsQGroup (qmax : Nat) (mode : Nat → Rnd) (xs : List Val) (q : QGroup) : Prop :=
  q.codes.length = xs.length ∧
  ((∃ x ∈ xs, x.isFinite = false) → (∀ c ∈ q.codes, c = 0) ∧ q.scale = 0x7E00 ∧ q.zp = 0 ∧ q.flags.has flIV) ∧
  ((∀ x ∈ xs, x.isFinite = true) → ∃ (lo hi : ℚ) (sc : Nat × Flags) (z : Int) (nx : Bool) (cs : List Int),
    (lo ∈ 0 :: xs.map Val.num ∧ ∀ x ∈ 0 :: xs.map Val.num, lo ≤ x) ∧ (hi ∈ 0 :: xs.map Val.num ∧ ∀ x ∈ 0 :: xs.map Val.num, x ≤ hi) ∧
    Fmt.f16.rounds .rup false (if hi = lo then 1 else (hi - lo) / qmax) sc ∧ q.scale = (if sc.1 = 0x7C00 then 0x7BFF else sc.1) ∧
    (let sv := (decodeFloat .f16 q.scale).num
     Rnd.rne.rounds false (-lo / sv) z nx ∧ (q.zp : Int) = min (qmax : Int) (max 0 z) ∧ cs.length = xs.length ∧
     (∀ (i : Nat) (x : Val) (c : Int), xs[i]? = some x → cs[i]? = some c → ∃ nx, (mode i).rounds (decide (x.num < 0)) (|x.num| / sv) (c - q.zp) nx) ∧
     (∀ (i : Nat) (c : Int) (y : Nat), cs[i]? = some c → q.codes[i]? = some y → (y : Int) = min (qmax : Int) (max 0 c)) ∧
     (q.flags.has flOF ↔ sc.1 = 0x7C00) ∧ (q.flags.has flSA ↔ ∃ c ∈ cs, c < 0 ∨ (qmax : Int) < c) ∧
     (q.flags.has flNX ↔ sc.1 = 0x7C00 ∨ ∃ (i : Nat) (x : Val) (y : Nat), xs[i]? = some x ∧ q.codes[i]? = some y ∧ ((y : ℚ) - q.zp) * sv ≠ x.num) ∧
     ¬ q.flags.has (flIV ||| flDZ ||| flUF)))

/-- A block quantised by R52 with the tensor scale of pattern `ts`. -/
def IsE2m1Block (ts : Nat) (mode : Nat → Rnd) (xs : List Val) (q : QGroup) : Prop :=
  let t := tensorScale ts
  let bad := t.isFinite = false ∨ t.isZero = true ∨ ∃ x ∈ xs, x.isFinite = false
  q.codes.length = xs.length ∧
  (bad → (∀ c ∈ q.codes, c = 0) ∧ q.scale = 0x7E ∧ q.flags = flIV) ∧
  (¬ bad → ∃ (a : ℚ) (sc : Nat × Flags) (ls : List (Nat × Flags)),
    (a ∈ 0 :: xs.map (fun x => |x.num / t.num|) ∧ ∀ x ∈ xs, |x.num / t.num| ≤ a) ∧
    (a = 0 → sc.1 = 0x3C) ∧ (a ≠ 0 → Fmt.e5m2.rounds .rup false (a / 6) sc) ∧ q.scale = (if sc.1 = 0x7C then 0x7B else sc.1) ∧
    ls.length = xs.length ∧ q.codes = ls.map Prod.fst ∧
    (∀ (i : Nat) (x : Val) (l : Nat × Flags), xs[i]? = some x → ls[i]? = some l →
      Fmt.e2m1.rounds (mode i) (x.negSign ^^ t.negSign) (|x.num / t.num| / (decodeFloat .e5m2 q.scale).num) l) ∧
    (q.flags.has flOF ↔ sc.1 = 0x7C) ∧ (q.flags.has flNX ↔ sc.1 = 0x7C ∨ ∃ l ∈ ls, l.2.has flNX) ∧
    (q.flags.has flUF ↔ ∃ l ∈ ls, l.2.has flUF) ∧ ¬ q.flags.has (flIV ||| flDZ ||| flSA))

end Sys2Proof.Machine
end

