-- ==== Sys2Proof/Certificates/Slice0/Obligations.lean ====
section
/-! DEFINITION. The statements. A result "in flight" is an entry of `Ctx.pend`, written when it falls due (O12). -/
open Sys2Proof Sys2Proof.Machine

/-! ### The whole machine -/

/-- O1. Decoding the word of a well-formed slot instruction gives the instruction back: every guard, register, modifier and
immediate at every value its encoding admits, in all five classes (R113, R119). -/
def Obligations.EncodedWordsDecode : Prop := ∀ (x : SlotInstr) (c : SlotClass), wellFormed x = true → classOf x.i = some c →
  decodeSlot c (encode x) = .ok x

/-- O2. Words decode to what the spec says they are: those the spec prints (in the worked examples of 04_encoding and 10_tape,
and at R462, R487, R488) and a few put together from R113 and the tables of the other classes; an unassigned opcode and a set
reserved bit do not decode. -/
def Obligations.SpecWordsDecode : Prop :=
  let at_ (c : SlotClass) (w : BitVec 32) (g : Guard) (e : EngineOps) (i : Instr) : Prop := decodeSlot c w = .ok ⟨g, e, i⟩
  let g0 : Guard := ⟨0, 0, 0⟩
  let e0 : EngineOps := ⟨0, 0, 0⟩
  decodeHeader 0xA2200020 = ⟨0x51, 0, 2, 0, 0, 1, 0, 0⟩ ∧ decodeHeader 0x80200000 = ⟨0x40, 0, 2, 0, 0, 0, 0, 0⟩ ∧
  at_ .S 0x38404280 ⟨3, 1, 0⟩ e0 (.addi 4 5 0) ∧ at_ .V 0x00007425 g0 e0 (.vaddF 7 8 9 1) ∧ at_ .S 0x0040427D g0 e0 (.addi 4 4 0x7D) ∧
  at_ .S 0x01140000 g0 e0 .exit ∧ at_ .S 0x018A0185 g0 e0 (.trap 3 5) ∧ at_ .S 0x018C0000 g0 e0 .rett ∧
  at_ .S 0x01C00208 g0 e0 (.tbegin 4 2) ∧ at_ .S 0x01C200D0 g0 e0 (.trec 5 1 0) ∧ at_ .S 0x01C41090 g0 e0 (.trecp 9 1) ∧
  at_ .S 0x01C63000 g0 e0 (.tend 3) ∧ at_ .S 0x01CA03D0 g0 e0 (.tpop 5 7 0) ∧
  at_ .G 0x0162521C g0 e0 (.vround 5 4 7 0) ∧ at_ .G 0x0164621C g0 ⟨6, 4, 7⟩ .vstat ∧
  at_ .M 0x00822080 g0 e0 (.mld 2 1) ∧ at_ .M 0x008C3214 g0 e0 (.mrec 3 4 5) ∧ at_ .L 0x0000328E g0 e0 (.ldl 3 5 3 2) ∧
  at_ .G 0x0002110F g0 e0 (.stg 1 2 3 3) ∧ at_ .G 0x00A0708B g0 e0 (.gaadd 7 1 2 1 1) ∧ at_ .G 0x0060410C g0 ⟨4, 2, 3⟩ .copy ∧
  decodeSlot .S 0x01FE0000 = .error .illegalOpcode ∧ decodeSlot .S 0x00000001 = .error .reservedEncoding

/-- O3. Every step from a state whose byte stores are in canonical form leaves them so, whatever it does. -/
def Obligations.StepKeepsMemoryForm : Prop := ∀ s t : State, s.wf = true → step s = .next t → t.wf = true

/-- O4. What reset leaves: the values the spec gives (R11, R34, R107, R108, R165, R169, R394, R429, R502), and empty stores
(log 1, log 2). -/
def Obligations.ResetState : Prop :=
  let s := State.reset
  s.wf = true ∧ (∀ c ∈ s.boxes.flatMap (fun b => [b.a, b.b]), c.mode = .idle ∧ c.csr.frlen = 0x800 ∧ c.csr.tvec = 0 ∧ c.csr.tstat = 0 ∧
    c.regs.k = [] ∧ c.regs.fstat = 0 ∧ c.ras = [] ∧ c.lnu = {} ∧ c.mq = [] ∧ c.pend = []) ∧
  s.boxes.length = 256 ∧ (∀ b ∈ s.boxes, b.core.cyc = 0 ∧ b.core.frzcyc = 0 ∧ b.core.ddthr.toNat % 1024 = 0x2BC ∧ b.core.ddstat = 0 ∧
    b.core.l1 = []) ∧
  s.pk.own = 0xFF ∧ s.pk.reduced = true ∧ s.pk.ioRd 0x20008 = 0x4E20 ∧ s.pk.ioRd 0x30008 = 0x64 ∧ s.pk.ioRd 0x73000 = 0x1000000000010000 ∧
  s.pk.ioRd 0x20000 = 0x10 ∧ s.tstamp = 0 ∧ s.pk.msc = [] ∧ s.pk.copiesSound ∧ s.pk.ops = [] ∧ (∀ i, s.pk.tl i = {}) ∧
  (∀ sp a n, s.pk.mem.read ⟨sp, a, n⟩ = List.replicate n 0)

/-- O5. No instruction and no step without an encoding is refused or stops the machine: `exec` answers a next state for every
one of them, in every state (R473: each fault is taken by the context). -/
def Obligations.EveryInstructionAnswers : Prop := ∀ (i : Instr) (s : State), ∃ t, exec i s = .next t

/-- O6. After a fatal error the machine goes on to the first entry of its agenda that the part still serves, and stands still
when there is none; it stops nowhere else. Which entries those are, that time goes on to one that comes later, and that the
machine stops as `fatalService` with none left are the model's choice (log 39): R509 says that issue stops and the registers
stay served. -/
def Obligations.StepStopsAfterFatalErrorOnly : Prop := ∀ s : State,
  (s.pk.svc.fatal = true → (∀ d ∈ s.pk.agenda, servedAfterFatal d.ev = false) → step s = .fault .fatalService) ∧
  (∀ xs d ys, s.pk.svc.fatal = true → s.pk.agenda = xs ++ d :: ys → (∀ x ∈ xs, servedAfterFatal x.ev = false) →
    servedAfterFatal d.ev = true →
    step s = exec d.ev { s with pk := { s.pk with tick := max s.pk.tick d.at_, agenda := xs ++ ys, arg := d.arg } }) ∧
  (s.pk.svc.fatal = false → ∃ t, step s = .next t)

/-- O7. A step at which an action is due performs it: the head of the agenda leaves it and its event runs on its argument. -/
def Obligations.StepRunsDueAction : Prop := ∀ (s : State) (d : Due) (ds : List Due),
  s.pk.svc.fatal = false → s.pk.agenda = d :: ds → d.at_ ≤ s.pk.tick →
  step s = exec d.ev { s with pk := { s.pk with agenda := ds, arg := d.arg } }

/-- O8. A step in a context's turn runs the decoded bundle: its slots by `runSlots`, which gives each executing one to `exec`;
what is added around is the bundle's issue record, the end of the bundle (R202, R208), the slots it takes, and the turn's end.
A bundle that stalls leaves the state but for its note; one that faults leaves what taking the fault leaves. -/
def Obligations.StepRunsDecodedInstruction : Prop := ∀ (s : State) (b : Bundle),
  let hd := decodeHeader s.headerWord
  let s1 := s.openBundle s.headerWord
  let mine := b.slots.map Prod.fst ++ (if b.xw.isSome then [Slot.X] else [])
  let ended (t : State) : State := ((t.endBundle s.ctx.flying b.slots).updCore (fun c => { c with
    taken := c.taken ++ mine, bdefer := if s.ctx.num % 2 = 1 then 0 else c.bdefer })).passTurn
  s.pk.svc.fatal = false → (∀ d ∈ s.pk.agenda.head?, s.pk.tick < d.at_) → (s.core.turn = 1 ∨ s.core.turn = 2) → s.ctx.ue = false →
  s.ctx.mode = .run → s.ctx.faults = [] → s.ctx.owe = 0 → s.ctx.notBefore ≤ s.core.cyc → s.ctx.yield_ = none → s.ctx.framed = false → s.ctx.pptRec = none →
  s.fetchFault = none → decodeBundle s.pk.reduced s.headerWord ((s.bundleWords (1 + hd.slotWords)).drop 1) = .ok b → hd.pm ≠ 0 →
  s.stampOf s.ctx hd = .free → s.ctx.replay = false → s.ctx.resume = false → s.core.blocked = false → s.core.taken = [] →
  (∃ p ∈ b.slots, s.ctx.executes hd.lql.toNat p.2.2 = true) →
  (∀ t, runSlots b s1 s1 none true b.slots = .next t → step s = .next (
    if t.ctx.iss.stalled then t.passTurn else if t.ctx.iss.fault.isSome then t.passTurn else ended t)) ∧
  (∀ p u, b.slots = [p] → exec p.2.2.i (s1.openSlot b p) = .next u → step s = .next (
    if u.ctx.iss.stalled then (s1.asStalled u).passTurn else if u.ctx.iss.fault.isSome then u.passTurn else ended u))

/-- O9. R114, R115: a slot executes when G xor N is true and its iteration qualifier holds, every iteration counting as first
and last where the level is not active; (p0) always and (!p0) never; a slot that does not execute is passed over. -/
def Obligations.GuardsAndQualifiers : Prop := ∀ (c : Ctx) (lql : Nat) (x : SlotInstr),
  let iter (f : Level → Prop) : Prop := ∀ l, c.lnu.act.find? (fun v => v.lvl == lql) = some l → f l
  (c.executes lql x = true ↔ (((c.regs.rp x.gd.g.toNat = true) ↔ x.gd.n = 0) ∧
    (x.gd.q = 1 → iter (fun l => l.iter = 1)) ∧ (x.gd.q = 2 → iter (fun l => l.iter = l.trip)) ∧
    (x.gd.q = 3 → iter (fun l => l.iter = 1 ∨ l.iter = l.trip)))) ∧
  (x.gd.g = 0 → x.gd.n = 0 → x.gd.q = 0 → c.executes lql x = true) ∧ (x.gd.g = 0 → x.gd.n = 1 → c.executes lql x = false) ∧
  (∀ (b : Bundle) (s0 t : State) (flt : Option State) (first : Bool) (sl : Slot) (w : BitVec 32) (ps : List (Slot × BitVec 32 × SlotInstr)),
    s0.ctx.executes b.hdr.lql.toNat x = false → runSlots b s0 t flt first ((sl, w, x) :: ps) = runSlots b s0 t flt first ps)

/-- O10. R107: a register write changes the register it names and nothing else; s0 and p0 discard writes and read as 0 and
true. -/
def Obligations.RegisterWrites : Prop := ∀ (g : Regs) (r q : Nat),
  (∀ x, ((g.apply (.s r x)).rs q = if q = r ∧ q ≠ 0 ∧ q < 32 then x else g.rs q) ∧ (g.apply (.s r x)) = { g with s := (g.apply (.s r x)).s }) ∧
  (∀ x, ((g.apply (.p r x)).rp q = if q = r ∧ q ≠ 0 ∧ q < 16 then x else g.rp q) ∧ (g.apply (.p r x)) = { g with p := (g.apply (.p r x)).p }) ∧
  (∀ x, ((g.apply (.a r x)).ra q = if q = r ∧ q < 16 then x else g.ra q) ∧ (g.apply (.a r x)) = { g with a := (g.apply (.a r x)).a }) ∧
  (∀ x, ((g.apply (.v r x)).rv q = if q = r ∧ q < 32 then x else g.rv q) ∧ (g.apply (.v r x)) = { g with v := (g.apply (.v r x)).v }) ∧
  (∀ x, ((g.apply (.d r x)).rd q = if q = r ∧ q < 8 then x else g.rd q) ∧ (g.apply (.d r x)) = { g with d := (g.apply (.d r x)).d }) ∧
  (∀ w, (g.apply w).rs 0 = 0 ∧ (g.apply w).rp 0 = true ∧ (g.apply w).fstat = g.fstat) ∧
  (∀ f n, ((g.orFlags f).fstat.getLsbD n = (g.fstat.getLsbD n || f.getLsbD n)) ∧ (g.orFlags f) = { g with fstat := (g.orFlags f).fstat })

/-- O11. Bytes written are read back, every other byte of the store reads as before, and one content has one canonical form. -/
def Obligations.MemoryReadsWhatWasWritten : Prop := ∀ (m n : Memory) (a x : Nat) (bs : List Byte), m.wf = true → n.wf = true →
  (m.write a bs).wf = true ∧ (m.write a bs).read a bs.length = bs ∧
  (x < a ∨ a + bs.length ≤ x → (m.write a bs).read x 1 = m.read x 1) ∧
  ((∀ y, m.read y 1 = n.read y 1) → m = n)

/-- O12. R473, R481, R490: taking a fault with a handler: TCAUSE, TVAL, TVAL2, TPC, TFPC, BLEN, SDET, DET, IN and HELD;
results due from the present cycle on held with their remaining counts, behind those of a snapshot that was still to replay,
the landing whose own fault this is left out, the counts of results that a restore is to replay as they stand; the handler's
first bundle at CODE + TVEC.OFF, four cycles on, after the drain; the loop nest set aside; tiles, memory, every other CSR and
context as they were. An answer to a query of the context's own wait is forgotten (R399). -/
def Obligations.TrapEntry : Prop := ∀ (s : State) (r : FaultRec),
  let t := s.enterTrap r
  let c := s.ctx
  let n := s.core.cyc
  c.csr.tstat.getLsbD 0 = false → c.csr.tvec.getLsbD 63 = true → r.blen ≤ 8 →
  t.ctx.csr.tcause = r.tcause ∧ t.ctx.csr.tval = r.tval ∧ t.ctx.csr.tval2 = r.tval2 ∧ t.ctx.csr.tpc = BitVec.ofNat 64 c.pc.toNat ∧
  t.ctx.csr.tfpc = BitVec.ofNat 64 r.pc.toNat ∧ bits t.ctx.csr.tstat 0 0 = 1 ∧ bits t.ctx.csr.tstat 1 1 = 1 ∧
  bits t.ctx.csr.tstat 2 2 = bits c.csr.issctl 0 0 ∧ bits t.ctx.csr.tstat 15 12 = r.blen ∧ t.ctx.csr.issctl = 0 ∧
  t.ctx.pc = c.code + BitVec.ofNat 48 (bits c.csr.tvec 31 0) ∧ t.ctx.mode = .entering ∧ t.ctx.notBefore = n + 4 ∧ t.ctx.drainAt = some n ∧
  t.ctx.replay = false ∧ t.ctx.resume = false ∧ t.ctx.framed = false ∧ t.ctx.owe = 0 ∧ t.ctx.pend = [] ∧
  (∀ xs ys e, c.landed = xs ++ e :: ys → e.err = some r → (∀ x ∈ xs, x.err ≠ some r) →
    t.ctx.held = (if c.replay then c.held else []) ++ (xs ++ ys).map (fun e => { e with due := 0 }) ++
      (if c.resume then c.pend else c.pend.map (fun e => { e with due := e.due - n }))) ∧
  ((∀ x ∈ c.landed, x.err ≠ some r) →
    t.ctx.held = (if c.replay then c.held else []) ++ c.landed.map (fun e => { e with due := 0 }) ++
      (if c.resume then c.pend else c.pend.map (fun e => { e with due := e.due - n }))) ∧
  t.ctx.lnu = {} ∧ t.ctx.heldLnu = c.lnu ∧ t.ctx.regs = c.before ∧ (c.undo = none → t.ctx.regs = c.regs) ∧
  t.ctx.m = c.m ∧ t.ctx.mq = c.mq ∧ t.ctx.q = c.q ∧ t.ctx.ras = c.ras ∧ t.ctx.spin = c.spin ∧ t.pk = s.pk.forget (waitOfCtx c.num) ∧
  t.core = s.core ∧ t.sib = s.sib ∧ t.todo = s.todo ∧ t.past = s.past ∧
  t.ctx.csr = { c.csr with tcause := t.ctx.csr.tcause, tval := t.ctx.csr.tval, tval2 := t.ctx.csr.tval2, tpc := t.ctx.csr.tpc
                           tfpc := t.ctx.csr.tfpc, tstat := t.ctx.csr.tstat, issctl := 0 }

/-- O13. R484, R485: in the handler (NESTED) or without one (NOHND) the context freezes: nothing in flight is left, its stream
reports cause, pc and TCAUSE, and registers, tiles, memory and every other context stand. -/
def Obligations.FaultsFreeze : Prop := ∀ (s : State) (r : FaultRec),
  let t := s.enterTrap r
  let frozen (cause : Nat) : Prop := t.ctx.mode = .frozen (BitVec.ofNat 4 cause) ∧ t.ctx.pend = [] ∧ t.ctx.held = [] ∧ t.ctx.regs = s.ctx.regs ∧
    t.ctx.m = s.ctx.m ∧ t.ctx.csr = s.ctx.csr ∧ t.pk.mem = s.pk.mem ∧ t.pk.ops = s.pk.ops ∧ t.pk.tls = s.pk.tls ∧ t.sib = s.sib ∧
    t.todo = s.todo ∧ t.past = s.past ∧ ∃ z, t.pk.sched.frozen = s.pk.sched.frozen ++ [z] ∧ z.ctx = s.ctx.num ∧
      z.launch = s.ctx.launch ∧ z.cause = BitVec.ofNat 4 cause ∧ z.pc = r.pc ∧ z.tcause = r.tcause
  (s.ctx.csr.tstat.getLsbD 0 = true → frozen 2) ∧
  (s.ctx.csr.tstat.getLsbD 0 = false → s.ctx.csr.tvec.getLsbD 63 = false → frozen 4)

/-- O14. R482, R488: what RETT does when its bundle ends: IN and HELD clear, DET as saved, the loop nest back, the next bundle
at TPC three cycles on, the held results to be replayed; and entry followed by return comes back to the bundle, the
determinism and the loop nest that the fault found. -/
def Obligations.TrapReturn : Prop := ∀ (s : State),
  let t := s.returnFromTrap
  let c := s.ctx
  (bits t.ctx.csr.tstat 0 0 = 0 ∧ bits t.ctx.csr.tstat 1 1 = 0 ∧ bits t.ctx.csr.issctl 0 0 = bits c.csr.tstat 2 2 ∧ t.ctx.lnu = c.heldLnu ∧
    t.ctx.pc = BitVec.ofNat 48 (c.csr.tpc.toNat % 2 ^ 48) ∧ t.ctx.notBefore = s.core.cyc + 3 ∧ t.ctx.replay = true ∧ t.ctx.held = c.held ∧
    t.ctx.faults = c.faults ++ c.heldFaults ∧ t.ctx.regs = c.regs ∧ t.ctx.m = c.m ∧ t.pk = s.pk ∧ t.core = s.core ∧ t.sib = s.sib) ∧
  (∀ r, c.csr.tstat.getLsbD 0 = false → c.csr.tvec.getLsbD 63 = true → r.blen ≤ 8 →
    let u := (s.enterTrap r).returnFromTrap
    u.ctx.pc = c.pc ∧ bits u.ctx.csr.issctl 0 0 = bits c.csr.issctl 0 0 ∧ u.ctx.lnu = c.lnu ∧ u.ctx.csr.inHandler = false ∧
    u.ctx.csr.tcause = r.tcause)

/-- O15. R394, R403: numbering gives I + 1; completing a number moves H over every number complete without a gap, and no
further; failing one lowers FLO to it and records the owner, and completes it; other timelines stand. -/
def Obligations.TimelineCounts : Prop := ∀ (k : Pack) (i j n ord : Nat) (w : BitVec 16),
  let t := k.tl i
  let a := (k.completeOp i n).tl i
  let f := (k.failOp i n w).tl i
  ((k.number i ord).1 = t.iss + 1 ∧ ((k.number i ord).2.tl i).iss = t.iss + 1 ∧ ((k.number i ord).2.tl i).head = t.head) ∧
  (t.head ≤ a.head ∧ a.iss = t.iss ∧ a.flo = t.flo ∧ (∀ x, t.head < x → x ≤ a.head → x = n ∨ x ∈ t.above) ∧
    ¬ (a.head + 1 = n ∨ a.head + 1 ∈ t.above) ∧ (∀ x, x ∈ a.above ↔ ((x = n ∨ x ∈ t.above) ∧ ¬ (t.head < x ∧ x ≤ a.head)))) ∧
  (f.head = a.head ∧ f.iss = t.iss ∧ f.flo = (if t.flo = 0 ∨ n < t.flo then n else t.flo) ∧
    f.owner = (if t.flo = 0 ∨ n < t.flo then w else t.owner)) ∧
  (j ≠ i → (k.completeOp i n).tl j = k.tl j ∧ (k.failOp i n w).tl j = k.tl j ∧ (k.number i ord).2.tl j = k.tl j)

/-- O16. R400, R403: a well-formed point of this device on a timeline with issue count I, n being the number congruent to its
SEQ in (I − 2^41, I + 2^41]. -/
def Obligations.PointCases : Prop := ∀ (k : Pack) (w : Word) (n : Int),
  let t := k.tl (witTl w)
  witK w = 1 → k.witFormat w = none → k.isLocal (witDev w) = true → (n - (witSeq w : Int)) % 2 ^ 42 = 0 →
  (t.iss : Int) - 2 ^ 41 < n → n ≤ (t.iss : Int) + 2 ^ 41 →
  (n > t.iss → k.witness w none = .bad 0x16 1 (BitVec.ofNat 64 t.iss)) ∧
  (n ≤ (t.iss : Int) - 2 ^ 40 → k.witness w none = .ok) ∧
  (n ≤ t.iss → (t.iss : Int) - 2 ^ 40 < n →
    ((t.head : Int) < n → k.witness w none = .wait) ∧
    (n ≤ t.head → (t.flo = 0 ∨ n < t.flo) → k.witness w none = .ok) ∧
    (n ≤ t.head → t.flo ≠ 0 → (t.flo : Int) ≤ n → k.witness w none = .bad 0x17 1 (BitVec.ofNat 64 t.flo)))

/-- O17. No instruction of a slot changes a byte of memory or another context when it issues: stores, copies and engine
commands are performed by later steps (R333, R407). Those of the tape that read a chain entry or a frame (TREC, TREC.P, TEND,
TREV, TPOP, TPOP.P) may make the MSC take lines from DRAM and write others back (R61, R62): what a reader at the home sees of
every cell stands, in a state whose copies stand rightly over DRAM, and so they do after; the scratchpads, weight stores and
host memory stand for them too. -/
def Obligations.SlotInstructionsLeaveMemory : Prop := ∀ (i : Instr) (s t : State), (classOf i).isSome → exec i s = .next t →
  let near : Prop := t.pk.mem.spad = s.pk.mem.spad ∧ t.pk.mem.ws = s.pk.mem.ws ∧ t.pk.mem.host = s.pk.mem.host ∧
    (s.wf = true → s.pk.copiesSound → t.pk.copiesSound ∧ ∀ c, t.pk.homeByte c = s.pk.homeByte c)
  t.sib = s.sib ∧ t.todo = s.todo ∧ t.past = s.past ∧ t.ctx.num = s.ctx.num ∧ t.core.num = s.core.num ∧ t.pk.tick = s.pk.tick ∧
  (match i with
   | .trec .. => near
   | .trecp .. => near
   | .tend .. => near
   | .trev .. => near
   | .tpop .. => near
   | .tpopp .. => near
   | _ => t.pk.mem = s.pk.mem)

/-! ### The S slot -/

/-- O18. R183's results of ADD to ANDN, as numbers modulo 2^64 or bit by bit. R183's divisions with their corners: by 0, and
−2^63 by −1. R183, R184: ADDS and SUBS clamp to the signed or unsigned range and set SA exactly when they do. -/
def Obligations.ScalarSumsAndDivisions : Prop :=
  (∀ (s : State) (d a b : BitVec 5),
  exec (.add d a b) s = .next (s.putS d 1 (BitVec.ofNat 64 ((s.rs a).toNat + (s.rs b).toNat))) ∧
  exec (.sub d a b) s = .next (s.putS d 1 (BitVec.ofInt 64 ((s.rs a).toInt - (s.rs b).toInt))) ∧
  exec (.mul d a b) s = .next (s.putS d 3 (BitVec.ofInt 64 ((s.rs a).toInt * (s.rs b).toInt))) ∧
  exec (.mulh d a b) s = .next (s.putS d 3 (BitVec.ofInt 64 ((s.rs a).toInt * (s.rs b).toInt / 2 ^ 64))) ∧
  exec (.mulhn d a b) s = .next (s.putS d 3 (BitVec.ofNat 64 ((s.rs a).toNat * (s.rs b).toNat / 2 ^ 64))) ∧
  (∃ v, exec (.and d a b) s = .next (s.putS d 1 v) ∧ ∀ k < 64, v.getLsbD k = ((s.rs a).getLsbD k && (s.rs b).getLsbD k)) ∧
  (∃ v, exec (.or d a b) s = .next (s.putS d 1 v) ∧ ∀ k < 64, v.getLsbD k = ((s.rs a).getLsbD k || (s.rs b).getLsbD k)) ∧
  (∃ v, exec (.xor d a b) s = .next (s.putS d 1 v) ∧ ∀ k < 64, v.getLsbD k = ((s.rs a).getLsbD k ^^ (s.rs b).getLsbD k)) ∧
  (∃ v, exec (.andn d a b) s = .next (s.putS d 1 v) ∧ ∀ k < 64, v.getLsbD k = ((s.rs a).getLsbD k && !(s.rs b).getLsbD k)) ∧
  exec (.mov d a) s = .next (s.putS d 1 (s.rs a))) ∧
  (∀ (s : State) (d a b : BitVec 5),
  exec (.div d a b) s = .next (s.putS d 20
    (if s.rs b = 0 then BitVec.ofInt 64 (-1) else BitVec.ofInt 64 ((s.rs a).toInt.tdiv (s.rs b).toInt))) ∧
  exec (.divn d a b) s = .next (s.putS d 20
    (if s.rs b = 0 then BitVec.ofNat 64 (2 ^ 64 - 1) else BitVec.ofNat 64 ((s.rs a).toNat / (s.rs b).toNat))) ∧
  exec (.rem d a b) s = .next (s.putS d 20
    (if s.rs b = 0 then s.rs a else BitVec.ofInt 64 ((s.rs a).toInt.tmod (s.rs b).toInt))) ∧
  exec (.remn d a b) s = .next (s.putS d 20
    (if s.rs b = 0 then s.rs a else BitVec.ofNat 64 ((s.rs a).toNat % (s.rs b).toNat))) ∧
  ((s.rs a).toInt = -2 ^ 63 → (s.rs b).toInt = -1 →
    exec (.div d a b) s = .next (s.putS d 20 (BitVec.ofInt 64 (-2 ^ 63))) ∧ exec (.rem d a b) s = .next (s.putS d 20 0))) ∧
  (∀ (s : State) (d a b : BitVec 5),
  let signed (x : Int) : Int := Max.max (-2 ^ 63) (Min.min (2 ^ 63 - 1) x)
  let natural (x : Int) : Int := Max.max 0 (Min.min (2 ^ 64 - 1) x)
  let put (x y : Int) : State := s.put 1 (.s d.toNat (BitVec.ofInt 64 y)) (if x = y then 0 else flSA)
  let x := (s.rs a).toInt
  let y := (s.rs b).toInt
  let ux : Int := (s.rs a).toNat
  let uy : Int := (s.rs b).toNat
  exec (.adds d a b 0) s = .next (put (x + y) (signed (x + y))) ∧
  exec (.subs d a b 0) s = .next (put (x - y) (signed (x - y))) ∧
  exec (.adds d a b 1) s = .next (put (ux + uy) (natural (ux + uy))) ∧
  exec (.subs d a b 1) s = .next (put (ux - uy) (natural (ux - uy))))

/-- O19. R183's shifts by sb mod 64 and its minima and maxima. R183's counts and extensions and R185's bit fields, bit by bit. -/
def Obligations.ScalarShiftsCountsFields : Prop :=
  (∀ (s : State) (d a b : BitVec 5),
  exec (.sll d a b) s = .next (s.putS d 1 (BitVec.ofNat 64 ((s.rs a).toNat * 2 ^ ((s.rs b).toNat % 64)))) ∧
  exec (.srl d a b) s = .next (s.putS d 1 (BitVec.ofNat 64 ((s.rs a).toNat / 2 ^ ((s.rs b).toNat % 64)))) ∧
  exec (.sra d a b) s = .next (s.putS d 1 (BitVec.ofInt 64 ((s.rs a).toInt / 2 ^ ((s.rs b).toNat % 64)))) ∧
  exec (.min d a b) s = .next (s.putS d 1 (BitVec.ofInt 64 (Min.min (s.rs a).toInt (s.rs b).toInt))) ∧
  exec (.max d a b) s = .next (s.putS d 1 (BitVec.ofInt 64 (Max.max (s.rs a).toInt (s.rs b).toInt))) ∧
  exec (.minn d a b) s = .next (s.putS d 1 (BitVec.ofNat 64 (Min.min (s.rs a).toNat (s.rs b).toNat))) ∧
  exec (.maxn d a b) s = .next (s.putS d 1 (BitVec.ofNat 64 (Max.max (s.rs a).toNat (s.rs b).toNat)))) ∧
  (∀ (s : State) (d a b : BitVec 5) (w : BitVec 2),
  (∃ n : Nat, exec (.clz d a) s = .next (s.putS d 1 (BitVec.ofNat 64 n)) ∧ n ≤ 64 ∧
    (∀ k, 64 - n ≤ k → (s.rs a).getLsbD k = false) ∧ (n < 64 → (s.rs a).getLsbD (63 - n) = true)) ∧
  (∃ n : Nat, exec (.ctz d a) s = .next (s.putS d 1 (BitVec.ofNat 64 n)) ∧ n ≤ 64 ∧
    (∀ k < n, (s.rs a).getLsbD k = false) ∧ (n < 64 → (s.rs a).getLsbD n = true)) ∧
  exec (.popc d a) s = .next (s.putS d 1 (BitVec.ofNat 64 ((List.range 64).filter (s.rs a).getLsbD).length)) ∧
  (∃ v, exec (.sext d a w) s = .next (s.putS d 1 v) ∧
    ∀ k < 64, v.getLsbD k = (s.rs a).getLsbD (Min.min k (8 * 2 ^ w.toNat - 1))) ∧
  (∃ v, exec (.zext d a w) s = .next (s.putS d 1 v) ∧
    ∀ k < 64, v.getLsbD k = (decide (k < 8 * 2 ^ w.toNat) && (s.rs a).getLsbD k)) ∧
  (∃ v, exec (.bfx d a b 0) s = .next (s.putS d 1 v) ∧
    ∀ k < 64, v.getLsbD k = (decide (k < bfLen (s.rs b)) && (s.rs a).getLsbD (bfPos (s.rs b) + k))) ∧
  (∃ v, exec (.bfx d a b 1) s = .next (s.putS d 1 v) ∧
    ∀ k < 64, v.getLsbD k = (decide (bfLen (s.rs b) ≠ 0) && (s.rs a).getLsbD (bfPos (s.rs b) + Min.min k (bfLen (s.rs b) - 1)))) ∧
  (∃ v, exec (.bfi d a b) s = .next (s.putS d 1 v) ∧
    ∀ k < 64, v.getLsbD k =
      if bfPos (s.rs b) ≤ k ∧ k < bfPos (s.rs b) + bfLen (s.rs b) then (s.rs a).getLsbD (k - bfPos (s.rs b)) else (s.rs d).getLsbD k))

/-- O20. R186: each immediate form is its register form with the immediate, the X word when there is one, as second operand. -/
def Obligations.ScalarImmediates : Prop := ∀ (s : State) (d a : BitVec 5) (i : BitVec 7) (v : Word),
  (∀ x, s.ctx.iss.x = some x → v = BitVec.ofInt 64 x.toInt) → (s.ctx.iss.x = none → v = BitVec.ofInt 64 i.toInt) →
  exec (.addi d a i) s = .next (s.putS d 1 (BitVec.ofInt 64 ((s.rs a).toInt + v.toInt))) ∧
  exec (.muli d a i) s = .next (s.putS d 3 (BitVec.ofInt 64 ((s.rs a).toInt * v.toInt))) ∧
  exec (.andi d a i) s = .next (s.putS d 1 (s.rs a &&& v)) ∧
  exec (.ori d a i) s = .next (s.putS d 1 (s.rs a ||| v)) ∧
  exec (.xori d a i) s = .next (s.putS d 1 (s.rs a ^^^ v)) ∧
  exec (.slli d a i) s = .next (s.putS d 1 (BitVec.ofNat 64 ((s.rs a).toNat * 2 ^ (v.toNat % 64)))) ∧
  exec (.srli d a i) s = .next (s.putS d 1 (BitVec.ofNat 64 ((s.rs a).toNat / 2 ^ (v.toNat % 64)))) ∧
  exec (.srai d a i) s = .next (s.putS d 1 (BitVec.ofInt 64 ((s.rs a).toInt / 2 ^ (v.toNat % 64)))) ∧
  exec (.mini d a i) s = .next (s.putS d 1 (BitVec.ofInt 64 (Min.min (s.rs a).toInt v.toInt))) ∧
  exec (.maxi d a i) s = .next (s.putS d 1 (BitVec.ofInt 64 (Max.max (s.rs a).toInt v.toInt))) ∧
  exec (.li d i) s = .next (s.putS d 1 v) ∧
  exec (.lih d a i) s = .next (s.putS d 1 (BitVec.ofNat 64 (v.toNat % 2 ^ 32 * 2 ^ 32 + (s.rs a).toNat % 2 ^ 32)))

/-- O21. R187: every compare writes its relation to pd at latency 1. R188: the predicate instructions, and what SPRED does to
the predicates when its result is written. -/
def Obligations.ScalarComparesAndPredicates : Prop :=
  (∀ (s : State) (d a b : BitVec 5) (i : BitVec 7),
  let x := (s.rs a).toInt
  let y := (s.rs b).toInt
  let ux := (s.rs a).toNat
  let uy := (s.rs b).toNat
  let v := (s.imm i).toInt
  exec (.cmpeq d a b) s = .next (s.putP d (decide (x = y))) ∧ exec (.cmpne d a b) s = .next (s.putP d (decide (x ≠ y))) ∧
  exec (.cmplt d a b) s = .next (s.putP d (decide (x < y))) ∧ exec (.cmple d a b) s = .next (s.putP d (decide (x ≤ y))) ∧
  exec (.cmpltn d a b) s = .next (s.putP d (decide (ux < uy))) ∧ exec (.cmplen d a b) s = .next (s.putP d (decide (ux ≤ uy))) ∧
  exec (.cmpeqi d a i) s = .next (s.putP d (decide (x = v))) ∧ exec (.cmpnei d a i) s = .next (s.putP d (decide (x ≠ v))) ∧
  exec (.cmplti d a i) s = .next (s.putP d (decide (x < v))) ∧ exec (.cmplei d a i) s = .next (s.putP d (decide (x ≤ v))) ∧
  exec (.cmpgti d a i) s = .next (s.putP d (decide (v < x))) ∧ exec (.cmpgei d a i) s = .next (s.putP d (decide (v ≤ x)))) ∧
  (∀ (s : State) (d a b : BitVec 5) (v : BitVec 2),
  exec (.pand d a b) s = .next (s.putP d (s.rp a && s.rp b)) ∧ exec (.por d a b) s = .next (s.putP d (s.rp a || s.rp b)) ∧
  exec (.pxor d a b) s = .next (s.putP d (s.rp a ^^ s.rp b)) ∧ exec (.pandn d a b) s = .next (s.putP d (s.rp a && !s.rp b)) ∧
  exec (.pnot d a) s = .next (s.putP d (!s.rp a)) ∧ exec (.pmov d a) s = .next (s.putP d (s.rp a)) ∧
  exec (.pset d v) s = .next (s.putP d (decide (v = 1))) ∧
  (∃ w, exec (.ptos d) s = .next (s.putS d 1 w) ∧ ∀ k < 64, w.getLsbD k = (decide (k < 16) && s.ctx.regs.rp k)) ∧
  (∃ w, exec (.spred a b) s = .next (s.put 1 w) ∧ ∀ n < 16, ((s.ctx.regs.apply w).rp n) =
    if n ≠ 0 ∧ (s.rs b).getLsbD n then (s.rs a).getLsbD n else s.ctx.regs.rp n))

/-- O22. R189: the handle instructions inside their ranges. R191: HCHK writes whether the access would pass every check of
R64, for each of its four classes; where the port does not hold the entry, the result waits for it, due in the next cycle
(R146, log 5); an error met in reading the entry is logged and faults (R496). R189, R190, R474: outside the ranges each handle
instruction takes the handle-range fault, HMK its index first. -/
def Obligations.HandleArithmetic : Prop :=
  (∀ (s : State) (d a b : BitVec 5) (i : BitVec 7),
  ((s.rs a).toNat < 2 ^ 16 → (s.rs b).toNat < 2 ^ 56 →
    exec (.hmk d a b) s = .next (s.putA d (mkHandle (s.rs a).toNat (s.rs b).toNat))) ∧
  (0 ≤ (hOff (s.ra a) : Int) + (s.rs b).toInt → (hOff (s.ra a) : Int) + (s.rs b).toInt < 2 ^ 56 →
    exec (.hadd d a b) s = .next (s.putA d (mkHandle (hIdx (s.ra a)) ((hOff (s.ra a) : Int) + (s.rs b).toInt).toNat))) ∧
  (0 ≤ (hOff (s.ra a) : Int) + (s.imm i).toInt → (hOff (s.ra a) : Int) + (s.imm i).toInt < 2 ^ 56 →
    exec (.haddi d a i) s = .next (s.putA d (mkHandle (hIdx (s.ra a)) ((hOff (s.ra a) : Int) + (s.imm i).toInt).toNat))) ∧
  ((s.rs b).toNat < 2 ^ 56 → exec (.hseto d a b) s = .next (s.putA d (mkHandle (hIdx (s.ra a)) (s.rs b).toNat))) ∧
  exec (.hidx d a) s = .next (s.putS d 1 (BitVec.ofNat 64 ((s.ra a).toNat / 2 ^ 56))) ∧
  exec (.hoff d a) s = .next (s.putS d 1 (BitVec.ofNat 64 ((s.ra a).toNat % 2 ^ 56))) ∧
  exec (.hmov d a) s = .next (s.putA d (s.ra a)) ∧
  (∀ x y : Nat, x < 2 ^ 16 → y < 2 ^ 56 → hIdx (mkHandle x y) = x ∧ hOff (mkHandle x y) = y) ∧
  (∀ c : BitVec 2,
    let i := hIdx (s.ra a)
    let has := i ≠ 0 ∧ i ≤ bits s.ctx.csr.btab 63 48
    let e := s.pk.readError (entryPiece s.ctx.table i)
    let passes := s.passesChecks i (hOff (s.ra a)) (s.rs b).toNat
      (if c = 0 then rRD else if c = 1 then rWR else if c = 2 then rAT + rRD else rCS) (c = 3)
    ((has → s.entryReady i) → ∃ v : Bool, exec (.hchk d a b c) s = .next (s.putP d v) ∧ (v = true ↔ passes)) ∧
    (has → s.portHolds i = false → ∃ (v : Bool) (t : State), exec (.hchk d a b c) s = .next t ∧ (v = true ↔ passes) ∧
      t.ctx.pend = s.ctx.pend ++ [{ due := s.core.cyc + 1, wr := .p d.toNat v, land := s.pk.opCtr, ready := false }] ∧ s.keeps t) ∧
    (has → s.portHolds i = true → ∀ k x, e = some (k, x) →
      let r := s.faultRec 0x1E 0 d.toNat (BitVec.ofNat 64 x) (BitVec.ofNat 64 k)
      exec (.hchk d a b c) s = .next ((s.logMet r).takeFault r)))) ∧
  (∀ (s : State) (d a b : BitVec 5) (i : BitVec 7),
  let rec_ (reg : Nat) (v off : Word) (idx : Nat) : State :=
    (s.enterTrap (s.faultRec 0x09 0 reg v off idx)).updIss (fun x => { x with fault := some (s.faultRec 0x09 0 reg v off idx) })
  let off := BitVec.ofNat 64 (hOff (s.ra a))
  (2 ^ 16 ≤ (s.rs a).toNat → exec (.hmk d a b) s = .next (rec_ a.toNat (s.rs a) 0 0)) ∧
  ((s.rs a).toNat < 2 ^ 16 → 2 ^ 56 ≤ (s.rs b).toNat → exec (.hmk d a b) s = .next (rec_ b.toNat (s.rs b) 0 0)) ∧
  (∀ o : Int, o = (hOff (s.ra a) : Int) + (s.rs b).toInt → (o < 0 ∨ 2 ^ 56 ≤ o) →
    exec (.hadd d a b) s = .next (rec_ a.toNat (BitVec.ofInt 64 o) off (hIdx (s.ra a)))) ∧
  (∀ o : Int, o = (hOff (s.ra a) : Int) + (s.imm i).toInt → (o < 0 ∨ 2 ^ 56 ≤ o) →
    exec (.haddi d a i) s = .next (rec_ a.toNat (BitVec.ofInt 64 o) off (hIdx (s.ra a)))) ∧
  (2 ^ 56 ≤ (s.rs b).toNat → exec (.hseto d a b) s = .next (rec_ b.toNat (s.rs b) off (hIdx (s.ra a)))))

/-- O23. R200, R202, R204, R205: branches of a slot that is not X record their target for the bundle's end; calls push the
address of the bundle that follows, RET pops it. A call into a full store spills its oldest entry to the next place of the
spill area, a store like any other; RET from an empty store refills from the last place used, its data due in the next cycle.
R202: a branch in slot X (B, BX, BEMPTY) is taken when S takes none, is dropped and counted in BRDROP beside another target or
EXIT, and leads the same way as one of S to the same target; a BEMPTY with a governed lane on does nothing. R204, R205: a call
into a full return-address store faults without a spill area or with that area full (SPILLED at its capacity); RET from a
store that is empty with nothing spilled faults. -/
def Obligations.Branches : Prop :=
  (∀ (s : State) (o : BitVec 17) (o' : BitVec 15) (w : BitVec 2) (a : BitVec 5),
  s.ctx.iss.slot ≠ .X →
  let at_ (n : Int) : Dpa := BitVec.ofInt 48 ((s.ctx.iss.pc.toNat : Int) + 4 * n)
  let off := match s.ctx.iss.x with | some x => x.toInt | none => o.toInt
  let off' := match s.ctx.iss.x with | some x => x.toInt | none => o'.toInt
  let low : Dpa := (s.rs a).setWidth 48
  let next : Dpa := s.ctx.iss.pc + BitVec.ofNat 48 (4 * s.ctx.iss.words)
  exec (.b o) s = .next (s.updEnd (fun e => { e with sBranch := some (at_ off) })) ∧
  exec (.bx a) s = .next (s.updEnd (fun e => { e with sBranch := some low })) ∧
  ((∀ k < 512 / 2 ^ w.toNat, s.ctx.regs.top.getLsbD k = false) →
    exec (.bempty o' w) s = .next (s.updEnd (fun e => { e with sBranch := some (at_ off') }))) ∧
  (∀ k < 512 / 2 ^ w.toNat, s.ctx.regs.top.getLsbD k = true → exec (.bempty o' w) s = .next s) ∧
  (s.ctx.ras.length < 16 →
    exec (.call o) s = .next ((s.updCtx (fun c => { c with ras := next :: c.ras })).updEnd
      (fun e => { e with sBranch := some (at_ off), call := true })) ∧
    exec (.callx a) s = .next ((s.updCtx (fun c => { c with ras := next :: c.ras })).updEnd
      (fun e => { e with sBranch := some low, call := true }))) ∧
  (∀ t ts, s.ctx.ras = t :: ts → exec .ret s = .next ((s.updCtx (fun c => { c with ras := ts })).updEnd
      (fun e => { e with sBranch := some t, call := true }))) ∧
  (let c := s.ctx.csr
   let n := c.spilled.toNat
   let buf := bits c.rsspill 63 48
   let slot (i : Nat) : Nat := 8 * (bits c.rsspill 31 3 + i)
   let place (i : Nat) : Range := entryRange (s.pk.entryAt (bits c.btab 47 0) buf) (slot i) 8
   let same (t : State) : Prop := t.ctx.regs = s.ctx.regs ∧ t.ctx.lnu = s.ctx.lnu ∧ t.pk.mem = s.pk.mem ∧ t.sib = s.sib
   (16 ≤ s.ctx.ras.length → buf ≠ 0 → n ≠ bits c.rsspill 47 32 → slot n < 2 ^ 56 → s.mayReach buf (slot n) 8 rWR false →
    ∀ last, s.ctx.ras.getLast? = some last →
    let spills (i : Instr) (to_ : Dpa) : Prop := ∃ t, exec i s = .next t ∧ t.ctx.ras = next :: s.ctx.ras.dropLast ∧
      t.ctx.csr = { c with spilled := c.spilled + 1 } ∧ t.ctx.iss.be.sBranch = some to_ ∧ t.ctx.iss.be.call = true ∧ same t ∧
      t.ctx.pend = s.ctx.pend ∧ s.hasNumbered t s.tlG ∧
      s.hasIssued t (.store (place n) (leBytes 8 last.toNat) 0) 0x10 (s.homeLat (place n)) 0 []
    spills (.call o) (at_ off) ∧ spills (.callx a) low) ∧
   (s.ctx.ras = [] → n ≠ 0 → slot (n - 1) < 2 ^ 56 → s.mayReach buf (slot (n - 1)) 8 rRD false →
    ∃ t, exec .ret s = .next t ∧ t.ctx.ras = [] ∧ t.ctx.csr = { c with spilled := c.spilled - 1 } ∧
      t.ctx.iss.be.sBranch = some (BitVec.ofNat 48 (leNat (s.ownBytes (place (n - 1))))) ∧ t.ctx.iss.be.call = true ∧
      t.ctx.iss.be.refill = true ∧ same t ∧
      t.ctx.pend = s.ctx.pend ++ [{ due := s.core.cyc + 1, wr := .none, land := s.pk.opCtr, ready := false }] ∧
      s.hasIssued t (.load .none .scalar (place (n - 1)) none) 0x20 (s.homeLat (place (n - 1))) 0 []))) ∧
  (∀ (s : State) (a : BitVec 5) (o : BitVec 17) (o' : BitVec 15) (w : BitVec 2) (i : Instr) (t : Dpa),
  s.ctx.iss.slot = .X →
  let at_ (n : Int) : Dpa := BitVec.ofInt 48 ((s.ctx.iss.pc.toNat : Int) + 4 * n)
  let off := match s.ctx.iss.x with | some x => x.toInt | none => o.toInt
  let off' := match s.ctx.iss.x with | some x => x.toInt | none => o'.toInt
  let dropped : State := s.updCtx (fun c => { c with csr := { c.csr with brdrop := BitVec.ofNat 64 ((c.csr.brdrop.toNat + 1) % 2 ^ 32) } })
  (∀ k < 512 / 2 ^ w.toNat, s.ctx.regs.top.getLsbD k = true → exec (.bempty o' w) s = .next s) ∧
  (((i = .b o ∧ t = at_ off) ∨ (i = .bx a ∧ t = (s.rs a).setWidth 48) ∨
      (i = .bempty o' w ∧ t = at_ off' ∧ ∀ k < 512 / 2 ^ w.toNat, s.ctx.regs.top.getLsbD k = false)) →
    (s.ctx.iss.be.exit_ = true → exec i s = .next dropped) ∧
    (∀ u, s.ctx.iss.be.exit_ = false → s.ctx.iss.be.sBranch = some u → u ≠ t → exec i s = .next dropped) ∧
    (s.ctx.iss.be.exit_ = false → s.ctx.iss.be.sBranch = some t →
      exec i s = .next (s.updEnd (fun e => { e with xBranch := some t, xlbrk := none, xskip := false }))) ∧
    (s.ctx.iss.be.exit_ = false → s.ctx.iss.be.sBranch = none → exec i s = .next (s.updEnd (fun e => { e with xBranch := some t }))))) ∧
  (∀ (s : State) (o : BitVec 17) (a : BitVec 5),
  let fault (r : FaultRec) : Host.Outcome State Fault Refusal := .next ((s.enterTrap r).updIss (fun i => { i with fault := some r }))
  let full := s.faultRec 0x0B 0 0 ((s.ctx.iss.pc + BitVec.ofNat 48 (4 * s.ctx.iss.words)).zeroExtend 64) s.ctx.csr.rsspill
  (16 ≤ s.ctx.ras.length → (bits s.ctx.csr.rsspill 63 48 = 0 ∨ s.ctx.csr.spilled.toNat = bits s.ctx.csr.rsspill 47 32) →
    exec (.call o) s = fault full ∧ exec (.callx a) s = fault full) ∧
  (s.ctx.ras = [] → s.ctx.csr.spilled = 0 → exec .ret s = fault (s.faultRec 0x0C 0)))

/-- O24. R206–R209, R211: LOOP begins its level, or with a trip count of 0 leads past its body; LSTRD notes a stride for its
level, in the place of one of the same register, beside up to three others; LBRK leads past the body of its level. R207, R209,
R211, R483: what LOOP, LSTRD and LBRK raise the loop fault on: a handler, a second LOOP of the bundle, a level that is active
or deeper than one active, a missing outer level, a body that passes the end of the outer level's, a fifth address register of
a level. R208: at the last bundle of the innermost level the body begins again until the trip count is reached; then the level
ends, its strides are due, and the level around it is asked the same. Elsewhere execution goes on in sequence. -/
def Obligations.Loops : Prop :=
  (∀ (s : State) (l : BitVec 3) (a b : BitVec 5) (n : BitVec 7),
  s.ctx.csr.inHandler = false →
  let u := s.ctx.lnu
  let first : Dpa := s.ctx.iss.pc + BitVec.ofNat 48 (4 * s.ctx.iss.words)
  let body := s.pk.bodyEnd first n.toNat
  let waits := (u.wait.filter (fun w => w.1 == l.toNat)).map Prod.snd
  let rest := u.wait.filter (fun w => w.1 != l.toNat)
  (s.ctx.iss.be.loopsBegun = 0 → (∀ x ∈ u.act, x.lvl < l.toNat) →
    (l ≠ 0 → ∃ x ∈ u.act, x.lvl + 1 = l.toNat ∧ (∀ y ∈ u.act, y.lvl = x.lvl → y = x) ∧ body.1.toNat ≤ x.last.toNat) →
    (s.rs a ≠ 0 → exec (.loop l a n) s = .next ((s.updEnd (fun e => { e with loopsBegun := 1 })).updCtx (fun c =>
      { c with lnu := ⟨⟨l.toNat, (s.rs a).toNat, 1, first, body.1, body.2, waits⟩ :: u.act, rest⟩ }))) ∧
    (s.rs a = 0 → s.ctx.iss.slot ≠ .X → exec (.loop l a n) s =
      .next (((s.updEnd (fun e => { e with loopsBegun := 1 })).updCtx (fun c => { c with lnu := ⟨u.act, rest⟩ })).updEnd
        (fun e => { e with sBranch := some body.2, skip := some body.1 })))) ∧
  (let others := u.wait.filter (fun w => !(w.1 == l.toNat && w.2.1 == a.toNat))
   (∀ x ∈ u.act, x.lvl ≠ l.toNat) → (others.filter (fun w => w.1 == l.toNat)).length < 4 →
    exec (.lstrd l a b) s = .next (s.updCtx (fun c => { c with lnu := { u with wait := others ++ [(l.toNat, a.toNat, s.rs b)] } }))) ∧
  (∀ x xs, u.act = x :: xs → x.lvl = l.toNat → s.ctx.iss.slot ≠ .X →
    exec (.lbrk l) s = .next (s.updEnd (fun e => { e with sBranch := some x.after, lbrk := some l.toNat })))) ∧
  (∀ (s : State) (l : BitVec 3) (a b : BitVec 5) (n : BitVec 7),
  let u := s.ctx.lnu
  let fault : Host.Outcome State Fault Refusal := .next ((s.enterTrap (s.faultRec 0x0D 0 l.toNat)).updIss
    (fun i => { i with fault := some (s.faultRec 0x0D 0 l.toNat) }))
  (s.ctx.csr.inHandler = true → exec (.loop l a n) s = fault ∧ exec (.lstrd l a b) s = fault ∧ exec (.lbrk l) s = fault) ∧
  (s.ctx.iss.be.loopsBegun ≠ 0 → exec (.loop l a n) s = fault) ∧
  ((∃ x ∈ u.act, l.toNat ≤ x.lvl) → exec (.loop l a n) s = fault) ∧
  (l ≠ 0 → (∀ x ∈ u.act, x.lvl + 1 ≠ l.toNat) → exec (.loop l a n) s = fault) ∧
  (∀ x, l ≠ 0 → u.act.find? (fun y => y.lvl == l.toNat - 1) = some x →
    x.last.toNat < (s.pk.bodyEnd (s.ctx.iss.pc + BitVec.ofNat 48 (4 * s.ctx.iss.words)) n.toNat).1.toNat → exec (.loop l a n) s = fault) ∧
  ((∃ x ∈ u.act, x.lvl = l.toNat) → exec (.lstrd l a b) s = fault) ∧
  (4 ≤ (u.wait.filter (fun w => w.1 == l.toNat && w.2.1 != a.toNat)).length → exec (.lstrd l a b) s = fault) ∧
  ((∀ x ∈ u.act, x.lvl ≠ l.toNat) → exec (.lbrk l) s = fault)) ∧
  (∀ (last dflt : Dpa) (x : Level) (xs : List Level),
  (x.last ≠ last → lnuEnd last dflt (x :: xs) = (dflt, x :: xs, [])) ∧
  (x.last = last → x.iter < x.trip → lnuEnd last dflt (x :: xs) = (x.first, { x with iter := x.iter + 1 } :: xs, x.strides)) ∧
  (x.last = last → x.trip ≤ x.iter → lnuEnd last dflt (x :: xs) =
    ((lnuEnd last x.after xs).1, (lnuEnd last x.after xs).2.1, x.strides ++ (lnuEnd last x.after xs).2.2)) ∧
  lnuEnd last dflt [] = (dflt, [], []) ∧
  (∀ n, x.last = last → x.iter = 1 → x.trip = n + 1 →
    (Nat.repeat (fun l => (lnuEnd last dflt l).2.1) n (x :: xs)) = { x with iter := n + 1 } :: xs))

/-- O25. R198, R199, R214, R215, R487, R488: NOP, FRAME, EXIT, PPT, TRAP and RETT, as recorded for the bundle's end. -/
def Obligations.FlowInstructions : Prop := ∀ (s : State) (a b : BitVec 5) (n : BitVec 7) (r : BitVec 17),
  let len : Word := BitVec.ofNat 64 (Max.max 16 (Min.min (s.rs b).toNat 2048))
  exec .nop s = .next s ∧
  exec .exit s = .next (s.updEnd (fun e => { e with exit_ := true })) ∧
  exec (.frame a b 0) s = .next (s.updEnd (fun e => { e with frame := some (s.rs a, len) })) ∧
  exec (.frame a b 1) s = .next (s.updEnd (fun e => { e with frame := some (BitVec.ofNat 64 s.tstamp + s.rs a, len) })) ∧
  exec (.trap a n) s = .next (s.updEnd (fun e => { e with trap := some (s.faultRec 0x1F 0 n.toNat (s.rs a)) })) ∧
  (∀ t, s.ctx.yield_ = some t → s.core.age ≤ t → s.ctx.csr.inHandler = false →
    exec (.ppt r) s = .next (s.updEnd (fun e => { e with ppt := some r.toNat }))) ∧
  ((s.ctx.yield_ = none ∨ s.ctx.csr.inHandler = true ∨ ∃ t, s.ctx.yield_ = some t ∧ t < s.core.age) → exec (.ppt r) s = .next s) ∧
  (s.ctx.csr.inHandler = true → s.ctx.iss.slot ≠ .X →
    exec .rett s = .next (s.updEnd (fun e => { e with sBranch := some (s.ctx.csr.tpc.setWidth 48), rett := true }))) ∧
  (s.ctx.csr.inHandler = false → exec .rett s =
    .next ((s.enterTrap (s.faultRec 0x20 0)).updIss (fun i => { i with fault := some (s.faultRec 0x20 0) })))

/-- O26. R192, R193, R197: a CSR read lands at latency 2; a write, a set and a clear land the old value and record the new
one, with the bits a context may not write as they were; FSTAT's word names the flags to clear; RDTS reads TSTAMP. R192: an
unassigned CSR number, and a write to a read-only CSR, take the CSR fault with the number in TVAL. R46, R151, R192, R193,
R475: what a recorded CSR write leaves to be read: the word, FRLEN clamped to 16–2,048, FSTAT without the flags named; every
other CSR of the context reads as before. -/
def Obligations.CsrInstructions : Prop :=
  (∀ (s : State) (d a : BitVec 5) (n : BitVec 7) (old m : Word),
  s.csrRead n.toNat = some old →
  let wr (x : Word) : Host.Outcome State Fault Refusal :=
    .next ((s.putS d 2 old).updEnd (fun e => { e with csrw := e.csrw ++ [(n.toNat, x)] }))
  exec (.csrr d n) s = .next (s.putS d 2 old) ∧
  exec (.rdts d) s = .next (s.putS d 2 (BitVec.ofNat 64 s.tstamp)) ∧
  (csrMask n.toNat = some m → n ≠ 0 →
    exec (.csrw d a n) s = wr ((old &&& ~~~m) ||| (s.rs a &&& m)) ∧
    exec (.csrs d a n) s = wr (old ||| (s.rs a &&& m)) ∧
    exec (.csrc d a n) s = wr (old &&& ~~~(s.rs a &&& m))) ∧
  (csrMask n.toNat = some m → n = 0 →
    exec (.csrw d a n) s = wr (s.rs a &&& m) ∧ exec (.csrs d a n) s = wr (s.rs a &&& m) ∧ exec (.csrc d a n) s = wr 0)) ∧
  (∀ (s : State) (d a : BitVec 5) (n : BitVec 7),
  let r := s.faultRec 0x0A 0 0 (BitVec.ofNat 64 n.toNat)
  let fault : Host.Outcome State Fault Refusal := .next ((s.enterTrap r).updIss (fun i => { i with fault := some r }))
  (s.csrRead n.toNat = none → exec (.csrr d n) s = fault) ∧
  ((s.csrRead n.toNat = none ∨ csrMask n.toNat = none) →
    exec (.csrw d a n) s = fault ∧ exec (.csrs d a n) s = fault ∧ exec (.csrc d a n) s = fault)) ∧
  (∀ (s : State) (n k : Nat) (x : Word), (csrMask n).isSome → x &&& ~~~((csrMask n).getD 0) = 0 →
  let t := s.updCtx (fun c => c.csrWrite n x)
  t.csrRead n = (if n = 0 then some ((s.ctx.regs.fstat &&& ~~~(x.setWidth 6)).zeroExtend 64)
    else if n = 9 then some (BitVec.ofNat 64 (Max.max 16 (Min.min x.toNat 2048))) else some x) ∧
  (k ≠ n → t.csrRead k = s.csrRead k))

/-- O27. R412, R414, R415, R417, R418: a satisfied wait passes and an unsatisfied one stalls its bundle; WTEST answers which;
WMRG lands the merge; TLREAD reads a timeline, and M = 3 clears FLO for its owner only; FENCE records the operations it names. -/
def Obligations.WitnessInstructions : Prop := ∀ (s : State) (d a b : BitVec 5) (p q : BitVec 8),
  (let waiter := waitOfCtx s.ctx.num
   let tester := testOfCtx s.ctx.num
   let asked : State := (s.updPk (fun k => Pack.ask tester (k.forgetPoint tester (s.rs a)) (s.rs a))).putP d false
   (s.pk.answerTo waiter (s.rs a) = none →
    (s.pk.witness (s.rs a) none = .ok → exec (.wwait a) s = .next s) ∧
    (s.pk.witness (s.rs a) none = .wait →
      exec (.wwait a) s = .next ((s.updPk (fun k => Pack.ask waiter k (s.rs a))).updIss (fun i => { i with stalled := true })))) ∧
   (∀ code cause n, s.pk.answerTo waiter (s.rs a) = some (.bad code cause n) →
    exec (.wwait a) s = .next ((s.updPk (fun k => k.forget waiter)).takeFault (s.faultRec code cause a.toNat (s.rs a) n))) ∧
   (s.pk.answerTo tester (s.rs a) = none →
    (s.pk.witness (s.rs a) none = .ok → exec (.wtest d a) s = .next (s.putP d true)) ∧
    (s.pk.witness (s.rs a) none = .wait → exec (.wtest d a) s = .next asked)) ∧
   (∀ n, s.pk.isLocal (witDev (s.rs a)) = false → s.pk.answerTo tester (s.rs a) = some (.bad 0x16 1 n) →
    exec (.wtest d a) s = .next asked)) ∧
  (∀ w, s.mergeCheck a.toNat (s.rs a) = .ok () → s.mergeCheck b.toNat (s.rs b) = .ok () →
    s.pk.merge (s.rs a) (s.rs b) = .value w →
    exec (.wmrg d a b 0) s = .next (s.putS d 2 w) ∧ exec (.wmrg d a b 1) s = .next (s.putS d 2 (s.pk.nameDev w))) ∧
  (s.rs b = 0 → (witK (s.rs a) = 1 → s.pk.isLocal (witDev (s.rs a)) → witTl (s.rs a) < 2576 → witSeq (s.rs a) ≤ (s.pk.tl (witTl (s.rs a))).iss →
      (s.pk.tl (witTl (s.rs a))).iss < 2 ^ 41 → s.pk.own < 144 ∨ s.pk.own = 255 → exec (.wmrg d a b 0) s = .next (s.putS d 2 (s.rs a)))) ∧
  ((s.rs a).toNat % 4096 < 2576 →
    let t := s.pk.tl ((s.rs a).toNat % 4096)
    exec (.tlread d a 0) s = .next (s.putS d 4 (BitVec.ofNat 64 t.iss)) ∧
    exec (.tlread d a 1) s = .next (s.putS d 4 (BitVec.ofNat 64 t.head)) ∧
    exec (.tlread d a 2) s = .next (s.putS d 4 (BitVec.ofNat 64 t.flo)) ∧
    (t.flo ≠ 0 → t.owner = s.ownId → exec (.tlread d a 3) s =
      .next ((s.putS d 4 (BitVec.ofNat 64 t.flo)).updPk (fun k => k.setTl ((s.rs a).toNat % 4096) { t with flo := 0 }))) ∧
    (t.flo ≠ 0 → t.owner ≠ s.ownId → exec (.tlread d a 3) s = .next (s.putS d 4 (BitVec.ofNat 64 (t.flo + 2 ^ 63))))) ∧
  (2576 ≤ (s.rs a).toNat % 4096 → ∀ m, exec (.tlread d a m) s =
    .next ((s.enterTrap (s.faultRec 0x15 3 a.toNat (s.rs a))).updIss (fun i => { i with fault := some (s.faultRec 0x15 3 a.toNat (s.rs a)) }))) ∧
  exec (.fence p q) s = .next (s.updEnd (fun e => { e with fence := some (s.ofClass p, q) }))

/-- O28. R413 whole: WHZN lands, at latency 2, a horizon of the present TSTAMP mod 2^54 with DEV 0xFF, the own number or 0xFE
by its form, and 0xFF in all forms of a part outside any domain (DEVNUM.OWN = 0xFF); it raises no fault. -/
def Obligations.HorizonFormed : Prop := ∀ (s : State) (d : BitVec 5),
  let hz (dev : Nat) : Word := BitVec.ofNat 64 (2 ^ 63 + dev * 2 ^ 54 + s.tstamp % 2 ^ 54)
  exec (.whzn d 0) s = .next (s.putS d 2 (hz 0xFF)) ∧
  (s.pk.own ≠ 0xFF → exec (.whzn d 1) s = .next (s.putS d 2 (hz s.pk.own)) ∧ exec (.whzn d 2) s = .next (s.putS d 2 (hz 0xFE))) ∧
  (s.pk.own = 0xFF → exec (.whzn d 1) s = .next (s.putS d 2 (hz 0xFF)) ∧ exec (.whzn d 2) s = .next (s.putS d 2 (hz 0xFF)))

/-- O29. R402: how a well-formed horizon stands, S being the number congruent to its stamp mod 2^54 nearest to TSTAMP. That a
local horizon is satisfied only once S + 8 ns has come, though nothing is outstanding, is the model's reading (log 24). -/
def Obligations.HorizonCases : Prop := ∀ (k : Pack) (w : Word) (S : Int), witK w = 2 → k.witFormat w = none →
  (S - (witStamp w : Int)) % 2 ^ 54 = 0 → -2 ^ 53 < S - (k.tstamp : Int) → S - (k.tstamp : Int) ≤ 2 ^ 53 →
  (S > (k.tstamp : Int) + 8 → k.witness w none = .bad 0x16 2 (BitVec.ofNat 64 k.tstamp)) ∧
  (S < (k.tstamp : Int) - 2 ^ 40 → k.witness w none = .ok) ∧
  (S ≤ (k.tstamp : Int) + 8 → (k.tstamp : Int) - 2 ^ 40 ≤ S → k.isLocal (witDev w) = true →
    (k.witness w none = .ok ↔ (S + 8 ≤ (k.tstamp : Int) ∧
      ∀ e ∈ k.tls, isStreamTl e.1 = true ∨ ∀ o ∈ e.2.open_, S + 8 ≤ (o.2.1 : Int))) ∧
    (k.witness w none = .ok ∨ k.witness w none = .wait))

/-! ### The V slots -/

/-- O30. R218: a merging result has its format's tag and no side data; each lane that the top of the mask stack enables takes
the new code and its flags, each other one keeps the old code of a register of that format, else 0, and raises no flag. -/
def Obligations.VectorMerging : Prop := ∀ (s : State) (d : BitVec 5) (f : Fmt) (lat : Nat) (r : List (Nat × Flags)),
  r.length = 2048 / f.width → (∀ x ∈ r, x.1 < 2 ^ f.width) →
  ∃ v fl, s.putLanes d f lat r = s.put lat (.v d.toNat v) fl ∧ v.tag = tagOf f ∧ v.side = 0 ∧
    (∀ i, ∀ x, r[i]? = some x → (vecCodes f v.pay)[i]? = some (if s.ctx.regs.top.getLsbD i then x.1
      else if tagSame (s.rv d).tag (tagOf f) then nthCode (vecCodes f (s.rv d).pay) i else 0)) ∧
    (∀ n < 6, (fl.getLsbD n = true ↔ ∃ i x, r[i]? = some x ∧ s.ctx.regs.top.getLsbD i = true ∧ x.2.getLsbD n = true))

/-- O31. R225, R226: float arithmetic of one type, rounded once to nearest even, on operands of that type: VDIV with its
corners, VMIN and VMAX with −0 below +0. R226–R229: sign operations, compares with all-ones or zero lanes, scaling by a power
of two, rounding to integers. -/
def Obligations.FloatLanes : Prop :=
  (∀ (s : State) (d a b : BitVec 5) (t : BitVec 2),
  let ty := floatType t
  let x := vecCodes ty (s.rv a).pay
  let y := vecCodes ty (s.rv b).pay
  let z := vecCodes ty (s.rv d).pay
  let v := decodeFloat ty
  tagFmt (s.rv a).tag = some ty → tagFmt (s.rv b).tag = some ty →
  let lanes (g : Nat → Nat → Val) : State := s.putLanes d ty 4 (List.zipWith (fun p q => roundVal ty .rne (g p q)) x y)
  let fused (g : Val → Val → Val) : State :=
    s.putLanes d ty 4 (List.zipWith (fun pq c => roundVal ty .rne (g ((v pq.1).mul (v pq.2)) (v c))) (List.zip x y) z)
  exec (.vaddF d a b t) s = .next (lanes (fun p q => (v p).add false (v q))) ∧
  exec (.vsubF d a b t) s = .next (lanes (fun p q => (v p).add false (v q).neg)) ∧
  exec (.vmulF d a b t) s = .next (lanes (fun p q => (v p).mul (v q))) ∧
  let each (i : Instr) (lat : Nat) (is : Nat → Nat → Nat × Flags → Prop) : Prop := ∃ r : List (Nat × Flags), exec i s = .next (s.putLanes d ty lat r) ∧
    r.length = x.length ∧ ∀ (k : Nat) p q c, x[k]? = some p → y[k]? = some q → r[k]? = some c → is p q c
  each (.vdiv d a b t) 24 (fun p q c => IsQuotient ty (v p) (v q) c) ∧
  each (.vminF d a b t) 4 (fun p q c => IsExtreme ty false [p, q] c) ∧
  each (.vmaxF d a b t) 4 (fun p q c => IsExtreme ty true [p, q] c) ∧
  (tagFmt (s.rv d).tag = some ty →
    exec (.vfma d a b t) s = .next (fused (fun m c => m.add false c)) ∧
    exec (.vfms d a b t) s = .next (fused (fun m c => m.add false c.neg)) ∧
    exec (.vfnma d a b t) s = .next (fused (fun m c => c.add false m.neg)))) ∧
  (∀ (s : State) (d a b : BitVec 5) (t : BitVec 2) (r : BitVec 3),
  let ty := floatType t
  let it : Fmt := if ty.width = 32 then .i32 else .i16
  let x := vecCodes ty (s.rv a).pay
  let y := vecCodes ty (s.rv b).pay
  let v := decodeFloat ty
  tagFmt (s.rv a).tag = some ty →
  let cmp (any : Bool) (g : Val → Val → Bool) : State := s.putLanes d (natOf ty.width) 4 (List.zipWith (fun p q =>
    (if g (v p) (v q) then 2 ^ ty.width - 1 else 0,
     if (v p).isSig || (v q).isSig || (any && ((v p).isNaN || (v q).isNaN)) then flIV else 0)) x y)
  exec (.vabsF d a t) s = .next (s.putLanes d ty 4 (x.map (fun p =>
    if (v p).isNaN then roundVal ty .rne (v p) else (p % 2 ^ (ty.width - 1), 0)))) ∧
  exec (.vnegF d a t) s = .next (s.putLanes d ty 4 (x.map (fun p =>
    if (v p).isNaN then roundVal ty .rne (v p) else ((p + 2 ^ (ty.width - 1)) % 2 ^ ty.width, 0)))) ∧
  (∃ l, exec (.vrint d a r t) s = .next (s.putLanes d ty 4 l) ∧ l.length = x.length ∧
    ∀ k p c, x[k]? = some p → l[k]? = some c → ∀ rm, Rnd.ofCode r.toNat (srDraw s.ctx.csr.srseed k) = some rm → IsIntegral ty rm p c) ∧
  (tagFmt (s.rv b).tag = some it → ∃ l, exec (.vscalb d a b t) s = .next (s.putLanes d ty 4 l) ∧ l.length = x.length ∧
    ∀ (k : Nat) p q c, x[k]? = some p → (vecCodes it (s.rv b).pay)[k]? = some q → l[k]? = some c → IsScaledBy ty p (decodeInt it q) c) ∧
  (tagFmt (s.rv b).tag = some ty →
    exec (.vcmpeqF d a b t) s = .next (cmp false (fun p q => p.eqv q)) ∧
    exec (.vcmpltF d a b t) s = .next (cmp true (fun p q => p.lt q)) ∧
    exec (.vcmpleF d a b t) s = .next (cmp true (fun p q => p.lt q || p.eqv q)) ∧
    exec (.vcmpun d a b t) s = .next (cmp false (fun p q => p.isNaN || q.isNaN))))

/-- O32. R230: integer lanes, wrapped to their width; VADDS and VSUBS clamp with SA; VMULH gives the upper half; compares give
all-ones or zero lanes. R230: lanes as bit patterns; shift amounts are taken modulo the width. -/
def Obligations.IntegerLanes : Prop :=
  (∀ (s : State) (u : BitVec 1) (d a b : BitVec 5) (w : BitVec 2),
  let ty := intType u w
  let x := (vecCodes ty (s.rv a).pay).map (decodeInt ty)
  let y := (vecCodes ty (s.rv b).pay).map (decodeInt ty)
  let m : Int := 2 ^ ty.width
  let lo : Int := if ty.isSigned then -2 ^ (ty.width - 1) else 0
  let hi : Int := if ty.isSigned then 2 ^ (ty.width - 1) - 1 else 2 ^ ty.width - 1
  tagFmt (s.rv a).tag = some ty → tagFmt (s.rv b).tag = some ty →
  let lanes (lat : Nat) (g : Int → Int → Int) : State :=
    s.putLanes d ty lat (List.zipWith (fun p q => ((g p q % m).toNat, 0)) x y)
  let clamped (g : Int → Int → Int) : State := s.putLanes d ty 2 (List.zipWith (fun p q =>
    let c := Max.max lo (Min.min hi (g p q))
    ((c % m).toNat, if c = g p q then 0 else flSA)) x y)
  let cmp (g : Int → Int → Bool) : State :=
    s.putLanes d (natOf ty.width) 2 (List.zipWith (fun p q => (if g p q then 2 ^ ty.width - 1 else 0, 0)) x y)
  exec (.vaddI u d a b w) s = .next (lanes 2 (fun p q => p + q)) ∧ exec (.vsubI u d a b w) s = .next (lanes 2 (fun p q => p - q)) ∧
  exec (.vmulI u d a b w) s = .next (lanes 4 (fun p q => p * q)) ∧ exec (.vmulh u d a b w) s = .next (lanes 4 (fun p q => p * q / m)) ∧
  exec (.vminI u d a b w) s = .next (lanes 2 (fun p q => Min.min p q)) ∧
  exec (.vmaxI u d a b w) s = .next (lanes 2 (fun p q => Max.max p q)) ∧
  exec (.vadds u d a b w) s = .next (clamped (fun p q => p + q)) ∧ exec (.vsubs u d a b w) s = .next (clamped (fun p q => p - q)) ∧
  exec (.vcmpeqI u d a b w) s = .next (cmp (fun p q => decide (p = q))) ∧
  exec (.vcmpltI u d a b w) s = .next (cmp (fun p q => decide (p < q))) ∧
  exec (.vcmpleI u d a b w) s = .next (cmp (fun p q => decide (p ≤ q))) ∧
  (u = 0 → exec (.vabsI d a w) s = .next (s.putLanes d ty 2 (x.map (fun p => ((|p| % m).toNat, 0)))) ∧
    exec (.vnegI d a w) s = .next (s.putLanes d ty 2 (x.map (fun p => ((-p % m).toNat, 0)))))) ∧
  (∀ (s : State) (u : BitVec 1) (d a b : BitVec 5) (w : BitVec 2),
  let ty := intType u w
  let x := vecCodes ty (s.rv a).pay
  let y := vecCodes ty (s.rv b).pay
  let n := ty.width
  tagFmt (s.rv a).tag = some ty → tagFmt (s.rv b).tag = some ty →
  let lanes (g : Nat → Nat → Nat) : State := s.putLanes d ty 2 (List.zipWith (fun p q => (g p q, 0)) x y)
  exec (.vand u d a b w) s = .next (lanes (fun p q => p &&& q)) ∧ exec (.vor u d a b w) s = .next (lanes (fun p q => p ||| q)) ∧
  exec (.vxor u d a b w) s = .next (lanes (fun p q => p ^^^ q)) ∧
  exec (.vnot u d a w) s = .next (s.putLanes d ty 2 (x.map (fun p => (2 ^ n - 1 - p, 0)))) ∧
  exec (.vsll u d a b w) s = .next (lanes (fun p q => p * 2 ^ (q % n) % 2 ^ n)) ∧
  exec (.vsrl u d a b w) s = .next (lanes (fun p q => p / 2 ^ (q % n))) ∧
  exec (.vsra u d a b w) s = .next (lanes (fun p q => (signedOf n p / 2 ^ (q % n) % 2 ^ n).toNat)))

/-- O33. R222–R224: the mask stack. MPUSH adds the old top and the lanes of va that are not zero, MINV replaces the top by the
entry below and not the top, MPOP removes it; at depth 8, or at 0, they take the mask-stack fault. R34, R218, R225: a source
of another format than the instruction's takes the format fault, which names the register and gives its tag. -/
def Obligations.MaskStackAndFormatFaults : Prop :=
  (∀ (s : State) (a : BitVec 5) (f : Fmt), tagFmt (s.rv a).tag = some f →
  let fault (c : Nat) : Host.Outcome State Fault Refusal := .next ((s.enterTrap (s.faultRec 0x10 c 0 (BitVec.ofNat 64 s.depth))).updIss
    (fun i => { i with fault := some (s.faultRec 0x10 c 0 (BitVec.ofNat 64 s.depth)) }))
  (s.depth < 8 → ∃ c, exec (.mpush a) s = .next (s.put 1 (.mpush c)) ∧
    (∀ i < 2048 / f.width, c.getLsbD i = decide (nthCode (vecCodes f (s.rv a).pay) i ≠ 0)) ∧
    (∀ i, 2048 / f.width ≤ i → c.getLsbD i = false) ∧ (s.ctx.regs.apply (.mpush c)).k = (s.ctx.regs.top &&& c) :: s.ctx.regs.k) ∧
  (8 ≤ s.depth → exec (.mpush a) s = fault 1) ∧
  (0 < s.depth → exec .minv s = .next (s.put 1 .minv) ∧ exec .mpop s = .next (s.put 1 .mpop)) ∧
  (s.depth = 0 → exec .minv s = fault 2 ∧ exec .mpop s = fault 2) ∧
  (∀ t, s.ctx.regs.k = [t] → (s.ctx.regs.apply .minv).k = [~~~t] ∧ (s.ctx.regs.apply .mpop).k = []) ∧
  (∀ t u ks, s.ctx.regs.k = t :: u :: ks →
    (s.ctx.regs.apply .minv).k = (u &&& ~~~t) :: u :: ks ∧ (s.ctx.regs.apply .mpop).k = u :: ks)) ∧
  (∀ (s : State) (d a b : BitVec 5) (t : BitVec 2) (u c : BitVec 1) (w : BitVec 2),
  let fault (r : BitVec 5) : Host.Outcome State Fault Refusal :=
    .next ((s.enterTrap (s.faultRec 0x06 0 r.toNat ((s.rv r).tag.setWidth 64))).updIss
      (fun i => { i with fault := some (s.faultRec 0x06 0 r.toNat ((s.rv r).tag.setWidth 64)) }))
  (tagFmt (s.rv a).tag ≠ some (floatType t) →
    exec (.vaddF d a b t) s = fault a ∧ exec (.vfma d a b t) s = fault a ∧ exec (.vabsF d a t) s = fault a ∧
    exec (.vcmpeqF d a b t) s = fault a ∧ exec (.vscalb d a b t) s = fault a ∧ exec (.exp2 c d a t) s = fault a) ∧
  (tagFmt (s.rv a).tag = some (floatType t) → tagFmt (s.rv b).tag ≠ some (floatType t) →
    exec (.vaddF d a b t) s = fault b ∧ exec (.vfma d a b t) s = fault b ∧ exec (.vcmpltF d a b t) s = fault b) ∧
  (tagFmt (s.rv a).tag ≠ some (intType u w) → exec (.vaddI u d a b w) s = fault a ∧ exec (.vnot u d a w) s = fault a ∧
    exec (.vcmpltI u d a b w) s = fault a))

/-- O34. R237, R238: moves and permutes, element by element. VMOV copies a register of any tag, NONE and malformed ones too,
and VBCAST takes its format from its own field. -/
def Obligations.MovesAndPermutes : Prop := ∀ (s : State) (d a b : BitVec 5) (f : Fmt) (h : BitVec 1),
  exec (.vmov d a) s = .next (s.putV d 1 (s.rv a)) ∧
  exec (.vbcast d a (BitVec.ofNat 5 f.code)) s =
    .next (s.putLanes d f 2 (List.replicate (2048 / f.width) ((s.rs a).toNat % 2 ^ f.width, 0))) ∧
  (tagFmt (s.rv a).tag = some f →
  let n := 2048 / f.width
  let x (i : Nat) : Nat := nthCode (vecCodes f (s.rv a).pay) i
  let y (i : Nat) : Nat := nthCode (vecCodes f (s.rv b).pay) i
  let j := (s.rs b).toNat % n
  let all (g : Nat → Nat) : State := s.putV d 3 ⟨vecPay f.width ((List.range n).map g), 0, (s.rv a).tag⟩
  exec (.vext d a b) s = .next (s.putS d 3 (BitVec.ofNat 64 (x j))) ∧
  (f.isScaled = false →
    exec (.vbcastl d a b) s = .next (s.putLanes d f 2 (List.replicate n (x j, 0))) ∧
    exec (.vrot d a b) s = .next (all (fun i => x ((i + j) % n))) ∧
    exec (.vins a d b) s = .next (s.putV a 3 ⟨vecPay f.width ((List.range n).map (fun i =>
      if i = j then (s.rs d).toNat % 2 ^ f.width else x i)), 0, (s.rv a).tag⟩) ∧
    (tagFmt (s.rv b).tag = some .n8 →
      exec (.vperm d a b) s = .next (all (fun i => x (nthCode (vecCodes .n8 (s.rv b).pay) i % n)))) ∧
    ((s.rv b).tag = (s.rv a).tag →
      exec (.vsel d a b) s = .next (all (fun i => if s.ctx.regs.top.getLsbD i then x i else y i)) ∧
      exec (.vzip d a b h) s =
        .next (all (fun i => if i % 2 = 0 then x (h.toNat * (n / 2) + i / 2) else y (h.toNat * (n / 2) + i / 2))) ∧
      exec (.vunzip d a b h) s =
        .next (all (fun i => if i < n / 2 then x (2 * i + h.toNat) else y (2 * (i - n / 2) + h.toNat))))))

/-- O35. R239: reductions over the enabled lanes; element 0 of the result holds the value, the others 0. VRMAX and VRMIN give
the greatest and the least enabled element, by R226 for floats; with none enabled the canonical NaN, or the end of the integer
range. R159, R240: VDOT adds to each of the first 4^M elements of vd the dot product of its segment under the bundle's
profile; profile 5 takes E2M1 blocks with their scales. -/
def Obligations.Reductions : Prop :=
  (∀ (s : State) (d a : BitVec 5) (f : Fmt),
  tagFmt (s.rv a).tag = some f → f.isScaled = false →
  let x := (vecCodes f (s.rv a).pay).zipIdx
  let on := (x.filter (fun p => s.ctx.regs.top.getLsbD p.2)).map Prod.fst
  let np := s.ctx.iss.np
  let put (lat : Nat) (tag : BitVec 32) (r : Nat × Flags) : Host.Outcome State Fault Refusal :=
    .next (s.putV d lat ⟨BitVec.ofNat 2048 r.1, 0, tag⟩ r.2)
  let extreme (isMax : Bool) (r : Nat × Flags) : Prop :=
    if f.isFloat then (on = [] → r = (f.nanCode, 0)) ∧ (on ≠ [] → IsExtreme f isMax on r)
    else
      (on = [] → r = (((if isMax then intMin f else intMax f) % 2 ^ f.width).toNat, 0)) ∧
      (on ≠ [] → ∃ c ∈ on, r = (c, 0) ∧ ∀ y ∈ on, if isMax then decodeInt f y ≤ decodeInt f c else decodeInt f c ≤ decodeInt f y)
  (∃ r, exec (.vrmax d a) s = put 6 (s.rv a).tag r ∧ extreme true r) ∧
  (∃ r, exec (.vrmin d a) s = put 6 (s.rv a).tag r ∧ extreme false r) ∧
  (f.isFloat = true → exec (.vrsum d a) s = put (if np = 3 then 20 else 6) (tagOf .f32)
    (dot (.vrsum f) s.ctx.csr.srseed np 0 (x.map (fun p => if s.ctx.regs.top.getLsbD p.2 then decodeFloat f p.1 else Val.zero)) 0)) ∧
  (f.isFloat = false → f.isSigned = true → exec (.vrsum d a) s = put 6 (tagOf .i64) (satCode .i64 (on.map (decodeInt f)).sum)) ∧
  (f.isFloat = false → f.isSigned = false → exec (.vrsum d a) s = put 6 (tagOf .n64) (satCode .n64 (on.map (decodeInt f)).sum))) ∧
  (∀ (s : State) (d a b : BitVec 5) (sg : BitVec 2) (f g : Fmt),
  tagFmt (s.rv d).tag = some .f32 → tagFmt (s.rv a).tag = some f → tagFmt (s.rv b).tag = some g →
  dotPair f f = true → dotPair f g = true → bits (s.rv a).tag 7 5 = bits (s.rv b).tag 7 5 →
  let cnt := 4 ^ sg.toNat
  let len := 2048 / f.width / cnt
  let bl := groupLen (bits (s.rv a).tag 7 5)
  (f = .e2m1 → len % bl = 0) →
  let np := s.ctx.iss.np
  let prods := maskList s.ctx.regs.top (List.zipWith Val.mul ((s.rv a).vals f) ((s.rv b).vals g)) Val.zero
  let acc (i : Nat) : Nat := nthCode (vecCodes .f32 (s.rv d).pay) i
  let seg (i : Nat) : Nat × Flags :=
    if f = .e2m1 ∧ np = 5 then dotBlocks (.vdot f g) s.ctx.csr.srseed (acc i) (segBlocks s.ctx.regs.top (s.rv a) (s.rv b) bl (i * len) len)
      (tensorScale (bits (s.rv a).tag 31 16)) (tensorScale (bits (s.rv b).tag 31 16)) i
    else dot (.vdot f g) s.ctx.csr.srseed np (acc i) ((prods.drop (i * len)).take len) i
  ∃ fl, exec (.vdot d a b sg) s = .next (s.putV d (if np = 3 then 24 else 8)
      ⟨vecPay 32 ((List.range 64).map (fun i => if i < cnt then (seg i).1 else acc i)), 0, tagOf .f32⟩ fl) ∧
    ∀ n < 6, (fl.getLsbD n = true ↔ ∃ i < cnt, (seg i).2.getLsbD n = true))

/-- O36. R241: each transcendental takes its method's lane function, at latency 16 for .C and 8 for .A; the values of .A are
the part's own (log 8). R241–R243: the values of the transcendentals. The table of special inputs, the same for both forms.
RCP.C is the reciprocal, SQRT.C and RSQ.C the root rounded to nearest (the half-way points below and above the result lie on
either side of the exact root), EXP2.C of an integer and LOG2.C of a power of two round the exact result. An .A form sets NX
beside the flags of the .C form, and RCP.A is within one ulp. The roundings of the other functions' inexact values rest on log
9. R48–R53, R231–R236: conversions with a control word that passes the checks. One that asks for what the source already
carries returns it unchanged; else CVT converts each enabled element of the slice by the table of R49, DQNT every element of
the slice, and QNT quantises each group by R51 or block by R52; elements outside the slice keep what a register of the
result's tag holds, else 0. The flags are those of the elements converted. -/
def Obligations.TranscendentalsAndConversions : Prop :=
  (∀ (s : State) (d a : BitVec 5) (t : BitVec 2) (c : BitVec 1),
  let ty := floatType t
  tagFmt (s.rv a).tag = some ty →
  let lanes (fn : Fn) : Host.Outcome State Fault Refusal := .next (if c = 1
    then s.putLanes d ty 16 ((vecCodes ty (s.rv a).pay).map (fnC ty fn))
    else s.putLanes d ty 8 ((vecCodes ty (s.rv a).pay).map (fnA ty fn)))
  exec (.exp2 c d a t) s = lanes .exp2 ∧ exec (.log2 c d a t) s = lanes .log2 ∧ exec (.rcp c d a t) s = lanes .rcp ∧
  exec (.rsq c d a t) s = lanes .rsq ∧ exec (.sqrt c d a t) s = lanes .sqrt ∧ exec (.sin c d a t) s = lanes .sin ∧
  exec (.cos c d a t) s = lanes .cos ∧ exec (.tanh c d a t) s = lanes .tanh) ∧
  (∀ (t : BitVec 2) (p : Nat),
  let ty := floatType t
  let z (n : Bool) : Nat := ty.signed n 0
  let inf (n : Bool) : Nat := ty.infinity n
  let one (n : Bool) : Nat := ty.signed n (ty.params.bias * 2 ^ ty.params.man)
  let nan : Nat × Flags := ty.nanLane true
  let is (fn : Fn) (c : Nat) (r : Nat × Flags) : Prop := fnC ty fn c = r ∧ fnA ty fn c = r
  p < 2 ^ ty.width →
  (∀ fn sig, decodeFloat ty p = .nan sig → is fn p (ty.nanLane sig)) ∧
  (is .exp2 (inf true) (z false, 0) ∧ is .exp2 (inf false) (inf false, 0) ∧ is .exp2 (z true) (one false, 0) ∧ is .exp2 (z false) (one false, 0) ∧
   is .log2 (inf true) nan ∧ is .log2 (inf false) (inf false, 0) ∧ is .log2 (z true) (inf true, flDZ) ∧ is .log2 (z false) (inf true, flDZ) ∧
   is .log2 (one false) (z false, 0) ∧
   is .rcp (inf true) (z true, 0) ∧ is .rcp (inf false) (z false, 0) ∧ is .rcp (z true) (inf true, flDZ) ∧ is .rcp (z false) (inf false, flDZ) ∧
   is .rsq (inf true) nan ∧ is .rsq (inf false) (z false, 0) ∧ is .rsq (z true) (inf true, flDZ) ∧ is .rsq (z false) (inf false, flDZ) ∧
   is .sqrt (inf true) nan ∧ is .sqrt (inf false) (inf false, 0) ∧ is .sqrt (z true) (z true, 0) ∧ is .sqrt (z false) (z false, 0) ∧
   (∀ n, is .sin (inf n) nan ∧ is .sin (z n) (z n, 0) ∧ is .cos (inf n) nan ∧ is .cos (z n) (one false, 0) ∧
     is .tanh (inf n) (one n, 0) ∧ is .tanh (z n) (z n, 0))) ∧
  (∀ m e, decodeFloat ty p = .fin true m e → m ≠ 0 → is .log2 p nan ∧ is .rsq p nan ∧ is .sqrt p nan) ∧
  (∀ n m e, decodeFloat ty p = .fin n m e → m ≠ 0 →
    let x := |(decodeFloat ty p).num|
    let val (c : Nat) : ℚ := (decodeFloat ty c).num
    let mid (c : Nat) : ℚ := (val c + val (c + 1)) / 2
    let c := fnC ty .rcp p
    let a := fnA ty .rcp p
    ty.rounds .rne n (1 / x) c ∧
    (∀ k : Int, -4096 ≤ k → k ≤ 4096 → (decodeFloat ty p).num = k → ty.rounds .rne false (2 ^ k) (fnC ty .exp2 p)) ∧
    (n = false →
      (∀ l : Int, x = 2 ^ l → l ≠ 0 → ty.rounds .rne (decide (l < 0)) (|l| : ℚ) (fnC ty .log2 p)) ∧
      (let r := fnC ty .sqrt p
       1 ≤ r.1 ∧ r.1 < ty.params.maxCode ∧ mid (r.1 - 1) ^ 2 ≤ x ∧ x ≤ mid r.1 ^ 2 ∧ r.2 = flagIf (decide (val r.1 ^ 2 ≠ x)) flNX) ∧
      (let r := fnC ty .rsq p
       1 ≤ r.1 ∧ r.1 < ty.params.maxCode ∧ mid (r.1 - 1) ^ 2 * x ≤ 1 ∧ 1 ≤ mid r.1 ^ 2 * x ∧
         r.2 = flagIf (decide (val r.1 ^ 2 * x ≠ 1)) flNX)) ∧
    (∀ fn, fnSpecial fn (decodeFloat ty p) = none → (fnA ty fn p).2 = (fnC ty fn p).2 ||| flNX) ∧
    (¬ c.2.has flOF → ∀ k : Int, (2 : ℚ) ^ k ≤ 1 / x → 1 / x < 2 ^ (k + 1) →
      |(if n then -val a.1 else val a.1) - 1 / x| ≤ 2 ^ (max k (1 - (ty.params.bias : Int)) - ty.params.man)))) ∧
  (∀ (s : State) (d a b : BitVec 5) (c : Conv),
  let src (j : Nat) : Val := decodeElem c.src (nthCode (vecCodes c.src (s.rv a).pay) (c.sl.sbase + j))
  let elem (j : Nat) : Val := (((s.rv a).vals c.src)[c.sl.sbase + j]?).getD Val.zero
  let mode (j : Nat) : Rnd := (Rnd.ofCode (ctlRm c.ctl) (srDraw s.ctx.csr.srseed (c.idx + c.sl.dbase + j))).getD .rne
  let old (t : BitVec 32) (i : Nat) : Nat := if tagSame (s.rv d).tag t then nthCode (vecCodes c.dst (s.rv d).pay) i else 0
  let inSlice (i : Nat) : Prop := c.sl.dbase ≤ i ∧ i < c.sl.dbase + c.sl.n
  let laid (v : VReg) (t : BitVec 32) (on : Nat → Bool) (r : List (Nat × Flags)) : Prop := r.length = c.sl.n ∧
    ∀ i < 2048 / c.dst.width,
      (¬ (inSlice i ∧ on i = true) → nthCode (vecCodes c.dst v.pay) i = old t i) ∧
      (∀ x, inSlice i → on i = true → r[i - c.sl.dbase]? = some x → nthCode (vecCodes c.dst v.pay) i = x.1)
  let on (i : Nat) : Bool := s.ctx.regs.top.getLsbD i
  let same := tagSame (s.rv a).tag (ctlTag c.ctl)
  let flagsOf (fl : Flags) (on : Nat → Bool) (r : List (Nat × Flags)) : Prop := ∀ n < 6, (fl.getLsbD n = true ↔
    ∃ (j : Nat) (x : Nat × Flags), r[j]? = some x ∧ on (c.sl.dbase + j) = true ∧ x.2.getLsbD n = true)
  (s.conv a b cvtWordOk unscaled false = .ok c → ∃ v fl r, exec (.cvt d a b) s = .next (s.putV d 4 v fl) ∧
    v.tag = tagOf c.dst ∧ v.side = 0 ∧ laid v (tagOf c.dst) on r ∧ flagsOf fl on r ∧
    ∀ j x, r[j]? = some x → (same = true → x = (nthCode (vecCodes c.src (s.rv a).pay) (c.sl.sbase + j), 0)) ∧
      (same = false → IsConverted c.dst (mode j) c.src.isInt (c.ctl.getLsbD 15) (src j) x)) ∧
  (s.conv a b dqntWordOk Fmt.isScaled false = .ok c → ∃ v fl r, exec (.dqnt d a b) s = .next (s.putV d 4 v fl) ∧
    v.tag = tagOf c.dst ∧ v.side = 0 ∧ laid v (tagOf c.dst) (fun _ => true) r ∧ flagsOf fl (fun _ => true) r ∧
    ∀ j x, r[j]? = some x → IsConverted c.dst (mode j) false false (elem j) x) ∧
  (s.conv a b qntWordOk (fun _ => true) true = .ok c →
    (same = true → exec (.qnt d a b) s = .next (s.putV d 8 (s.rv a))) ∧
    (same = false →
      let g := groupLen (ctlGs c.ctl)
      ∃ v fl gs, exec (.qnt d a b) s = .next (s.putV d 8 v fl) ∧ v.tag = ctlTag c.ctl ∧ gs.length = c.sl.n / g ∧
        laid v (ctlTag c.ctl) (fun _ => true) ((gs.flatMap QGroup.codes).map (fun x => (x, 0))) ∧
        v.side = sideOf c.dst (2048 / c.dst.width / g) (c.sl.dbase / g) (if tagSame (s.rv d).tag (ctlTag c.ctl) then (s.rv d).side else 0) gs ∧
        (∀ n < 6, (fl.getLsbD n = true ↔ ∃ q ∈ gs, q.flags.getLsbD n = true)) ∧
        ∀ k q, gs[k]? = some q →
          let xs := (List.range g).map (fun i => elem (k * g + i))
          let draw (i : Nat) : Rnd := mode (k * g + i)
          (c.dst = .e2m1 → IsE2m1Block (ctlTs c.ctl) draw xs q) ∧
          (c.dst = .q8 → IsQGroup 255 draw xs q) ∧ (c.dst = .q4 → IsQGroup 15 draw xs q))))

/-- O37. R39, R40: rounding a value that a float format holds gives its own code, without a flag. -/
def Obligations.ExactValuesRoundToThemselves : Prop := ∀ (t : BitVec 2) (c : Nat), t ≠ 3 → c < 2 ^ (floatType t).width →
  (decodeFloat (floatType t) c).isNaN = false → roundVal (floatType t) .rne (decodeFloat (floatType t) c) = (c, 0)

/-! ### The M slot -/

/-- O38. R246, R250, R257: what entering the matrix queue does: the entry with its operands, its first possible cycle, its
destination busy; registers, tiles and memory stand. R255–R259, R266, R267: each queued matrix instruction that passes its
checks enters the queue with its operands as read at issue; MST also returns its witness. -/
def Obligations.MatrixQueue : Prop :=
  (∀ (s : State) (e : MEntry) (cls : BitVec 8) (d : Fin 16) (w : Bool) (rs : List NamedRec),
  let t := s.enqueue e cls (some d.val) w rs
  (∃ x, t.ctx.mq = s.ctx.mq ++ [x] ∧ x.op = e.op ∧ x.dst = e.dst ∧ x.ra = e.ra ∧ x.rb = e.rb ∧ x.src = e.src ∧ x.work = e.work ∧
    x.from_ = s.core.cyc + 1 ∧ x.np = s.ctx.iss.np ∧ x.seed = s.ctx.csr.srseed ∧ x.id = s.pk.opCtr) ∧
  (∀ i < 16, t.ctx.busy.getLsbD i = (s.ctx.busy.getLsbD i || decide (i = d.val))) ∧
  t.pk.board = s.pk.board ++ rs.map (fun r => ⟨s.pk.opCtr, s.ctx.num, true, s.cluster, w, (opRec r.2).foot⟩) ∧
  t.ctx.regs = s.ctx.regs ∧ t.ctx.m = s.ctx.m ∧ t.pk.mem = s.pk.mem ∧ t.core = s.core ∧ t.sib = s.sib) ∧
  (∀ (s : State) (d a b : BitVec 5) (t u : BitVec 1) (r : BitVec 3) (w : BitVec 2),
  let ra : NamedRec := (a.toNat, s.rd a)
  let rb : NamedRec := (b.toNat, s.rd b)
  let work (kind m : Nat) : Nat := mmaWork kind (mmaFmts kind m).1 (opRec ra.2).klen s.ctx.iss.np
  let ok (zero : Bool) (kind m : Nat) : Prop :=
    s.ctx.busy.getLsbD d.toNat = false ∧ s.recordCheck 512 [ra, rb] = .ok () ∧ s.mmaFormats zero kind m d.toNat ra rb = .ok () ∧
    s.bankCheck [ra, rb] = .ok () ∧ s.arrayStall false [ra, rb] 2 (work kind m) = .ok ()
  let out (zero : Bool) (kind m : Nat) : Host.Outcome State Fault Refusal := .next (s.enqueue
    { op := .mma zero kind m, dst := d.toNat, ra := ra.2, rb := rb.2, work := work kind m, from_ := 0, id := 0 } 2 (some d.toNat) false [ra, rb])
  (ok false 0 t.toNat → exec (.mmaBf16 d a b t) s = out false 0 t.toNat) ∧
  (ok false 1 (2 * t.toNat + u.toNat) → exec (.mmaFp8 d a b t u) s = out false 1 (2 * t.toNat + u.toNat)) ∧
  (ok false 2 0 → exec (.mmaE2m1 d a b) s = out false 2 0) ∧
  (ok false 3 (2 * t.toNat + u.toNat) → exec (.mmaInt8 d a b t u) s = out false 3 (2 * t.toNat + u.toNat)) ∧
  (ok false 4 0 → exec (.mmaQ8 d a b) s = out false 4 0) ∧ (ok false 5 0 → exec (.mmaQ4 d a b) s = out false 5 0) ∧
  (ok true 0 t.toNat → exec (.mmazBf16 d a b t) s = out true 0 t.toNat) ∧
  (ok true 1 (2 * t.toNat + u.toNat) → exec (.mmazFp8 d a b t u) s = out true 1 (2 * t.toNat + u.toNat)) ∧
  (ok true 2 0 → exec (.mmazE2m1 d a b) s = out true 2 0) ∧
  (ok true 3 (2 * t.toNat + u.toNat) → exec (.mmazInt8 d a b t u) s = out true 3 (2 * t.toNat + u.toNat)) ∧
  (ok true 4 0 → exec (.mmazQ8 d a b) s = out true 4 0) ∧ (ok true 5 0 → exec (.mmazQ4 d a b) s = out true 5 0) ∧
  (s.ctx.busy.getLsbD d.toNat = false → s.moveRecord ra = .ok () → s.bankCheck [ra] = .ok () → s.arrayStall false [ra] 1 32 = .ok () →
    exec (.mld d a) s = .next (s.enqueue { op := .mld, dst := d.toNat, ra := ra.2, work := 32, from_ := 0, id := 0 } 2 (some d.toNat) false [ra])) ∧
  (s.ctx.busy.getLsbD a.toNat = false → s.moveRecord rb = .ok () → (s.rm a).tag = (opRec rb.2).tag → s.bankCheck [rb] = .ok () →
    s.arrayStall true [rb] 1 32 = .ok () →
    let n := (s.pk.tl (1024 + s.ctx.num)).iss + 1
    exec (.mst d a b) s = .next (({ s with pk := (s.pk.number (1024 + s.ctx.num) s.pk.opCtr).2 }.enqueue
      { op := .mst, dst := a.toNat, ra := rb.2, src := s.rm a, seq := n, work := 32, from_ := 0, id := 0 } 1 none true [rb]).put 2
        (.s d.toNat (BitVec.ofNat 64 (2 ^ 62 + 0xFF * 2 ^ 54 + (1024 + s.ctx.num) % 4096 * 2 ^ 42 + n % 2 ^ 42))))) ∧
  (s.ctx.busy.getLsbD d.toNat = false → s.ctx.busy.getLsbD a.toNat = false → tileTag (s.rm a).tag = true → s.queueRoom 32 = true →
    exec (.mcvt d a t r w) s = .next (s.enqueue
      { op := .mcvt w.toNat r.toNat (t == 1), dst := d.toNat, src := s.rm a, work := 32, from_ := 0, id := 0 } 0 (some d.toNat) false [])))

/-- O39. R264, R265: direct tile moves take effect two cycles on, their destination busy until then; MROWV lands a row. R247,
R249: MREC joins two scalars to a record; MRECR moves BASE, SBASE or both by sb mod 2^22 and keeps every other field. -/
def Obligations.TilesAndRecords : Prop :=
  (∀ (s : State) (d a b : BitVec 5) (t : BitVec 2),
  let moved (x : Tile) : Host.Outcome State Fault Refusal := .next (s.updCtx (fun c =>
    { c with busy := c.busy ||| (1#16 <<< d.toNat), mwrites := c.mwrites ++ [(s.core.cyc + 2, d.toNat, x)] }))
  let row := (s.rs b).toNat % 64
  s.ctx.busy.getLsbD d.toNat = false → s.ctx.busy.getLsbD a.toNat = false →
  exec (.mzero d t) s = moved ⟨0, if t = 0 then 1 else if t = 1 then 11 else 15⟩ ∧
  exec (.mmov d a) s = moved (s.rm a) ∧
  (tileTag (s.rv a).tag = true → ∃ x, exec (.mvrow d a b) s = moved x ∧ x.tag = (s.rv a).tag ∧
    ∀ k, k < 131072 → x.pay.getLsbD k = if k / 2048 = row then (s.rv a).pay.getLsbD (k % 2048)
      else if (s.rm d).tag = (s.rv a).tag then (s.rm d).pay.getLsbD k else false) ∧
  (tileTag (s.rm a).tag = true → ∃ v, exec (.mrowv d a b) s = .next (s.putV d 6 v) ∧ v.tag = (s.rm a).tag ∧ v.side = 0 ∧
    ∀ k < 2048, v.pay.getLsbD k = (s.rm a).pay.getLsbD (2048 * row + k))) ∧
  (∀ (s : State) (d a b : BitVec 5) (m : BitVec 2),
  exec (.mrec d a b) s = .next (s.put 1 (.d d.toNat (BitVec.ofNat 128 ((s.rs b).toNat * 2 ^ 64 + (s.rs a).toNat)))) ∧
  (∃ v, exec (.mrecr d a b m) s = .next (s.put 1 (.d d.toNat v)) ∧
    opRec v = { opRec (s.rd a) with
      base := if m = 1 then (opRec (s.rd a)).base else ((opRec (s.rd a)).base + (s.rs b).toNat) % 2 ^ 22
      sbase := if m = 0 then (opRec (s.rd a)).sbase else ((opRec (s.rd a)).sbase + (s.rs b).toNat) % 2 ^ 22 }))

/-- O40. R261: an element of an integer MMA without saturation is the accumulator plus the sum of the products, wrapped; with
saturation each step in K order clamps to the 32 bits, with SA when one does. R251: the occupancy of an MMA over KLEN = n:
ceil(n / kr) cycles, twice that under profile 4 and eight times under profile 3, but once for the integer forms. R260–R262:
each element of the tile that an MMA or MMAZ forms, from the bytes at its operands' places: the float forms by dot over the
products of the elements, under profile 5 E2M1 by its blocks; the integer forms by the sums above; the Q forms by dot over the
groups' terms. An element outside ROWS × ROWS keeps its value, 0 under MMAZ; the flags are those of the elements formed. R266,
R267: the tile that MLD leaves at its completion, each element of the rectangle the four bytes at its address, the others kept
under the same tag and else 0; the tile that MCVT leaves, each element converted by R49 with its own draw, or the source
itself where it has the type already (R48). -/
def Obligations.MatrixArithmetic : Prop :=
  (∀ (acc : Nat) (a b : List Int), acc < 2 ^ 32 →
  intElem acc true false a b = (((signedOf 32 acc + (List.zipWith (fun x y => x * y) a b).sum) % 2 ^ 32).toNat, 0) ∧
  intElem acc false false a b = ((((acc : Int) + (List.zipWith (fun x y => x * y) a b).sum) % 2 ^ 32).toNat, 0) ∧
  (∀ sg, intElem acc sg true [] [] = (acc, 0)) ∧
  (∀ (sg : Bool) (x y : Int),
    let t := (if sg then signedOf 32 acc else acc) + x * y
    let c : Int := if sg then Max.max (-2 ^ 31) (Min.min (2 ^ 31 - 1) t) else Max.max 0 (Min.min (2 ^ 32 - 1) t)
    let rest := intElem (c % 2 ^ 32).toNat sg true a b
    intElem acc sg true (x :: a) (y :: b) = (rest.1, rest.2 ||| flagIf (c != t) flSA))) ∧
  (∀ (n np : Nat), n ≠ 0 →
  let f := if np = 3 then 8 else if np = 4 then 2 else 1
  (∀ m, mmaWork 0 (mmaFmts 0 m).1 n np = ((n + 1) / 2) * f) ∧ (∀ m, mmaWork 1 (mmaFmts 1 m).1 n np = ((n + 3) / 4) * f) ∧
  mmaWork 2 (mmaFmts 2 0).1 n np = ((n + 7) / 8) * f ∧ (∀ m, mmaWork 3 (mmaFmts 3 m).1 n np = (n + 3) / 4) ∧
  mmaWork 4 (mmaFmts 4 0).1 n np = ((n + 3) / 4) * f ∧ mmaWork 5 (mmaFmts 5 0).1 n np = ((n + 7) / 8) * f) ∧
  (∀ (m : Memory) (cl : Nat) (x : MEntry) (old : Tile) (zero : Bool) (kind mo : Nat),
  x.op = .mma zero kind mo → kind ≤ 5 →
  let ra := opRec x.ra
  let rb := opRec x.rb
  let n := ra.klen
  let g := ra.group
  tagOk ra.tag = true → tagOk rb.tag = true → ra.fmt = (mmaFmts kind mo).1 → rb.fmt = (mmaFmts kind mo).2.1 → ra.gs = rb.gs → rb.klen = n →
  n % g = 0 → ra.rows ≤ 64 → rb.rows ≤ 64 →
  let cell (t : Tile) (i j : Nat) : Nat := nthCode t.elems (64 * i + j)
  let acc (i j : Nat) : Nat := if zero then 0 else cell old i j
  let code (r : OpRec) (i k : Nat) : Nat :=
    leNat (m.read (cl * 2 ^ 22 + r.base + i * r.stride + k * r.width / 8) ((r.width + 7) / 8)) / 2 ^ (k * r.width % 8) % 2 ^ r.width
  let scale (r : OpRec) (i o n : Nat) : Nat := leNat (m.read (cl * 2 ^ 22 + r.sbase + i * r.spr + o) n)
  let elem (r : OpRec) (i k : Nat) : Val :=
    if r.fmt = 6 then Val.prod [decodeFloat .e2m1 (code r i k), decodeFloat .e5m2 (scale r i (k / g) 1), tensorScale r.ts]
    else decodeElem ((Fmt.ofCode r.fmt).getD .f32) (code r i k)
  let zp (r : OpRec) (i q : Nat) : Int := if r.fmt = 8 then (scale r i (4 * q + 2) 1 % 16 : Nat) else scale r i (4 * q + 2) 1
  let sum (f : Nat → Int) : Int := ((List.range g).map f).sum
  let term (i j q : Nat) : Val :=
    let a (k : Nat) : Int := code ra i (q * g + k)
    let b (k : Nat) : Int := code rb j (q * g + k)
    Val.qprod (sum (fun k => a k * b k) - zp rb j q * sum a - zp ra i q * sum b + g * zp ra i q * zp rb j q)
      [decodeFloat .f16 (scale ra i (4 * q) 2), decodeFloat .f16 (scale rb j (4 * q) 2)]
  let block (i j q : Nat) : List Val × Val × Val :=
    ((List.range g).map (fun k => (decodeFloat .e2m1 (code ra i (q * g + k))).mul (decodeFloat .e2m1 (code rb j (q * g + k)))),
     decodeFloat .e5m2 (scale ra i q 1), decodeFloat .e5m2 (scale rb j q 1))
  let int (r : OpRec) (i k : Nat) : Int := if r.fmt = 9 then signedOf 8 (code r i k) else code r i k
  let op : SumOf := .mma (8 * kind + mo)
  let el (i j : Nat) : Nat × Flags :=
    if kind = 3 then intElem (acc i j) (mo % 2 == 0) (mo / 2 % 2 == 1) ((List.range n).map (int ra i)) ((List.range n).map (int rb j))
    else if kind = 4 ∨ kind = 5 then dot op x.seed x.np (acc i j) ((List.range (n / g)).map (term i j)) (64 * i + j)
    else if kind = 2 ∧ x.np = 5 then
      dotBlocks op x.seed (acc i j) ((List.range (n / g)).map (block i j)) (tensorScale ra.ts) (tensorScale rb.ts) (64 * i + j)
    else dot op x.seed x.np (acc i j) ((List.range n).map (fun k => (elem ra i k).mul (elem rb j k))) (64 * i + j)
  let t := mmaTile m cl x old
  t.1.tag = BitVec.ofNat 32 (mmaFmts kind mo).2.2 ∧
  (∀ i < 64, ∀ j < 64, cell t.1 i j = if i < ra.rows ∧ j < rb.rows then (el i j).1 else acc i j) ∧
  (∀ b < 6, (t.2.getLsbD b = true ↔ ∃ i < ra.rows, ∃ j < rb.rows, (el i j).2.getLsbD b = true))) ∧
  (∀ (m : Memory) (cl : Nat) (x : MEntry) (old : Tile),
  let r := opRec x.ra
  let cell (t : Tile) (i j : Nat) : Nat := nthCode t.elems (64 * i + j)
  ((r.fmt = 1 ∨ r.fmt = 11 ∨ r.fmt = 15) → r.klen ≤ 64 → r.rows ≤ 64 →
    let t := mldTile m cl x old
    t.tag = BitVec.ofNat 32 r.fmt ∧ ∀ i < 64, ∀ j < 64, cell t i j =
      if i < r.rows ∧ j < r.klen then leNat (m.read (cl * 2 ^ 22 + r.base + i * r.stride + 4 * j) 4)
      else if old.tag.toNat = r.fmt then cell old i j else 0) ∧
  (∀ (ty rm : Nat) (sat : Bool) (f : Fmt), x.op = .mcvt ty rm sat → tileTag x.src.tag = true → Fmt.ofCode x.src.tag.toNat = some f →
    let g : Fmt := if ty = 0 then .f32 else if ty = 1 then .i32 else .n32
    let t := mcvtTile x
    (f = g → t = (x.src, 0)) ∧
    (f ≠ g → t.1.tag = BitVec.ofNat 32 g.code ∧ ∃ fl : Nat → Nat → Flags,
      (∀ i < 64, ∀ j < 64, IsConverted g ((Rnd.ofCode rm (srDraw x.seed (64 * i + j))).getD .rne) f.isInt sat
        (decodeElem f (cell x.src i j)) (cell t.1 i j, fl i j)) ∧
      (∀ b < 6, (t.2.getLsbD b = true ↔ ∃ i < 64, ∃ j < 64, (fl i j).getLsbD b = true)))))

/-! ### The Spindle -/

/-- O41. R281, R290: packing loses nothing: unpacking the packed form of whole 4-byte words gives the value back. R278, R295:
a Spindle instruction in a mode it does not run in takes the tape fault that names why. R276–R285: TBEGIN opens a tape; TREC
and TRECP add a record where the frames have room, here one that fits in the open frame; TEND seals. R288–R290: TREV takes up
a sealed tape; a pop whose walk meets a record of its site and kind lands its value, or for an XDEL record the site's value,
which becomes that value xor the difference; the record is taken off. A record of another site (SITE) or kind (KIND), or the
tape's end (END), is a divergence; a difference without its site, and a walk that meets a frame or a record that R280 and R289
do not allow, is a format fault; the anchors passed stay applied. -/
def Obligations.SpindleInstructions : Prop :=
  (∀ v : List Byte, v.length % 4 = 0 → unzrun v.length (zrun v) = some v) ∧
  (∀ (s : State) (a b : BitVec 5) (t : BitVec 8) (k : BitVec 2),
  let fault (c site : Nat) : Host.Outcome State Fault Refusal := .next ((s.enterTrap (s.tapeFault 0x1A c site)).updIss
    (fun i => { i with fault := some (s.tapeFault 0x1A c site) }))
  (s.ctx.spin.mode ≠ .idle → exec (.tbegin a b) s = fault 3 0 ∧ exec (.trev a b) s = fault 3 0) ∧
  (s.ctx.spin.mode = .idle → exec (.trec t a k) s = fault 1 t.toNat ∧ exec (.trecp t a) s = fault 1 t.toNat ∧
    exec (.tpop t a k) s = fault 1 t.toNat ∧ exec (.tpopp t a) s = fault 1 t.toNat ∧ exec (.tend a) s = fault 1 0) ∧
  (s.ctx.spin.mode = .replay → exec (.trec t a k) s = fault 2 t.toNat ∧ exec (.trecp t a) s = fault 2 t.toNat) ∧
  (s.ctx.spin.mode = .record → exec (.tpop t a k) s = fault 2 t.toNat ∧ exec (.tpopp t a) s = fault 2 t.toNat)) ∧
  (∀ (s : State) (a b : BitVec 5) (t : BitVec 8) (k : BitVec 2),
  let p := s.ctx.spin
  let put (f : Spindle → Spindle) : Host.Outcome State Fault Refusal := .next (s.updCtx (fun c => { c with spin := f c.spin }))
  let tail (rk pv len : Nat) : List Byte := leBytes 4 (t.toNat * 2 ^ 24 + rk * 2 ^ 22 + pv * 2 ^ 16 + len)
  let v := leBytes 8 (s.rs a).toNat
  (p.mode = .idle → hOff (s.ra a) % 64 = 0 → 16 ≤ (s.rs b).toNat → (s.rs b).toNat < 2 ^ 32 →
    s.mayAccess a 0 (64 * (s.rs b).toNat) rWR →
    exec (.tbegin a b) s = put (fun _ => { mode := .record, origin := s.ra a, cur := s.ra a, nfr := (s.rs b).toNat, opened := 2
                                           fseq := 1, last := s.ra a })) ∧
  (p.mode = .record → p.opened + 1 ≤ p.nfr → p.bytes.length < 56 →
    exec (.trecp t a) s = put (fun p => { p with recs := p.recs + 1, bytes := p.bytes ++ tail 1 (s.rp a).toNat 0 })) ∧
  (p.mode = .record → p.opened + 9 ≤ p.nfr → p.bytes.length < 48 → p.site t false = none → p.sites.length < 8 →
    ¬ (zrun v).length < 8 →
    exec (.trec t a 0) s = put (fun p => { p with
      recs := p.recs + 1, sites := ⟨t, false, v⟩ :: p.sites, bytes := p.bytes ++ v ++ tail 0 0 8 })) ∧
  (p.mode = .record → p.opened + 9 ≤ p.nfr → exec (.trec t a 0) s = .next (s.encodeValue t false v)) ∧
  (p.mode = .record → p.opened + 14 ≤ p.nfr → k ≠ 0 → exec (.trec t a k) s = .next (s.encodeValue t true (imageBytes (s.rv a)))) ∧
  (p.mode = .record → p.opened + ((p.sites.map (fun e => if e.vec then 7 else 2)).foldl (· + ·) 0) ≤ p.nfr →
    exec (.tend a) s = .next (s.seal.2.putS a 4 s.seal.1)) ∧
  (p.mode = .replay → exec (.tend a) s = .next ((s.updCtx (fun c => { c with spin := {} })).putS a 4 0))) ∧
  (∀ (s : State) (a b : BitVec 5) (t : BitVec 8),
  let g := s.reach a 0 64
  let hdr := s.ownBytes g
  (s.ctx.spin.mode = .idle → s.mayAccess a 0 64 rRD → s.pk.answerTo (waitOfCtx s.ctx.num) (s.rs b) = none →
    s.pk.witness (s.rs b) none = .ok → s.ownError g = none →
    hdr.length = 64 → leNat (hdr.take 4) = 0x7A9ED21C → leNat (hdr.drop 60) / 2 ^ 24 % 4 = 2 → leNat (hdr.drop 60) % 2 ^ 24 = 0 →
    ∃ u, exec (.trev a b) s = .next u ∧ u.ctx.spin = { mode := .replay, origin := s.ra a, recs := leNat ((hdr.drop 24).take 8)
                                                       frame := BitVec.ofNat 72 (leNat ((hdr.drop 8).take 9)) } ∧
      u.ctx.regs = s.ctx.regs ∧ u.ctx.pend = s.ctx.pend ∧
      u.ctx.csr = s.ctx.csr) ∧
  (∀ w0 tl v w, s.ctx.spin.mode = .replay → s.walkPop (2 ^ 24) ⟨s.pk, s.ctx.spin⟩ = (w0, .ok (tl, v, w)) → tl.site = t.toNat →
    let kept := w.sp.without t (tl.rk == 2)
    (tl.rk = 0 → tl.enc ≠ 2 → exec (.tpop t a 0) s = .next ((({ s with pk := w.pk }).updSpin (fun _ =>
      { w.sp with sites := kept, recs := w.sp.recs - 1 })).putS a 4 (BitVec.ofNat 64 (leNat v)))) ∧
    (tl.rk = 2 → tl.enc ≠ 2 → exec (.tpop t a 1) s = .next ((({ s with pk := w.pk }).updSpin (fun _ =>
      { w.sp with sites := kept, recs := w.sp.recs - 1 })).putV a 4 (vregImage v))) ∧
    (∀ e, tl.rk = 0 → tl.enc = 2 → w.sp.site t false = some e → ∃ u, exec (.tpop t a 0) s = .next u ∧
      u.ctx.pend = s.ctx.pend ++ [{ due := s.core.cyc + 4, wr := .s a.toNat (BitVec.ofNat 64 (leNat e.val)) }] ∧
      u.ctx.spin.recs = w.sp.recs - 1 ∧ u.ctx.spin.sites = w.sp.sites.map (fun x =>
        if x.site = t ∧ x.vec = false then { x with val := xorBytes e.val v } else x)) ∧
    (∀ e, tl.rk = 2 → tl.enc = 2 → w.sp.site t true = some e → ∃ u, exec (.tpop t a 1) s = .next u ∧
      u.ctx.pend = s.ctx.pend ++ [{ due := s.core.cyc + 4, wr := .v a.toNat (vregImage e.val) }] ∧
      u.ctx.spin.recs = w.sp.recs - 1 ∧ u.ctx.spin.sites = w.sp.sites.map (fun x =>
        if x.site = t ∧ x.vec = true then { x with val := xorBytes e.val v } else x)) ∧
    (tl.rk = 1 → tl.enc = 0 → exec (.tpopp t a) s = .next ((({ s with pk := w.pk }).updSpin (fun _ =>
      { w.sp with recs := w.sp.recs - 1 })).put 4 (.p a.toNat tl.pv)))) ∧
  (s.ctx.spin.mode = .replay →
    let base (k : Pack) (p : Spindle) : State := { s with pk := k, ctx := { s.ctx with spin := p } }
    let fails (i : Instr) (u : State) (code cause : Nat) : Prop := exec i s = .next (u.takeFault (u.tapeFault code cause t.toNat))
    (∀ w0 tl v w, s.walkPop (2 ^ 24) ⟨s.pk, s.ctx.spin⟩ = (w0, .ok (tl, v, w)) →
      let u := base w.pk w0.sp
      (tl.site ≠ t.toNat → (∀ k, fails (.tpop t a k) u 0x1C 1) ∧ fails (.tpopp t a) u 0x1C 1) ∧
      (tl.site = t.toNat → (tl.rk ≠ 0 → fails (.tpop t a 0) u 0x1C 2) ∧ (∀ k, k ≠ 0 → tl.rk ≠ 2 → fails (.tpop t a k) u 0x1C 2) ∧
        (tl.rk ≠ 1 → fails (.tpopp t a) u 0x1C 2) ∧
        (tl.rk = 0 → tl.enc = 2 → w.sp.site t false = none → fails (.tpop t a 0) u 0x1D 4) ∧
        (∀ k, k ≠ 0 → tl.rk = 2 → tl.enc = 2 → w.sp.site t true = none → fails (.tpop t a k) u 0x1D 4))) ∧
    (∀ w0 k0 c, s.walkPop (2 ^ 24) ⟨s.pk, s.ctx.spin⟩ = (w0, .error (.div c, k0)) →
      (∀ k, fails (.tpop t a k) (base k0 w0.sp) 0x1C c) ∧ fails (.tpopp t a) (base k0 w0.sp) 0x1C c) ∧
    (∀ w0 k0 c, s.walkPop (2 ^ 24) ⟨s.pk, s.ctx.spin⟩ = (w0, .error (.fmt c, k0)) →
      (∀ k, fails (.tpop t a k) (base k0 w0.sp) 0x1D c) ∧ fails (.tpopp t a) (base k0 w0.sp) 0x1D c)) ∧
  (∀ (w : Walk) (inside : Bool), w.sp.opened = 0 → w.sp.frame = w.sp.origin →
    s.walkFrame w inside = .error (if inside then .fmt 2 else .div 3, w.pk)))

/-! ### The L slot -/

/-- O42. R298: a local range inside the scratchpad and the owned bank groups, aligned where asked, passes; a negative address
or one past the end is EDGE, before a byte in a group not owned (GROUP), before alignment (ALIGN). R303–R307: the scratchpad
loads where their range and operands pass: the operation with its bytes and shape, and a landing due K cycles on; nothing else
changes. R303, R305: the scratchpad stores: the bytes of the form from the effective address up, and the witness of the L
timeline at latency 2. R306: gathers and scatters take the lane addresses of va, lane by lane, 4 bytes each. -/
def Obligations.LocalLoadsAndStores : Prop :=
  (∀ (s : State) (ea : Int) (n al : Nat), n ≠ 0 → 0 < al →
  let owned (x : Nat) : Bool := s.bgm.testBit (x / 2 ^ 18)
  (ea < 0 → ∃ w, s.localBad ea n al = some (2, w)) ∧
  (∀ e : Nat, ea = e →
    (2 ^ 22 < e + n → s.localBad ea n al = some (2, BitVec.ofNat 64 (Max.max e (2 ^ 22)))) ∧
    (∀ x, e + n ≤ 2 ^ 22 → e ≤ x → x < e + n → owned x = false → (∀ y, e ≤ y → y < x → owned y = true) →
      s.localBad ea n al = some (1, BitVec.ofNat 64 x)) ∧
    (e + n ≤ 2 ^ 22 → (∀ y, e ≤ y → y < e + n → owned y = true) →
      (e % al ≠ 0 → s.localBad ea n al = some (3, BitVec.ofNat 64 e)) ∧ (e % al = 0 → s.localBad ea n al = none)))) ∧
  (∀ (s : State) (d a b l : BitVec 5) (z : BitVec 2) (v : BitVec 1) (e : Nat),
  s.ctx.landings < 32 → s.eaL a = e →
  let ok (n : Nat) : Prop := s.localBad e n 1 = none ∧ s.boardBlocks s.cluster false e n = false
  let from_ (n : Nat) : Range := ⟨[⟨.spad, s.core.num / 8 * 2 ^ 22 + e, n⟩], {}, 0⟩
  let sd : Wr := .s d.toNat 0
  let vd : Wr := .v d.toNat {}
  let z' := 2 ^ z.toNat
  let tag : BitVec 32 := (s.rs b).setWidth 32
  let k := Max.max 1 (bits (s.rs b) 43 32)
  let n := if v = 1 then 324 else plainLen tag
  let n' := if v = 0 then 324 else plainLen (s.rv d).tag
  (ok z' → ∃ t, exec (.ldl d a l z) s = .next t ∧ s.hasLoaded t sd (s.loK l) (.load sd .scalar (from_ z') none) 0x80 4 1 [] ∧ t.core = s.core) ∧
  (ok z' → s.witCheck b.toNat (s.rs b) = .ok () → ∃ t, exec (.ldlw d a b z) s = .next t ∧
    s.hasLoaded t sd (s.xLow 32) (.load sd .scalar (from_ z') none) 0x80 4 1 [s.rs b] ∧ t.core = s.core) ∧
  (ok n → (v = 0 → tagOk tag = true) → ∃ t, exec (.ldlv d a b v) s = .next t ∧
    s.hasLoaded t vd k (.load vd (if v = 0 then .plain tag else .image) (from_ n) none) 0x80 4 2 [] ∧ t.core = s.core) ∧
  (ok n' → (v = 1 → tagOk (s.rv d).tag = true) → s.witCheck b.toNat (s.rs b) = .ok () → ∃ t, exec (.ldlvw d a b v) s = .next t ∧
    s.hasLoaded t vd (s.xLow 32) (.load vd (if v = 0 then .image else .plain (s.rv d).tag) (from_ n') none) 0x80 4 2 [s.rs b] ∧
    t.core = s.core)) ∧
  (∀ (s : State) (d a b : BitVec 5) (z : BitVec 2) (v : BitVec 1) (e : Nat),
  s.eaL a = e →
  let ok (n : Nat) : Prop := s.localBad e n 1 = none ∧ s.boardBlocks s.cluster true e n = false
  let into (n : Nat) : Range := ⟨[⟨.spad, s.core.num / 8 * 2 ^ 22 + e, n⟩], {}, 0⟩
  let z' := 2 ^ z.toNat
  let r := s.rv b
  let bs := if v = 1 then imageBytes r else plainBytes r
  (ok z' → ∃ t, exec (.stl d a b z) s = .next t ∧
    s.hasWitnessed t s.tlL d (.store (into z') (leBytes z' (s.rs b).toNat) 0) 0x40 4 0 [] ∧ t.core = s.core) ∧
  (ok (if v = 1 then 324 else plainLen r.tag) → (v = 0 → tagOk r.tag = true) → ∃ t, exec (.stlv d a b v) s = .next t ∧
    s.hasWitnessed t s.tlL d (.store (into (if v = 1 then 324 else plainLen r.tag)) bs 0) 0x40 4 0 [] ∧ t.core = s.core ∧
    bs.length = (if v = 1 then 324 else plainLen r.tag))) ∧
  (∀ (s : State) (d a b : BitVec 5) (xs : List Nat),
  tagFmt (s.rv a).tag = some .n32 → s.lanesCheck (s.laneAddrs a s.dispL) 4 = .ok xs →
  let ps := xs.map (fun e => (⟨.spad, s.core.num / 8 * 2 ^ 22 + e, 4⟩ : Piece))
  let vd : Wr := .v d.toNat {}
  let tag : BitVec 32 := (s.rs b).setWidth 32
  (∀ i < 64, (s.laneAddrs a s.dispL)[i]? = some (((s.rv a).pay.toNat / 2 ^ (32 * i) % 2 ^ 32 : Nat) + s.dispL)) ∧
  (laneTagOk tag = true → (∀ e ∈ xs, s.boardBlocks s.cluster false e 4 = false) → s.ctx.landings < 32 →
    ∃ t, exec (.ldlx d a b) s = .next t ∧
      s.hasLoaded t vd (Max.max 1 (bits (s.rs b) 43 32)) (.load vd (.lanes tag) ⟨ps, {}, 0⟩ none) 0x80 4 4 [] ∧ t.core = s.core) ∧
  (laneTagOk (s.rv b).tag = true → (∀ e ∈ xs, s.boardBlocks s.cluster true e 4 = false) →
    ∃ t, exec (.stlx d a b) s = .next t ∧
      s.hasWitnessed t s.tlL d (.store ⟨ps, {}, 0⟩ (leBytes 256 (s.rv b).pay.toNat) 0) 0x40 4 0 [] ∧ t.core = s.core))

/-- O43. R308, R311, R312: a local atomic acts on an aligned operand: its function, numbered in both forms, with a witness (W
= 1) or the old contents landing (W = 0). R312, R340: the new contents an atomic leaves. -/
def Obligations.LocalAtomics : Prop :=
  (∀ (s : State) (d a b : BitVec 5) (w z : BitVec 1) (e : Nat),
  s.eaL a = e →
  let n (z : BitVec 1) : Nat := if z = 0 then 4 else 8
  let low (z : BitVec 1) (x : Word) : Word := BitVec.ofNat 64 (x.toNat % 2 ^ (8 * n z))
  let kind (z : BitVec 1) (fn : Nat) : OpKind := .atomic ⟨[⟨.spad, s.core.num / 8 * 2 ^ 22 + e, n z⟩], {}, 0⟩ true fn
    (low z (s.rs b)) (low z (s.rs d)) (if w = 0 then some d.toNat else none)
  let does (i : Instr) (z : BitVec 1) (fn : Nat) : Prop :=
    s.localBad e (n z) (n z) = none → s.boardBlocks s.cluster true e (n z) = false → (w = 0 → s.ctx.landings < 32) →
    ∃ t, exec i s = .next t ∧ s.hasNumbered t s.tlL ∧ t.core = s.core ∧
      (if w = 1 then s.hasWitnessed t s.tlL d (kind z fn) 0x40 4 4 []
       else s.hasLoaded t (.s d.toNat 0) (s.xLow 16) (kind z fn) 0x40 4 4 [])
  does (.laadd d a b w z) z 0 ∧ does (.lamin d a b w z) z 1 ∧ does (.lamax d a b w z) z 2 ∧ does (.laand d a b w z) z 3 ∧
  does (.laor d a b w z) z 4 ∧ does (.laxor d a b w z) z 5 ∧ does (.laswp d a b w z) z 6 ∧ does (.lacas d a b w z) z 7 ∧
  does (.lafadd d a b w) 0 8 ∧ does (.lafmin d a b w) 0 9 ∧ does (.lafmax d a b w) 0 10) ∧
  (∀ (n old v cmp : Nat), (n = 4 ∨ n = 8) → old < 2 ^ (8 * n) → v < 2 ^ (8 * n) →
  atomicNew 0 n old v cmp = (old + v) % 2 ^ (8 * n) ∧
  signedOf (8 * n) (atomicNew 1 n old v cmp) = Min.min (signedOf (8 * n) old) (signedOf (8 * n) v) ∧
  signedOf (8 * n) (atomicNew 2 n old v cmp) = Max.max (signedOf (8 * n) old) (signedOf (8 * n) v) ∧
  atomicNew 3 n old v cmp = old &&& v ∧ atomicNew 4 n old v cmp = old ||| v ∧ atomicNew 5 n old v cmp = old ^^^ v ∧
  atomicNew 6 n old v cmp = v ∧ atomicNew 7 n old v cmp = (if old = cmp then v else old) ∧
  (∀ fn < 11, atomicNew fn n old v cmp < 2 ^ (8 * n)) ∧
  ((decodeFloat .f32 old).isNaN = true → atomicNew 9 4 old v cmp = 0x7FC00000 ∧ atomicNew 10 4 old v cmp = 0x7FC00000))

/-- O44. R319–R326: the scalar L1, its invalidations, the weight store; a WLDS of length 0 is complete at once. -/
def Obligations.L1AndWeightStore : Prop := ∀ (s : State) (d a b l : BitVec 5) (z : BitVec 2) (v : BitVec 1) (e : Nat),
  let r := s.reach a s.dispL (2 ^ z.toNat)
  let sd : Wr := .s d.toNat 0
  let vd : Wr := .v d.toNat {}
  let tag : BitVec 32 := (s.rs b).setWidth 32
  let n := if v = 1 then 324 else plainLen tag
  let ws (n : Nat) : Range := ⟨[⟨.ws, s.core.num / 128 * 2 ^ 29 + e, n⟩], {}, 0⟩
  let ld := bits (s.rs b) 21 0
  let len := 32 * bits (s.rs b) 40 24
  (s.ctx.landings < 32 → s.mayAccess a s.dispL (2 ^ z.toNat) rRD →
    (∀ bs, s.core.l1Read (s.pk.homeDev r.via) r.pieces = some bs →
      ∃ t, exec (.ldc d a l z) s = .next t ∧ s.hasLoaded t (.s d.toNat (BitVec.ofNat 64 (leNat bs))) (s.loK l)
        (.load (.s d.toNat (BitVec.ofNat 64 (leNat bs))) .scalar r (some true)) 0x80 4 0 []) ∧
    (s.core.l1Read (s.pk.homeDev r.via) r.pieces = none →
      ∃ t, exec (.ldc d a l z) s = .next t ∧ s.hasLoaded t sd (s.loK l) (.load sd .scalar r (some false)) 0x80 (s.homeLat r) 0 []) ∧
    (s.witCheck b.toNat (s.rs b) = .ok () →
      ∃ t, exec (.ldcw d a b z) s = .next t ∧
        s.hasLoaded t sd (s.xLow 32) (.load sd .scalar r (some false)) 0x80 (s.homeLat r) 0 [s.rs b])) ∧
  (∃ t, exec .sinva s = .next t ∧ t = s.updCore (fun c => { c with l1 := [] })) ∧
  (∃ ls, exec (.sinv a b) s = .next (s.updCore (fun c => { c with l1 := ls })) ∧ (∀ x ∈ ls, x ∈ s.core.l1) ∧
    (∀ x ∈ ls, ∀ p ∈ (entryRange (s.pk.entryAt (bits s.ctx.csr.btab 47 0) (hIdx (s.ra a))) (hOff (s.ra a))
      (Min.min (s.rs b).toNat ((s.pk.entryAt (bits s.ctx.csr.btab 47 0) (hIdx (s.ra a))).limit - hOff (s.ra a)))).pieces,
      ∀ i < p.len,
      x.isAt (s.pk.homeDev (entryRange (s.pk.entryAt (bits s.ctx.csr.btab 47 0) (hIdx (s.ra a))) 0 0).via) ((p.addr + i) / 64 * 64) = false)) ∧
  (s.ctx.landings < 32 → s.eaL a = e → s.ctx.wsbase ≤ e → e + n ≤ s.ctx.wsbase + s.ctx.wslen → (v = 0 → tagOk tag = true) →
    ∃ t, exec (.wld d a b v) s = .next t ∧ s.hasLoaded t vd (Max.max 1 (bits (s.rs b) 43 32))
      (.load vd (if v = 0 then .plain tag else .image) (ws n) none) 0x80 24 0 []) ∧
  (s.ctx.landings < 32 → s.eaL a = e → s.ctx.wsbase ≤ e → e + 2 ^ z.toNat ≤ s.ctx.wsbase + s.ctx.wslen →
    ∃ t, exec (.wldx d a l z) s = .next t ∧ s.hasLoaded t sd (s.loK l) (.load sd .scalar (ws (2 ^ z.toNat)) none) 0x80 20 0 []) ∧
  (s.eaL a = e → s.ctx.wsbase ≤ e → e + len ≤ s.ctx.wsbase + s.ctx.wslen → len ≠ 0 → s.localBad ld len 1 = none →
    s.boardBlocks s.cluster true ld len = false → s.boardFull = false →
    ∃ t, exec (.wlds d a b) s = .next t ∧ s.hasWitnessed t s.tlL d
        (.wlds ⟨.ws, s.core.num / 128 * 2 ^ 29 + e, len⟩ ⟨.spad, s.core.num / 8 * 2 ^ 22 + ld, len⟩) 0x40 24 0 [] ∧
      t.pk.board = s.pk.board ++ [⟨s.pk.opCtr, s.ctx.num, false, s.cluster, true, [(ld, ld + len)]⟩]) ∧
  (len = 0 → ∃ t, exec (.wlds d a b) s = .next t ∧ s.keeps t ∧ t.pk.ops = s.pk.ops ∧ t.pk.board = s.pk.board ∧
    (t.pk.tl s.tlL).iss = (s.pk.tl s.tlL).iss + 1 ∧ ((s.pk.tl s.tlL).head = (s.pk.tl s.tlL).iss → (t.pk.tl s.tlL).head ≥ (s.pk.tl s.tlL).iss + 1) ∧
    t.ctx.pend = s.ctx.pend ++ [{ due := s.core.cyc + 2, wr := .s d.toNat (pointWit s.tlL ((s.pk.tl s.tlL).iss + 1)) }]) ∧
  (s.ctx.landings < 32 → ∃ w, exec (.wsnext d a l) s = .next (s.updCtx (fun c => { c with pend := c.pend ++
      [{ due := s.core.cyc + (l.toNat + 1), wr := .s d.toNat w, buf := true }] })) ∧
    (let p := wsPhase (bits (s.rs a) 1 0) s.tstamp
     if p < 1200 then w = BitVec.ofNat 64 (2 ^ 63 + 2 * (1200 - p)) else w = BitVec.ofNat 64 (2 * (38400 - p))))

/-- O45. R314–R318: the stream queues: SPAT loads a record, SGO starts its generator, a pop lands the oldest element, SSTOP
ends it, QSTAT reads its status. That SPAT leaves the elements of the queue, and that a pop takes them under the present
record's tag, is the model's reading (log 32), and so is that a QSTAT needs a landing-buffer entry (log 55). -/
def Obligations.StreamInstructions : Prop := ∀ (s : State) (d a l : BitVec 5) (e : Nat),
  let q (x : BitVec 5) : StreamQ := s.queue x
  let setQ (u : State) (x : BitVec 5) (f : StreamQ) : State := u.updCtx (fun c => { c with q := c.q.setIfInBounds x.toNat f })
  let pc : Piece := ⟨.spad, s.core.num / 8 * 2 ^ 22 + e, 64⟩
  let land (u : State) (w : Wr) : State := u.updCtx (fun c => { c with pend := c.pend ++
      [{ due := s.core.cyc + (l.toNat + 1), wr := w, buf := true }] })
  (s.eaL a = e → (q d).run = false → s.localBad e 64 1 = none → s.waitLocal false [(e, 64)] = .ok () →
    s.ctx.stallAt.any (fun c => decide (c ≤ s.core.cyc)) = true → s.recordFenced = false → s.waitOwn pc = .ok () → s.pk.readError pc = none →
    ∀ p, p = (List.range 8).map (fun i => BitVec.ofNat 64 (leNat ((s.pk.mem.read pc).drop (8 * i) |>.take 8))) → patOk p = true →
    s.patRanges p = .ok () → exec (.spat d a) s = .next (setQ s d { q d with pat := some p })) ∧
  (∀ p, (q d).pat = some p → (q d).run = false → ∃ t, exec (.sgo d) s = .next t ∧
    t.ctx.q = s.ctx.q.setIfInBounds d.toNat { q d with
      run := true, done := false, popped := 0, elems := [], made := 0, ahead := none, waits := s.localStores } ∧
    ∃ x ∈ t.pk.agenda, x.ev = .streamElement ∧ x.arg.n = s.ctx.num ∧ x.arg.m = d.toNat ∧ x.at_ = s.pk.tick + 8 * s.pk.period) ∧
  (∃ t, exec (.sstop d) s = .next t ∧ t.ctx.q = s.ctx.q.setIfInBounds d.toNat { q d with run := false, elems := [], ahead := none } ∧
    ∀ x ∈ t.pk.agenda, ¬ (x.ev = .streamElement ∧ x.arg.n = s.ctx.num ∧ x.arg.m = d.toNat)) ∧
  (∀ p x xs, (q a).pat = some p → (q a).elems = x :: xs → x.poison = none → x.err = none → (q a).ahead = none → s.ctx.landings < 32 →
    let u := fun w => setQ (land s w) a { q a with elems := xs, popped := ((q a).popped + 1) % 2 ^ 48 }
    (∀ y, patVec p = true → x.val = .vec y → exec (.qpop d a l) s = .next (u (.v d.toNat
      { y with tag := patTag p, side := if tagScaled (patTag p) then sideClean (patTag p) y.side else 0 }))) ∧
    (∀ y, patVec p = false → x.val = .scal y → exec (.qpops d a l) s = .next (u (.s d.toNat y)))) ∧
  (s.ctx.landings < 32 → ∃ w, exec (.qstat d a l) s = .next (land s (.s d.toNat w)) ∧
    ((q a).popped < 2 ^ 48 → (q a).elems.length < 2 ^ 5 → bits w 63 63 = (q a).run.toNat ∧ bits w 62 62 = (q a).pat.isSome.toNat ∧
      bits w 61 61 = (q a).done.toNat ∧ bits w 55 51 = (q a).elems.length ∧ bits w 47 0 = (q a).popped))

/-! ### The G slot and the engines -/

/-- O46. R64, R65, R75: the checks of a handle access in their order, and the cause each gives; an entry that the buffer
service holds for MIGRATE is unmapped. -/
def Obligations.HandleChecks : Prop := ∀ (k : Pack) (btab : Word) (own idx : Nat) (o : Int) (n need : Nat) (copy : Bool),
  let e := k.entryAt (bits btab 47 0) idx
  let r := k.handleBad btab own idx o n need copy
  let known := 0 < idx ∧ idx ≤ bits btab 63 48
  let formed := known ∧ e.tier ≠ 0 ∧ k.entryOk e = true
  let owned := formed ∧ (e.owner = 0xFFFF ∨ e.owner = own)
  let held := ∃ b, k.sched.service = some b ∧ b.migrate = true ∧ b.idx = idx ∧ b.table = bits btab 47 0
  (idx = 0 → r = some 1) ∧ (bits btab 63 48 < idx → r = some 2) ∧ (known → e.tier = 0 → r = some 3) ∧
  (known → e.tier ≠ 0 → k.entryOk e = false → r = some 4) ∧
  (formed → e.owner ≠ 0xFFFF → e.owner ≠ own → r = some 5) ∧ (owned → e.res = false ∨ held → r = some 6) ∧
  (owned → ¬ held → e.res = true →
    (e.tier = 3 → copy = false → r = some 7) ∧
    (e.tier ≠ 3 ∨ copy = true → e.rights &&& need ≠ need → r = some 8) ∧
    (e.tier ≠ 3 ∨ copy = true → e.rights &&& need = need → (o < 0 ∨ o + n > e.limit) → r = some 9) ∧
    (e.tier ≠ 3 ∨ copy = true → e.rights &&& need = need → 0 ≤ o → o + n ≤ e.limit → r = none))

/-- O47. R66–R69: byte `o` of a tier-2 buffer stands in channel CGB + (granule number mod 2^CGN) at BASE + (granule number div
2^CGN) granules + the place in the granule; the two windows name the same cells, each once. -/
def Obligations.Translation : Prop :=
  (∀ (e : BufEntry) (o : Nat), let g := 128 * 2 ^ e.gran
    cellPieces e 3 o 1 = [⟨.dram, cellOf e.win (e.cgb + o / g % 2 ^ e.cgn) (e.base + o / g / 2 ^ e.cgn * g + o % g), 1⟩]) ∧
  (∀ ch x y : Nat, x < 2 ^ 31 → y < 2 ^ 31 → cellOf 1 ch x = cellOf 1 ch y → x = y) ∧
  (∀ ch x : Nat, ch < 256 → x < 2 ^ 31 → cellOf 0 ch x = ch * 2 ^ 31 + x ∧ cellCh (cellOf 1 ch x) = ch) ∧
  (∀ x : Nat, x < 2 ^ 31 → bits (BitVec.ofNat 31 (bankToInter x)) 6 0 = bits (BitVec.ofNat 31 x) 6 0 ∧
    bits (BitVec.ofNat 31 (bankToInter x)) 10 7 = bits (BitVec.ofNat 31 x) 26 23 ∧
    bits (BitVec.ofNat 31 (bankToInter x)) 14 11 = bits (BitVec.ofNat 31 x) 30 27 ∧
    bits (BitVec.ofNat 31 (bankToInter x)) 17 15 = bits (BitVec.ofNat 31 x) 9 7 ∧
    bits (BitVec.ofNat 31 (bankToInter x)) 30 18 = bits (BitVec.ofNat 31 x) 22 10)

/-- O48. R329–R332: the loads through a handle whose access passes: the operation, and a landing due K cycles on. R329, R332,
R333, R335: the stores through a handle: bytes, reader count, the witness of the G timeline. -/
def Obligations.HandleLoadsAndStores : Prop :=
  (∀ (s : State) (d a b l : BitVec 5) (z m : BitVec 2) (v : BitVec 1),
  s.ctx.landings < 32 →
  let sd : Wr := .s d.toNat 0
  let vd : Wr := .v d.toNat {}
  let tag : BitVec 32 := (s.rs b).setWidth 32
  let k := Max.max 1 (bits (s.rs b) 43 32)
  let w := s.witCheck b.toNat (s.rs b) = .ok ()
  let size (v : BitVec 1) (t : BitVec 32) : Nat := if v = 1 then 324 else if tagScaled t then 320 else 256
  (s.mayAccess a s.dispG (2 ^ z.toNat) rRD →
    let r := s.reach a s.dispG (2 ^ z.toNat)
    (∃ t, exec (.ldg d a l z) s = .next t ∧ s.hasLoaded t sd (s.loK l) (.load sd .scalar r none) 0x20 (s.homeLat r) 0 [] ∧ t.core = s.core) ∧
    (w → ∃ t, exec (.ldgw d a b z) s = .next t ∧
      s.hasLoaded t sd (s.xLow 64) (.load sd .scalar r none) 0x20 (s.homeLat r) 0 [s.rs b] ∧ t.core = s.core)) ∧
  (s.mayAccess a s.dispG (size v tag) rRD → (v = 0 → tagOk tag = true) →
    let r := s.reach a s.dispG (size v tag)
    ∃ t, exec (.ldgv d a b v) s = .next t ∧
      s.hasLoaded t vd k (.load vd (if v = 0 then .plain tag else .image) r none) 0x20 (s.homeLat r) 4 [] ∧ t.core = s.core) ∧
  (s.mayAccess a s.dispG (size (~~~v) (s.rv d).tag) rRD → (v = 1 → tagOk (s.rv d).tag = true) → w →
    let r := s.reach a s.dispG (size (~~~v) (s.rv d).tag)
    ∃ t, exec (.ldgvw d a b v) s = .next t ∧ s.hasLoaded t vd (s.xLow 64)
      (.load vd (if v = 0 then .image else .plain (s.rv d).tag) r none) 0x20 (s.homeLat r) 4 [s.rs b] ∧ t.core = s.core) ∧
  (let offs := (unpackW 32 64 (s.rv d).pay.toNat).map Int.ofNat
   let r := s.reachLanes a s.dispG offs
   tagFmt (s.rv d).tag = some .n32 → (∀ o ∈ offs, s.mayAccess a (s.dispG + o) 4 rRD) →
    (laneTagOk tag = true → ∃ t, exec (.ldgx d a b) s = .next t ∧
      s.hasLoaded t vd k (.load vd (.lanes tag) r none) 0x20 (s.homeLat r) 4 [] ∧ t.core = s.core) ∧
    (w → m ≠ 3 → ∃ t, exec (.ldgxw d a b m) s = .next t ∧ s.hasLoaded t vd (s.xLow 64)
      (.load vd (.lanes (BitVec.ofNat 32 (if m = 0 then 1 else if m = 1 then 11 else 15))) r none) 0x20 (s.homeLat r) 4 [s.rs b] ∧
      t.core = s.core))) ∧
  (∀ (s : State) (d a b : BitVec 5) (p : BitVec 4) (z : BitVec 2) (v : BitVec 1),
  let z' := 2 ^ z.toNat
  let bs := if v = 1 then imageBytes (s.rv b) else plainBytes (s.rv b)
  let w (i : Instr) (r : Range) (bytes : List Byte) (count : Nat) : Prop :=
    ∃ t, exec i s = .next t ∧ s.hasWitnessed t s.tlG d (.store r bytes count) 0x10 (s.homeLat r) 0 []
  let pv := s.ctx.regs.rv (2 * p.toNat)
  let offs := (unpackW 32 64 (s.ctx.regs.rv (2 * p.toNat + 1)).pay.toNat).map Int.ofNat
  (s.mayAccess a s.dispG z' rWR →
    w (.stg d a b z) (s.reach a s.dispG z') (leBytes z' (s.rs b).toNat) 0 ∧
    w (.strc d a b z) (s.reach a s.dispG z') (leBytes z' (s.rs b).toNat) (s.xLow 1)) ∧
  (s.mayAccess a s.dispG bs.length rWR → (v = 0 → tagOk (s.rv b).tag = true) →
    w (.stgv d a b v) (s.reach a s.dispG bs.length) bs 0 ∧ w (.strcv d a b v) (s.reach a s.dispG bs.length) bs (s.xLow 1)) ∧
  (laneTagOk pv.tag = true → tagFmt (s.ctx.regs.rv (2 * p.toNat + 1)).tag = some .n32 →
    (∀ o ∈ offs, s.mayAccess a (s.dispG + o) 4 rWR) → w (.stgx d a p) (s.reachLanes a s.dispG offs) (leBytes 256 pv.pay.toNat) 0))

/-- O49. R340–R342: a home atomic acts at its effective offset rounded down to its size; STRED is numbered among the stores. -/
def Obligations.HandleAtomics : Prop := ∀ (s : State) (d a b : BitVec 5) (w z : BitVec 1) (y : BitVec 2),
  let n (z : BitVec 1) : Nat := if z = 0 then 4 else 8
  let low (n : Nat) (x : Word) : Word := BitVec.ofNat 64 (x.toNat % 2 ^ (8 * n))
  let at_ (n : Nat) : Int := ((hOff (s.ra a) : Int) + s.dispG) / n * n - hOff (s.ra a)
  let does (i : Instr) (z : BitVec 1) (fn : Nat) : Prop :=
    let r := s.reach a (at_ (n z)) (n z)
    s.mayAccess a (at_ (n z)) (n z) (if w = 0 then rAT + rRD else rAT) → (w = 0 → s.ctx.landings < 32) →
    ∃ t, exec i s = .next t ∧ s.hasNumbered t s.tlG ∧ t.core = s.core ∧
      (if w = 1 then s.hasWitnessed t s.tlG d (.atomic r false fn (low (n z) (s.rs b)) (low (n z) (s.rs d)) none) 0x30 (s.homeLat r) 0 []
       else s.hasLoaded t (.s d.toNat 0) (s.xLow 64)
         (.atomic r false fn (low (n z) (s.rs b)) (low (n z) (s.rs d)) (some d.toNat)) 0x30 (s.homeLat r) 0 [])
  let m := if y = 1 then 8 else 4
  does (.gaadd d a b w z) z 0 ∧ does (.gamin d a b w z) z 1 ∧ does (.gamax d a b w z) z 2 ∧ does (.gaand d a b w z) z 3 ∧
  does (.gaor d a b w z) z 4 ∧ does (.gaxor d a b w z) z 5 ∧ does (.gaswp d a b w z) z 6 ∧ does (.gacas d a b w z) z 7 ∧
  does (.gafadd d a b w) 0 8 ∧ does (.gafmin d a b w) 0 9 ∧ does (.gafmax d a b w) 0 10 ∧
  (s.mayAccess a (at_ m) m rAT → let r := s.reach a (at_ m) m
    ∃ t, exec (.stred d a b y) s = .next t ∧ s.hasWitnessed t s.tlG d
    (.atomic r false (if y = 2 then 8 else 0) (low m (s.rs b)) 0 none) 0x10 (s.homeLat r) 0 [])

/-- O50. R349, R350: a prefetch leaves every byte at the home as it was; PREF.FD drops its faults; MSCWB and MSCINV are
numbered write-backs over ub bytes; LAUNCH reads its image as a G-timeline load. -/
def Obligations.CacheControlAndLaunch : Prop :=
  (∀ (s : State) (d a b : BitVec 5) (f : BitVec 1),
  let n := Min.min (s.rs b).toNat (2 ^ 24)
  let r := s.reach a s.dispG n
  (s.mayAccess a s.dispG n rCS → ∃ t, exec (.pref a b f) s = .next t ∧ s.hasIssued t (.pref r) 0 (s.homeLat r) 0 [] ∧ s.keeps t ∧
    t.core = s.core ∧ t.ctx.pend = s.ctx.pend ∧ t.pk.tls = s.pk.tls ∧ t.pk.board = s.pk.board ∧ t.pk.pins = s.pk.pins) ∧
  (∀ e, s.accessReg a s.dispG n rCS = .error (.fault e) → exec (.pref a b 1) s = .next s) ∧
  (∀ e, s.accessReg a s.dispG n rCS = .error (.met e) → exec (.pref a b 1) s = .next (s.logMet e)) ∧
  (s.mayAccess a 0 (s.rs b).toNat rRD → let r := s.reach a 0 (s.rs b).toNat
    (∃ t, exec (.mscwb d a b) s = .next t ∧ s.hasWitnessed t s.tlG d (.writeback r false) 0x10 (s.homeLat r) 0 [] ∧ t.core = s.core) ∧
    (∃ t, exec (.mscinv d a b) s = .next t ∧ s.hasWitnessed t s.tlG d (.writeback r true) 0x10 (s.homeLat r) 0 [] ∧ t.core = s.core)) ∧
  (∀ n, n = (s.rs a).toNat → n < 64 → s.pk.csEn n = true → (s.pk.csCtl n).getLsbD 62 = true →
    bits (s.pk.csCtl n) 15 0 = s.ownId.toNat → s.mayAccess b 0 128 rRD →
    ∃ t, exec (.launch d a b) s = .next t ∧ s.hasIssued t (.append n (s.reach b 0 128) ([s.tlL, s.tlG, s.tlM].map (fun x =>
        pointWit x (s.pk.tl x).iss))) 0x20 4 0 [] ∧ s.hasNumbered t s.tlG ∧ s.keeps t ∧
      t.ctx.pend = s.ctx.pend ++ [{ due := s.core.cyc + 4, wr := .s d.toNat 0, land := s.pk.opCtr, ready := false }])) ∧
  (∀ (k : Pack) (via : Via) (l : Nat), k.msc.length < 16 →
    let j := Pack.prefetchLine via k l
    j.mem = k.mem ∧ j.pins = k.pins ∧ (∀ x ∈ k.msc, x.line ≠ l → x ∈ j.msc) ∧ ((via.ms = true ∨ via.cp = 2) → j.msc = k.msc) ∧
    (∀ x ∈ j.msc, x ∉ k.msc → x.line = l ∧ x.dirty = false ∧ x.rc = 0 ∧ x.bytes = k.mem.read ⟨.dram, l, 128⟩))

/-- O51. R344–R348, R351, R352: the copy commands and the Skew unit: command, queue timeline, scoreboard entry, witness; the
pattern record of SKPAT. How long a copy takes is the model's choice (log 5). -/
def Obligations.CopyCommands : Prop :=
  (∀ (s : State) (e : Nat),
  let ctl := s.ctx.regs.rs s.cmdD.toNat
  let wait := s.ctx.regs.rs (s.cmdD.toNat + 1)
  let q := bits ctl 31 28
  let n := bits ctl 27 0
  let cyc := (n + 511) / 512
  let tl := 1600 + 14 * (s.core.num / 8) + q
  let ra := s.reach s.cmdA 0 n
  let rb := s.reach s.cmdB 0 n
  let spad : Range := ⟨[⟨.spad, s.core.num / 8 * 2 ^ 22 + e, n⟩], {}, 0⟩
  let room := (s.pk.ops.filter (fun o => o.tl == tl && o.seq != 0)).length < 32
  let entry (w : Bool) (len : Nat) : BoardEntry := ⟨s.pk.opCtr, s.ctx.num, false, s.core.num / 8, w, [(e, e + len)]⟩
  let board (w : Bool) : List BoardEntry := s.pk.board ++ if n = 0 then [] else [entry w n]
  let sends (i : Instr) (b : List BoardEntry) (kind : OpKind) (lat : Nat) : Prop :=
    ∃ t, exec i s = .next t ∧ t.core = s.core ∧ t.pk.board = b ∧ s.hasWitnessed t tl s.cmdD kind 0x0C lat 0 [wait]
  q < 14 → bits ctl 63 32 = 0 → s.witCheck (s.cmdD.toNat + 1) wait = .ok () → room →
  (s.mayAccess s.cmdA 0 n rCS true → s.mayAccess s.cmdB 0 n rCD true →
    sends .copy s.pk.board (.copy ra rb q) (s.homeLat ra + s.homeLat rb + cyc)) ∧
  (s.boardFull = false → s.localBad e n 1 = none →
    (s.mayAccess s.cmdA 0 n rCS true → (s.rs s.cmdB).toNat = e → sends .copyl (board true) (.copy ra spad q) (s.homeLat ra + 20 + cyc)) ∧
    ((s.rs s.cmdA).toNat = e → s.mayAccess s.cmdB 0 n rCD true → sends .copyg (board false) (.copy spad rb q) (s.homeLat rb + cyc))) ∧
  (∀ p, s.ctx.skew[bits ctl 1 0]? = some p → p ≠ [] → bits ctl 27 2 = 0 →
    let (esz, rows, cols, rstr, dstr) := skewOf p
    let len := (cols - 1) * dstr + rows * esz
    let o := hOff (s.ra s.cmdA)
    let x := s.pk.entryAt (bits s.ctx.csr.btab 47 0) (hIdx (s.ra s.cmdA))
    let parts := (List.range rows).map (fun i => entryRange x (o + i * rstr) (cols * esz))
    s.mayReach (hIdx (s.ra s.cmdA)) o ((rows - 1) * rstr + cols * esz) rCS true → x.tier ≠ 3 →
    (x.devn = 0xFF ∨ x.devn = s.pk.own) → (s.rs s.cmdB).toNat = e → s.localBad e len 1 = none → s.boardFull = false →
    sends .skrd (s.pk.board ++ if len = 0 then [] else [entry true len]) (.skew (parts.flatMap Range.pieces)
      (((parts.head?).map Range.via).getD {}) ⟨.spad, s.core.num / 8 * 2 ^ 22 + e, len⟩ dstr esz rows cols q)
      (110 + (rows * cols * esz + 511) / 512))) ∧
  (∀ (s : State) (e : Nat) (p : List Word),
  let at_ : Piece := ⟨.spad, s.core.num / 8 * 2 ^ 22 + e, 32⟩
  (s.rs s.cmdA).toNat = e → s.localBad e 32 1 = none → s.ctx.stallAt.any (fun c => decide (c ≤ s.core.cyc)) = true →
  s.recordFenced = false → s.waitLocal false [(e, 32)] = .ok () → s.waitOwn at_ = .ok () → s.pk.readError at_ = none →
  p = (List.range 4).map (fun i => BitVec.ofNat 64 (leNat (((s.pk.mem.read at_).drop (8 * i)).take 8))) → skewOk p = true →
  exec .skpat s = .next (s.updCtx (fun c => { c with skew := c.skew.setIfInBounds (s.cmdD.toNat % 4) p })))

/-- O52. R377–R384, R419, R435, R461, R462: the commands to the near-bank units, the fabric and the Veneer where their checks
pass: the command numbered on its engine's timeline with its witness, or for VPREP the witness of its round's point; the
status reads as loads. How long a GTT, an EMBR entry and a COLL take is the model's choice (log 5). -/
def Obligations.EngineCommands : Prop := ∀ (s : State) (d a l : BitVec 5) (o : BitVec 1),
  let ctl := s.ctx.regs.rs s.cmdD.toNat
  let wait := s.ctx.regs.rs (s.cmdD.toNat + 1)
  let ok : Prop := s.witCheck (s.cmdD.toNat + 1) wait = .ok ()
  let h := bits ctl 7 0
  let room (tl n : Nat) : Prop := (s.pk.tl tl).open_.length < n
  let far (c : Nat) : Nat := if c / 128 = s.core.num / 128 then 40 else 90
  let ct := 2048 + bits ctl 39 32
  let few : Prop := (s.pk.tl ct).iss - (s.pk.tl ct).head < 16
  let sends (i : Instr) (tl : Nat) (kind : OpKind) (lat : Nat) : Prop :=
    ∃ t, exec i s = .next t ∧ t.core = s.core ∧ s.hasWitnessed t tl s.cmdD kind 0 lat 0 [wait]
  (bits ctl 63 8 = 0 → ok → room (2304 + h) 8 →
    (s.mayAccess s.cmdA 0 1088 rRD → sends .gtt (2304 + h) (.gouge 0 h (s.ra s.cmdA) 0) 3000) ∧
    sends .ggo (2304 + h) (.gouge 1 h 0 (s.rs s.cmdA)) 0 ∧ sends .gsave (2304 + h) (.gouge 2 h 0 0) 0 ∧
    sends .grestore (2304 + h) (.gouge 3 h 0 (s.rs s.cmdA)) 0) ∧
  (s.ctx.landings < 32 →
    (∃ t, exec .gstat s = .next t ∧ s.hasLoaded t (.s s.cmdD.toNat 0) (s.loK s.cmdB) (.gstat ((s.rs s.cmdA).toNat % 256)) 0
      (far ((s.rs s.cmdA).toNat % 256)) 0 []) ∧
    (∃ t, exec .vstat s = .next t ∧
      s.hasLoaded t (.s s.cmdD.toNat 0) (s.loK s.cmdB) (.vstat 2 ((s.rs s.cmdA).toNat % 16)) 0 40 0 []) ∧
    (∃ t, exec (.vround d a l o) s = .next t ∧
      s.hasLoaded t (.s d.toNat 0) (s.loK l) (.vstat o.toNat ((s.rs a).toNat % 16)) 0 40 0 [])) ∧
  (bits ctl 47 40 = 0 → bits ctl 31 18 = 0 → ok → few →
    s.mayAccess s.cmdA 0 (4 * bits ctl 15 0) rRD →
    s.mayReach (bits ctl 63 48) 0 (128 * 2 ^ bits ctl 17 16) rCS false →
    s.mayAccess s.cmdB 0 (128 * 2 ^ bits ctl 17 16) rEM →
    sends .embr ct (.embr ctl (s.ra s.cmdA) (s.ra s.cmdB)) 0) ∧
  (let r := bits ctl 47 40
   let rt := s.pk.rtctl r
   let n := bits rt 55 48
   let z' := collSizes ctl n
   bits ctl 63 60 ≤ 4 → ctl.getLsbD 56 = false → (bits ctl 63 60 = 3 → bits ctl 55 48 < n) → (bits ctl 63 60 ≠ 3 → bits ctl 55 48 = 0) →
   (ctl.getLsbD 57 = true → bits ctl 63 60 = 0 ∧ bits ctl 59 58 < 2) → bits ctl 31 0 % 128 = 0 → r < 64 → rt.getLsbD 63 = true →
   s.mayAccess s.cmdA 0 z'.1 rCS → s.mayAccess s.cmdB 0 z'.2 rCD →
   (∀ r, r = s.cmdA ∨ r = s.cmdB → (s.pk.entryAt (bits s.ctx.csr.btab 47 0) (hIdx (s.ra r))).devn = 0xFF) → ok → few →
   sends .coll ct (.coll ctl (s.reach s.cmdA 0 z'.1) (s.reach s.cmdB 0 z'.2) (bits rt 47 40) (s.pk.routeList r)) 0) ∧
  (let g := bits ctl 3 0
   let v := s.pk.slot g
   let n := nearest 32 (bits ctl 63 32) v.vopen
   bits ctl 31 4 = 0 → v.state ≠ .off → s.pk.vStandby g = false → s.ownId = s.pk.vOwner g → n ≤ v.vopen → ok →
   (∀ o ∈ s.pk.ops, ∀ m, o.kind ≠ .vprep g m) →
   ∃ t, exec .vprep s = .next t ∧ t.core = s.core ∧ s.hasIssued t (.vprep g n) 0 0 0 [wait] ∧ s.keeps t ∧
     t.ctx.pend = s.ctx.pend ++ [{ due := s.core.cyc + 2, wr := .s s.cmdD.toNat (pointWit (2560 + g) (((v.base : Int) + n) % 2 ^ 42).toNat) }])

/-! ### Steps without an encoding -/

/-- O53. R118, R137, R144–R146, R149, R153, R154, R163–R172, R210, R480–R482, R484, R487, R489, R490: the steps of a core's
cycle. That data which comes with a period's start ends the freeze after that period (log 20), that deferred faults are taken
one at a time in their order (log 47), and when a replay freezes (log 58) are the model's readings. -/
def Obligations.CoreCycleSteps : Prop := ∀ (s : State),
  let c := s.ctx
  let hd := decodeHeader s.headerWord
  let opened := s.openBundle s.headerWord
  let ending := c.goOn {} c.pc opened.followPc
  (∀ p ps, c.resume = false → c.pend = p :: ps → p.due ≤ s.core.cyc → (∀ r x, p.wr ≠ .stride r x) →
    let one : Ctx := { c with undo := some (c.undo.getD c.regs), pend := ps, landed := c.landed ++ [p] }
    let after : State := s.updCtx (fun c => match p.err with
      | none => { one with regs := (c.regs.apply p.wr).orFlags p.flags }
      | some e => { one with faults := c.faults ++ [e] })
    exec .fixedLatencyWrite s = .next after ∧
    (s.core.thaw = false → c.lateEntry s.core.cyc = false → s.sib.lateEntry s.core.cyc = false → exec .landing s = .next after)) ∧
  (s.core.thaw = true ∨ c.lateEntry s.core.cyc = true ∨ s.sib.lateEntry s.core.cyc = true →
    exec .landing s = .next (s.updCore (fun k => { k with frzcyc := k.frzcyc + 1, frozen := true, thaw := false, turn := 4 }))) ∧
  exec .idleBundle s = .next ((opened.endBundle [] []).updCtx (fun k => { k with owe := k.owe + hd.stamp.toNat })) ∧
  exec .emptyStampedBundle s = .next (opened.endBundle [] []) ∧
  (∃ t, exec .nullifiedBundle s = .next t ∧ t.ctx.m = c.m ∧ t.pk.mem = s.pk.mem ∧ t.ctx.pc = ending.1 ∧ t.ctx.nulls = c.nulls + 1 ∧
    (c.nullCosts = true ∨ ending.2.2 = [] → t.ctx.regs = c.regs) ∧
    (c.nullCosts = false → t.ctx.csr.frpos = c.csr.frpos ∧ t.ctx.pend = [] ∧
      ∀ r b, ending.2.2 = [(r, b)] → 0 ≤ (hOff (c.regs.ra r) : Int) + b.toInt → (hOff (c.regs.ra r) : Int) + b.toInt < 2 ^ 56 →
        t.ctx.regs = c.regs.apply (.stride r b))) ∧
  (s.pk.arg.n = s.core.num →
    (s.core.ddthr.getLsbD 15 = true → s.pk.arg.m < bits s.core.ddthr 9 0 → exec .droopTrip s = .next (s.updCore (fun k => { k with trip := true }))) ∧
    (s.core.ddthr.getLsbD 15 = false ∨ bits s.core.ddthr 9 0 ≤ s.pk.arg.m → exec .droopTrip s = .next s)) ∧
  (s.core.trip = false → s.core.phase = 65 → ∃ t, exec .stretchEnd s = .next t ∧ t.core.phase = 64 ∧ t.core.cyc = s.core.cyc + 1 ∧
    t.core.stretched = true ∧ t.core.taken = []) ∧
  (s.core.trip = false → s.core.phase = 1 → ∃ t, exec .halfIssueEnd s = .next t ∧ t.core.phase = 0 ∧ t.core.cyc = s.core.cyc + 1 ∧
    t.core.stretched = false) ∧
  (s.core.trip = true → s.core.phase = 1 → ∃ t, exec .halfIssueEnd s = .next t ∧ t.core.phase = 70) ∧
  exec .throttleStepChange s = .next (s.updCore (fun k => { k with step := s.pk.wantedStep k })) ∧
  (s.pk.arg.m = 0 → s.pk.arg.n = s.core.num → s.pk.arg.k < 8 →
    exec .temperatureOrCurrentLimit s = .next (s.updCore (fun k => { k with therm := s.pk.arg.k }))) ∧
  exec .targetCycleEnd s = .next (s.enterTrap { s.faultRec 0x0F 1 0 (hd.stamp.zeroExtend 64) (BitVec.ofInt 64 (c.framePos s.pk.halves)) with
    slot := 0, pc := c.pc, blen := 1 + hd.slotWords }) ∧
  (∀ r rs, c.faults = r :: rs → r.code ≠ 0x09 → exec .deferredFault s = .next ((s.updCtx (fun k => { k with faults := rs })).enterTrap r)) ∧
  (s.fetchFault = none → exec .handlerStart s = .next (s.updCtx (fun k => { k with mode := .run, drainAt := none }))) ∧
  (∀ r, s.fetchFault = some r → r.code ≠ 0x1E → exec .handlerStart s = .next (s.freeze 1 c.pc r)) ∧
  (∀ p, c.resume = false → c.replay = true → c.held = [p] → c.pend = [] → c.faults = [] → (∀ r x, p.wr ≠ .stride r x) → p.err = none →
    (0 < p.due → c.landed = [] → c.undo = none → exec .heldSnapshotReplay s = .next (s.updCtx (fun k => { k with
      replay := false, held := [], pend := [{ p with due := p.due + s.core.cyc }] }))) ∧
    (p.due = 0 → p.ready = true → ∀ ls, c.landed = ls → (∀ q ∈ ls, q.due ≤ s.core.cyc ∧ q.ready = true ∧ q.err = none ∧ ∀ r x, q.wr ≠ .stride r x) →
      ∃ t, exec .heldSnapshotReplay s = .next t ∧ t.ctx.pend = [] ∧ t.ctx.held = [] ∧ t.ctx.replay = false ∧
        t.ctx.regs = (p :: ls).foldl (fun g (q : Pend) => (g.apply q.wr).orFlags q.flags) c.before)) ∧
  (∃ t, exec .yieldWindowExpiry s = .next t ∧ t.ctx.mode = .saving ∧ t.ctx.regs = c.before ∧ t.ctx.resume = true ∧ t.ctx.replay = false ∧
    t.ctx.pend = (if c.replay then c.held else []) ++ c.capture s.core.cyc ∧ t.ctx.live = none ∧ t.ctx.drainAt = some s.core.cyc ∧
    (c.mode = .waiting → t.ctx.points = c.points) ∧ (c.mode ≠ .waiting →
      t.ctx.points = [(s.tlL, (s.pk.tl s.tlL).iss), (s.tlG, (s.pk.tl s.tlG).iss), (s.tlM, (s.pk.tl s.tlM).iss)]))

/-- O54. R252–R254, R257, R264, R266–R268, R315, R316: the matrix array's occupancies and completions, and a stream
generator's element: affine or indirect, scalar or vector, the last of its pattern among them. -/
def Obligations.MatrixAndStreamSteps : Prop := ∀ (s : State),
  (∀ e es, s.ctx.num % 2 = 0 → s.ctx.mq = e :: es → e.from_ ≤ s.core.cyc → e.after = [] → s.core.run = none → s.core.aside = none →
    s.ctx.drainAt = none → s.sib.mq = [] → exec .matrixOccupancyStart s = .next ((s.updCtx (fun c => { c with mq := es })).updCore
      (fun k => { k with run := some ⟨0, e, e.work⟩, aside := none, served := some 0 }))) ∧
  (∀ e, s.core.run = some ⟨s.ctx.num % 2, e, 0⟩ →
    let leaves (tail : Nat) (tile : Tile) (fl : Flags) : Prop := exec .matrixOccupancyEnd s =
      .next ((s.clearBoard e.id false).updCore (fun k => { k with run := none, done := k.done ++ [⟨s.ctx.num % 2, e, k.cyc + tail, tile, fl, none⟩] }))
    let old := (s.ctx.m[e.dst]?).getD {}
    (e.op = .mst → leaves 0 e.src 0) ∧
    (∀ t rm sat, e.op = .mcvt t rm sat → leaves 16 (mcvtTile e).1 (mcvtTile e).2) ∧
    (s.matrixError s.ctx.num e = none → (e.op = .mld → leaves 0 (mldTile (s.arrayMem s.ctx.num e) s.cluster e old) 0) ∧
      ∀ z kind m, e.op = .mma z kind m → let r := mmaTile (s.arrayMem s.ctx.num e) s.cluster e old; leaves 16 r.1 r.2)) ∧
  (∀ d ds, s.core.done = d :: ds → d.due ≤ s.core.cyc → d.side = s.ctx.num % 2 → d.err = none →
    (d.entry.op ≠ .mst → ∃ t, exec .matrixCompletion s = .next t ∧ t.core.done = ds ∧ t.ctx.m = s.ctx.m.setIfInBounds d.entry.dst d.tile ∧
      t.ctx.regs = s.ctx.regs.orFlags d.flags ∧ t.ctx.busy = s.ctx.busy &&& ~~~(1#16 <<< d.entry.dst) ∧ t.pk.mem = s.pk.mem) ∧
    (d.entry.op = .mst → s.pk.ops = [] → s.wf = true → ∃ t, exec .matrixCompletion s = .next t ∧ t.core.done = ds ∧ t.ctx = s.ctx ∧
      (let r := opRec d.entry.ra
       let at_ (i : Nat) : Nat := s.core.num / 8 * 2 ^ 22 + r.base + i * r.stride
       (∀ i, i + 1 = r.rows → t.pk.mem.spad.read (at_ i) (4 * r.klen) = leBytes (4 * r.klen) (d.entry.src.pay.toNat / 2 ^ (2048 * i))) ∧
       (∀ x, (∀ i < r.rows, x < at_ i ∨ at_ i + 4 * r.klen ≤ x) → t.pk.mem.spad.get x = s.pk.mem.spad.get x)))) ∧
  (∀ q p e, s.pk.arg.n = s.ctx.num → q = s.pk.arg.m → q < 4 → s.ctx.q[q]? = some e → e.run = true → e.pat = some p → e.ahead = none →
    s.pk.arg.k ≤ s.ageOf s.ctx.num → e.waits = [] → e.elems.length < 16 → e.made < patTotal p →
    let cl := s.ctx.num / 16
    let n := patLen p
    let at_ (a m : Nat) : Piece := ⟨.spad, cl * 2 ^ 22 + a, m⟩
    let val (a : Nat) : QVal := if patVec p then .vec (vregOf (patTag p) (s.pk.mem.read (at_ a n)))
      else .scal (BitVec.ofNat 64 (leNat (s.pk.mem.read (at_ a n))))
    let gets (x : QElem) : Prop :=
      let last := e.made + 1 = patTotal p
      let t := s.updCtx (fun c => { c with q := c.q.setIfInBounds q { e with
        elems := e.elems ++ [x], made := e.made + 1, run := !decide last, done := if last then true else e.done } })
      exec .streamElement s = .next (if last then t
        else t.updPk (fun k => k.scheduleCc 1 .streamElement { n := s.ctx.num, m := q, k := s.ageOf s.ctx.num + 1 }))
    let a := (patAddr p e.made).toNat
    (patInd p = false → s.boardBlocks cl false a n = false → s.pk.readError (at_ a n) = none → gets { val := val a }) ∧
    (patInd p = true → s.boardBlocks cl false a 4 = false → s.pk.readError (at_ a 4) = none →
      let i := leNat (s.pk.mem.read (at_ a 4))
      let ea := bits (patWord p 1) 21 0 + i * 2 ^ bits (patWord p 0) 25 22
      (ea + n ≤ 2 ^ 22 → firstOutside (bits s.ctx.csr.place 63 48) ea (ea + n) = none → s.boardBlocks cl false ea n = false →
        s.pk.readError (at_ ea n) = none → gets { val := val ea }) ∧
      (2 ^ 22 < ea + n → gets { val := .scal 0, poison := some (BitVec.ofNat 64 ea) })))

/-- O55. R71, R299, R331, R333, R336, R340, R346, R347, R350, R323, R326, R390, R432, R453, R455: operations taking effect
where nothing holds them. What a row in the way costs is the model's choice (log 54); how a write to protected cells counts in
its rounds and logs is its reading (log 41). R443, R444, R457: a host access reads or writes the bytes of the interleaved
window at the DPA that the decoders give (set from outside: log 41), and is answered with them, with a completion, or as
failed. -/
def Obligations.MemorySteps : Prop :=
  (∀ (s : State) (o : Op),
  s.findOp s.pk.arg.n = some o →
  let go : Prop := o.begun = true ∧ s.olderBlocks o = false ∧ s.pk.opHeld o = false ∧ o.due ≤ s.ageOf o.ctx ∧ s.pk.portHeld o = false ∧
    s.pk.arrayHolds o = false
  let near (r : Range) : Prop := s.pk.isRemote r.via = false
  let next := s.updPk (fun k => { k with freeCtr := k.freeCtr + 1 })
  (∀ dst sh r, o.kind = .load dst sh r none → go →
    (s.pk.arg.k ≠ 1 → s.pk.wsHold o.kind.quarters = none → s.pk.rangeError r.pieces = none →
      exec .loadDataArrival s = .next (s.takeLoad o sh (s.pk.rangeBytes r.pieces) o.lat2)) ∧
    (s.pk.arg.k = 1 → exec .loadDataArrival s = .next (s.presentLanding o)) ∧
    (let k := s.pk.settle r.via r.pieces
     k.rangeError r.pieces = none →
      let t := { s with pk := k.touchAll r.via r.pieces }.takeLoad o sh (k.rangeBytes r.pieces) (k.readLate r.pieces + o.lat2)
      exec .mscRead s = .next t ∧ exec .stateWindowAccess s = .next t)) ∧
  (∀ r, o.kind = .pref r → go → exec .mscRead s =
    .next ((s.updPk (fun k => (linesOf r.pieces).foldl (Pack.prefetchLine r.via) k)).finishOp o)) ∧
  (∀ r bs n k, o.kind = .store r bs n → go → s.pk.piecesWrite r.via n r.pieces bs = .ok k → o.fail = false →
    let t : State := { s with pk := k }.finishOp o
    exec .storePerformed s = .next t ∧ exec .stateWindowAccess s = .next t ∧ exec .deltaWrite s = .next t ∧ exec .deltaLogRelease s = .next t) ∧
  (∀ r bs n k done fail, o.kind = .store r bs n → go → s.pk.piecesWrite r.via n r.pieces bs = .held k done fail →
    ∃ t, exec .storePerformed s = .next t ∧ t.pk.mem = k.mem ∧ t.ctx = s.ctx ∧ t.pk.tls = k.tls) ∧
  (∀ r fn v cmp ret k old, o.kind = .atomic r false fn v cmp ret → go →
    let j := s.pk.settle r.via r.pieces
    let late := j.atomicLate r.via r.pieces
    j.sliceAtomic r.via r.pieces fn v cmp = .inl (.ok k, old) →
    (ret = none → exec .homeAtomic s = .next ({ s with pk := k.noteAtomic r.pieces late }.finishOp o)) ∧
    (ret.isSome = true → exec .homeAtomic s = .next ({ s with pk := (k.noteAtomic r.pieces late).completeOp o.tl o.seq }.takeLoad
      { o with seq := 0 } .scalar (leBytes 8 old.toNat) ((late - j.tick) / j.period)))) ∧
  (∀ src dst q k, o.kind = .copy src dst q → go → o.paged = false → o.kind.hostPages.length ≤ o.at_ →
    s.boardBefore o false src.pieces = false → s.boardBefore o true dst.pieces = false →
    near src → near dst → src.pieces.any (fun p => dst.pieces.any p.meets) = false →
    let from_ := src.as o.kind.cls
    let j := s.pk.settle from_.via src.pieces
    (j.goodPrefix (chopAll src.pieces)).2 = none → o.fail = false →
    (j.didRead from_ true).destWrite (dst.as o.kind.cls) (j.sourceBytes from_) = .ok k →
    s.pk.arg.k = 0 → exec .copyPerformed s = .next ({ s with pk := k }.finishOp o)) ∧
  (∀ src via dst a b c d q, o.kind = .skew src via dst a b c d q → exec .copyFailure s = .next (s.failOpState o)) ∧
  (∀ src dst q, o.kind = .copy src dst q →
    (o.taken = true ∨ o.begun = false → exec .copyFailure s = .next (next.failOpState o)) ∧
    (o.taken = false → o.begun = true → near src → near dst → ∃ n ≤ src.len, (n = 0 → exec .copyFailure s = .next (next.failOpState o)) ∧
      ∀ k, n ≠ 0 → next.pk.destWrite (dst.as o.kind.cls) ((next.pk.sourceBytes (src.as o.kind.cls)).take n) = .ok k →
        exec .copyFailure s = .next ({ s with pk := k }.failOpState { o with fail := true })) ∧
    (o.paged = true → o.at_ = s.pk.arg.m → (o.kind.hostPages[o.at_ - 1]?).getD 0 = 0 →
      exec .pageRequestTimeout s = .next (next.failOpState o))) ∧
  (o.paged = false ∨ o.at_ ≠ s.pk.arg.m → exec .pageRequestTimeout s = .next s) ∧
  (∀ src dst, o.kind = .wlds src dst → dst.space = .spad → dst.len = src.len → go → s.pk.wsHold (wldsPart o src).quarters = none →
    s.pk.readError (wldsPart o src) = none →
    let n := (wldsPart o src).len
    let k := (s.pk.pieceWrite {} (wldsPart o dst) (s.pk.mem.read (wldsPart o src))).pack
    k.mem = s.pk.mem.write .spad (dst.addr + o.at_) (s.pk.mem.read (wldsPart o src)) ∧
    (o.at_ + n < src.len → ∃ t, exec .wldsComplete s = .next t ∧ t.pk.mem = k.mem ∧ t.ctx = s.ctx ∧ t.pk.tls = s.pk.tls ∧
      ∀ x ∈ t.pk.ops, x.id = o.id → x.at_ = o.at_ + n ∧ x.kind = o.kind) ∧
    (src.len ≤ o.at_ + n → exec .wldsComplete s = .next ({ s with pk := k }.finishOp o))) ∧
  exec .wsReadRelease s = .next ((s.setOp { o with due := s.dueIn o o.lat }).updPk (fun k => k.scheduleCc o.lat (k.eventOf o.kind) { n := o.id })) ∧
  (∀ r bs n, o.kind = .store r bs n → (∀ p ∈ r.pieces, p.space = .dram) → go → s.pk.arg.k = 0 → s.pk.isRemote r.via = true →
    (s.pk.unreachable r.via = false → ∃ t, exec .remoteAccess s = .next t ∧ (∀ x ∈ t.pk.ops, x.id ≠ o.id) ∧ t.pk.mem = s.pk.mem ∧
      t.pk.fab.sent = s.pk.fab.sent ++ [.request r.via.dev.toNat o.kind]) ∧
    (s.pk.unreachable r.via = true → exec .remoteAccess s = .next (s.failOpState o) ∧ exec .remoteErrorTimeout s = .next (s.failOpState o)))) ∧
  (∀ (s : State) (k : Pack) (d : Nat),
  let a := s.pk.arg
  let n := if a.bytes = [] then a.m else a.bytes.length
  let ps := linePieces (n / 128 + 2) (dpaCell d) n
  (a.k = 0 → s.pk.hdmDpa a.n = none → exec .hostMemAccess s = .next (s.updPk (fun k => k.send (.failed 0xFF)))) ∧
  (a.k = 0 → s.pk.hdmDpa a.n = some d → s.pk.servedLater 0xFF {} ps .hostMemAccess = none →
    (a.bytes = [] → s.pk.rangeError ps = none →
      exec .hostMemAccess s = .next (s.updPk (fun k => (k.touchAll {} ps).send (.data 0xFF (s.pk.rangeBytes ps))))) ∧
    (a.bytes ≠ [] → a.v.getLsbD 63 = false →
      (s.pk.piecesWrite {} 0 ps a.bytes = .ok k → exec .hostMemAccess s = .next { s with pk := k.send (.data 0xFF []) }) ∧
      (s.pk.piecesWrite {} 0 ps a.bytes = .failed k → exec .hostMemAccess s = .next { s with pk := k.send (.failed 0xFF) }))))

/-- O56. R71–R75, R78–R87, R92, R99, R102, R105, R174, R177, R485, R486, R495, R498, R499: steps of the stream scheduler, the
buffer service and the save engine. What a WS load with errors leaves (log 34), that a closed channel makes the buffer service
look again each cycle (log 5) and that launchRetire looks once a cycle (log 46) are the model's. R86, R87, R90–R93, R95,
R97–R99, R101, R102, R108, R494, R495: the order of a round's candidates, where a launch is placed, what a round does with a
kernel that fits, one that needs a pre-emption and one that waits, and what a restore leaves. That a victim's slots are the
lowest free ones is the model's (log 68). -/
def Obligations.SchedulerSteps : Prop :=
  (∀ (s : State),
  let k := s.pk
  let a := k.arg
  let reg (off : Nat) (v : Word) : State := s.updPk (fun k => k.ioWr off v)
  let table := bits (k.ioRd 0x20800) 47 0
  let idx := bits (k.ioRd 0x20800) 63 48
  ((k.csCtl a.n).getLsbD 62 = false →
    (k.csTail a.n ≤ a.v.toNat → a.v.toNat ≤ k.csHead a.n + k.ringLen a.n → exec .cstail s = .next (s.updPk (fun k => k.appendTo a.n a.v.toNat))) ∧
    (a.v.toNat < k.csTail a.n ∨ k.csHead a.n + k.ringLen a.n < a.v.toNat →
      exec .cstail s = .next (reg (csOff a.n 0x28) (setBits (k.csStat a.n) 58 58 1)))) ∧
  ((k.csCtl a.n).getLsbD 62 = true → exec .cstail s = .next s) ∧
  (k.csEn a.n = false → 4 ≤ bits (k.csBase a.n) 55 48 → bits (k.csBase a.n) 55 48 ≤ 16 → a.v.getLsbD 63 = true →
    exec .csctlEn s = .next (reg (csOff a.n 8) (setBits (a.v &&& 0x7000_0000_0000_FFFF) 63 63 1))) ∧
  exec .csstatErrClear s = .next (reg (csOff a.n 0x28) (k.csStat a.n &&& ~~~(a.v &&& 0x8400_0000_0000_0000))) ∧
  (∀ v n, k.sched.pendIrq = [(v, n)] → a.n = v →
    ((k.sched.lastIrq.find? (fun x => x.1 == v)).map Prod.snd).getD 0 + bits (k.ioRd 0x20010) 31 0 ≤ s.tstamp →
    exec .coalesceExpiry s = .next (s.updPk (fun k => k.sendIrq v n))) ∧
  (∀ r, k.sched.ramps = [r] → a.n = r.cluster →
    let go (n : Nat) : State := s.updPk (fun k => (k.updSched (fun d => { d with ramps := [{ r with step := n }] })).schedule r.dwell .rampDwell { n := r.cluster })
    let stop : State := s.updPk (fun k => k.updSched (fun d => { d with ramps := [] }))
    (r.up = true → exec .rampDwell s = .next (if r.step < 7 then go (r.step + 1) else stop)) ∧
    (r.up = false → exec .rampDwell s = .next (if 1 < r.step then go (r.step - 1) else stop))) ∧
  (k.bsBusy = false →
    let at_ (w : BufService) : Pack := k.bsBegin.updSched (fun d => { d with service := some w })
    (∀ c, k.serviceBad table idx = some c → exec .unmap s = .next (s.updPk (fun k => k.setBsstat c))) ∧
    (k.serviceBad table idx = none → exec .unmap s = .next { s with
      pk := let j := at_ ⟨table, idx, false, 0, 0, [], 0, []⟩; if k.tableUsed table then j else j.schedule 0 .bufferServiceResume {} }) ∧
    (k.tableUsed table = true → exec .migrate s = .next (s.updPk (fun k => k.setBsstat 1))) ∧
    (k.tableUsed table = false →
      let new : BufEntry := { k.entryAt table idx with cgb := bits a.v 55 48, base := bits a.v 30 0 }
      let meets (i : Nat) : Prop := 1 ≤ i ∧ i ≤ 65535 ∧ i ≠ idx ∧ (k.entryAt table i).tier = 2 ∧ k.entryOk (k.entryAt table i) = true ∧
        ((k.entryAt table i).devn = 0xFF ∨ (k.entryAt table i).devn = k.own) ∧ sameCells (k.entryAt table i) new = true
      (∀ c, k.serviceBad table idx = some c → exec .migrate s = .next (s.updPk (fun k => k.setBsstat c))) ∧
      (k.serviceBad table idx = none → (k.entryOk new = false ∨ ∃ i, meets i) → exec .migrate s = .next (s.updPk (fun k => k.setBsstat 4))) ∧
      (k.serviceBad table idx = none → k.entryOk new = true → (∀ i, ¬ meets i) → exec .migrate s =
        .next { s with pk := (at_ ⟨table, idx, true, new.cgb, new.base, [], 0, []⟩).schedule 0 .bufferServiceResume {} }))) ∧
  (∀ b, k.sched.service = some b → k.tableUsed b.table = false → k.msc = [] → k.pins = [] →
    let e := k.entryAt b.table b.idx
    let at_ := b.table + 32 * b.idx
    let over_ (j : Pack) : State := { s with pk := (j.setBsstat 0).updSched (fun d => { d with service := none }) }
    let m := k.moveOn b (entryRange e 0 e.limit) (entryRange { e with cgb := b.newcgb, base := b.newbase } 0 e.limit)
    (b.migrate = false → exec .bufferServiceResume s =
      .next (over_ (k.dpaWrite (at_ + 20) (leBytes 1 ((k.dpaRead (at_ + 20) 1).headD 0 &&& 0xFE).toNat)))) ∧
    (b.migrate = true → e.limit ≤ m.2.put → exec .bufferServiceResume s =
      .next (over_ ((m.1.dpaWrite at_ (leBytes 8 b.newbase)).dpaWrite (at_ + 22) (leBytes 1 b.newcgb)))) ∧
    (b.migrate = true → m.2.put < e.limit → exec .bufferServiceResume s = .next { s with
      pk := (m.1.updSched (fun d => { d with service := some m.2 })).scheduleCc 1 .bufferServiceResume {} }) ∧
    (b.migrate = false → k.mem.wf = true → (∀ g, (k.slot g).regions = []) → (∀ x, k.windowAt x = none) → b.table % 32 = 0 → at_ + 32 ≤ 2 ^ 31 →
      ∃ t, exec .bufferServiceResume s = .next t ∧ t.pk.entryAt b.table b.idx = { e with res := false } ∧ t.pk.ioRd 0x20810 = 0 ∧
        t.pk.sched.service = none ∧ t.ctx = s.ctx ∧ t.core = s.core ∧
        ∀ i, i ≠ b.idx → b.table + 32 * i + 32 ≤ 2 ^ 31 → t.pk.entryAt b.table i = k.entryAt b.table i)) ∧
  (∃ t, exec .enrgUpdate s = .next t ∧ s.ctx.csr.enrg.toNat ≤ t.ctx.csr.enrg.toNat ∧ t.ctx.regs = s.ctx.regs ∧
    ((∀ l ∈ k.sched.launches, l.imgs = []) → t.pk.mem = s.pk.mem)) ∧
  (a.n ≠ 1 → k.sched.claims = [] → k.heads (List.range 64) = (k, []) → (∀ l ∈ k.sched.launches, l.phase ≠ .saved) →
    exec .schedulingRound s = .next (s.updPk (fun k => k.takeRamps s.stepOf))) ∧
  (∀ p st, k.sched.ramps = [] → bits (k.ioRd 0x30008) 15 0 ≠ 0 →
    let go (r : Ramp) : Pack := (k.updSched (fun d => { d with starts := [], ends := [], ramps := [r] })).schedule r.dwell .rampDwell { n := p }
    (k.sched.ends = [p] → k.sched.starts = [] → k.takeRamps st = go ⟨p, true, st p, k.dwell 1⟩) ∧
    (k.sched.ends = [] → k.sched.starts = [p] → k.takeRamps st = go ⟨p, false, 7, k.dwell 1⟩) ∧
    (k.sched.ends = [p] → k.sched.starts = [p] → k.takeRamps st = k.updSched (fun d => { d with starts := [], ends := [] }))) ∧
  (∀ l, k.sched.launches = [l] → a.n = l.id →
    (l.seats = [] → exec .contextStart s = .next s) ∧
    (∀ t, l.seats = [t] → ∃ u, exec .contextStart s = .next u ∧ u.pk.mem = s.pk.mem ∧
      (s.ctx.mode = .starting → s.ctx.num ∈ t.ctxs → u.ctx.mode = .run) ∧ (s.ctx.num ∉ t.ctxs → u.ctx = s.ctx)) ∧
    (k.wsLoadHeld l = false →
      let j := if k.isRemote l.src.via then k else k.settle l.src.via l.src.pieces
      ∃ u, exec .wsLoadDone s = .next u ∧ u.pk.sched.launches = [] ∧ u.ctx = s.ctx ∧
        u.pk.mem.ws = (k.mem.write .ws (bits (wordAt l.record 10) 29 0) (j.sourceBytes l.src)).ws) ∧
    (a.k ≠ 1 → l.phase = .running → (s.boxes.all (fun b => b.a.over l.id && b.b.over l.id)) = true → l.seats = [] → k.drained l = true →
      ∃ u, exec .launchRetire s = .next u ∧ u.pk.sched.launches = [] ∧ u.ctx = s.ctx) ∧
    (l.slots = [] → l.imgs = [] → exec .contextRestore s = .next (s.updPk (fun k => (k.updLaunch l.id (fun l => { l with
      phase := .running, slots := [], imgs := [], marks := [] })).schedule 0 .launchRetire { n := l.id })))) ∧
  (a.k = 1 → exec .launchRetire s = .next (s.updPk (fun k => k.finishRecord a.n a.m a.v a.bytes true))) ∧
  (∀ l t, k.sched.launches = [l] → l.phase = .saving → l.seats = [t] → a.n ∈ t.ctxs → a.m = 1 →
    ∃ u, exec .contextSaveDone s = .next u ∧ u = s.finishSave l t ∧
      (s.ctx.num ∈ t.ctxs → s.ctx.launch = l.id → u.ctx = Ctx.idle s.ctx.num) ∧ (s.ctx.num ∉ t.ctxs → u.ctx = s.ctx) ∧
      ∃ x, u.pk.sched.launches = [x] ∧ x.id = l.id ∧ x.phase = .saved ∧ x.seats = [] ∧ x.slots = l.slots ∧ x.age = 0 ∧
        x.imgs = l.imgs ++ (s.slotImage l t k.freeCtr).2.map (fun y => (t.lcl, y.1, y.2))) ∧
  (∀ l z, k.sched.launches = [l] → k.sched.frozen = [z] → z.stream = a.n → z.launch = l.id → z.ctx = s.ctx.num → s.ctx.launch = l.id → (∃ c, s.ctx.mode = .frozen c) → ∃ u, exec .contextRelease s = .next u ∧
      u.ctx = { s.ctx with mode := .exited } ∧ u.pk.sched.frozen = [] ∧ ∃ x, u.pk.sched.launches = [x] ∧ x.status = 2 ∧ x.id = l.id)) ∧
  (∀ (s : State),
  let k := s.pk
  let a := k.arg
  let ls := k.sched.launches
  let round : Prop := a.n ≠ 1 ∧ k.sched.claims = [] ∧ k.svc.moving = false
  let period := max 1 (bits (k.ioRd 0x20000) 15 0)
  (∀ cs, (sortCand cs).Perm cs ∧ (sortCand cs).Pairwise (fun x y => y.prio < x.prio ∨
    (x.prio = y.prio ∧ (x.time < y.time ∨ (x.time = y.time ∧ x.stream ≤ y.stream))))) ∧
  (∀ vs, (sortVictims vs).Perm vs ∧ (sortVictims vs).Pairwise (fun x y => x.prio < y.prio ∨ (x.prio = y.prio ∧ y.admitted ≤ x.admitted))) ∧
  (∀ closed ko p x,
    let free (y : Nat) : Prop := seatTaken ls closed p y = false
    k.sideOn ls closed ko p = some x ↔
      (koAff ko = 0 ∨ koAff ko = p / 16 + 1) ∧ (k.reduced = true → p % 16 = 0) ∧
      ((koWs ko).1 < (koWs ko).2 → wsLoading ls (p / 16) (koWs ko) = false) ∧
      (if koTwo ko then x = 2 ∧ free 0 ∧ free 1
       else koBgm ko &&& bgmOn ls p = 0 ∧ ((x = 0 ∧ free 0) ∨ (x = 1 ∧ ¬ free 0 ∧ free 1)))) ∧
  (∀ closed ko,
    let fits (p : Nat) : Bool := (k.sideOn ls closed ko p).isSome
    (k.placement ls closed ko = none ↔ ((List.range 32).filter fits).length < koNcl ko) ∧
    (∀ seats, k.placement ls closed ko = some seats → seats.map Seat.lcl = List.range (koNcl ko) ∧
      seats.map Seat.pcl = ((List.range 32).filter fits).take (koNcl ko) ∧
      ∀ t ∈ seats, k.sideOn ls closed ko t.pcl = some t.side ∧ t.ended = [])) ∧
  (∀ (c : Cand) ko roles seats, round → ls = [] → k.heads (List.range 64) = (k, [c]) → c.launch = 0 → c.work = .kernel ko roles →
    k.placement ls k.closed ko = some seats → k.csHead c.stream + 1 < 2 ^ 64 →
    let u := s.admitKernel c ko roles seats
    let l : Launch := { id := k.sched.nextId, stream := c.stream, j := k.csHead c.stream + 1, record := c.record,
                        owner := BitVec.ofNat 16 (bits (k.csCtl c.stream) 15 0), kobj := ko, roles := roles, seats := seats,
                        prio := c.prio, appended := c.time, admitted := k.sched.nextId }
    exec .schedulingRound s = .next (u.updPk (fun k => k.takeRamps u.stepOf)) ∧
    u.pk.sched.launches = [l] ∧ u.pk.csHead c.stream = k.csHead c.stream + 1 ∧
    (roles.any roleAct = true → ∃ d ∈ u.pk.agenda, d.ev = .contextStart ∧ d.arg.n = l.id ∧ d.at_ = k.tick + 512 * k.period) ∧
    (∀ t, seats = [t] → ∀ i < 8, ∀ r ∈ t.roles, s.ctx.num = t.ctxNum i r →
      u.ctx = if roleAct (l.role t.lcl i r) then l.newContext t i r else Ctx.idle s.ctx.num) ∧
    (k.mem.wf = true → ∀ t ∈ seats, ∀ g < 16, (koBgm ko).testBit g = true → ∀ x < 2 ^ 18,
      u.pk.mem.read ⟨.spad, t.pcl * 2 ^ 22 + g * 2 ^ 18 + x, 1⟩ = [0])) ∧
  (∀ (l : Launch) (t : Seat) i r,
    let c := l.newContext t i r
    c.mode = .starting ∧ c.pc = BitVec.ofNat 48 (bits (wordAt l.kobj 1) 47 0 + bits (l.role t.lcl i r) 31 0) ∧ c.launch = l.id ∧
    (∀ j, 1 ≤ j → j ≤ 8 → c.regs.rs j = wordAt l.record (j + 7)) ∧ c.regs.rs 9 = BitVec.ofNat 64 t.lcl ∧ c.regs.rs 10 = BitVec.ofNat 64 (2 * i + r) ∧
    (∀ j, 11 ≤ j → j < 32 → c.regs.rs j = 0) ∧ c.csr.srseed = wordAt l.record 4 ∧ c.csr.npdef = BitVec.ofNat 64 (recNp l.record) ∧
    c.csr.btab = wordAt l.record 1 ∧ c.csr.ownid = l.owner.zeroExtend 64 ∧ c.csr.lease = BitVec.ofNat 64 (bits (l.role t.lcl i r) 63 48) ∧
    c.csr.issctl = (if koDet l.kobj then 1 else 0) ∧ c.regs.v = Regs.zero.v ∧ c.regs.a = Regs.zero.a ∧ c.regs.d = Regs.zero.d) ∧
  (∀ (c : Cand) ko roles v seats, round → ls = [v] → k.heads (List.range 64) = (k, [c]) → c.work = .kernel ko roles → v.phase = .running →
    v.prio < c.prio → v.seats ≠ [] → k.placement [v] [] ko = none → k.placement [] [] ko = some seats → v.seats.length ≤ k.freeSlots.length →
    ∃ t, s.preempt c = some t ∧
      exec .schedulingRound s = .next (t.updPk (fun j => (j.ageOne period k.csHead c).takeRamps t.stepOf)) ∧
      t.pk.sched.claims = [⟨c.stream, c.launch, seats, [v.id]⟩] ∧
      t.pk.sched.launches = [{ v with phase := .saving, slots := (v.seats.map Seat.lcl).zip k.freeSlots }] ∧
      (∀ x, v.seats = [x] → s.ctx.launch = v.id → s.ctx.num ∈ x.ctxs →
        t.ctx = { s.ctx with yield_ := some (s.ageOf s.ctx.num + bits (k.ioRd 0x20008) 31 0) }) ∧ (s.ctx.launch ≠ v.id → t.ctx = s.ctx)) ∧
  (∀ (c : Cand), round → k.heads (List.range 64) = (k, [c]) → (∀ l ∈ ls, l.phase ≠ .saved) → s.place c = none → s.preempt c = none →
    exec .schedulingRound s = .next (s.updPk (fun j => (j.ageOne period k.csHead c).takeRamps s.stepOf))) ∧
  (∀ all c cs, k.sched.claims = [] → s.place c = none → s.preempt c = none → s.walk all (c :: cs) = s) ∧
  (∀ (c : Cand), c.launch = 0 → c.stream < 64 →
    let y := k.stream c.stream
    (k.ageOne period k.csHead c).stream c.stream = if y.age + 1 < period then { y with age := y.age + 1 }
      else { y with age := 0, lift := if c.prio < 3 then y.lift + 1 else y.lift }) ∧
  (∀ (c : Cand) ko roles l seats, ls = [l] → c.launch = l.id → l.id ≠ 0 → c.work = .kernel ko roles → k.placement ls k.closed ko = some seats →
    ∃ t, s.place c = some t ∧ t.pk.sched.launches = [{ l with seats := seats, phase := .restoring }] ∧
      (∃ d ∈ t.pk.agenda, d.ev = .contextRestore ∧ d.arg.n = l.id) ∧ t.ctx = s.ctx ∧ t.pk.mem = k.mem) ∧
  (∀ l slot (t : Seat) r (c : Ctx), ls = [l] → a.n = l.id → l.slots = [(t.lcl, slot)] → l.seats = [t] → l.imgs = [(t.lcl, r, c)] → l.marks = [] →
    k.ops = [] → k.board = [] → k.msc = [] → c.mode = .saving → t.ctxNum (r / 2) (r % 2) = s.ctx.num → t.pcl < 32 → k.mem.wf = true →
    let base := k.slotBase slot
    let at_ := k.dpaWord (base + 0x80 + 8 * r)
    let img := base + 64 * bits at_ 63 32
    k.dpaBad base 0x100 ++ k.dpaBad img (64 * bits at_ 31 0) = [] →
    let x := c.loadCsrs (fun i => k.dpaWord (img + 0x400 + 8 * i))
    ∃ u, exec .contextRestore s = .next u ∧
      u.ctx = { x with
        num := s.ctx.num, mode := .waiting, notBefore := ((s.getCore (s.ctx.num / 2)).map Core.cyc).getD 0 + c.notBefore, yield_ := none
        live := none, drainAt := none, framed := x.csr.det
        csr := { x.csr with place := placeWord (koBgm l.kobj) t.lcl t.pcl (r / 2) (r % 2) (if t.side = 2 then r % 2 else t.side) } } ∧
      u.pk.sched.launches = [{ l with phase := .running, slots := [], imgs := [], marks := [] }] ∧
      (∀ y, k.slotRanges slot = [y] → y.1 + y.2.1 ≤ 2 ^ 22 →
        u.pk.mem.read ⟨.spad, t.pcl * 2 ^ 22 + y.1, y.2.1⟩ = k.dpaRead y.2.2 y.2.1)))

/-- O57. R11, R353–R359, R455, R502–R510: pin windows, shares, plain registers, firmware, attestation, fatal error, reset. How
long a pin load, a firmware load and a report take is the model's choice (log 5), as is what storage holds after a reset (log
2); SHA3-512 and ML-DSA are functions left open (log 13), and what a budget period draws anew are free values (log 7). -/
def Obligations.HostAndServiceSteps : Prop := ∀ (s : State),
  let k := s.pk
  let a := k.arg
  let off := pinOff a.n a.m 8
  let v := a.v &&& 0x80FF_FFFF_00FF_FFFF
  let dpa := bits (k.ioRd (pinOff a.n a.m 0)) 47 0
  let w := k.pin a.n a.m
  ((k.ioRd off).getLsbD 63 = true → exec .pinEnable s = .next s) ∧
  ((k.ioRd off).getLsbD 63 = false →
    (v.getLsbD 63 = false → exec .pinEnable s = .next (s.updPk (fun k => k.ioWr off v))) ∧
    (v.getLsbD 63 = true → k.pinBad a.n dpa (bits v 23 0) = none →
      exec .pinEnable s = .next (s.updPk (fun k => ((k.ioWr off v).setPin { w with
        status := 1, fcnt := bits v 55 32, lines := pinLines dpa (bits v 23 0), gen := w.gen + 1 }).scheduleCc (150 + bits v 23 0) .pinLoadDone
        { n := a.n, m := a.m, k := w.gen + 1 }))) ∧
    (∀ c, v.getLsbD 63 = true → k.pinBad a.n dpa (bits v 23 0) = some c → exec .pinEnable s =
      .next (s.updPk (fun k => (k.ioWr off (setBits v 63 63 0)).setPin { w with status := c, fcnt := 0, lines := [] })))) ∧
  (w.status = 1 → w.gen = a.k → (∀ l ∈ w.lines, k.absent l = false) → ∃ t, exec .pinLoadDone s = .next t ∧
    t.pk.pin a.n a.m = { w with status := 2 } ∧ (∀ l ∈ w.lines, (t.pk.mscLine l).any MscLine.pinned = true) ∧ t.ctx = s.ctx ∧ t.pk.mem = k.mem ∧
    (w.fcnt ≠ 0 → ∃ d ∈ t.pk.agenda, d.ev = .pinFade ∧ d.at_ = k.tick + 2000)) ∧
  ((w.status = 1 ∨ w.status = 2) → exec .pinRelease s = .next (s.updPk (fun k => k.releasePin w 0))) ∧
  (w.status = 2 → w.gen = a.k → (w.fcnt = 1 → exec .pinFade s = .next (s.updPk (fun k => k.releasePin w 3))) ∧
    (1 < w.fcnt → exec .pinFade s = .next (s.updPk (fun k => (k.setPin { w with fcnt := w.fcnt - 1 }).schedule 2000 .pinFade { n := w.die, m := w.win, k := w.gen })))) ∧
  (∃ t, exec .budgetPeriod s = .next t ∧ t.ctx = s.ctx ∧ t.core = s.core ∧ t.pk.freeCtr = k.freeCtr + 256 ∧ t.pk.usage = [] ∧ t.pk.mem = k.mem) ∧
  (a.n = 0x50000 → a.v.getLsbD 63 = false →
    let f := [bits a.v 55 48, bits a.v 47 40, bits a.v 39 32, bits (k.ioRd a.n) 31 24, bits a.v 23 16, bits a.v 15 8, bits a.v 7 0]
    (f.sum ≤ 256 → exec .absh s = .next (s.updPk (fun k => k.ioWr a.n (setBits (a.v &&& 0x00FF_FFFF_FFFF_FFFF) 31 24 (bits (k.ioRd a.n) 31 24))))) ∧
    (256 < f.sum → exec .absh s = .next (s.updPk (fun k => k.ioWr (a.n + 8) (setBits (k.ioRd (a.n + 8)) 63 63 1))))) ∧
  (a.n < 0x90000 → ¬ (0x71008 ≤ a.n ∧ a.n < 0x71038) → a.n ≠ 0x60800 → a.n ≠ 0x61800 → ∃ t, exec .registerWrite s = .next t ∧
    (∀ m, k.rwMask a.n = some m → t.pk.ioRd a.n = (k.ioRd a.n &&& ~~~m) ||| (a.v &&& m)) ∧
    (k.rwMask a.n = none → t.pk.ioRd a.n = k.ioRd a.n &&& ~~~(a.v &&& w1cMask a.n)) ∧
    (∀ x, x ≠ a.n → t.pk.ioRd x = k.ioRd x) ∧ t.ctx = s.ctx ∧ t.core = s.core ∧ t.pk.mem = k.mem ∧ t.pk.sched = k.sched) ∧
  (∀ m, (a.n, m) ∈ [(0x20000, 0xFFFF), (0x20008, 0xFFFF_FFFF), (0x20010, 0xFFFF_FFFF), (0x20018, 0x00FF_FFFF_FFFF_FFFF), (0x20020, BitVec.allOnes 64),
      (0x30000, 0xF), (0x30008, 0xFFFF), (0x72000, 0xFFFF_FFFF), (0x73008, BitVec.allOnes 64), (0x73020, 0xFFFF_FFFF_FFFF), (0x73100, 0xFFFF_FFFF_FFFF),
      (0x73108, 0xFF), (0x81000, (0xFFFF_FFFF_FFFF : Word))] →
    ∃ t, exec .registerWrite s = .next t ∧ t.pk.ioRd a.n = (k.ioRd a.n &&& ~~~m) ||| (a.v &&& m)) ∧
  (∀ m, (a.n, m) ∈ [(0x50008, 0x8000_0000_0000_0000), (0x60808, 1), (0x62000, (1 : Word))] →
    ∃ t, exec .registerWrite s = .next t ∧ t.pk.ioRd a.n = k.ioRd a.n &&& ~~~(a.v &&& m)) ∧
  (a.n = 0x100110 + 0x400 * s.core.num → s.core.num < 256 → exec .registerWrite s = .next (s.updCore (fun c => { c with mergeage := a.v &&& 0xFF }))) ∧
  (a.n = 0x100118 + 0x400 * s.core.num → s.core.num < 256 → exec .registerWrite s = .next (s.updCore (fun c => { c with ddthr := a.v &&& 0x83FF }))) ∧
  (a.v.getLsbD 63 = true → k.fwst ≠ 1 → ∃ t, exec .firmwareLoad s = .next t ∧ t.pk.fwst = 1 ∧
    t.pk.svc.image = some (k.mem.read ⟨.host, (k.ioRd 0x73008).toNat, bits a.v 31 0⟩) ∧ t.pk.svc.inFull = k.full ∧ t.ctx = s.ctx ∧ t.pk.mem = k.mem) ∧
  (∀ img, k.svc.image = some img →
    let over_ (x : Nat) : State := s.updPk (fun k => { k.setFwst x with svc := { k.svc with image := none } })
    let f (o n : Nat) : Nat := leNat ((img.drop o).take n)
    let shaped : Prop := img.length = 0x100 + f 8 8 + 4627 ∧ f 0 4 = 0x5F1AE7C3 ∧ f 6 2 = 0 ∧ f 0x10 0xF0 = 0
    let d := Config.sha3_512 (img.take (0x100 + f 8 8))
    let signed := Config.mldsaVerify Config.romKey (leBytes 64 d.toNat) (img.drop (0x100 + f 8 8))
    (a.k = 1 → exec .firmwareVerifyDone s = .next (over_ 6)) ∧
    (a.k ≠ 1 → ¬ shaped → exec .firmwareVerifyDone s = .next (over_ 3)) ∧
    (a.k ≠ 1 → shaped → signed = false → exec .firmwareVerifyDone s = .next (over_ 4)) ∧
    (a.k ≠ 1 → shaped → signed = true → f 4 2 < bits (k.ioRd 0x73000) 31 16 → exec .firmwareVerifyDone s = .next (over_ 5)) ∧
    (a.k ≠ 1 → shaped → signed = true → bits (k.ioRd 0x73000) 31 16 ≤ f 4 2 → ∃ t, exec .firmwareVerifyDone s = .next t ∧ t.pk.fwst = 2 ∧
      t.pk.svc.image = none ∧ t.ctx = s.ctx ∧ t.pk.mem = k.mem ∧
      (k.svc.inFull = false → bits (t.pk.ioRd 0x73000) 15 0 = f 4 2 ∧ t.pk.svc.digest = d ∧ t.pk.svc.next = k.svc.next) ∧
      (k.svc.inFull = true → bits (t.pk.ioRd 0x73000) 15 0 = bits (k.ioRd 0x73000) 15 0 ∧ t.pk.svc.digest = k.svc.digest ∧
        t.pk.svc.next = some (f 4 2, d)))) ∧
  (k.reduced = true → bits (k.ioRd 0x73000) 15 0 ≠ 0 → k.sched.launches = [] → ∃ t, exec .fullServiceEntry s = .next t ∧
    t.pk.period = 1 ∧ t.pk.fab.live = BitVec.allOnes 18 ∧ t.pk.svc.moving = false ∧ t.pk.full = true) ∧
  (k.reduced = true → bits (k.ioRd 0x73000) 15 0 ≠ 0 → k.sched.launches ≠ [] → ∃ t, exec .fullServiceEntry s = .next t ∧
    t.pk.period = k.period ∧ t.pk.svc.moving = true ∧ t.pk.reduced = true) ∧
  (a.v.getLsbD 63 = true → (k.ioRd 0x73028).getLsbD 62 = false →
    (bits (k.ioRd 0x73000) 15 0 = 0 → exec .attestationRequest s = .next (s.updPk (fun k => k.setAtcmd false 1))) ∧
    (bits (k.ioRd 0x73000) 15 0 ≠ 0 → (2 ≤ bits (k.ioRd 0x73020) 47 40 ∨ (k.ioRd 0x73020).getLsbD 39 = true) →
      exec .attestationRequest s = .next (s.updPk (fun k => k.setAtcmd false 2))) ∧
    (bits (k.ioRd 0x73000) 15 0 ≠ 0 → bits (k.ioRd 0x73020) 47 40 < 2 → (k.ioRd 0x73020).getLsbD 39 = false →
      exec .attestationRequest s = .next (s.updPk (fun k => (k.setAtcmd true 0).schedule 2000 .attestationDone {})))) ∧
  ((k.ioRd 0x73028).getLsbD 62 = true → ∃ t, exec .attestationDone s = .next t ∧ (t.pk.ioRd 0x73028) = 0 ∧ t.ctx = s.ctx) ∧
  (∃ t, exec .fatalError s = .next t ∧ t.pk.svc.fatal = true ∧ bits (t.pk.ioRd 0x73000) 63 60 = 3 ∧ t.pk.fab.live = 0 ∧ t.ctx = s.ctx) ∧
  (∃ t, exec .partReset s = .next t ∧ t.ctx = State.reset.ctx ∧ t.sib = State.reset.sib ∧ t.core = State.reset.core ∧
    t.todo = State.reset.todo ∧ t.past = [] ∧ t.pk.mem = k.mem ∧ t.pk.ops = [] ∧ t.pk.tls = [] ∧ t.pk.svc.fatal = false ∧
    (∀ g, t.pk.slot g = { owed := (k.slot g).owed }) ∧ (k.svc.next = none → t.pk.io = []) ∧
    (∀ ver d, k.svc.next = some (ver, d) → t.pk.svc.digest = d ∧ t.pk.ioRd 0x73000 = BitVec.ofNat 64 (0x1200_0000_0001_0000 + ver)))

/-- O58. R363–R393: steps of a channel of the near-bank units. That an EMPTY channel has no owner is the model's reading (log
60), and how long parking takes its choice (log 5). -/
def Obligations.GougeSteps : Prop := ∀ (s : State),
  let k := s.pk
  let a := k.arg
  let h := a.n
  let c := k.chan h
  let chan (f : Channel → Channel) : State := s.updPk (fun k => k.setChan h f)
  let go (o : Op) : Prop := s.findOp a.n = some o ∧ o.begun = true ∧ s.olderBlocks o = false ∧ k.opHeld o = false ∧ o.due ≤ s.ageOf o.ctx ∧
    k.portHeld o = false
  (∀ o cmd g img w, go o → o.kind = .gouge cmd g img w → (k.chan g).asleep = false →
    (∀ x, (k.chan g).refuses cmd o.owner = some x →
      (cmd = 0 → exec .gttLoad s = .next (s.gougeFail o g x)) ∧ (cmd = 1 → exec .ggoArm s = .next (s.gougeFail o g x)) ∧
      (cmd = 2 → exec .saveModeEntry s = .next (s.gougeFail o g x)) ∧ (cmd = 3 → exec .gougeRestore s = .next (s.gougeFail o g x))) ∧
    (cmd = 0 → (k.chan g).refuses 0 o.owner = none → k.unitsBusy g = false →
      (k.handleBad o.btab o.owner.toNat (hIdx img) (hOff img) 1088 rRD false).isSome = true →
      exec .gttLoad s = .next (s.gougeFail o g 3)) ∧
    (cmd = 1 → (k.chan g).state = .loaded → (k.chan g).owner = o.owner → exec .ggoArm s = .next (s.arm o g w)) ∧
    (cmd = 2 → (k.chan g).state = .loaded → k.unitsBusy g = false → ∃ t, exec .saveModeEntry s = .next t ∧
      (t.pk.chan g).state = .save ∧ (t.pk.chan g).saved = .loaded ∧ (t.pk.chan g).window.length = 16) ∧
    (cmd = 3 → (k.chan g).state = .save → (k.chan g).owner = o.owner → (k.chan g).restoreBad = true →
      exec .gougeRestore s = .next (s.gougeFail o g 9)) ∧
    (cmd = 3 → (k.chan g).state = .save → (k.chan g).owner = o.owner → (k.chan g).restoreBad = false →
      let r := (k.chan g).area 0
      let st := areaNat r 2176 8
      ∃ t, exec .gougeRestore s = .next t ∧ t.ctx = s.ctx ∧
        let d := t.pk.chan g
        d.window = [] ∧ d.part = false ∧ d.periods = areaNat r 2192 8 % 2 ^ 32 ∧ d.owner = (k.chan g).owner ∧ d.entries = (k.chan g).entries ∧
        d.units.map GUnit.desc = (k.chan g).units.map GUnit.desc ∧ d.units.map GUnit.die = (k.chan g).units.map GUnit.die ∧
        (∀ u ∈ d.units, u.ctr = (List.range 5).map (fun i => areaNat ((k.chan g).area u.die) (2112 + 2 * i) 2) ∧
          u.acc = (List.range 16).map (fun b => lanesOf ((((k.chan g).area u.die).drop (128 * b)).take 128))) ∧
        (st = 1 → d.state = .loaded ∧ d.flagBits = areaNat r 2200 8 % 32) ∧ (st = 4 → d.state = .done ∧ d.flagBits = areaNat r 2200 8 % 32) ∧
        (st = 2 ∨ st = 3 → d.state = .armed ∧ d.seq = o.seq ∧ d.start = max ((8 * w.toNat + 4) / 5) k.chNext ∧
          d.flagBits % 16 = areaNat r 2200 8 % 16))) ∧
  (∀ o g img w, go o → o.kind = .gouge 0 g img w → (k.chan g).asleep = false → (k.chan g).refuses 0 o.owner = none → k.unitsBusy g = false →
    let e := k.entryAt (bits o.btab 47 0) (hIdx img)
    let r (x : Nat × Nat) : Range := entryRange e (hOff img + x.1) x.2
    let hd := k.sourceBytes (r (0, 8))
    let n := 0x440 + 8 * (bits (imgWord hd 0) 7 0 + 1)
    (∀ m, m = 1088 ∨ m = n → k.handleBad o.btab o.owner.toNat (hIdx img) (hOff img) m rRD false = none) →
    k.unreachable (r (0, 8)).via = false → k.rangeErrorAt (r (0, 64)) = none → (∀ x ∈ imgSpans hd, k.rangeErrorAt (r x) = none) →
    k.imageCause o.btab o.owner.toNat g (k.sourceBytes (r (0, n))) = none →
    ∃ t, exec .gttLoad s = .next t ∧ (t.pk.chan g).state = .loaded ∧ (t.pk.chan g).owner = o.owner ∧ (t.pk.chan g).flags = 0 ∧
      (t.pk.chan g).entries = imgEntries (k.sourceBytes (r (0, n))) ∧ t.pk.mem.spad = k.mem.spad ∧ t.ctx = s.ctx) ∧
  (c.state = .armed → c.seq = a.k →
    (c.asleep = false → exec .timetableStart s = .next (s.updPk (fun k => k.beginRun h c.start))) ∧
    (c.asleep = true → exec .timetableStart s = .next (chan (fun c => { c with late_ := true })))) ∧
  (c.state = .running → c.seq = a.k → exec .timetableEntry s = .next (s.updPk (fun k => (k.setChan h (fun c => { c with
    entryFrom := c.entryEnd, entry := (c.entry + 1) % c.entries.length
    gtUsed := c.gtUsed + (if entKind c.entryWord = 0 then c.entryEnd - max c.entryFrom c.gtFrom else 0)
    rfUsed := c.rfUsed + (if entKind c.entryWord = 2 then c.entryEnd - max c.entryFrom c.gtFrom else 0) })).beginEntry h))) ∧
  (∀ u, c.state = .running → c.seq = a.k → c.units = [u] → u.die = a.m → u.busy = true → (k.rowPass h u).err.isSome = true ∨ u.next + u.passCost ≤ k.chCycle →
    ∃ t, exec .rowPass s = .next t ∧ t.ctx = s.ctx ∧ t.core = s.core ∧
      ((k.rowPass h u).err = none → (k.rowPass h u).u.fin = true → (t.pk.chan h).state = .done) ∧
      (∀ x, (k.rowPass h u).err = some x → (t.pk.chan h).state = .error ∧ (t.pk.chan h).cause = 0xA)) ∧
  (c.state = .empty → c.pst ≠ 1 → c.parking = false → a.v.getLsbD 9 = false →
    exec .selfRefreshRequest s = .next (s.updPk (fun k => ((k.setChan h (fun c => { c with req := 1 })).closeRows h).setChan h (fun c => { c with pst := 1 })))) ∧
  (c.state ≠ .empty → c.pst ≠ 1 → c.parking = false → a.v.getLsbD 9 = false → k.unitsBusy h = false → ∃ t, exec .selfRefreshRequest s = .next t ∧
    (t.pk.chan h).parking = true ∧ (t.pk.chan h).pst = 0 ∧ (t.pk.chan h).req = 1 ∧ (t.pk.chan h).state = c.state ∧ t.pk.mem = k.mem ∧
    ∃ d ∈ t.pk.agenda, d.ev = .parkDone ∧ d.arg.n = h) ∧
  (c.state = .empty → c.parked = false → a.v.getLsbD 9 = false → ∃ t, exec .powerDownRequest s = .next t ∧ (t.pk.chan h).pst = 2 ∧
    (t.pk.chan h).req = 2 ∧ (t.pk.chan h).state = .empty ∧ t.pk.mem = k.mem) ∧
  (c.state = .running → c.parked = false → a.v.getLsbD 9 = false → ∃ t, exec .powerDownRequest s = .next t ∧ (t.pk.chan h).pst = 0 ∧
    (t.pk.chan h).pdref = true) ∧
  (c.state = .empty → c.parked = false → a.v.getLsbD 9 = false → ∃ t, exec .activeRequest s = .next t ∧ (t.pk.chan h).pst = 0 ∧
    (t.pk.chan h).req = bits a.v 1 0 ∧ t.pk.mem = k.mem) ∧
  (c.parking = true → k.unitsBusy h = false → ∃ t, exec .parkDone s = .next t ∧ (t.pk.chan h).parked = true ∧ (t.pk.chan h).pst = 1 ∧
    (t.pk.chan h).parking = false ∧ t.ctx = s.ctx)

/-- O59. R419–R444: steps of the fabric. Which sectors a failed collective, or one whose source meets its destination, leaves
new is free (log 51), and so is what another device holds (log 15). -/
def Obligations.FabricSteps : Prop := ∀ (s : State),
  let k := s.pk
  let a := k.arg
  let fab (f : Fabric → Fabric) : State := s.updPk (fun k => { k with fab := f k.fab })
  let go (o : Op) : Prop := s.findOp a.n = some o ∧ o.begun = true ∧ s.olderBlocks o = false ∧ k.opHeld o = false ∧ o.due ≤ s.ageOf o.ctx ∧
    k.portHeld o = false
  (a.k ≠ 0xFF → k.isMember a.k = true → k.own ≠ 0xFF → (k.answerFor a.n a.m).1 ≠ 0 → exec .remoteQuery s =
    .next (s.updPk (fun k => k.send (.answer a.k a.n a.m (k.answerFor a.n a.m).1 (k.answerFor a.n a.m).2)))) ∧
  (a.k ≠ 0xFF → k.isMember a.k = false → exec .remoteQuery s = .next (s.updPk (fun k => k.send (.failed a.k)))) ∧
  (∀ q, k.fab.queries = [q] → q.sent = false → q.id = a.n → exec .queryHoldExpiry s =
    .next (s.updPk (fun k => { k with fab := { k.fab with queries := [] } }.send (.answer q.dev q.tl q.seq 0 0)))) ∧
  (∀ q, k.fab.queries = [q] → q.sent = true → q.dev = a.k → q.tl = a.n → q.seq = a.m →
    (bits a.v 63 62 = 0 → exec .queryAnswer s = .next (s.updPk (fun k => k.send (.query a.k a.n a.m)))) ∧
    (bits a.v 63 62 ≠ 0 → exec .queryAnswer s = .next (fab (fun f => { f with
      queries := [], answers := f.answers ++ [⟨q.who, a.k, a.n, a.m, bits a.v 63 62, bits a.v 61 0⟩] })))) ∧
  (k.own ≠ 0xFF → k.isMember k.own = true → k.fab.live ≠ 0 → exec .completionMark s =
    .next (s.updPk (fun k => (k.send (.mark k.markStamp)).schedule 512 .completionMark {}))) ∧
  (k.isMember a.n = true → a.n ≠ k.own → ∃ t, exec .markReceived s = .next t ∧ t.ctx = s.ctx ∧
    ∃ x xs, t.pk.fab.marks = (a.n, k.tick, x) :: xs ∧ a.m ≤ x ∧ ∀ y ∈ xs, y.1 ≠ a.n) ∧
  (a.k = 1 ∨ (∃ t x, k.fab.marks = [(a.n, t, x)] ∧ t + 20000 ≤ k.tick) → k.isMember a.n = true → k.devFailed a.n = false → k.ops = [] →
    (∀ g < 16, k.slotOn g = false) → ∃ t, exec .deviceFailed s = .next t ∧ t.pk.devFailed a.n = true ∧ t.ctx = s.ctx ∧ t.pk.mem = k.mem ∧
      t.pk.fab.queries = k.fab.queries.filter (fun q => !(q.sent && q.dev == a.n)) ∧
      t.pk.fab.sent = k.fab.sent ++ (if a.k = 1 then [] else
        (k.members.filter (fun m => m != k.own && m != a.n)).map (fun m => .report m a.n))) ∧
  (a.m = 1 → exec .flitRetry s = .next (fab (fun f => { f with retries := f.retries.filter (fun r => r.1 != a.n) }))) ∧
  (a.m ≠ 1 → k.fab.live.getLsbD a.n = true → countOf k.fab.retries a.n < 8 →
    exec .flitRetry s = .next (fab (fun f => { f with retries := bump f.retries a.n }))) ∧
  (a.m ≠ 1 → k.fab.live.getLsbD a.n = true → 8 ≤ countOf k.fab.retries a.n → k.ops = [] → ∃ t, exec .flitRetry s = .next t ∧
    t.pk.fab.live = k.fab.live &&& ~~~(1#18 <<< a.n) ∧ t.ctx = s.ctx ∧ t.pk.mem = k.mem) ∧
  (k.reduced = true → exec .domainJoin s = .next s) ∧
  (144 ≤ bits a.v 7 0 → bits a.v 7 0 ≤ 254 → exec .domainJoin s = .next s) ∧
  (k.reduced = false → (bits a.v 7 0 < 144 ∨ bits a.v 7 0 = 255) →
    let j := k.ioWr 0x71000 (BitVec.ofNat 64 (bits a.v 7 0))
    exec .domainJoin s = .next { s with pk := if j.inDomain = true ∧ k.inDomain = false then j.joinDomain a.m else j }) ∧
  (∀ t, k.tstamp ≤ t → (k.joinDomain t).tstamp = t ∧ (∀ d ∈ k.members, d ≠ k.own → (d, k.tick, 0) ∈ (k.joinDomain t).fab.marks) ∧
    ∃ e ∈ (k.joinDomain t).agenda, e.ev = .completionMark ∧ e.at_ = k.tick) ∧
  (a.n < 64 →
    let off := 0x70000 + 0x10 * a.n
    let cur := k.ioRd off
    let l := (k.dpaRead (bits (k.ioRd (off + 8)) 47 0) (bits a.v 55 48)).map BitVec.toNat
    let ok : Prop := 1 ≤ bits a.v 55 48 ∧ bits a.v 55 48 ≤ 144 ∧ bits a.v 47 40 < bits a.v 55 48 ∧ bits (k.ioRd (off + 8)) 47 40 = 0 ∧
      (l[bits a.v 47 40]?).getD 0xFF = k.own ∧ l.Nodup ∧ ∀ d ∈ l, k.isMember d = true
    (cur.getLsbD 63 = true → a.v.getLsbD 63 = true → exec .routeEnable s = .next (s.updPk (fun k => k.ioWr off (setBits cur 63 63 1)))) ∧
    (cur.getLsbD 63 = true → a.v.getLsbD 63 = false → exec .routeEnable s = .next (s.updPk (fun k => { k.ioWr off (setBits cur 63 63 0) with
      fab := { k.fab with counts := k.fab.counts.filter (fun c => c.1 % 64 != a.n), peers := k.fab.peers.filter (fun p => p.route != a.n) } }))) ∧
    (cur.getLsbD 63 = false → ∃ t, exec .routeEnable s = .next t ∧ t.ctx = s.ctx ∧ t.pk.mem = k.mem ∧ (∀ x, x ≠ off → t.pk.ioRd x = k.ioRd x) ∧
      bits (t.pk.ioRd off) 55 40 = bits a.v 55 40 ∧ t.pk.fab.peers = k.fab.peers ∧
      (a.v.getLsbD 63 = false → bits (t.pk.ioRd off) 63 62 = bits cur 62 62 ∧ t.pk.fab = k.fab) ∧
      (a.v.getLsbD 63 = true → (ok → bits (t.pk.ioRd off) 63 62 = 2 ∧ t.pk.fab.counts = k.fab.counts.filter (fun c => c.1 != a.n)) ∧
        (¬ ok → bits (t.pk.ioRd off) 63 62 = 1 ∧ t.pk.fab = k.fab)))) ∧
  (∀ o c src dst r ds, s.findOp a.n = some o → o.kind = .coll c src dst r ds →
    let apart : Prop := src.pieces.any (fun p => dst.pieces.any p.meets) = false
    (a.k = 2 → exec .collPerformed s = .next (s.failColl o)) ∧
    (a.k = 0 → go o → o.stage = 0 → (∀ d ∈ ds, d ≠ k.own → k.devFailed d = false ∧ k.fab.live ≠ 0) → (ds.length = 1 ∨ k.allReady o = true) →
      exec .collPerformed s = .next (s.collStart o)) ∧
    (∀ p, a.k = 1 → k.opHeld o = false → o.stage = 1 → collNorm c = false → o.fail = false → apart →
      k.piecesWrite (dst.as 6).via 0 dst.pieces (collResult o.npdef c r ds.length o.bytes a.bytes) = .ok p →
      exec .collPerformed s = .next ({ s with pk := (p.collNews o .part).collOver o }.finishOp o)) ∧
    (a.k = 1 → k.opHeld o = false → o.stage = 1 → collNorm c = true →
      let block := (collResult o.npdef c r ds.length o.bytes a.bytes).take (collChunk c)
      let own := normOf (collDt c) block
      exec .collPerformed s = .next ((s.setOp { o with bytes := block, stage := 2 + own }).updPk (fun k => k.collSend o true (fun _ => leBytes 4 own)))) ∧
    (∀ p, a.k = 6 → k.opHeld o = false → 2 ≤ o.stage → o.fail = false → apart →
      k.piecesWrite (dst.as 6).via 0 dst.pieces (o.bytes ++ reduceBlocks o.npdef 0 ((List.range ds.length).map (fun j =>
        if j = r then leBytes 4 (o.stage - 2) else (a.bytes.drop (4 * j)).take 4))) = .ok p →
      exec .collPerformed s = .next ({ s with pk := (p.collNews o .part).collOver o }.finishOp o)) ∧
    (∀ p, ds.length = 1 → (collOpc c = 3 → collRoot c = r) → apart → o.fail = false →
      let j := k.settle src.via src.pieces
      let bs := j.rangeBytes src.pieces
      let o' := { o with bytes := bs, stage := 1 }
      j.rangeError src.pieces = none →
      ((j.touchAll (src.as 6).via src.pieces false).collSend o' false (collBlock c bs)).piecesWrite (dst.as 6).via 0 dst.pieces
        (collResult o.npdef c r 1 bs []) = .ok p → s.collStart o = { s with pk := (p.collNews o' .part).collOver o' }.finishOp o') ∧
    ((∀ p ∈ src.pieces ++ dst.pieces, p.space ≠ .spad) →
      let u := s.failColl o
      let far := leBytes (ds.length * (collChunk c + 4)) (Config.freeBits (k.freeCtr + 1) 0)
      let w := k.someSectors dst.pieces (if 2 ≤ o.stage then o.bytes ++ far.take 4
        else collResult o.npdef c r ds.length (if o.stage = 0 then k.rangeBytes src.pieces else o.bytes) far)
      u.ctx = s.ctx ∧ (o.begun = false ∨ o.taken = true ∨ (k.rangeError src.pieces).isSome = true → u.pk.mem = k.mem) ∧
      (o.begun = true → o.taken = false → k.rangeError src.pieces = none →
        u.pk.mem = ({ k with freeCtr := k.freeCtr + 2 }.piecesWrite (dst.as 6).via 0 w.1 w.2).pack.mem))) ∧
  (∀ ps new, ∃ l : List (Piece × List Byte), l.Sublist ((splitPieces ps new).flatMap (fun x =>
      (sectors (x.1.len / 32 + 2) x.1.addr x.2).map (fun y => (({ x.1 with addr := y.1, len := y.2.length } : Piece), y.2)))) ∧
    k.someSectors ps new = (l.map Prod.fst, l.flatMap Prod.snd)) ∧
  ((a.k = 3 ∨ a.k = 4) →
    let dev := (a.bytes.headD 0xFF).toNat
    (k.fromRank (a.n % 64) a.m dev = false → exec .collPerformed s = .next (s.updPk (fun k => k.send (.failed dev)))) ∧
    (k.fromRank (a.n % 64) a.m dev = true → exec .collPerformed s =
      .next (if a.k = 3 then s.peerCommand (a.n % 64) a.m a.v else s.peerNews a))) ∧
  (∀ o c l t, go o → o.kind = .embr c l t → o.stage = 0 →
    (bits c 15 0 ≤ o.at_ → ∃ u, exec .embrEntry s = .next u ∧ u.pk.mem = k.mem ∧
      (u.pk.tl o.tl = if o.seq = 0 then k.tl o.tl else (k.completeOp o.tl o.seq).tl o.tl)) ∧
    (∀ lr src dst p, o.at_ < bits c 15 0 → o.bytes = [] →
      let j := (s.setOp { o with begun := true }).pk
      let j1 := j.embrRead lr
      let x := j1.sourceBytes src
      j.embrRanges { o with begun := true } c l t = (some lr, some src, some dst) →
      j.isRemote lr.via = false → j.isRemote src.via = false → j.isRemote dst.via = false →
      j.rangeErrorAt lr = none → j1.rangeErrorAt src = none →
      ((j1.embrRead src).settle { dst.via with ms := true } dst.pieces).rowAdd (dst.as 6).via dst.pieces x = .inl (.ok p) →
      ∃ u, exec .embrEntry s = .next u ∧ u.pk.mem = p.mem ∧ u.pk.tls = p.tls ∧ u.ctx = s.ctx)) ∧
  (∀ o c l t, go o → o.kind = .embr c l t → o.stage = 3 → o.at_ < bits c 15 0 → ∃ u, exec .embrEntry s = .next u ∧ u.pk.mem = k.mem ∧ u.ctx = s.ctx)

/-- O60. R446–R472: steps of a Veneer slot. What the messages of a resolve carry, that early reports are kept, that the fold
follows VGLCR and the end of a rebuild are the model's readings (log 42), and so is which coefficients the exchange compares
and whom a difference sends to OFF (log 66). -/
def Obligations.VeneerSteps : Prop := ∀ (s : State),
  let k := s.pk
  let a := k.arg
  let v := k.slot a.n
  let set (f : VSlot → VSlot) : State := s.updPk (fun k => k.setSlot a.n f)
  let rank := a.k - 1
  let n := k.vN a.n
  a.n < 16 →
  (k.slotOn a.n = false → a.v.getLsbD 63 = false →
    exec .veneerEnable s = .next (s.updPk (fun k => k.ioWr (0x80000 + 0x100 * a.n) (a.v &&& 0x00FF_F800_FFFF_FFFF)))) ∧
  (k.slotOn a.n = true → exec .veneerEnable s = .next s) ∧
  (k.slotOn a.n = false → a.v.getLsbD 63 = true →
    let j := k.ioWr (0x80000 + 0x100 * a.n) (a.v &&& 0x00FF_F800_FFFF_FFFF)
    let m := (List.range (j.vN a.n + 1)).map (j.memberEntry a.n)
    let rs := j.tableRegions a.n
    (∀ c, j.vEnableCause a.n m rs = some c → exec .veneerEnable s =
      .next { s with pk := j.setSlot a.n (fun x => { x with state := .off, cause := BitVec.ofNat 4 c }) }) ∧
    (j.vEnableCause a.n m rs = none → v.owed = [] → ∃ t, exec .veneerEnable s = .next t ∧ t.ctx = s.ctx ∧ t.pk.mem = k.mem ∧ t.pk.slotOn a.n = true ∧
      (t.pk.slot a.n).state = .join ∧ (t.pk.slot a.n).members = m ∧ (t.pk.slot a.n).regions = rs ∧ (t.pk.slot a.n).dead = 0 ∧
      (t.pk.slot a.n).vopen = v.vopen ∧ (t.pk.slot a.n).lcr = v.lcr ∧ (t.pk.slot a.n).base = (k.tl (2560 + a.n)).iss ∧
      (t.pk.slot a.n).sbnone = (((m[j.vN a.n]?).map Prod.fst).getD 0xFF == 0xFF) ∧
      ∀ e r, (e, r) ∈ m.zipIdx → e.1 ≠ 0xFF → e.1 ≠ k.own →
        .veneer a.n e.1 (.join (t.pk.joinShape a.n) (t.pk.joinRest a.n) true) ∈ t.pk.fab.sent)) ∧
  (k.slotOn a.n = true →
    let e := k.memberEntry a.n n
    let m := v.members.take n
    let bad2 : Prop := (k.vStandby a.n = true ∧ e.1 ≠ k.own) ∨ (e.1 ≠ 0xFF ∧ (k.isMember e.1 = false ∨ ∃ x ∈ m, x.1 = e.1))
    let bad3 : Prop := e.1 ≠ 0xFF ∧ ∃ x ∈ m, x.2.1 = e.2.1 ∨ x.2.2 = e.2.2
    let good : State := set (fun x => { x with members := m ++ [e], sbnone := e.1 == 0xFF })
    (bad2 → exec .standbyUpdate s = .next (set (fun x => { x with sbnone := true, cause := 2 }))) ∧
    (¬ bad2 → bad3 → exec .standbyUpdate s = .next (set (fun x => { x with sbnone := true, cause := 3 }))) ∧
    (¬ bad2 → ¬ bad3 → (e.1 = 0xFF ∨ k.vStandby a.n = true) → exec .standbyUpdate s = .next good) ∧
    (¬ bad2 → ¬ bad3 → e.1 ≠ 0xFF → k.vStandby a.n = false → v.state ≠ .rebuild → exec .standbyUpdate s =
      .next (good.updPk (fun k => k.sendJoin a.n n true)))) ∧
  (k.slotOn a.n = true → a.m ≠ 1 →
    ((v.state = .join ∨ v.state = .lost ∨ (v.state = .active ∧ v.sealed_ = [] ∧ v.owed = [])) → ∃ t, exec .veneerDissolve s = .next t ∧
      (t.pk.slot a.n).state = .off ∧ t.pk.slotOn a.n = false ∧ t.pk.mem = k.mem ∧ t.ctx = s.ctx) ∧
    (v.state = .active → (v.sealed_ ≠ [] ∨ v.owed ≠ []) → exec .veneerDissolve s = .next s)) ∧
  (k.slotOn a.n = true → a.m = 1 → exec .groupJoinDone s = .next (s.updPk (fun k => (k.slotOff a.n).setSlot a.n (fun x => { x with cause := 6 })))) ∧
  (k.slotOn a.n = true → a.m = 0 → a.k ≠ 0 → (k.tableOthers a.n).contains rank = true →
    let same : Prop := a.v &&& 0x00FF_0000_0000_FFFF = k.joinShape a.n ∧ a.bytes = k.joinRest a.n
    (same → v.state = .join → k.vStandby a.n = false → v.dead = 0 → (∀ i < n, i = rank ∨ v.joined.contains i = true) → ∃ t, exec .groupJoinDone s = .next t ∧
      (t.pk.slot a.n).state = .active ∧ (t.pk.slot a.n).vopen = 1 ∧ (t.pk.slot a.n).lcr = 0 ∧ (t.pk.slot a.n).dlog = [] ∧ t.ctx = s.ctx) ∧
    (same → v.state = .join → (k.vStandby a.n = true ∨ ∃ i < n, i ≠ rank ∧ v.joined.contains i = false) → exec .groupJoinDone s =
      .next (set (fun x => { x with joined := rank :: x.joined.filter (· != rank) }))) ∧
    (same → v.state = .degraded → rank = n → k.isCrd a.n = true → v.dead ≠ 0 → v.sbnone = false →
      exec .groupJoinDone s = .next (s.updPk (fun k => k.decide_ a.n))) ∧
    (¬ same → ∃ t, exec .groupJoinDone s = .next t ∧ (t.pk.slot a.n).state = .off ∧ (t.pk.slot a.n).cause = 6 ∧ t.pk.slotOn a.n = false ∧
      t.pk.mem = k.mem ∧ t.ctx = s.ctx ∧
      ∀ r ∈ k.tableOthers a.n, .veneer a.n (((v.members[r]?).map Prod.fst).getD 0xFF) .mismatch ∈ t.pk.fab.sent)) ∧
  ((v.state = .active ∨ v.state = .resolve) → a.k ≠ 0 → v.nextCommit ≤ a.m → v.slog = [] → v.owed = [] → 0 < k.logCap a.n 0x28 →
    (let off := a.v.toNat / 32 * 32; let ch := cellCh (k.parityCell a.n off)
     k.rawHeld (k.logCell a.n 0x28 { ch := ch, pos := countOf v.scount ch, off := off, round := a.m, delta := [] }) = false) →
    ∃ t, exec .stagingDelta s = .next t ∧
    (∃ e, (t.pk.slot a.n).slog = [e] ∧ e.round = a.m ∧ e.off = a.v.toNat / 32 * 32 ∧ e.applied = false) ∧
    (∃ xs, t.pk.fab.sent = xs ++ [.veneer a.n (((v.members[rank]?).map Prod.fst).getD 0xFF) (.ack (a.v.toNat / 32 * 32) a.m)])) ∧
  (v.state ≠ .active → exec .deltaAcknowledgement s = .next (set (fun x => { x with unacked := x.unacked.erase (a.m, a.v.toNat) }))) ∧
  (a.k ≠ 0 → k.isCrd a.n = false → exec .prepared s = .next (set (fun x => { x with prepared := x.prepared ++ [(rank, a.m)] })) ∧
    exec .committed s = .next (set (fun x => { x with committed := x.committed ++ [(rank, a.m)] })) ∧
    (v.dead = BitVec.ofNat 20 (leNat a.bytes) → exec .rolledback s = .next (set (fun x => { x with rolled := rank :: x.rolled })))) ∧
  (a.k ≠ 0 → k.isCrd a.n = true → v.state = .rollback → v.dead = BitVec.ofNat 20 (leNat a.bytes) →
    (∀ r ∈ k.vLive a.n, r = rank ∨ v.rolled.contains r = true) →
    exec .rolledback s = .next ((set (fun x => { x with rolled := rank :: x.rolled })).updPk (fun k => k.decide_ a.n))) ∧
  ((v.state = .active ∨ v.state = .resolve) → v.sentPrep.contains a.m = true → a.m = v.nextCommit →
    exec .commit s = .next (s.updPk (fun k => k.commitRound a.n a.m))) ∧
  (∀ m, (v.state = .active ∨ v.state = .resolve) → v.slog = [] → v.owed = [] → (k.commitRound a.n m).slot a.n =
    { v with lcr := m, dlog := v.dlog.filter (fun e => e.round != m), sealed_ := v.sealed_.filter (· != m), owes := false
             sentPrep := v.sentPrep.filter (· != m)
             held := v.held.filter (fun x => decide (k.logCap a.n 0x20 ≤
               ((v.dlog.filter (fun e => e.round != m)).filter (fun e => e.ch == cellCh x)).length))
             committed := if k.isCrd a.n then v.committed ++ [(k.vRank a.n, m)] else v.committed }) ∧
  (k.slotOn a.n = true → a.k ≠ 0 →
    let dead := BitVec.ofNat 20 (leNat a.bytes)
    let kept : State := set (fun x => { x with
      report := (rank, a.m, a.v.toNat, dead) :: x.report.filter (fun r => !(r.1 == rank && r.2.2.2 == dead)) })
    (v.state = .resolve → v.dead = dead → k.isCrd a.n = false → rank = v.crd → exec .resolveVglcrReport s =
      .next (s.updPk (fun k => k.applyLevel a.n a.m a.v.toNat))) ∧
    (v.state ≠ .resolve → v.state ≠ .lost → exec .resolveVglcrReport s = .next kept) ∧
    (v.state = .resolve → k.isCrd a.n = true → exec .resolveVglcrReport s = .next (kept.updPk (fun k => k.checkReports a.n)))) ∧
  (∀ L hi, k.isCrd a.n = false → v.state = .resolve →
    let u := (k.applyLevel a.n L hi).slot a.n
    u.state = .rollback ∧ u.level = L ∧ u.opened = max hi v.vopen ∧ u.sealed_ = [] ∧ u.sentPrep = [] ∧ u.unacked = [] ∧ u.prepared = [] ∧
    (∀ e ∈ u.dlog, e.round ≤ L) ∧ ∀ e ∈ u.slog, e.round ≤ L) ∧
  (k.vStandby a.n = false →
    ((v.state = .rollback ∨ (v.state = .degraded ∧ v.dead ≠ 0)) →
      (a.m = 0 → exec .resolveDecision s = .next (set (fun x => { x with state := .degraded }))) ∧
      (a.m = 1 → exec .resolveDecision s = .next (s.updPk (fun k => k.beginRebuild a.n)))) ∧
    (a.m = 2 → v.state = .rebuild → exec .resolveDecision s = .next (s.updPk (fun k => k.rebuildDone a.n)))) ∧
  (k.vStandby a.n = true → a.m = 1 → (v.state = .join ∨ v.state = .rebuild) → v.shares = [] → 0 < k.vStripes a.n → ∃ t, exec .resolveDecision s = .next t ∧
    (t.pk.slot a.n).state = .rebuild ∧ (t.pk.slot a.n).level = a.k ∧ (t.pk.slot a.n).lcr = a.k ∧ (t.pk.slot a.n).opened = a.v.toNat ∧
    (t.pk.slot a.n).dead = BitVec.ofNat 20 (leNat a.bytes) ∧ (t.pk.slot a.n).stripe = 0 ∧ t.pk.mem = k.mem ∧ t.ctx = s.ctx) ∧
  (k.vStandby a.n = true → a.k ≠ 0 → v.dead.getLsbD rank = false → v.shares = [] → 1 < k.vK a.n → v.stripe < k.vStripes a.n →
    (v.state = .rebuild ∨ v.state = .join) → exec .rebuildShare s = .next (set (fun x => { x with shares := [(rank, a.m, a.bytes)] })))
end

