-- ==== Sys2Proof/Laws/Memory.lean ====
section
/-! SUPPORT. The byte stores: what a write and a clearing leave to be read, and that every operation keeps the canonical form. -/
namespace Sys2Proof.Machine
open Sys2Proof

/-! ### The form -/

/-- Canonical from `lo` up: every listed address is at least `lo`, addresses rise, no zero is listed. -/
theorem Memory.wfFrom_iff (lo : Nat) (m : Memory) :
    Memory.wfFrom lo m = true ↔ (∀ c ∈ m, lo ≤ c.1 ∧ c.2 ≠ 0) ∧ m.Pairwise (fun a b => a.1 < b.1) := by
  induction m generalizing lo with
  | nil => simp [Memory.wfFrom]
  | cons c m ih =>
    obtain ⟨a, b⟩ := c
    simp only [Memory.wfFrom, Bool.and_eq_true, decide_eq_true_eq, bne_iff_ne, ne_eq, ih, List.mem_cons, forall_eq_or_imp,
      List.pairwise_cons]
    constructor
    · rintro ⟨⟨h1, h2⟩, h3, h4⟩
      exact ⟨⟨⟨h1, h2⟩, fun c hc => ⟨by have := (h3 c hc).1; omega, (h3 c hc).2⟩⟩, fun c hc => by have := (h3 c hc).1; omega, h4⟩
    · rintro ⟨⟨⟨h1, h2⟩, h3⟩, h4, h5⟩
      exact ⟨⟨h1, h2⟩, fun c hc => ⟨by have := h4 c hc; omega, (h3 c hc).2⟩, h5⟩

theorem Memory.wf_iff (m : Memory) : m.wf = true ↔ (∀ c ∈ m, c.2 ≠ 0) ∧ m.Pairwise (fun a b => a.1 < b.1) := by
  simp [Memory.wf, Memory.wfFrom_iff]

@[simp] theorem Memory.wf_nil : Memory.wf [] = true := rfl

/-- The cells of bytes stand in [a, a + length), rise, and list no zero. -/
theorem Memory.cells_form (a : Nat) (bs : List Byte) :
    (∀ c ∈ Memory.cells a bs, a ≤ c.1 ∧ c.1 < a + bs.length ∧ c.2 ≠ 0) ∧ (Memory.cells a bs).Pairwise (fun x y => x.1 < y.1) := by
  induction bs generalizing a with
  | nil => simp [Memory.cells]
  | cons b bs ih =>
    obtain ⟨h1, h2⟩ := ih (a + 1)
    have h3 : ∀ c ∈ Memory.cells (a + 1) bs, a ≤ c.1 ∧ c.1 < a + (bs.length + 1) ∧ c.2 ≠ 0 := fun c hc => by
      obtain ⟨x, y, z⟩ := h1 c hc; exact ⟨by omega, by omega, z⟩
    simp only [Memory.cells, List.length_cons]
    split
    · exact ⟨h3, h2⟩
    · rename_i hb
      refine ⟨?_, ?_⟩
      · intro c hc
        rcases List.mem_cons.mp hc with rfl | hc
        · exact ⟨Nat.le_refl _, by simp only; omega, hb⟩
        · exact h3 c hc
      · exact List.pairwise_cons.mpr ⟨fun c hc => by have := (h1 c hc).1; simp only; omega, h2⟩

theorem Memory.mem_takeWhile_lt {m : Memory} {a : Nat} {c : Host.Cell} (h : c ∈ m.takeWhile (fun c => decide (c.1 < a))) : c.1 < a := by
  have := List.mem_takeWhile_imp h
  simpa using this

/-- In a rising list, what `dropWhile` leaves lies at `a` or above. -/
theorem Memory.mem_dropWhile_le {m : Memory} (hm : m.Pairwise (fun x y => x.1 < y.1)) {a : Nat} {c : Host.Cell}
    (h : c ∈ m.dropWhile (fun c => decide (c.1 < a))) : a ≤ c.1 := by
  induction m with
  | nil => simp at h
  | cons x m ih =>
    rw [List.pairwise_cons] at hm
    rw [List.dropWhile_cons] at h
    split at h
    · exact ih hm.2 h
    · rename_i hx
      have hx : a ≤ x.1 := by simpa using hx
      rcases List.mem_cons.mp h with rfl | h
      · exact hx
      · have := hm.1 c h; omega

/-- A write keeps the canonical form. -/
theorem Memory.wf_write (m : Memory) (a : Nat) (bs : List Byte) (h : m.wf = true) : (m.write a bs).wf = true := by
  rw [Memory.wf_iff] at h ⊢
  obtain ⟨h1, h2⟩ := h
  obtain ⟨c1, c2⟩ := Memory.cells_form a bs
  unfold Memory.write
  have ht := List.takeWhile_sublist (l := m) (p := fun c => decide (c.1 < a))
  have hd := List.dropWhile_sublist (l := m) (p := fun c => decide (c.1 < a + bs.length))
  refine ⟨?_, ?_⟩
  · intro c hc
    simp only [List.mem_append] at hc
    rcases hc with (hc | hc) | hc
    · exact h1 c (ht.subset hc)
    · exact (c1 c hc).2.2
    · exact h1 c (hd.subset hc)
  · rw [List.append_assoc, List.pairwise_append, List.pairwise_append]
    refine ⟨h2.sublist ht, ⟨c2, h2.sublist hd, ?_⟩, ?_⟩
    · intro x hx y hy
      have := (c1 x hx).2.1
      have := Memory.mem_dropWhile_le h2 hy
      omega
    · intro x hx y hy
      have hx := Memory.mem_takeWhile_lt hx
      rcases List.mem_append.mp hy with hy | hy
      · have := (c1 y hy).1; omega
      · have := Memory.mem_dropWhile_le h2 hy; omega

/-- Clearing keeps the canonical form. -/
theorem Memory.wf_clear (m : Memory) (lo hi : Nat) (h : m.wf = true) : (m.clear lo hi).wf = true := by
  rw [Memory.wf_iff] at h ⊢
  exact ⟨fun c hc => h.1 c (List.mem_of_mem_filter hc), h.2.sublist List.filter_sublist⟩

/-! ### Reading -/

/-- What a store holds at an address: the listed byte, or 0. -/
theorem Memory.get_eq_of_mem {m : Memory} (hm : m.Pairwise (fun x y => x.1 < y.1)) {a : Nat} {b : Byte} (h : (a, b) ∈ m) : m.get a = b := by
  induction m with
  | nil => simp at h
  | cons x m ih =>
    obtain ⟨xa, xb⟩ := x
    rw [List.pairwise_cons] at hm
    rcases List.mem_cons.mp h with h | h
    · cases h; simp [Memory.get]
    · have := hm.1 _ h
      simp only at this
      rw [Memory.get, if_neg (by omega), if_neg (by omega)]
      exact ih hm.2 h
theorem Memory.get_eq_zero {m : Memory} {a : Nat} (h : ∀ c ∈ m, c.1 ≠ a) : m.get a = 0 := by
  induction m with
  | nil => rfl
  | cons x m ih =>
    obtain ⟨xa, xb⟩ := x
    have h1 : xa ≠ a := h (xa, xb) (by simp)
    rw [Memory.get, if_neg h1]
    split
    · rfl
    · exact ih (fun c hc => h c (by simp [hc]))

/-- A cell of the bytes written: the byte itself, where it is not zero. -/
theorem Memory.mem_cells (a : Nat) (bs : List Byte) (x : Nat) (b : Byte) :
    (x, b) ∈ Memory.cells a bs ↔ a ≤ x ∧ bs[x - a]? = some b ∧ b ≠ 0 := by
  induction bs generalizing a with
  | nil => simp [Memory.cells]
  | cons c bs ih =>
    have hs : (x, b) ∈ Memory.cells (a + 1) bs ↔ a + 1 ≤ x ∧ bs[x - (a + 1)]? = some b ∧ b ≠ 0 := ih (a + 1)
    simp only [Memory.cells]
    by_cases hx : x = a
    · subst hx
      split
      · rename_i hc; rw [hs]; simp only [Nat.sub_self, List.getElem?_cons_zero, Option.some.injEq, hc]
        constructor
        · rintro ⟨h1, -⟩; omega
        · rintro ⟨-, h1, h2⟩; exact absurd h1.symm h2
      · rename_i hc; rw [List.mem_cons, hs]; simp; constructor
        · rintro rfl; exact ⟨rfl, hc⟩
        · rintro ⟨rfl, _⟩; rfl
    · have he : a ≤ x ↔ a + 1 ≤ x := by omega
      have hg : a + 1 ≤ x → (c :: bs)[x - a]? = bs[x - (a + 1)]? := fun h => by
        rw [show x - a = (x - (a + 1)) + 1 by omega, List.getElem?_cons_succ]
      split
      · rw [hs, he]; constructor
        · rintro ⟨h1, h2⟩; exact ⟨h1, by rwa [hg h1]⟩
        · rintro ⟨h1, h2⟩; exact ⟨h1, by rwa [hg h1] at h2⟩
      · rw [List.mem_cons, hs, he]; constructor
        · rintro (h | ⟨h1, h2⟩)
          · cases h; exact absurd rfl hx
          · exact ⟨h1, by rwa [hg h1]⟩
        · rintro ⟨h1, h2⟩; exact .inr ⟨h1, by rwa [hg h1] at h2⟩

/-- A byte after a write: the written one inside its range, the old one outside. -/
theorem Memory.get_write (m : Memory) (a : Nat) (bs : List Byte) (x : Nat) (h : m.wf = true) :
    (m.write a bs).get x = if a ≤ x ∧ x < a + bs.length then (bs[x - a]?).getD 0 else m.get x := by
  have hw := (Memory.wf_iff _).mp (Memory.wf_write m a bs h)
  have hm := (Memory.wf_iff _).mp h
  have ht := List.takeWhile_sublist (l := m) (p := fun c => decide (c.1 < a))
  have hd := List.dropWhile_sublist (l := m) (p := fun c => decide (c.1 < a + bs.length))
  split
  · rename_i hx
    obtain ⟨b, hb⟩ : ∃ b, bs[x - a]? = some b := ⟨bs[x - a]'(by omega), List.getElem?_eq_getElem (by omega)⟩
    rw [hb, Option.getD_some]
    by_cases h0 : b = 0
    · rw [h0]
      refine Memory.get_eq_zero (fun c hc he => ?_)
      unfold Memory.write at hc
      simp only [List.mem_append] at hc
      rcases hc with (hc | hc) | hc
      · have := Memory.mem_takeWhile_lt hc; omega
      · have := (Memory.mem_cells a bs c.1 c.2).mp hc
        rw [he, hb] at this
        exact this.2.2 (by have := this.2.1; simp only [Option.some.injEq] at this; rw [← this]; exact h0)
      · have := Memory.mem_dropWhile_le hm.2 hc; omega
    · exact Memory.get_eq_of_mem hw.2 (by
        unfold Memory.write
        simp only [List.mem_append]
        exact .inl (.inr ((Memory.mem_cells a bs x b).mpr ⟨hx.1, hb, h0⟩)))
  · rename_i hx
    by_cases hc : ∃ b, (x, b) ∈ m
    · obtain ⟨b, hb⟩ := hc
      rw [Memory.get_eq_of_mem hm.2 hb]
      refine Memory.get_eq_of_mem hw.2 ?_
      unfold Memory.write
      simp only [List.mem_append]
      by_cases hlt : x < a
      · refine .inl (.inl ?_)
        clear hw ht hd h
        induction m with
        | nil => simp at hb
        | cons y m ih =>
          rw [List.pairwise_cons] at hm
          rcases List.mem_cons.mp hb with rfl | hb'
          · simp [hlt]
          · have := hm.2.1 _ hb'
            simp only at this
            rw [List.takeWhile_cons, if_pos (by simp; omega)]
            exact List.mem_cons_of_mem _ (ih ⟨fun c hc => hm.1 c (by simp [hc]), hm.2.2⟩ hb')
      · refine .inr ?_
        have hge : ¬ x < a + bs.length := by omega
        clear hw ht hd h hm
        induction m with
        | nil => simp at hb
        | cons y m ih =>
          rw [List.dropWhile_cons]
          rcases List.mem_cons.mp hb with rfl | hb'
          · rw [if_neg (by simpa using hge)]; exact List.mem_cons_self
          · split
            · exact ih hb'
            · exact List.mem_cons_of_mem _ hb'
    · rw [Memory.get_eq_zero (m := m) (fun c hcm he => hc ⟨c.2, by rw [← he]; exact hcm⟩)]
      refine Memory.get_eq_zero (fun c hcm he => ?_)
      unfold Memory.write at hcm
      simp only [List.mem_append] at hcm
      rcases hcm with (hcm | hcm) | hcm
      · exact hc ⟨c.2, by rw [← he]; exact ht.subset hcm⟩
      · have := (Memory.cells_form a bs).1 c hcm; omega
      · exact hc ⟨c.2, by rw [← he]; exact hd.subset hcm⟩

/-- Reading is byte by byte. -/
theorem Memory.readFrom_eq (m : Memory) (a n : Nat) (hm : m.Pairwise (fun x y => x.1 < y.1)) (hl : ∀ c ∈ m, a ≤ c.1) :
    Memory.readFrom m a n = (List.range n).map (fun i => m.get (a + i)) := by
  induction n generalizing m a with
  | zero => cases m <;> rfl
  | succ n ih =>
    rw [List.range_succ_eq_map, List.map_cons, List.map_map]
    have hidx : ∀ (q : Memory), (List.range n).map ((fun i => q.get (a + i)) ∘ Nat.succ) = (List.range n).map (fun i => q.get (a + 1 + i)) := by
      intro q; apply List.map_congr_left; intro i _; simp only [Function.comp_apply]; congr 1; omega
    rw [hidx]
    match m with
    | [] => rw [Memory.readFrom, ih [] (a + 1) List.Pairwise.nil (by simp)]; rfl
    | (x, b) :: m =>
      rw [List.pairwise_cons] at hm
      have hx : a ≤ x := hl (x, b) (by simp)
      rw [Memory.readFrom]
      split
      · rename_i he
        subst he
        rw [ih m (x + 1) hm.2 (fun c hc => by have := hm.1 c hc; simp only at this; omega)]
        simp only [Nat.add_zero]
        rw [show Memory.get ((x, b) :: m) x = b by simp [Memory.get]]
        congr 1
        apply List.map_congr_left; intro i _
        rw [Memory.get, if_neg (by omega), if_neg (by omega)]
      · rename_i he
        rw [ih ((x, b) :: m) (a + 1) (List.pairwise_cons.mpr hm) (fun c hc => by
          rcases List.mem_cons.mp hc with rfl | hc
          · simp only; omega
          · have := hm.1 c hc; simp only at this; omega)]
        simp only [Nat.add_zero]
        rw [show Memory.get ((x, b) :: m) a = 0 by rw [Memory.get, if_neg he, if_pos (by omega)]]

/-- The bytes read from a canonical store, one by one. -/
theorem Memory.read_eq (m : Memory) (a n : Nat) (h : m.wf = true) : m.read a n = (List.range n).map (fun i => m.get (a + i)) := by
  have hm := (Memory.wf_iff _).mp h
  unfold Memory.read
  have hd := List.dropWhile_sublist (l := m) (p := fun c => decide (c.1 < a))
  rw [Memory.readFrom_eq _ _ _ (hm.2.sublist hd) (fun c hc => Memory.mem_dropWhile_le hm.2 hc)]
  apply List.map_congr_left
  intro i _
  by_cases hc : ∃ b, (a + i, b) ∈ m
  · obtain ⟨b, hb⟩ := hc
    rw [Memory.get_eq_of_mem hm.2 hb, Memory.get_eq_of_mem (hm.2.sublist hd) (b := b)]
    clear hd hm h
    induction m with
    | nil => simp at hb
    | cons y m ih =>
      rw [List.dropWhile_cons]
      rcases List.mem_cons.mp hb with rfl | hb'
      · rw [if_neg (by simp)]; exact List.mem_cons_self
      · split
        · exact ih hb'
        · exact List.mem_cons_of_mem _ hb'
  · rw [Memory.get_eq_zero (m := m) (fun c hcm he => hc ⟨c.2, by rw [← he]; exact hcm⟩)]
    exact Memory.get_eq_zero (fun c hcm he => hc ⟨c.2, by rw [← he]; exact hd.subset hcm⟩)

/-- A byte after clearing. -/
theorem Memory.get_clear (m : Memory) (lo hi x : Nat) (h : m.wf = true) :
    (m.clear lo hi).get x = if lo ≤ x ∧ x < hi then 0 else m.get x := by
  have hm := (Memory.wf_iff _).mp h
  have hs : (m.clear lo hi).Sublist m := List.filter_sublist
  split
  · rename_i hx
    refine Memory.get_eq_zero (fun c hc he => ?_)
    have := (List.mem_filter.mp hc).2
    simp only [Bool.or_eq_true, decide_eq_true_eq] at this
    omega
  · rename_i hx
    by_cases hc : ∃ b, (x, b) ∈ m
    · obtain ⟨b, hb⟩ := hc
      rw [Memory.get_eq_of_mem hm.2 hb]
      refine Memory.get_eq_of_mem (hm.2.sublist hs) (List.mem_filter.mpr ⟨hb, ?_⟩)
      simp only [Bool.or_eq_true, decide_eq_true_eq]; omega
    · rw [Memory.get_eq_zero (m := m) (fun c hcm he => hc ⟨c.2, by rw [← he]; exact hcm⟩)]
      exact Memory.get_eq_zero (fun c hcm he => hc ⟨c.2, by rw [← he]; exact hs.subset hcm⟩)

/-! ### The four stores -/

/-- A write to one store keeps all four in form. -/
theorem Stores.wf_write (m : Stores) (p : Space) (a : Nat) (bs : List Byte) (h : m.wf = true) : (m.write p a bs).wf = true := by
  simp only [Stores.wf, Bool.and_eq_true] at h ⊢
  obtain ⟨⟨⟨h1, h2⟩, h3⟩, h4⟩ := h
  cases p <;> simp only [Stores.write, Stores.set, Stores.get] <;> simp [Memory.wf_write, h1, h2, h3, h4]

/-- The stores after reset have the form. -/
theorem Stores.wf_reset : State.reset.pk.mem.wf = true := by decide

end Sys2Proof.Machine
end

