-- ==== Sys2Proof/Laws/State.lean ====
section
/-! SUPPORT. What each update of the state leaves as it was and what it sets, one lemma per field, so that no proof unfolds a
record update. -/
namespace Sys2Proof.Machine
open Sys2Proof

/-! ### `State.updCtx` -/

@[simp] theorem State.updCtx_ctx (s : State) (f : Ctx → Ctx) : (s.updCtx f).ctx = f s.ctx := rfl
@[simp] theorem State.updCtx_sib (s : State) (f : Ctx → Ctx) : (s.updCtx f).sib = s.sib := rfl
@[simp] theorem State.updCtx_core (s : State) (f : Ctx → Ctx) : (s.updCtx f).core = s.core := rfl
@[simp] theorem State.updCtx_todo (s : State) (f : Ctx → Ctx) : (s.updCtx f).todo = s.todo := rfl
@[simp] theorem State.updCtx_past (s : State) (f : Ctx → Ctx) : (s.updCtx f).past = s.past := rfl
@[simp] theorem State.updCtx_pk (s : State) (f : Ctx → Ctx) : (s.updCtx f).pk = s.pk := rfl

/-! ### `State.updCore` -/

@[simp] theorem State.updCore_ctx (s : State) (f : Core → Core) : (s.updCore f).ctx = s.ctx := rfl
@[simp] theorem State.updCore_sib (s : State) (f : Core → Core) : (s.updCore f).sib = s.sib := rfl
@[simp] theorem State.updCore_core (s : State) (f : Core → Core) : (s.updCore f).core = f s.core := rfl
@[simp] theorem State.updCore_todo (s : State) (f : Core → Core) : (s.updCore f).todo = s.todo := rfl
@[simp] theorem State.updCore_past (s : State) (f : Core → Core) : (s.updCore f).past = s.past := rfl
@[simp] theorem State.updCore_pk (s : State) (f : Core → Core) : (s.updCore f).pk = s.pk := rfl

/-! ### `State.updPk` -/

@[simp] theorem State.updPk_ctx (s : State) (f : Pack → Pack) : (s.updPk f).ctx = s.ctx := rfl
@[simp] theorem State.updPk_sib (s : State) (f : Pack → Pack) : (s.updPk f).sib = s.sib := rfl
@[simp] theorem State.updPk_core (s : State) (f : Pack → Pack) : (s.updPk f).core = s.core := rfl
@[simp] theorem State.updPk_todo (s : State) (f : Pack → Pack) : (s.updPk f).todo = s.todo := rfl
@[simp] theorem State.updPk_past (s : State) (f : Pack → Pack) : (s.updPk f).past = s.past := rfl
@[simp] theorem State.updPk_pk (s : State) (f : Pack → Pack) : (s.updPk f).pk = f s.pk := rfl

/-! ### `State.updIss` -/

@[simp] theorem State.updIss_sib (s : State) (f : Iss → Iss) : (s.updIss f).sib = s.sib := rfl
@[simp] theorem State.updIss_core (s : State) (f : Iss → Iss) : (s.updIss f).core = s.core := rfl
@[simp] theorem State.updIss_todo (s : State) (f : Iss → Iss) : (s.updIss f).todo = s.todo := rfl
@[simp] theorem State.updIss_past (s : State) (f : Iss → Iss) : (s.updIss f).past = s.past := rfl
@[simp] theorem State.updIss_pk (s : State) (f : Iss → Iss) : (s.updIss f).pk = s.pk := rfl
@[simp] theorem State.updIss_ctx_num (s : State) (f : Iss → Iss) : (s.updIss f).ctx.num = s.ctx.num := rfl
@[simp] theorem State.updIss_ctx_mode (s : State) (f : Iss → Iss) : (s.updIss f).ctx.mode = s.ctx.mode := rfl
@[simp] theorem State.updIss_ctx_pc (s : State) (f : Iss → Iss) : (s.updIss f).ctx.pc = s.ctx.pc := rfl
@[simp] theorem State.updIss_ctx_regs (s : State) (f : Iss → Iss) : (s.updIss f).ctx.regs = s.ctx.regs := rfl
@[simp] theorem State.updIss_ctx_m (s : State) (f : Iss → Iss) : (s.updIss f).ctx.m = s.ctx.m := rfl
@[simp] theorem State.updIss_ctx_busy (s : State) (f : Iss → Iss) : (s.updIss f).ctx.busy = s.ctx.busy := rfl
@[simp] theorem State.updIss_ctx_mwrites (s : State) (f : Iss → Iss) : (s.updIss f).ctx.mwrites = s.ctx.mwrites := rfl
@[simp] theorem State.updIss_ctx_q (s : State) (f : Iss → Iss) : (s.updIss f).ctx.q = s.ctx.q := rfl
@[simp] theorem State.updIss_ctx_ras (s : State) (f : Iss → Iss) : (s.updIss f).ctx.ras = s.ctx.ras := rfl
@[simp] theorem State.updIss_ctx_lnu (s : State) (f : Iss → Iss) : (s.updIss f).ctx.lnu = s.ctx.lnu := rfl
@[simp] theorem State.updIss_ctx_spin (s : State) (f : Iss → Iss) : (s.updIss f).ctx.spin = s.ctx.spin := rfl
@[simp] theorem State.updIss_ctx_skew (s : State) (f : Iss → Iss) : (s.updIss f).ctx.skew = s.ctx.skew := rfl
@[simp] theorem State.updIss_ctx_csr (s : State) (f : Iss → Iss) : (s.updIss f).ctx.csr = s.ctx.csr := rfl
@[simp] theorem State.updIss_ctx_pend (s : State) (f : Iss → Iss) : (s.updIss f).ctx.pend = s.ctx.pend := rfl
@[simp] theorem State.updIss_ctx_undo (s : State) (f : Iss → Iss) : (s.updIss f).ctx.undo = s.ctx.undo := rfl
@[simp] theorem State.updIss_ctx_landed (s : State) (f : Iss → Iss) : (s.updIss f).ctx.landed = s.ctx.landed := rfl
@[simp] theorem State.updIss_ctx_held (s : State) (f : Iss → Iss) : (s.updIss f).ctx.held = s.ctx.held := rfl
@[simp] theorem State.updIss_ctx_heldLnu (s : State) (f : Iss → Iss) : (s.updIss f).ctx.heldLnu = s.ctx.heldLnu := rfl
@[simp] theorem State.updIss_ctx_heldFaults (s : State) (f : Iss → Iss) : (s.updIss f).ctx.heldFaults = s.ctx.heldFaults := rfl
@[simp] theorem State.updIss_ctx_faults (s : State) (f : Iss → Iss) : (s.updIss f).ctx.faults = s.ctx.faults := rfl
@[simp] theorem State.updIss_ctx_mq (s : State) (f : Iss → Iss) : (s.updIss f).ctx.mq = s.ctx.mq := rfl
@[simp] theorem State.updIss_ctx_code (s : State) (f : Iss → Iss) : (s.updIss f).ctx.code = s.ctx.code := rfl
@[simp] theorem State.updIss_ctx_codelen (s : State) (f : Iss → Iss) : (s.updIss f).ctx.codelen = s.ctx.codelen := rfl
@[simp] theorem State.updIss_ctx_wsbase (s : State) (f : Iss → Iss) : (s.updIss f).ctx.wsbase = s.ctx.wsbase := rfl
@[simp] theorem State.updIss_ctx_wslen (s : State) (f : Iss → Iss) : (s.updIss f).ctx.wslen = s.ctx.wslen := rfl
@[simp] theorem State.updIss_ctx_launch (s : State) (f : Iss → Iss) : (s.updIss f).ctx.launch = s.ctx.launch := rfl
@[simp] theorem State.updIss_ctx_owe (s : State) (f : Iss → Iss) : (s.updIss f).ctx.owe = s.ctx.owe := rfl
@[simp] theorem State.updIss_ctx_notBefore (s : State) (f : Iss → Iss) : (s.updIss f).ctx.notBefore = s.ctx.notBefore := rfl
@[simp] theorem State.updIss_ctx_framed (s : State) (f : Iss → Iss) : (s.updIss f).ctx.framed = s.ctx.framed := rfl
@[simp] theorem State.updIss_ctx_replay (s : State) (f : Iss → Iss) : (s.updIss f).ctx.replay = s.ctx.replay := rfl
@[simp] theorem State.updIss_ctx_nulls (s : State) (f : Iss → Iss) : (s.updIss f).ctx.nulls = s.ctx.nulls := rfl
@[simp] theorem State.updIss_ctx_yield_ (s : State) (f : Iss → Iss) : (s.updIss f).ctx.yield_ = s.ctx.yield_ := rfl
@[simp] theorem State.updIss_ctx_pptRec (s : State) (f : Iss → Iss) : (s.updIss f).ctx.pptRec = s.ctx.pptRec := rfl
@[simp] theorem State.updIss_ctx_resume (s : State) (f : Iss → Iss) : (s.updIss f).ctx.resume = s.ctx.resume := rfl
@[simp] theorem State.updIss_ctx_live (s : State) (f : Iss → Iss) : (s.updIss f).ctx.live = s.ctx.live := rfl
@[simp] theorem State.updIss_ctx_points (s : State) (f : Iss → Iss) : (s.updIss f).ctx.points = s.ctx.points := rfl
@[simp] theorem State.updIss_ctx_fences (s : State) (f : Iss → Iss) : (s.updIss f).ctx.fences = s.ctx.fences := rfl
@[simp] theorem State.updIss_ctx_drainAt (s : State) (f : Iss → Iss) : (s.updIss f).ctx.drainAt = s.ctx.drainAt := rfl
@[simp] theorem State.updIss_ctx_stallAt (s : State) (f : Iss → Iss) : (s.updIss f).ctx.stallAt = s.ctx.stallAt := rfl
@[simp] theorem State.updIss_ctx_reframe (s : State) (f : Iss → Iss) : (s.updIss f).ctx.reframe = s.ctx.reframe := rfl
@[simp] theorem State.updIss_ctx_ue (s : State) (f : Iss → Iss) : (s.updIss f).ctx.ue = s.ctx.ue := rfl
@[simp] theorem State.updIss_ctx_iss (s : State) (f : Iss → Iss) : (s.updIss f).ctx.iss = f s.ctx.iss := rfl

/-! ### `State.updEnd` -/

@[simp] theorem State.updEnd_sib (s : State) (f : BundleEnd → BundleEnd) : (s.updEnd f).sib = s.sib := rfl
@[simp] theorem State.updEnd_core (s : State) (f : BundleEnd → BundleEnd) : (s.updEnd f).core = s.core := rfl
@[simp] theorem State.updEnd_todo (s : State) (f : BundleEnd → BundleEnd) : (s.updEnd f).todo = s.todo := rfl
@[simp] theorem State.updEnd_past (s : State) (f : BundleEnd → BundleEnd) : (s.updEnd f).past = s.past := rfl
@[simp] theorem State.updEnd_pk (s : State) (f : BundleEnd → BundleEnd) : (s.updEnd f).pk = s.pk := rfl
@[simp] theorem State.updEnd_ctx_num (s : State) (f : BundleEnd → BundleEnd) : (s.updEnd f).ctx.num = s.ctx.num := rfl
@[simp] theorem State.updEnd_ctx_mode (s : State) (f : BundleEnd → BundleEnd) : (s.updEnd f).ctx.mode = s.ctx.mode := rfl
@[simp] theorem State.updEnd_ctx_pc (s : State) (f : BundleEnd → BundleEnd) : (s.updEnd f).ctx.pc = s.ctx.pc := rfl
@[simp] theorem State.updEnd_ctx_regs (s : State) (f : BundleEnd → BundleEnd) : (s.updEnd f).ctx.regs = s.ctx.regs := rfl
@[simp] theorem State.updEnd_ctx_m (s : State) (f : BundleEnd → BundleEnd) : (s.updEnd f).ctx.m = s.ctx.m := rfl
@[simp] theorem State.updEnd_ctx_busy (s : State) (f : BundleEnd → BundleEnd) : (s.updEnd f).ctx.busy = s.ctx.busy := rfl
@[simp] theorem State.updEnd_ctx_mwrites (s : State) (f : BundleEnd → BundleEnd) : (s.updEnd f).ctx.mwrites = s.ctx.mwrites := rfl
@[simp] theorem State.updEnd_ctx_q (s : State) (f : BundleEnd → BundleEnd) : (s.updEnd f).ctx.q = s.ctx.q := rfl
@[simp] theorem State.updEnd_ctx_ras (s : State) (f : BundleEnd → BundleEnd) : (s.updEnd f).ctx.ras = s.ctx.ras := rfl
@[simp] theorem State.updEnd_ctx_lnu (s : State) (f : BundleEnd → BundleEnd) : (s.updEnd f).ctx.lnu = s.ctx.lnu := rfl
@[simp] theorem State.updEnd_ctx_spin (s : State) (f : BundleEnd → BundleEnd) : (s.updEnd f).ctx.spin = s.ctx.spin := rfl
@[simp] theorem State.updEnd_ctx_skew (s : State) (f : BundleEnd → BundleEnd) : (s.updEnd f).ctx.skew = s.ctx.skew := rfl
@[simp] theorem State.updEnd_ctx_csr (s : State) (f : BundleEnd → BundleEnd) : (s.updEnd f).ctx.csr = s.ctx.csr := rfl
@[simp] theorem State.updEnd_ctx_pend (s : State) (f : BundleEnd → BundleEnd) : (s.updEnd f).ctx.pend = s.ctx.pend := rfl
@[simp] theorem State.updEnd_ctx_undo (s : State) (f : BundleEnd → BundleEnd) : (s.updEnd f).ctx.undo = s.ctx.undo := rfl
@[simp] theorem State.updEnd_ctx_landed (s : State) (f : BundleEnd → BundleEnd) : (s.updEnd f).ctx.landed = s.ctx.landed := rfl
@[simp] theorem State.updEnd_ctx_held (s : State) (f : BundleEnd → BundleEnd) : (s.updEnd f).ctx.held = s.ctx.held := rfl
@[simp] theorem State.updEnd_ctx_heldLnu (s : State) (f : BundleEnd → BundleEnd) : (s.updEnd f).ctx.heldLnu = s.ctx.heldLnu := rfl
@[simp] theorem State.updEnd_ctx_heldFaults (s : State) (f : BundleEnd → BundleEnd) : (s.updEnd f).ctx.heldFaults = s.ctx.heldFaults := rfl
@[simp] theorem State.updEnd_ctx_faults (s : State) (f : BundleEnd → BundleEnd) : (s.updEnd f).ctx.faults = s.ctx.faults := rfl
@[simp] theorem State.updEnd_ctx_mq (s : State) (f : BundleEnd → BundleEnd) : (s.updEnd f).ctx.mq = s.ctx.mq := rfl
@[simp] theorem State.updEnd_ctx_code (s : State) (f : BundleEnd → BundleEnd) : (s.updEnd f).ctx.code = s.ctx.code := rfl
@[simp] theorem State.updEnd_ctx_codelen (s : State) (f : BundleEnd → BundleEnd) : (s.updEnd f).ctx.codelen = s.ctx.codelen := rfl
@[simp] theorem State.updEnd_ctx_wsbase (s : State) (f : BundleEnd → BundleEnd) : (s.updEnd f).ctx.wsbase = s.ctx.wsbase := rfl
@[simp] theorem State.updEnd_ctx_wslen (s : State) (f : BundleEnd → BundleEnd) : (s.updEnd f).ctx.wslen = s.ctx.wslen := rfl
@[simp] theorem State.updEnd_ctx_launch (s : State) (f : BundleEnd → BundleEnd) : (s.updEnd f).ctx.launch = s.ctx.launch := rfl
@[simp] theorem State.updEnd_ctx_owe (s : State) (f : BundleEnd → BundleEnd) : (s.updEnd f).ctx.owe = s.ctx.owe := rfl
@[simp] theorem State.updEnd_ctx_notBefore (s : State) (f : BundleEnd → BundleEnd) : (s.updEnd f).ctx.notBefore = s.ctx.notBefore := rfl
@[simp] theorem State.updEnd_ctx_framed (s : State) (f : BundleEnd → BundleEnd) : (s.updEnd f).ctx.framed = s.ctx.framed := rfl
@[simp] theorem State.updEnd_ctx_replay (s : State) (f : BundleEnd → BundleEnd) : (s.updEnd f).ctx.replay = s.ctx.replay := rfl
@[simp] theorem State.updEnd_ctx_nulls (s : State) (f : BundleEnd → BundleEnd) : (s.updEnd f).ctx.nulls = s.ctx.nulls := rfl
@[simp] theorem State.updEnd_ctx_yield_ (s : State) (f : BundleEnd → BundleEnd) : (s.updEnd f).ctx.yield_ = s.ctx.yield_ := rfl
@[simp] theorem State.updEnd_ctx_pptRec (s : State) (f : BundleEnd → BundleEnd) : (s.updEnd f).ctx.pptRec = s.ctx.pptRec := rfl
@[simp] theorem State.updEnd_ctx_resume (s : State) (f : BundleEnd → BundleEnd) : (s.updEnd f).ctx.resume = s.ctx.resume := rfl
@[simp] theorem State.updEnd_ctx_live (s : State) (f : BundleEnd → BundleEnd) : (s.updEnd f).ctx.live = s.ctx.live := rfl
@[simp] theorem State.updEnd_ctx_points (s : State) (f : BundleEnd → BundleEnd) : (s.updEnd f).ctx.points = s.ctx.points := rfl
@[simp] theorem State.updEnd_ctx_fences (s : State) (f : BundleEnd → BundleEnd) : (s.updEnd f).ctx.fences = s.ctx.fences := rfl
@[simp] theorem State.updEnd_ctx_drainAt (s : State) (f : BundleEnd → BundleEnd) : (s.updEnd f).ctx.drainAt = s.ctx.drainAt := rfl
@[simp] theorem State.updEnd_ctx_stallAt (s : State) (f : BundleEnd → BundleEnd) : (s.updEnd f).ctx.stallAt = s.ctx.stallAt := rfl
@[simp] theorem State.updEnd_ctx_reframe (s : State) (f : BundleEnd → BundleEnd) : (s.updEnd f).ctx.reframe = s.ctx.reframe := rfl
@[simp] theorem State.updEnd_ctx_ue (s : State) (f : BundleEnd → BundleEnd) : (s.updEnd f).ctx.ue = s.ctx.ue := rfl
@[simp] theorem State.updEnd_ctx_iss (s : State) (f : BundleEnd → BundleEnd) : (s.updEnd f).ctx.iss = { s.ctx.iss with be := f s.ctx.iss.be } := rfl

/-! ### `State.put`, a result of a given latency -/

@[simp] theorem State.put_sib (s : State) (lat : Nat) (w : Wr) (f : Flags) : (s.put lat w f).sib = s.sib := rfl
@[simp] theorem State.put_core (s : State) (lat : Nat) (w : Wr) (f : Flags) : (s.put lat w f).core = s.core := rfl
@[simp] theorem State.put_todo (s : State) (lat : Nat) (w : Wr) (f : Flags) : (s.put lat w f).todo = s.todo := rfl
@[simp] theorem State.put_past (s : State) (lat : Nat) (w : Wr) (f : Flags) : (s.put lat w f).past = s.past := rfl
@[simp] theorem State.put_pk (s : State) (lat : Nat) (w : Wr) (f : Flags) : (s.put lat w f).pk = s.pk := rfl
@[simp] theorem State.put_ctx_num (s : State) (lat : Nat) (w : Wr) (f : Flags) : (s.put lat w f).ctx.num = s.ctx.num := rfl
@[simp] theorem State.put_ctx_mode (s : State) (lat : Nat) (w : Wr) (f : Flags) : (s.put lat w f).ctx.mode = s.ctx.mode := rfl
@[simp] theorem State.put_ctx_pc (s : State) (lat : Nat) (w : Wr) (f : Flags) : (s.put lat w f).ctx.pc = s.ctx.pc := rfl
@[simp] theorem State.put_ctx_regs (s : State) (lat : Nat) (w : Wr) (f : Flags) : (s.put lat w f).ctx.regs = s.ctx.regs := rfl
@[simp] theorem State.put_ctx_m (s : State) (lat : Nat) (w : Wr) (f : Flags) : (s.put lat w f).ctx.m = s.ctx.m := rfl
@[simp] theorem State.put_ctx_busy (s : State) (lat : Nat) (w : Wr) (f : Flags) : (s.put lat w f).ctx.busy = s.ctx.busy := rfl
@[simp] theorem State.put_ctx_mwrites (s : State) (lat : Nat) (w : Wr) (f : Flags) : (s.put lat w f).ctx.mwrites = s.ctx.mwrites := rfl
@[simp] theorem State.put_ctx_q (s : State) (lat : Nat) (w : Wr) (f : Flags) : (s.put lat w f).ctx.q = s.ctx.q := rfl
@[simp] theorem State.put_ctx_ras (s : State) (lat : Nat) (w : Wr) (f : Flags) : (s.put lat w f).ctx.ras = s.ctx.ras := rfl
@[simp] theorem State.put_ctx_lnu (s : State) (lat : Nat) (w : Wr) (f : Flags) : (s.put lat w f).ctx.lnu = s.ctx.lnu := rfl
@[simp] theorem State.put_ctx_spin (s : State) (lat : Nat) (w : Wr) (f : Flags) : (s.put lat w f).ctx.spin = s.ctx.spin := rfl
@[simp] theorem State.put_ctx_skew (s : State) (lat : Nat) (w : Wr) (f : Flags) : (s.put lat w f).ctx.skew = s.ctx.skew := rfl
@[simp] theorem State.put_ctx_csr (s : State) (lat : Nat) (w : Wr) (f : Flags) : (s.put lat w f).ctx.csr = s.ctx.csr := rfl
@[simp] theorem State.put_ctx_pend (s : State) (lat : Nat) (w : Wr) (f : Flags) : (s.put lat w f).ctx.pend = s.ctx.pend ++ [{ due := s.core.cyc + lat, wr := w, flags := f }] := rfl
@[simp] theorem State.put_ctx_undo (s : State) (lat : Nat) (w : Wr) (f : Flags) : (s.put lat w f).ctx.undo = s.ctx.undo := rfl
@[simp] theorem State.put_ctx_landed (s : State) (lat : Nat) (w : Wr) (f : Flags) : (s.put lat w f).ctx.landed = s.ctx.landed := rfl
@[simp] theorem State.put_ctx_held (s : State) (lat : Nat) (w : Wr) (f : Flags) : (s.put lat w f).ctx.held = s.ctx.held := rfl
@[simp] theorem State.put_ctx_heldLnu (s : State) (lat : Nat) (w : Wr) (f : Flags) : (s.put lat w f).ctx.heldLnu = s.ctx.heldLnu := rfl
@[simp] theorem State.put_ctx_heldFaults (s : State) (lat : Nat) (w : Wr) (f : Flags) : (s.put lat w f).ctx.heldFaults = s.ctx.heldFaults := rfl
@[simp] theorem State.put_ctx_faults (s : State) (lat : Nat) (w : Wr) (f : Flags) : (s.put lat w f).ctx.faults = s.ctx.faults := rfl
@[simp] theorem State.put_ctx_mq (s : State) (lat : Nat) (w : Wr) (f : Flags) : (s.put lat w f).ctx.mq = s.ctx.mq := rfl
@[simp] theorem State.put_ctx_code (s : State) (lat : Nat) (w : Wr) (f : Flags) : (s.put lat w f).ctx.code = s.ctx.code := rfl
@[simp] theorem State.put_ctx_codelen (s : State) (lat : Nat) (w : Wr) (f : Flags) : (s.put lat w f).ctx.codelen = s.ctx.codelen := rfl
@[simp] theorem State.put_ctx_wsbase (s : State) (lat : Nat) (w : Wr) (f : Flags) : (s.put lat w f).ctx.wsbase = s.ctx.wsbase := rfl
@[simp] theorem State.put_ctx_wslen (s : State) (lat : Nat) (w : Wr) (f : Flags) : (s.put lat w f).ctx.wslen = s.ctx.wslen := rfl
@[simp] theorem State.put_ctx_launch (s : State) (lat : Nat) (w : Wr) (f : Flags) : (s.put lat w f).ctx.launch = s.ctx.launch := rfl
@[simp] theorem State.put_ctx_owe (s : State) (lat : Nat) (w : Wr) (f : Flags) : (s.put lat w f).ctx.owe = s.ctx.owe := rfl
@[simp] theorem State.put_ctx_notBefore (s : State) (lat : Nat) (w : Wr) (f : Flags) : (s.put lat w f).ctx.notBefore = s.ctx.notBefore := rfl
@[simp] theorem State.put_ctx_framed (s : State) (lat : Nat) (w : Wr) (f : Flags) : (s.put lat w f).ctx.framed = s.ctx.framed := rfl
@[simp] theorem State.put_ctx_replay (s : State) (lat : Nat) (w : Wr) (f : Flags) : (s.put lat w f).ctx.replay = s.ctx.replay := rfl
@[simp] theorem State.put_ctx_nulls (s : State) (lat : Nat) (w : Wr) (f : Flags) : (s.put lat w f).ctx.nulls = s.ctx.nulls := rfl
@[simp] theorem State.put_ctx_yield_ (s : State) (lat : Nat) (w : Wr) (f : Flags) : (s.put lat w f).ctx.yield_ = s.ctx.yield_ := rfl
@[simp] theorem State.put_ctx_pptRec (s : State) (lat : Nat) (w : Wr) (f : Flags) : (s.put lat w f).ctx.pptRec = s.ctx.pptRec := rfl
@[simp] theorem State.put_ctx_resume (s : State) (lat : Nat) (w : Wr) (f : Flags) : (s.put lat w f).ctx.resume = s.ctx.resume := rfl
@[simp] theorem State.put_ctx_live (s : State) (lat : Nat) (w : Wr) (f : Flags) : (s.put lat w f).ctx.live = s.ctx.live := rfl
@[simp] theorem State.put_ctx_points (s : State) (lat : Nat) (w : Wr) (f : Flags) : (s.put lat w f).ctx.points = s.ctx.points := rfl
@[simp] theorem State.put_ctx_fences (s : State) (lat : Nat) (w : Wr) (f : Flags) : (s.put lat w f).ctx.fences = s.ctx.fences := rfl
@[simp] theorem State.put_ctx_drainAt (s : State) (lat : Nat) (w : Wr) (f : Flags) : (s.put lat w f).ctx.drainAt = s.ctx.drainAt := rfl
@[simp] theorem State.put_ctx_stallAt (s : State) (lat : Nat) (w : Wr) (f : Flags) : (s.put lat w f).ctx.stallAt = s.ctx.stallAt := rfl
@[simp] theorem State.put_ctx_reframe (s : State) (lat : Nat) (w : Wr) (f : Flags) : (s.put lat w f).ctx.reframe = s.ctx.reframe := rfl
@[simp] theorem State.put_ctx_ue (s : State) (lat : Nat) (w : Wr) (f : Flags) : (s.put lat w f).ctx.ue = s.ctx.ue := rfl
@[simp] theorem State.put_ctx_iss (s : State) (lat : Nat) (w : Wr) (f : Flags) : (s.put lat w f).ctx.iss = s.ctx.iss := rfl

/-! ### Each kind of result is a `put` -/

@[simp] theorem State.putS_eq (s : State) (d : BitVec 5) (lat : Nat) (x : Word) : s.putS d lat x = s.put lat (.s d.toNat x) := rfl
@[simp] theorem State.putP_eq (s : State) (d : BitVec 5) (x : Bool) : s.putP d x = s.put 1 (.p d.toNat x) := rfl
@[simp] theorem State.putA_eq (s : State) (d : BitVec 5) (x : Handle) : s.putA d x = s.put 1 (.a d.toNat x) := rfl
@[simp] theorem State.putV_eq (s : State) (d : BitVec 5) (lat : Nat) (x : VReg) (f : Flags) : s.putV d lat x f = s.put lat (.v d.toNat x) f := rfl

/-! ### A fresh unspecified word -/

@[simp] theorem State.free_ctx (s : State) : s.free.2.ctx = s.ctx := rfl
@[simp] theorem State.free_sib (s : State) : s.free.2.sib = s.sib := rfl
@[simp] theorem State.free_core (s : State) : s.free.2.core = s.core := rfl
@[simp] theorem State.free_todo (s : State) : s.free.2.todo = s.todo := rfl
@[simp] theorem State.free_past (s : State) : s.free.2.past = s.past := rfl
@[simp] theorem State.free_mem (s : State) : s.free.2.pk.mem = s.pk.mem := rfl
@[simp] theorem State.free_io (s : State) : s.free.2.pk.io = s.pk.io := rfl

/-! ### Outcomes -/

@[simp] theorem done_eq (t : State) : done t = .next t := rfl
@[simp] theorem deliver_ok (s t : State) : deliver s (.ok t) = .next t := rfl
@[simp] theorem deliver_stall (s : State) : deliver s (.error .stall) = .next s.markStall := rfl
@[simp] theorem deliver_fault (s : State) (r : FaultRec) : deliver s (.error (.fault r)) = .next (s.takeFault r) := rfl
@[simp] theorem deliver_met (s : State) (r : FaultRec) : deliver s (.error (.met r)) = .next ((s.logMet r).takeFault r) := rfl
@[simp] theorem deliver_fetch (s : State) (i : Nat) : deliver s (.error (.fetch i)) = .next (s.fetchEntry i entryCycles).markStall := rfl

/-- However an operation ends, the machine goes on (R18, R473). -/
theorem deliver_next (s : State) (r : Res) : ∃ t, deliver s r = .next t := by
  match r with
  | .ok t => exact ⟨t, rfl⟩
  | .error (.fault _) => exact ⟨_, rfl⟩
  | .error (.met _) => exact ⟨_, rfl⟩
  | .error (.fetch _) => exact ⟨_, rfl⟩
  | .error .stall => exact ⟨_, rfl⟩

end Sys2Proof.Machine
end

