-- ==== Sys2Proof/Laws/Pack.lean ====
section
/-! SUPPORT. The package: a CXL.io register after a write, a timeline after it is set, and the operations that touch no byte of
memory. -/
namespace Sys2Proof.Machine
open Sys2Proof

/-! ### CXL.io registers -/

theorem ioInsert_find (off : Nat) (v : Word) (x : Nat) (l : List (Nat × Word)) (h : ∀ e ∈ l, e.1 ≠ off) :
    (ioInsert off v l).find? (fun e => e.1 == x) = if x = off then some (off, v) else l.find? (fun e => e.1 == x) := by
  induction l with
  | nil =>
    by_cases hx : x = off
    · rw [if_pos hx, ioInsert, List.find?_cons_of_pos (by simpa using hx.symm)]
    · rw [if_neg hx, ioInsert, List.find?_cons_of_neg (by simpa using Ne.symm hx)]
  | cons e es ih =>
    have h1 : e.1 ≠ off := h e (by simp)
    have h2 := ih (fun e he => h e (by simp [he]))
    simp only [ioInsert]
    split
    · by_cases hx : x = off
      · rw [if_pos hx, List.find?_cons_of_pos (by simpa using hx.symm)]
      · rw [if_neg hx, List.find?_cons_of_neg (by simpa using Ne.symm hx)]
    · rw [if_neg (Ne.symm h1)]
      by_cases he : e.1 = x
      · rw [List.find?_cons_of_pos (by simpa using he), List.find?_cons_of_pos (by simpa using he), if_neg (fun hx => h1 (he.trans hx))]
      · rw [List.find?_cons_of_neg (by simpa using he), List.find?_cons_of_neg (by simpa using he), h2]
/-- A register after a write: the value written; the others as before. -/
theorem Pack.ioRd_ioWr (k : Pack) (off x : Nat) (v : Word) : (k.ioWr off v).ioRd x = if x = off then v else k.ioRd x := by
  unfold Pack.ioWr Pack.ioRd
  simp only
  split
  · rename_i hv
    by_cases hx : x = off
    · subst hx; rw [if_pos rfl]
      have : (List.filter (fun e => e.1 != x) k.io).find? (fun e => e.1 == x) = none := by simp [List.find?_eq_none]
      rw [this]; simp [hv]
    · rw [if_neg hx]
      congr 2
      rw [List.find?_filter]
      congr 1; funext e; by_cases h : e.1 = x
      · subst h; simp [hx]
      · simp [h]
  · rw [ioInsert_find]
    · split
      · simp
      · congr 2
        rw [List.find?_filter]
        congr 1; funext e; by_cases h : e.1 = x
        · subst h; rename_i hx; simp [hx]
        · simp [h]
    · intro e he; simp at he; exact he.2

@[simp] theorem Pack.ioWr_mem (k : Pack) (off : Nat) (v : Word) : (k.ioWr off v).mem = k.mem := rfl
@[simp] theorem Pack.ioWr_tls (k : Pack) (off : Nat) (v : Word) : (k.ioWr off v).tls = k.tls := rfl
@[simp] theorem Pack.ioWr_ops (k : Pack) (off : Nat) (v : Word) : (k.ioWr off v).ops = k.ops := rfl
@[simp] theorem Pack.ioWr_msc (k : Pack) (off : Nat) (v : Word) : (k.ioWr off v).msc = k.msc := rfl

/-! ### Timelines -/

theorem tlInsert_find (i : Nat) (t : Timeline) (j : Nat) (l : List (Nat × Timeline)) :
    ((tlInsert i t l).find? (fun e => e.1 == j)).map Prod.snd =
      if j = i then some t else (l.find? (fun e => e.1 == j)).map Prod.snd := by
  induction l with
  | nil =>
    by_cases h : j = i
    · rw [if_pos h, tlInsert, List.find?_cons_of_pos (by simpa using h.symm)]; rfl
    · rw [if_neg h, tlInsert, List.find?_cons_of_neg (by simpa using Ne.symm h)]
  | cons e es ih =>
    simp only [tlInsert]
    by_cases h : j = i
    · rw [if_pos h] at ih ⊢
      split
      · rw [List.find?_cons_of_pos (by simpa using h.symm)]; rfl
      · split
        · rw [List.find?_cons_of_pos (by simpa using h.symm)]; rfl
        · rename_i h1 h2
          rw [List.find?_cons_of_neg (by simpa [h] using Ne.symm h2)]; exact ih
    · rw [if_neg h] at ih ⊢
      split
      · rw [List.find?_cons_of_neg (by simpa using Ne.symm h)]
      · split
        · rename_i h1 h2
          rw [List.find?_cons_of_neg (by simpa using Ne.symm h), List.find?_cons_of_neg (by simpa [← h2] using Ne.symm h)]
        · by_cases he : e.1 = j
          · rw [List.find?_cons_of_pos (by simpa using he), List.find?_cons_of_pos (by simpa using he)]
          · rw [List.find?_cons_of_neg (by simpa using he), List.find?_cons_of_neg (by simpa using he)]; exact ih
/-- A timeline after one is set. -/
theorem Pack.tl_setTl (k : Pack) (i j : Nat) (t : Timeline) : (k.setTl i t).tl j = if j = i then t else k.tl j := by
  show ((((tlInsert i t k.tls).find? (fun e => e.1 == j)).map Prod.snd).getD {}) = _
  rw [tlInsert_find]
  split
  · rfl
  · rfl

/-- Numbering, completing and failing change nothing but the timelines (R394, R403). -/
theorem Pack.setTl_eq (k : Pack) (i : Nat) (t : Timeline) : k.setTl i t = { k with tls := (k.setTl i t).tls } := rfl
theorem Pack.number_eq (k : Pack) (i ord : Nat) : (k.number i ord).2 = { k with tls := (k.number i ord).2.tls } := rfl
theorem Pack.completeOp_eq (k : Pack) (i n : Nat) : k.completeOp i n = { k with tls := (k.completeOp i n).tls } := rfl
theorem Pack.failOp_eq (k : Pack) (i n : Nat) (w : BitVec 16) : k.failOp i n w = { k with tls := (k.failOp i n w).tls } := rfl

/-- Moving the head leaves the other fields. -/
theorem advanceHead_fields (t : Timeline) (n : Nat) :
    (advanceHead t n).iss = t.iss ∧ (advanceHead t n).flo = t.flo ∧ (advanceHead t n).owner = t.owner ∧
    (advanceHead t n).open_ = t.open_ ∧ t.head ≤ (advanceHead t n).head := by
  induction n generalizing t with
  | zero => simp [advanceHead]
  | succ n ih =>
    simp only [advanceHead]
    split
    · obtain ⟨h1, h2, h3, h4, h5⟩ := ih { t with head := t.head + 1, above := t.above.filter (· != t.head + 1) }
      simp only at h1 h2 h3 h4 h5
      exact ⟨h1, h2, h3, h4, by omega⟩
    · simp

/-! ### Operations that touch no byte of memory -/

@[simp] theorem Pack.setTl_mem (k : Pack) (i : Nat) (t : Timeline) : (k.setTl i t).mem = k.mem := rfl
@[simp] theorem Pack.number_mem (k : Pack) (i ord : Nat) : (k.number i ord).2.mem = k.mem := rfl
@[simp] theorem Pack.completeOp_mem (k : Pack) (i n : Nat) : (k.completeOp i n).mem = k.mem := rfl
@[simp] theorem Pack.failOp_mem (k : Pack) (i n : Nat) (w : BitVec 16) : (k.failOp i n w).mem = k.mem := rfl
@[simp] theorem Pack.schedule_mem (k : Pack) (n : Nat) (i : Instr) (a : EventArg) : (k.schedule n i a).mem = k.mem := rfl
@[simp] theorem Pack.scheduleCc_mem (k : Pack) (n : Nat) (i : Instr) (a : EventArg) : (k.scheduleCc n i a).mem = k.mem := rfl
@[simp] theorem Pack.setChan_mem (k : Pack) (h : Nat) (f : Channel → Channel) : (k.setChan h f).mem = k.mem := rfl
@[simp] theorem Pack.setSlot_mem (k : Pack) (g : Nat) (f : VSlot → VSlot) : (k.setSlot g f).mem = k.mem := rfl
@[simp] theorem Pack.updLaunch_mem (k : Pack) (i : Nat) (f : Launch → Launch) : (k.updLaunch i f).mem = k.mem := rfl
@[simp] theorem Pack.logError_mem (k : Pack) (a b c : Nat) : (k.logError a b c).mem = k.mem := by
  unfold Pack.logError
  exact (Pack.ioWr_mem _ _ _).trans ((Pack.ioWr_mem _ _ _).trans (Pack.ioWr_mem _ _ _))
@[simp] theorem Pack.setLine_mem (k : Pack) (l : MscLine) : (k.setLine l).mem = k.mem := rfl
@[simp] theorem Pack.dropLine_mem (k : Pack) (n : Nat) : (k.dropLine n).mem = k.mem := rfl
@[simp] theorem Pack.clearBad_mem (k : Pack) (p : Piece) : (k.clearBad p).mem = k.mem := rfl
@[simp] theorem Pack.windowWrite_mem (k : Pack) (h d o : Nat) (bs : List Byte) : (k.windowWrite h d o bs).mem = k.mem := rfl

/-- A fold of steps that each keep the stores in form keeps them in form. -/
theorem Pack.foldl_wf {α : Type} (f : Pack → α → Pack) (hf : ∀ k a, k.mem.wf = true → (f k a).mem.wf = true) (l : List α) (k : Pack)
    (h : k.mem.wf = true) : (l.foldl f k).mem.wf = true := by
  induction l generalizing k with
  | nil => exact h
  | cons a l ih => exact ih _ (hf k a h)

/-- A write to memory, in a form that suits a package. -/
theorem Pack.write_wf (k : Pack) (p : Space) (a : Nat) (bs : List Byte) (h : k.mem.wf = true) :
    ({ k with mem := k.mem.write p a bs } : Pack).mem.wf = true := Stores.wf_write k.mem p a bs h

end Sys2Proof.Machine
end

