-- ==== Sys2Proof/Laws/Issue.lean ====
section
/-! SUPPORT. What issuing, beginning and ending an operation changes, and what taking a fault leaves (R131, R394, R481, R484). -/
namespace Sys2Proof.Machine
open Sys2Proof

/-! ### Asking for witnesses -/

/-- Asking about witnesses changes no operation, byte, line, register, timeline or scoreboard. -/
theorem Pack.ask_fold (who : Nat) (l : List Word) (k : Pack) :
    (l.foldl (Pack.ask who) k).ops = k.ops ∧ (l.foldl (Pack.ask who) k).mem = k.mem ∧
    (l.foldl (Pack.ask who) k).msc = k.msc ∧ (l.foldl (Pack.ask who) k).io = k.io ∧ (l.foldl (Pack.ask who) k).tls = k.tls ∧
    (l.foldl (Pack.ask who) k).board = k.board := by
  induction l generalizing k with
  | nil => simp
  | cons w ws ih =>
    simp only [List.foldl_cons]
    obtain ⟨a, b, c, d, e, f⟩ := ih (k.ask who w)
    rw [a, b, c, d, e, f]
    unfold Pack.ask
    split <;> simp [Pack.send]

/-! ### Issue -/

/-- Beginning an operation marks it and puts its event on the agenda. -/
theorem State.begin_facts (s : State) (o : Op) :
    (s.begin_ o).ctx = s.ctx ∧ (s.begin_ o).core = s.core ∧ (s.begin_ o).sib = s.sib ∧ (s.begin_ o).todo = s.todo ∧
    (s.begin_ o).past = s.past ∧ (s.begin_ o).pk.mem = s.pk.mem ∧ (s.begin_ o).pk.msc = s.pk.msc ∧ (s.begin_ o).pk.io = s.pk.io ∧
    (s.begin_ o).pk.tls = s.pk.tls ∧ (s.begin_ o).pk.board = s.pk.board ∧
    (s.begin_ o).pk.ops = s.pk.ops.map (fun q => if q.id = o.id then { o with begun := true, due := s.dueIn o o.lat } else q) := by
  unfold State.begin_
  simp only
  split <;> simp [State.updPk, State.setOp, Pack.schedule, Pack.scheduleCc]

/-- The watch over a failed device only puts its event on the agenda. -/
theorem Pack.watchDead_facts (k : Pack) (o : Op) :
    (k.watchDead o).ops = k.ops ∧ (k.watchDead o).mem = k.mem ∧ (k.watchDead o).msc = k.msc ∧ (k.watchDead o).io = k.io ∧
    (k.watchDead o).tls = k.tls ∧ (k.watchDead o).board = k.board := by
  unfold Pack.watchDead
  split <;> simp [Pack.schedule]

/-- An operation issued is outstanding with what it was given, and the context and memory are as they were. -/
theorem State.issueOp_facts (s : State) (o : Op) :
    s.hasIssued (s.issueOp o) o.kind o.cls o.lat o.lat2 o.waits ∧ s.keeps (s.issueOp o) ∧ (s.issueOp o).ctx = s.ctx ∧
    (s.issueOp o).core = s.core ∧ (s.issueOp o).pk.tls = s.pk.tls ∧ (s.issueOp o).pk.board = s.pk.board ∧
    (∃ x, (s.issueOp o).pk.ops.getLast? = some x ∧ x.tl = o.tl ∧ x.seq = o.seq) := by
  unfold State.issueOp
  simp only
  split
  · obtain ⟨h1, h2, h3, h4, h5, h6, h7, h8, h9, h10, h11⟩ := State.begin_facts
      (s.updPk (fun k => (o.waits.foldl (Pack.ask s.pk.opCtr) { k with opCtr := k.opCtr + 1, ops := k.ops ++ [{ o with
        id := s.pk.opCtr, ctx := s.ctx.num, owner := s.ownId, btab := s.ctx.csr.btab, npdef := bits s.ctx.csr.npdef 3 0
        cluster := s.cluster, launch := s.ctx.launch, pc := s.ctx.iss.pc, blen := s.ctx.iss.words
        slot := s.ctx.iss.slot.code, after := s.ctx.fenced o.cls, stamp := s.tstamp }] }).watchDead { o with
        id := s.pk.opCtr, ctx := s.ctx.num, owner := s.ownId, btab := s.ctx.csr.btab, npdef := bits s.ctx.csr.npdef 3 0
        cluster := s.cluster, launch := s.ctx.launch, pc := s.ctx.iss.pc, blen := s.ctx.iss.words
        slot := s.ctx.iss.slot.code, after := s.ctx.fenced o.cls, stamp := s.tstamp }))
      { o with
        id := s.pk.opCtr, ctx := s.ctx.num, owner := s.ownId, btab := s.ctx.csr.btab, npdef := bits s.ctx.csr.npdef 3 0
        cluster := s.cluster, launch := s.ctx.launch, pc := s.ctx.iss.pc, blen := s.ctx.iss.words
        slot := s.ctx.iss.slot.code, after := s.ctx.fenced o.cls, stamp := s.tstamp }
    simp only [State.keeps, State.hasIssued, h1, h2, h3, h4, h5, h6, h7, h8, h9, h10, h11]
    simp [State.updPk, Pack.ask_fold, Pack.watchDead_facts]
  · simp only [State.poll, State.keeps, State.hasIssued]
    simp [State.updPk, Pack.scheduleCc, Pack.schedule, Pack.ask_fold, Pack.watchDead_facts]

/-- A numbered operation gives its point (R394, R397). -/
theorem State.issueNumbered_facts (s : State) (tl : Nat) (o : Op) :
    (s.issueNumbered tl o).1 = pointWit tl ((s.pk.tl tl).iss + 1) ∧
    s.hasIssued (s.issueNumbered tl o).2 o.kind o.cls o.lat o.lat2 o.waits ∧ s.keeps (s.issueNumbered tl o).2 ∧
    (s.issueNumbered tl o).2.ctx = s.ctx ∧ (s.issueNumbered tl o).2.core = s.core ∧ s.hasNumbered (s.issueNumbered tl o).2 tl ∧
    (s.issueNumbered tl o).2.pk.board = s.pk.board := by
  unfold State.issueNumbered
  simp only
  obtain ⟨h1, h2, h3, h4, h5, h6, x, h7, h8, h9⟩ := State.issueOp_facts { s with pk := (s.pk.number tl s.pk.opCtr).2 }
    { o with tl := tl, seq := (s.pk.number tl s.pk.opCtr).1 }
  have hn : (s.pk.number tl s.pk.opCtr).2 = s.pk.setTl tl { s.pk.tl tl with
    iss := (s.pk.tl tl).iss + 1, open_ := (s.pk.tl tl).open_ ++ [((s.pk.tl tl).iss + 1, s.pk.tstamp, s.pk.opCtr)] } := rfl
  refine ⟨rfl, h1, h2, h3, h4, ⟨?_, x, h7, h8, ?_⟩, h6⟩
  · show Timeline.iss (Pack.tl _ tl) = _
    unfold Pack.tl at *
    rw [h5, hn]
    have := Pack.tl_setTl s.pk tl tl { s.pk.tl tl with
      iss := (s.pk.tl tl).iss + 1, open_ := (s.pk.tl tl).open_ ++ [((s.pk.tl tl).iss + 1, s.pk.tstamp, s.pk.opCtr)] }
    rw [if_pos rfl] at this
    unfold Pack.tl at this
    rw [this]
  · rw [h9]; rfl

/-- A load with a landing entry free is outstanding with its entry (R144, R145). -/
theorem State.issueLoad_facts (s : State) (dst : Wr) (reg k : Nat) (o : Op) (h : s.ctx.landings < 32) :
    ∃ t, s.issueLoad dst reg k o = .ok t ∧ s.hasLoaded t dst k o.kind o.cls o.lat o.lat2 o.waits ∧ t.core = s.core := by
  unfold State.issueLoad
  rw [if_neg (by omega)]
  obtain ⟨h1, h2, h3, h4, h5, h6, h7⟩ := State.issueOp_facts s { o with reg := BitVec.ofNat 8 reg }
  refine ⟨_, rfl, ⟨?_, ?_, ?_⟩, ?_⟩
  · exact h1
  · simp only [State.updCtx]; exact h2
  · simp only [State.updCtx]; rw [h3]
  · exact h4

/-- Without one it stalls (R145). -/
theorem State.issueLoad_stall (s : State) (dst : Wr) (reg k : Nat) (o : Op) (h : 32 ≤ s.ctx.landings) :
    s.issueLoad dst reg k o = .error .stall := by
  unfold State.issueLoad
  rw [if_pos h]

/-! ### Access through a handle -/

/-- What passes the checks of R64. -/
theorem State.handleBad_none (s : State) (idx : Nat) (o : Int) (n need : Nat) (copy : Bool)
    (h : s.passesChecks idx o n need copy) :
    s.pk.handleBad s.ctx.csr.btab s.ownId.toNat idx o n need copy = none := by
  obtain ⟨h1, h2, h3, h4, h5, h6, h7, h8, h9, h10, h11⟩ := h
  have t7 : ¬ ((s.pk.entryAt (bits s.ctx.csr.btab 47 0) idx).tier = 3 ∧ (!copy) = true) := by
    rintro ⟨a, b⟩
    simp [h8 a] at b
  have r9 : ¬ (!hasRights (s.pk.entryAt (bits s.ctx.csr.btab 47 0) idx) need) = true := by simp [hasRights, h9]
  unfold Pack.handleBad
  rw [if_neg h1, if_neg (Nat.not_lt.mpr h2)]
  cases hs : s.pk.sched.service with
  | none =>
    simp only [h3, h4, h6, if_false]
    rw [if_neg (by simp), if_neg (by tauto), if_neg (by simp), if_neg t7, if_neg r9, if_neg (by omega)]
  | some b =>
    have hb : (b.migrate && b.idx == idx && b.table == bits s.ctx.csr.btab 47 0) = false := by
      have := h7 b hs
      cases hm : b.migrate <;> simp_all
    simp only [h3, h4, h6, hb, if_false]
    rw [if_neg (by simp), if_neg (by tauto), if_neg (by simp), if_neg t7, if_neg r9, if_neg (by omega)]
theorem State.accessEntry_ok (s : State) (reg : Nat) (h : Handle) (o : Int) (n need : Nat) (copy : Bool)
    (hm : s.mayReach (hIdx h) o n need copy) :
    s.accessEntry reg h o n need copy = .ok (s.pk.entryAt (bits s.ctx.csr.btab 47 0) (hIdx h)) := by
  unfold State.accessEntry
  obtain ⟨hc, hp, he⟩ := hm
  rw [s.handleBad_none _ _ _ _ _ hc]
  simp only [Ctx.table] at he
  simp [hp, he, Ctx.table]
theorem State.accessReg_ok (s : State) (a : BitVec w) (d : Int) (n need : Nat) (copy : Bool) (h : s.mayAccess a d n need copy) :
    s.accessReg a d n need copy = .ok (s.reach a d n) := by
  unfold State.accessReg State.access
  rw [s.accessEntry_ok _ _ _ _ _ _ h]
  rfl
theorem State.lanesG_ok (s : State) (a : BitVec w) (d : Int) (need : Nat) (l : List Int) (h : ∀ o ∈ l, s.mayAccess a (d + o) 4 need) :
    s.lanesG a d need l = .ok (s.reachLanes a d l) := by
  induction l with
  | nil => rfl
  | cons o os ih =>
    unfold State.lanesG
    rw [s.accessReg_ok _ _ _ _ _ (h o (by simp)), ih (fun x hx => h x (by simp [hx]))]
    rfl

/-! ### The end of an operation -/

@[simp] theorem State.poll_mem (s : State) (o : Op) : (s.poll o).pk.mem = s.pk.mem := rfl
@[simp] theorem State.setOp_mem (s : State) (o : Op) : (s.setOp o).pk.mem = s.pk.mem := rfl
@[simp] theorem State.begin_mem (s : State) (o : Op) : (s.begin_ o).pk.mem = s.pk.mem := (State.begin_facts s o).2.2.2.2.2.1
@[simp] theorem State.issueOp_mem (s : State) (o : Op) : (s.issueOp o).pk.mem = s.pk.mem :=
  (State.issueOp_facts s o).2.1.2.2.2.2.2.2.2.2.2.1
@[simp] theorem State.issueNumbered_mem (s : State) (tl : Nat) (o : Op) : (s.issueNumbered tl o).2.pk.mem = s.pk.mem :=
  (State.issueNumbered_facts s tl o).2.2.1.2.2.2.2.2.2.2.2.2.1
/-- Only what an operation wrote to the scratchpad of a saved launch goes on into its save (R100). -/
theorem Pack.saveThrough_eq (k : Pack) (o : Op) (h : ∀ p ∈ o.kind.pieces, p.space = .spad → p.addr < 32 * 2 ^ 22) : k.saveThrough o = k := by
  unfold Pack.saveThrough
  have : o.kind.pieces.filter (fun p => p.space == .spad && decide (32 * 2 ^ 22 ≤ p.addr)) = [] := by
    rw [List.filter_eq_nil_iff]
    intro p hp
    simp only [Bool.and_eq_true, beq_iff_eq, decide_eq_true_eq, not_and, Nat.not_le]
    exact h p hp
  rw [this]
  rfl
@[simp] theorem State.dropOp_mem (s : State) (o : Op) : (s.dropOp o).pk.mem = (s.pk.saveThrough o).mem := rfl
@[simp] theorem State.finishOp_mem (s : State) (o : Op) : (s.finishOp o).pk.mem = (s.pk.saveThrough o).mem := by
  unfold State.finishOp
  simp only [State.updPk]
  split <;> rfl
@[simp] theorem State.failOpState_mem (s : State) (o : Op) : (s.failOpState o).pk.mem = (s.pk.saveThrough o).mem := by
  unfold State.failOpState
  simp only [State.updPk]
  split <;> rfl

/-! ### Reaching contexts and cores -/

theorem State.onCtx_self (s : State) (f : Ctx → Ctx) : s.onCtx s.ctx.num f = { s with ctx := f s.ctx } := by
  simp [State.onCtx]
theorem State.onCore_self (s : State) (f : Core → Core) : s.onCore s.core.num f = { s with core := f s.core } := by
  simp [State.onCore]
@[simp] theorem State.onCtx_pk (s : State) (n : Nat) (f : Ctx → Ctx) : (s.onCtx n f).pk = s.pk := by
  unfold State.onCtx
  simp only
  split
  · rfl
  · split <;> rfl
@[simp] theorem State.onCore_pk (s : State) (n : Nat) (f : Core → Core) : (s.onCore n f).pk = s.pk := by
  unfold State.onCore
  simp only
  split <;> rfl
@[simp] theorem State.onAll_pk (s : State) (f : Ctx → Ctx) : (s.onAll f).pk = s.pk := rfl
@[simp] theorem State.onLanding_mem (s : State) (o : Op) (f : Pend → Pend) : (s.onLanding o f).pk.mem = s.pk.mem := by
  unfold State.onLanding
  simp only [State.updPk]
  split <;> simp
@[simp] theorem State.noteArrival_pk (s : State) (o : Op) : (s.noteArrival o).pk = s.pk := by
  unfold State.noteArrival
  simp only
  split <;> simp
theorem State.landFault_mem (s : State) (o : Op) (r : FaultRec) (h : ∀ p ∈ o.kind.pieces, p.space = .spad → p.addr < 32 * 2 ^ 22) :
    (s.landFault o r).pk.mem = s.pk.mem := by
  simp [State.landFault, Pack.saveThrough_eq _ _ h]
@[simp] theorem State.fillLanding_mem (s : State) (o : Op) (sh : Shape) (bs : List Byte) : (s.fillLanding o sh bs).pk.mem = s.pk.mem := by
  simp [State.fillLanding]
theorem State.presentLanding_mem (s : State) (o : Op) (h : ∀ p ∈ o.kind.pieces, p.space = .spad → p.addr < 32 * 2 ^ 22) :
    (s.presentLanding o).pk.mem = s.pk.mem := by
  simp [State.presentLanding, Pack.saveThrough_eq _ _ h]

/-! ### Faults -/

/-- Freezing leaves the package but for the stream's report and the agenda, the core and the other contexts. -/
theorem State.freeze_frame (s : State) (c : Nat) (pc : Dpa) (r : FaultRec) :
    (s.freeze c pc r).core = s.core ∧ (s.freeze c pc r).sib = s.sib ∧ (s.freeze c pc r).todo = s.todo ∧
    (s.freeze c pc r).past = s.past ∧ (s.freeze c pc r).pk.mem = s.pk.mem ∧ (s.freeze c pc r).pk.io = s.pk.io ∧
    (s.freeze c pc r).pk.msc = s.pk.msc ∧ (s.freeze c pc r).ctx.num = s.ctx.num := by
  unfold State.freeze State.noteEnd
  simp only
  split <;> simp [State.updPk, Pack.scheduleCc, Pack.schedule]

/-- Taking a fault, by handler or by freezing, leaves the package but for the stream's report and the agenda, the core and
the other contexts. -/
theorem State.enterTrap_frame (s : State) (r : FaultRec) :
    (s.enterTrap r).core = s.core ∧ (s.enterTrap r).sib = s.sib ∧ (s.enterTrap r).todo = s.todo ∧ (s.enterTrap r).past = s.past ∧
    (s.enterTrap r).pk.mem = s.pk.mem ∧ (s.enterTrap r).pk.io = s.pk.io ∧ (s.enterTrap r).pk.msc = s.pk.msc ∧
    (s.enterTrap r).ctx.num = s.ctx.num := by
  unfold State.enterTrap
  simp only
  split
  · exact State.freeze_frame s 2 r.pc r
  · split
    · exact State.freeze_frame s 4 r.pc r
    · simp [Pack.forget]
@[simp] theorem State.enterTrap_mem (s : State) (r : FaultRec) : (s.enterTrap r).pk.mem = s.pk.mem :=
  (State.enterTrap_frame s r).2.2.2.2.1

@[simp] theorem State.takeFault_mem (s : State) (r : FaultRec) : (s.takeFault r).pk.mem = s.pk.mem := by simp [State.takeFault]
@[simp] theorem State.logMet_mem (s : State) (r : FaultRec) : (s.logMet r).pk.mem = s.pk.mem := by
  simp [State.logMet, Pack.logError, Pack.ioWr]
@[simp] theorem State.markStall_mem (s : State) : s.markStall.pk.mem = s.pk.mem := rfl
@[simp] theorem State.fetchEntry_mem (s : State) (i cc : Nat) : (s.fetchEntry i cc).pk.mem = s.pk.mem := rfl

/-- An operation that does not complete in this cycle leaves memory as it was. -/
theorem deliver_mem (s t : State) (r : Res) (hr : ∀ u, r = .ok u → u.pk.mem = s.pk.mem) (h : deliver s r = .next t) :
    t.pk.mem = s.pk.mem := by
  match r, hr, h with
  | .ok u, hr, h => cases h; exact hr _ rfl
  | .error (.fault f), _, h => cases h; simp
  | .error (.met f), _, h => cases h; simp
  | .error .stall, _, h => cases h; simp
  | .error (.fetch i), _, h => cases h; simp

end Sys2Proof.Machine
end

