-- ==== Sys2Proof/Tests/Slice0.lean ====
section
/-! SUPPORT. Tests: well-formedness, words and what they decode to, single steps, and for each statement a state that meets its
hypotheses. Expected values are from the manual's tables and examples or worked by hand from its rules. -/
namespace Sys2Proof.Tests
open Sys2Proof Sys2Proof.Machine
set_option Elab.async false

/-! ### Decoding: a word for every constructor, from match, mask and fields of its row of the opcode table, guard p0. The groups
of bits are guard, N, Q, opcode, and the fields D, A, B and the last two bits of R113. -/

/-- Each word decodes to its instruction, and the instruction encodes to its word. -/
def decodesAll (c : SlotClass) (l : List (BitVec 32 × EngineOps × Instr)) : Bool :=
  l.all (fun r => decide (decodeSlot c r.1 = .ok ⟨⟨0, 0, 0⟩, r.2.1, r.2.2⟩) && decide (encode ⟨⟨0, 0, 0⟩, r.2.1, r.2.2⟩ = r.1) &&
    wellFormed ⟨⟨0, 0, 0⟩, r.2.1, r.2.2⟩)

theorem test_decode_S1 : decodesAll .S [
    (0b0000_0_00_00000000_10101_01010_11011_00, ⟨0, 0, 0⟩, .add 21 10 27),
    (0b0000_0_00_00000001_10101_01010_11011_00, ⟨0, 0, 0⟩, .sub 21 10 27),
    (0b0000_0_00_00000010_10101_01010_11011_00, ⟨0, 0, 0⟩, .mul 21 10 27),
    (0b0000_0_00_00000011_10101_01010_11011_00, ⟨0, 0, 0⟩, .mulh 21 10 27),
    (0b0000_0_00_00000100_10101_01010_11011_00, ⟨0, 0, 0⟩, .mulhn 21 10 27),
    (0b0000_0_00_00000101_10101_01010_11011_00, ⟨0, 0, 0⟩, .div 21 10 27),
    (0b0000_0_00_00000110_10101_01010_11011_00, ⟨0, 0, 0⟩, .divn 21 10 27),
    (0b0000_0_00_00000111_10101_01010_11011_00, ⟨0, 0, 0⟩, .rem 21 10 27),
    (0b0000_0_00_00001000_10101_01010_11011_00, ⟨0, 0, 0⟩, .remn 21 10 27),
    (0b0000_0_00_00001001_10101_01010_11011_00, ⟨0, 0, 0⟩, .and 21 10 27),
    (0b0000_0_00_00001010_10101_01010_11011_00, ⟨0, 0, 0⟩, .or 21 10 27),
    (0b0000_0_00_00001011_10101_01010_11011_00, ⟨0, 0, 0⟩, .xor 21 10 27),
    (0b0000_0_00_00001100_10101_01010_11011_00, ⟨0, 0, 0⟩, .andn 21 10 27),
    (0b0000_0_00_00001101_10101_01010_11011_00, ⟨0, 0, 0⟩, .sll 21 10 27),
    (0b0000_0_00_00001110_10101_01010_11011_00, ⟨0, 0, 0⟩, .srl 21 10 27),
    (0b0000_0_00_00001111_10101_01010_11011_00, ⟨0, 0, 0⟩, .sra 21 10 27)] = true := by
  decide +kernel

theorem test_decode_S2 : decodesAll .S [
    (0b0000_0_00_00010000_10101_01010_11011_00, ⟨0, 0, 0⟩, .min 21 10 27),
    (0b0000_0_00_00010001_10101_01010_11011_00, ⟨0, 0, 0⟩, .max 21 10 27),
    (0b0000_0_00_00010010_10101_01010_11011_00, ⟨0, 0, 0⟩, .minn 21 10 27),
    (0b0000_0_00_00010011_10101_01010_11011_00, ⟨0, 0, 0⟩, .maxn 21 10 27),
    (0b0000_0_00_00010100_10101_01010_00000_00, ⟨0, 0, 0⟩, .clz 21 10),
    (0b0000_0_00_00010101_10101_01010_00000_00, ⟨0, 0, 0⟩, .ctz 21 10),
    (0b0000_0_00_00010110_10101_01010_00000_00, ⟨0, 0, 0⟩, .popc 21 10),
    (0b0000_0_00_00010111_10101_01010_11011_01, ⟨0, 0, 0⟩, .adds 21 10 27 1),
    (0b0000_0_00_00011000_10101_01010_11011_01, ⟨0, 0, 0⟩, .subs 21 10 27 1),
    (0b0000_0_00_00011001_10101_01010_00000_10, ⟨0, 0, 0⟩, .sext 21 10 2),
    (0b0000_0_00_00011010_10101_01010_00000_10, ⟨0, 0, 0⟩, .zext 21 10 2),
    (0b0000_0_00_00011011_10101_01010_11011_01, ⟨0, 0, 0⟩, .bfx 21 10 27 1),
    (0b0000_0_00_00011100_10101_01010_11011_00, ⟨0, 0, 0⟩, .bfi 21 10 27),
    (0b0000_0_00_00011101_10101_01010_00000_00, ⟨0, 0, 0⟩, .mov 21 10),
    (0b0000_0_00_00100000_10101_01010_00110_11, ⟨0, 0, 0⟩, .addi 21 10 27),
    (0b0000_0_00_00100001_10101_01010_00110_11, ⟨0, 0, 0⟩, .muli 21 10 27)] = true := by
  decide +kernel

theorem test_decode_S3 : decodesAll .S [
    (0b0000_0_00_00100010_10101_01010_00110_11, ⟨0, 0, 0⟩, .andi 21 10 27),
    (0b0000_0_00_00100011_10101_01010_00110_11, ⟨0, 0, 0⟩, .ori 21 10 27),
    (0b0000_0_00_00100100_10101_01010_00110_11, ⟨0, 0, 0⟩, .xori 21 10 27),
    (0b0000_0_00_00100101_10101_01010_00110_11, ⟨0, 0, 0⟩, .slli 21 10 27),
    (0b0000_0_00_00100110_10101_01010_00110_11, ⟨0, 0, 0⟩, .srli 21 10 27),
    (0b0000_0_00_00100111_10101_01010_00110_11, ⟨0, 0, 0⟩, .srai 21 10 27),
    (0b0000_0_00_00101000_10101_01010_00110_11, ⟨0, 0, 0⟩, .mini 21 10 27),
    (0b0000_0_00_00101001_10101_01010_00110_11, ⟨0, 0, 0⟩, .maxi 21 10 27),
    (0b0000_0_00_00101010_10101_00000_00010_10, ⟨0, 0, 0⟩, .li 21 10),
    (0b0000_0_00_00101011_10101_01010_00110_11, ⟨0, 0, 0⟩, .lih 21 10 27),
    (0b0000_0_00_01000000_01111_01010_11011_00, ⟨0, 0, 0⟩, .cmpeq 15 10 27),
    (0b0000_0_00_01000001_01111_01010_11011_00, ⟨0, 0, 0⟩, .cmpne 15 10 27),
    (0b0000_0_00_01000010_01111_01010_11011_00, ⟨0, 0, 0⟩, .cmplt 15 10 27),
    (0b0000_0_00_01000011_01111_01010_11011_00, ⟨0, 0, 0⟩, .cmple 15 10 27),
    (0b0000_0_00_01000100_01111_01010_11011_00, ⟨0, 0, 0⟩, .cmpltn 15 10 27),
    (0b0000_0_00_01000101_01111_01010_11011_00, ⟨0, 0, 0⟩, .cmplen 15 10 27)] = true := by
  decide +kernel

theorem test_decode_S4 : decodesAll .S [
    (0b0000_0_00_01000110_01111_01010_00110_11, ⟨0, 0, 0⟩, .cmpeqi 15 10 27),
    (0b0000_0_00_01000111_01111_01010_00110_11, ⟨0, 0, 0⟩, .cmpnei 15 10 27),
    (0b0000_0_00_01001000_01111_01010_00110_11, ⟨0, 0, 0⟩, .cmplti 15 10 27),
    (0b0000_0_00_01001001_01111_01010_00110_11, ⟨0, 0, 0⟩, .cmplei 15 10 27),
    (0b0000_0_00_01001010_01111_01010_00110_11, ⟨0, 0, 0⟩, .cmpgti 15 10 27),
    (0b0000_0_00_01001011_01111_01010_00110_11, ⟨0, 0, 0⟩, .cmpgei 15 10 27),
    (0b0000_0_00_01001100_01111_01010_01111_00, ⟨0, 0, 0⟩, .pand 15 10 15),
    (0b0000_0_00_01001101_01111_01010_01111_00, ⟨0, 0, 0⟩, .por 15 10 15),
    (0b0000_0_00_01001110_01111_01010_01111_00, ⟨0, 0, 0⟩, .pxor 15 10 15),
    (0b0000_0_00_01001111_01111_01010_01111_00, ⟨0, 0, 0⟩, .pandn 15 10 15),
    (0b0000_0_00_01010000_01111_01010_00000_00, ⟨0, 0, 0⟩, .pnot 15 10),
    (0b0000_0_00_01010001_01111_01010_00000_00, ⟨0, 0, 0⟩, .pmov 15 10),
    (0b0000_0_00_01010010_01111_00000_00000_01, ⟨0, 0, 0⟩, .pset 15 1),
    (0b0000_0_00_01010011_10101_00000_00000_00, ⟨0, 0, 0⟩, .ptos 21),
    (0b0000_0_00_01010100_00000_10101_01010_00, ⟨0, 0, 0⟩, .spred 21 10),
    (0b0000_0_00_01100000_01111_01010_11011_00, ⟨0, 0, 0⟩, .hmk 15 10 27)] = true := by
  decide +kernel

theorem test_decode_S5 : decodesAll .S [
    (0b0000_0_00_01100001_01111_01010_11011_00, ⟨0, 0, 0⟩, .hadd 15 10 27),
    (0b0000_0_00_01100010_01111_01010_00110_11, ⟨0, 0, 0⟩, .haddi 15 10 27),
    (0b0000_0_00_01100011_10101_01010_00000_00, ⟨0, 0, 0⟩, .hidx 21 10),
    (0b0000_0_00_01100100_10101_01010_00000_00, ⟨0, 0, 0⟩, .hoff 21 10),
    (0b0000_0_00_01100101_01111_01010_11011_00, ⟨0, 0, 0⟩, .hseto 15 10 27),
    (0b0000_0_00_01100110_01111_01010_00000_00, ⟨0, 0, 0⟩, .hmov 15 10),
    (0b0000_0_00_01100111_01111_01010_11011_01, ⟨0, 0, 0⟩, .hchk 15 10 27 1),
    (0b0000_0_00_10000000_00000_00000_00101_01, ⟨0, 0, 0⟩, .b 21),
    (0b0000_0_00_10000001_00000_10101_00000_00, ⟨0, 0, 0⟩, .bx 21),
    (0b0000_0_00_10000010_00000_00000_00101_01, ⟨0, 0, 0⟩, .call 21),
    (0b0000_0_00_10000011_00000_10101_00000_00, ⟨0, 0, 0⟩, .callx 21),
    (0b0000_0_00_10000100_00000_00000_00000_00, ⟨0, 0, 0⟩, .ret),
    (0b0000_0_00_10000101_00000_00000_10101_01, ⟨0, 0, 0⟩, .bempty 21 1),
    (0b0000_0_00_10000110_00101_01010_10000_00, ⟨0, 0, 0⟩, .loop 5 10 64),
    (0b0000_0_00_10000111_00101_01010_11011_00, ⟨0, 0, 0⟩, .lstrd 5 10 27),
    (0b0000_0_00_10001000_00101_00000_00000_00, ⟨0, 0, 0⟩, .lbrk 5)] = true := by
  decide +kernel

theorem test_decode_S6 : decodesAll .S [
    (0b0000_0_00_10001001_10101_01010_01111_00, ⟨0, 0, 0⟩, .launch 21 10 15),
    (0b0000_0_00_10001010_00000_00000_00000_00, ⟨0, 0, 0⟩, .exit),
    (0b0000_0_00_10001011_00000_00000_00101_01, ⟨0, 0, 0⟩, .ppt 21),
    (0b0000_0_00_10001100_00000_10101_01010_01, ⟨0, 0, 0⟩, .frame 21 10 1),
    (0b0000_0_00_10001101_00000_00000_00000_00, ⟨0, 0, 0⟩, .nop),
    (0b0000_0_00_10100000_10101_01010_11011_01, ⟨0, 0, 0⟩, .wmrg 21 10 27 1),
    (0b0000_0_00_10100001_00000_10101_00000_00, ⟨0, 0, 0⟩, .wwait 21),
    (0b0000_0_00_10100010_01111_01010_00000_00, ⟨0, 0, 0⟩, .wtest 15 10),
    (0b0000_0_00_10100011_10101_01010_00000_11, ⟨0, 0, 0⟩, .tlread 21 10 3),
    (0b0000_0_00_10100100_00010_10100_00101_00, ⟨0, 0, 0⟩, .fence 21 10),
    (0b0000_0_00_10100101_10101_00000_00000_01, ⟨0, 0, 0⟩, .whzn 21 1),
    (0b0000_0_00_11000000_10101_00000_00010_10, ⟨0, 0, 0⟩, .csrr 21 10),
    (0b0000_0_00_11000001_10101_01010_00110_11, ⟨0, 0, 0⟩, .csrw 21 10 27),
    (0b0000_0_00_11000010_10101_01010_00110_11, ⟨0, 0, 0⟩, .csrs 21 10 27),
    (0b0000_0_00_11000011_10101_01010_00110_11, ⟨0, 0, 0⟩, .csrc 21 10 27),
    (0b0000_0_00_11000100_10101_00000_00000_00, ⟨0, 0, 0⟩, .rdts 21)] = true := by
  decide +kernel

theorem test_decode_S7 : decodesAll .S [
    (0b0000_0_00_11000101_00000_10101_00010_10, ⟨0, 0, 0⟩, .trap 21 10),
    (0b0000_0_00_11000110_00000_00000_00000_00, ⟨0, 0, 0⟩, .rett),
    (0b0000_0_00_11100000_00000_01111_01010_00, ⟨0, 0, 0⟩, .tbegin 15 10),
    (0b0000_0_00_11100001_00010_01010_10100_01, ⟨0, 0, 0⟩, .trec 21 10 1),
    (0b0000_0_00_11100010_00010_01010_10100_00, ⟨0, 0, 0⟩, .trecp 21 10),
    (0b0000_0_00_11100011_10101_00000_00000_00, ⟨0, 0, 0⟩, .tend 21),
    (0b0000_0_00_11100100_00000_01111_01010_00, ⟨0, 0, 0⟩, .trev 15 10),
    (0b0000_0_00_11100101_00010_01010_10100_01, ⟨0, 0, 0⟩, .tpop 21 10 1),
    (0b0000_0_00_11100110_00010_01010_10100_00, ⟨0, 0, 0⟩, .tpopp 21 10)] = true := by
  decide +kernel

theorem test_decode_V1 : decodesAll .V [
    (0b0000_0_00_00000000_10101_01010_11011_01, ⟨0, 0, 0⟩, .vaddF 21 10 27 1),
    (0b0000_0_00_00000001_10101_01010_11011_01, ⟨0, 0, 0⟩, .vsubF 21 10 27 1),
    (0b0000_0_00_00000010_10101_01010_11011_01, ⟨0, 0, 0⟩, .vmulF 21 10 27 1),
    (0b0000_0_00_00000011_10101_01010_11011_01, ⟨0, 0, 0⟩, .vfma 21 10 27 1),
    (0b0000_0_00_00000100_10101_01010_11011_01, ⟨0, 0, 0⟩, .vfms 21 10 27 1),
    (0b0000_0_00_00000101_10101_01010_11011_01, ⟨0, 0, 0⟩, .vfnma 21 10 27 1),
    (0b0000_0_00_00000110_10101_01010_11011_01, ⟨0, 0, 0⟩, .vdiv 21 10 27 1),
    (0b0000_0_00_00000111_10101_01010_11011_01, ⟨0, 0, 0⟩, .vminF 21 10 27 1),
    (0b0000_0_00_00001000_10101_01010_11011_01, ⟨0, 0, 0⟩, .vmaxF 21 10 27 1),
    (0b0000_0_00_00001001_10101_01010_00000_10, ⟨0, 0, 0⟩, .vabsF 21 10 2),
    (0b0000_0_00_00001010_10101_01010_00000_10, ⟨0, 0, 0⟩, .vnegF 21 10 2),
    (0b0000_0_00_00001011_10101_01010_11011_01, ⟨0, 0, 0⟩, .vcmpeqF 21 10 27 1),
    (0b0000_0_00_00001100_10101_01010_11011_01, ⟨0, 0, 0⟩, .vcmpltF 21 10 27 1),
    (0b0000_0_00_00001101_10101_01010_11011_01, ⟨0, 0, 0⟩, .vcmpleF 21 10 27 1),
    (0b0000_0_00_00001110_10101_01010_11011_01, ⟨0, 0, 0⟩, .vcmpun 21 10 27 1),
    (0b0000_0_00_00001111_10101_01010_11011_01, ⟨0, 0, 0⟩, .vscalb 21 10 27 1)] = true := by
  decide +kernel

theorem test_decode_V2 : decodesAll .V [
    (0b0000_0_00_00010000_10101_01010_00100_01, ⟨0, 0, 0⟩, .vrint 21 10 4 1),
    (0b0000_0_00_01000001_01010_11011_10101_11, ⟨0, 0, 0⟩, .vaddI 1 10 27 21 3),
    (0b0000_0_00_01000011_01010_11011_10101_11, ⟨0, 0, 0⟩, .vsubI 1 10 27 21 3),
    (0b0000_0_00_01000101_01010_11011_10101_11, ⟨0, 0, 0⟩, .vadds 1 10 27 21 3),
    (0b0000_0_00_01000111_01010_11011_10101_11, ⟨0, 0, 0⟩, .vsubs 1 10 27 21 3),
    (0b0000_0_00_01001001_01010_11011_10101_11, ⟨0, 0, 0⟩, .vmulI 1 10 27 21 3),
    (0b0000_0_00_01001011_01010_11011_10101_11, ⟨0, 0, 0⟩, .vmulh 1 10 27 21 3),
    (0b0000_0_00_01001101_01010_11011_10101_11, ⟨0, 0, 0⟩, .vminI 1 10 27 21 3),
    (0b0000_0_00_01001111_01010_11011_10101_11, ⟨0, 0, 0⟩, .vmaxI 1 10 27 21 3),
    (0b0000_0_00_01010001_01010_11011_10101_11, ⟨0, 0, 0⟩, .vcmpeqI 1 10 27 21 3),
    (0b0000_0_00_01010011_01010_11011_10101_11, ⟨0, 0, 0⟩, .vcmpltI 1 10 27 21 3),
    (0b0000_0_00_01010101_01010_11011_10101_11, ⟨0, 0, 0⟩, .vcmpleI 1 10 27 21 3),
    (0b0000_0_00_01010111_01010_11011_10101_11, ⟨0, 0, 0⟩, .vand 1 10 27 21 3),
    (0b0000_0_00_01011001_01010_11011_10101_11, ⟨0, 0, 0⟩, .vor 1 10 27 21 3),
    (0b0000_0_00_01011011_01010_11011_10101_11, ⟨0, 0, 0⟩, .vxor 1 10 27 21 3),
    (0b0000_0_00_01011101_01010_11011_00000_01, ⟨0, 0, 0⟩, .vnot 1 10 27 1)] = true := by
  decide +kernel

theorem test_decode_V3 : decodesAll .V [
    (0b0000_0_00_01011111_01010_11011_10101_11, ⟨0, 0, 0⟩, .vsll 1 10 27 21 3),
    (0b0000_0_00_01100001_01010_11011_10101_11, ⟨0, 0, 0⟩, .vsrl 1 10 27 21 3),
    (0b0000_0_00_01100011_01010_11011_10101_11, ⟨0, 0, 0⟩, .vsra 1 10 27 21 3),
    (0b0000_0_00_01100100_10101_01010_00000_11, ⟨0, 0, 0⟩, .vabsI 21 10 3),
    (0b0000_0_00_01100110_10101_01010_00000_11, ⟨0, 0, 0⟩, .vnegI 21 10 3),
    (0b0000_0_00_10000000_10101_01010_11011_00, ⟨0, 0, 0⟩, .cvt 21 10 27),
    (0b0000_0_00_10000001_10101_01010_11011_00, ⟨0, 0, 0⟩, .qnt 21 10 27),
    (0b0000_0_00_10000010_10101_01010_11011_00, ⟨0, 0, 0⟩, .dqnt 21 10 27),
    (0b0000_0_00_10100000_10101_01010_00000_00, ⟨0, 0, 0⟩, .vmov 21 10),
    (0b0000_0_00_10100001_10101_01010_01110_00, ⟨0, 0, 0⟩, .vbcast 21 10 14),
    (0b0000_0_00_10100010_10101_01010_11011_00, ⟨0, 0, 0⟩, .vbcastl 21 10 27),
    (0b0000_0_00_10100011_10101_01010_11011_00, ⟨0, 0, 0⟩, .vperm 21 10 27),
    (0b0000_0_00_10100100_10101_01010_11011_00, ⟨0, 0, 0⟩, .vrot 21 10 27),
    (0b0000_0_00_10100101_10101_01010_11011_00, ⟨0, 0, 0⟩, .vsel 21 10 27),
    (0b0000_0_00_10100110_10101_01010_00000_00, ⟨0, 0, 0⟩, .vrsum 21 10),
    (0b0000_0_00_10100111_10101_01010_00000_00, ⟨0, 0, 0⟩, .vrmax 21 10)] = true := by
  decide +kernel

theorem test_decode_V4 : decodesAll .V [
    (0b0000_0_00_10101000_10101_01010_00000_00, ⟨0, 0, 0⟩, .vrmin 21 10),
    (0b0000_0_00_10101001_10101_01010_11011_01, ⟨0, 0, 0⟩, .vdot 21 10 27 1),
    (0b0000_0_00_10101010_10101_01010_11011_00, ⟨0, 0, 0⟩, .vext 21 10 27),
    (0b0000_0_00_10101011_10101_01010_11011_00, ⟨0, 0, 0⟩, .vins 21 10 27),
    (0b0000_0_00_10101100_10101_01010_11011_01, ⟨0, 0, 0⟩, .vzip 21 10 27 1),
    (0b0000_0_00_10101101_10101_01010_11011_01, ⟨0, 0, 0⟩, .vunzip 21 10 27 1),
    (0b0000_0_00_11000001_01010_11011_00000_01, ⟨0, 0, 0⟩, .exp2 1 10 27 1),
    (0b0000_0_00_11000011_01010_11011_00000_01, ⟨0, 0, 0⟩, .log2 1 10 27 1),
    (0b0000_0_00_11000101_01010_11011_00000_01, ⟨0, 0, 0⟩, .rcp 1 10 27 1),
    (0b0000_0_00_11000111_01010_11011_00000_01, ⟨0, 0, 0⟩, .rsq 1 10 27 1),
    (0b0000_0_00_11001001_01010_11011_00000_01, ⟨0, 0, 0⟩, .sqrt 1 10 27 1),
    (0b0000_0_00_11001011_01010_11011_00000_01, ⟨0, 0, 0⟩, .sin 1 10 27 1),
    (0b0000_0_00_11001101_01010_11011_00000_01, ⟨0, 0, 0⟩, .cos 1 10 27 1),
    (0b0000_0_00_11001111_01010_11011_00000_01, ⟨0, 0, 0⟩, .tanh 1 10 27 1),
    (0b0000_0_00_11100000_00000_10101_00000_00, ⟨0, 0, 0⟩, .mpush 21),
    (0b0000_0_00_11100001_00000_00000_00000_00, ⟨0, 0, 0⟩, .minv)] = true := by
  decide +kernel

theorem test_decode_V5 : decodesAll .V [
    (0b0000_0_00_11100010_00000_00000_00000_00, ⟨0, 0, 0⟩, .mpop)] = true := by
  decide +kernel

theorem test_decode_M1 : decodesAll .M [
    (0b0000_0_00_00000000_01111_00011_00111_01, ⟨0, 0, 0⟩, .mmaBf16 15 3 7 1),
    (0b0000_0_00_00000001_01111_00011_00111_11, ⟨0, 0, 0⟩, .mmaFp8 15 3 7 1 1),
    (0b0000_0_00_00000010_01111_00011_00111_00, ⟨0, 0, 0⟩, .mmaE2m1 15 3 7),
    (0b0000_0_00_00000011_01111_00011_00111_11, ⟨0, 0, 0⟩, .mmaInt8 15 3 7 1 1),
    (0b0000_0_00_00000100_01111_00011_00111_00, ⟨0, 0, 0⟩, .mmaQ8 15 3 7),
    (0b0000_0_00_00000101_01111_00011_00111_00, ⟨0, 0, 0⟩, .mmaQ4 15 3 7),
    (0b0000_0_00_00001000_01111_00011_00111_01, ⟨0, 0, 0⟩, .mmazBf16 15 3 7 1),
    (0b0000_0_00_00001001_01111_00011_00111_11, ⟨0, 0, 0⟩, .mmazFp8 15 3 7 1 1),
    (0b0000_0_00_00001010_01111_00011_00111_00, ⟨0, 0, 0⟩, .mmazE2m1 15 3 7),
    (0b0000_0_00_00001011_01111_00011_00111_11, ⟨0, 0, 0⟩, .mmazInt8 15 3 7 1 1),
    (0b0000_0_00_00001100_01111_00011_00111_00, ⟨0, 0, 0⟩, .mmazQ8 15 3 7),
    (0b0000_0_00_00001101_01111_00011_00111_00, ⟨0, 0, 0⟩, .mmazQ4 15 3 7),
    (0b0000_0_00_01000000_01111_00000_00000_01, ⟨0, 0, 0⟩, .mzero 15 1),
    (0b0000_0_00_01000001_01111_00011_00000_00, ⟨0, 0, 0⟩, .mld 15 3),
    (0b0000_0_00_01000010_10101_01010_00111_00, ⟨0, 0, 0⟩, .mst 21 10 7),
    (0b0000_0_00_01000011_10101_01010_11011_00, ⟨0, 0, 0⟩, .mrowv 21 10 27)] = true := by
  decide +kernel

theorem test_decode_M2 : decodesAll .M [
    (0b0000_0_00_01000100_01111_01010_11011_00, ⟨0, 0, 0⟩, .mvrow 15 10 27),
    (0b0000_0_00_01000101_01111_01010_01010_10, ⟨0, 0, 0⟩, .mcvt 15 10 1 2 2),
    (0b0000_0_00_01000110_00111_01010_11011_00, ⟨0, 0, 0⟩, .mrec 7 10 27),
    (0b0000_0_00_01000111_00111_00011_11011_01, ⟨0, 0, 0⟩, .mrecr 7 3 27 1),
    (0b0000_0_00_01001000_01111_01010_00000_00, ⟨0, 0, 0⟩, .mmov 15 10)] = true := by
  decide +kernel

theorem test_decode_L1 : decodesAll .L [
    (0b0000_0_00_00000000_10101_01010_11011_01, ⟨0, 0, 0⟩, .ldl 21 10 27 1),
    (0b0000_0_00_00000001_10101_01010_11011_01, ⟨0, 0, 0⟩, .stl 21 10 27 1),
    (0b0000_0_00_00000010_10101_01010_11011_01, ⟨0, 0, 0⟩, .ldlv 21 10 27 1),
    (0b0000_0_00_00000011_10101_01010_11011_01, ⟨0, 0, 0⟩, .stlv 21 10 27 1),
    (0b0000_0_00_00000100_10101_01010_11011_00, ⟨0, 0, 0⟩, .ldlx 21 10 27),
    (0b0000_0_00_00000101_10101_01010_11011_00, ⟨0, 0, 0⟩, .stlx 21 10 27),
    (0b0000_0_00_00000110_10101_01010_11011_01, ⟨0, 0, 0⟩, .ldlw 21 10 27 1),
    (0b0000_0_00_00000111_10101_01010_11011_01, ⟨0, 0, 0⟩, .ldlvw 21 10 27 1),
    (0b0000_0_00_00001000_10101_01010_11011_01, ⟨0, 0, 0⟩, .ldc 21 10 27 1),
    (0b0000_0_00_00001001_10101_01010_11011_01, ⟨0, 0, 0⟩, .ldcw 21 10 27 1),
    (0b0000_0_00_01000000_00011_01010_00000_00, ⟨0, 0, 0⟩, .spat 3 10),
    (0b0000_0_00_01000001_00011_00000_00000_00, ⟨0, 0, 0⟩, .sgo 3),
    (0b0000_0_00_01000010_00011_00000_00000_00, ⟨0, 0, 0⟩, .sstop 3),
    (0b0000_0_00_01000011_10101_00001_11011_00, ⟨0, 0, 0⟩, .qpop 21 1 27),
    (0b0000_0_00_01000100_10101_00001_11011_00, ⟨0, 0, 0⟩, .qpops 21 1 27),
    (0b0000_0_00_01000101_10101_00001_11011_00, ⟨0, 0, 0⟩, .qstat 21 1 27)] = true := by
  decide +kernel

theorem test_decode_L2 : decodesAll .L [
    (0b0000_0_00_01100000_10101_01010_11011_11, ⟨0, 0, 0⟩, .laadd 21 10 27 1 1),
    (0b0000_0_00_01100001_10101_01010_11011_11, ⟨0, 0, 0⟩, .lamin 21 10 27 1 1),
    (0b0000_0_00_01100010_10101_01010_11011_11, ⟨0, 0, 0⟩, .lamax 21 10 27 1 1),
    (0b0000_0_00_01100011_10101_01010_11011_11, ⟨0, 0, 0⟩, .laand 21 10 27 1 1),
    (0b0000_0_00_01100100_10101_01010_11011_11, ⟨0, 0, 0⟩, .laor 21 10 27 1 1),
    (0b0000_0_00_01100101_10101_01010_11011_11, ⟨0, 0, 0⟩, .laxor 21 10 27 1 1),
    (0b0000_0_00_01100110_10101_01010_11011_11, ⟨0, 0, 0⟩, .laswp 21 10 27 1 1),
    (0b0000_0_00_01100111_10101_01010_11011_11, ⟨0, 0, 0⟩, .lacas 21 10 27 1 1),
    (0b0000_0_00_01101000_10101_01010_11011_10, ⟨0, 0, 0⟩, .lafadd 21 10 27 1),
    (0b0000_0_00_01101001_10101_01010_11011_10, ⟨0, 0, 0⟩, .lafmin 21 10 27 1),
    (0b0000_0_00_01101010_10101_01010_11011_10, ⟨0, 0, 0⟩, .lafmax 21 10 27 1),
    (0b0000_0_00_10000000_10101_01010_11011_01, ⟨0, 0, 0⟩, .wld 21 10 27 1),
    (0b0000_0_00_10000001_10101_01010_11011_01, ⟨0, 0, 0⟩, .wldx 21 10 27 1),
    (0b0000_0_00_10000010_10101_01010_11011_00, ⟨0, 0, 0⟩, .wlds 21 10 27),
    (0b0000_0_00_10000011_10101_01010_11011_00, ⟨0, 0, 0⟩, .wsnext 21 10 27),
    (0b0000_0_00_10010000_00000_01111_01010_00, ⟨0, 0, 0⟩, .sinv 15 10)] = true := by
  decide +kernel

theorem test_decode_L3 : decodesAll .L [
    (0b0000_0_00_10010001_00000_00000_00000_00, ⟨0, 0, 0⟩, .sinva)] = true := by
  decide +kernel

theorem test_decode_G1 : decodesAll .G [
    (0b0000_0_00_00000000_10101_01010_11011_01, ⟨0, 0, 0⟩, .ldg 21 10 27 1),
    (0b0000_0_00_00000001_10101_01010_11011_01, ⟨0, 0, 0⟩, .stg 21 10 27 1),
    (0b0000_0_00_00000010_10101_01010_11011_01, ⟨0, 0, 0⟩, .ldgv 21 10 27 1),
    (0b0000_0_00_00000011_10101_01010_11011_01, ⟨0, 0, 0⟩, .stgv 21 10 27 1),
    (0b0000_0_00_00000100_10101_01010_11011_00, ⟨0, 0, 0⟩, .ldgx 21 10 27),
    (0b0000_0_00_00000101_10101_01010_11110_00, ⟨0, 0, 0⟩, .stgx 21 10 15),
    (0b0000_0_00_00000110_10101_01010_11011_01, ⟨0, 0, 0⟩, .ldgw 21 10 27 1),
    (0b0000_0_00_00000111_10101_01010_11011_01, ⟨0, 0, 0⟩, .ldgvw 21 10 27 1),
    (0b0000_0_00_00001000_10101_01010_11011_01, ⟨0, 0, 0⟩, .ldgxw 21 10 27 1),
    (0b0000_0_00_00001001_10101_01010_11011_01, ⟨0, 0, 0⟩, .strc 21 10 27 1),
    (0b0000_0_00_00001010_10101_01010_11011_01, ⟨0, 0, 0⟩, .strcv 21 10 27 1),
    (0b0000_0_00_00001011_10101_01010_11011_01, ⟨0, 0, 0⟩, .stred 21 10 27 1),
    (0b0000_0_00_00110000_01010_01010_01111_00, ⟨10, 10, 15⟩, .copy),
    (0b0000_0_00_00110001_01010_01010_11011_00, ⟨10, 10, 27⟩, .copyl),
    (0b0000_0_00_00110010_01010_01010_01111_00, ⟨10, 10, 15⟩, .copyg),
    (0b0000_0_00_00110011_00000_01111_01010_01, ⟨0, 0, 0⟩, .pref 15 10 1)] = true := by
  decide +kernel

theorem test_decode_G2 : decodesAll .G [
    (0b0000_0_00_00110100_01010_01010_11011_00, ⟨10, 10, 27⟩, .skrd),
    (0b0000_0_00_00110101_00011_01010_00000_00, ⟨3, 10, 0⟩, .skpat),
    (0b0000_0_00_01010000_10101_01010_11011_11, ⟨0, 0, 0⟩, .gaadd 21 10 27 1 1),
    (0b0000_0_00_01010001_10101_01010_11011_11, ⟨0, 0, 0⟩, .gamin 21 10 27 1 1),
    (0b0000_0_00_01010010_10101_01010_11011_11, ⟨0, 0, 0⟩, .gamax 21 10 27 1 1),
    (0b0000_0_00_01010011_10101_01010_11011_11, ⟨0, 0, 0⟩, .gaand 21 10 27 1 1),
    (0b0000_0_00_01010100_10101_01010_11011_11, ⟨0, 0, 0⟩, .gaor 21 10 27 1 1),
    (0b0000_0_00_01010101_10101_01010_11011_11, ⟨0, 0, 0⟩, .gaxor 21 10 27 1 1),
    (0b0000_0_00_01010110_10101_01010_11011_11, ⟨0, 0, 0⟩, .gaswp 21 10 27 1 1),
    (0b0000_0_00_01010111_10101_01010_11011_11, ⟨0, 0, 0⟩, .gacas 21 10 27 1 1),
    (0b0000_0_00_01011000_10101_01010_11011_10, ⟨0, 0, 0⟩, .gafadd 21 10 27 1),
    (0b0000_0_00_01011001_10101_01010_11011_10, ⟨0, 0, 0⟩, .gafmin 21 10 27 1),
    (0b0000_0_00_01011010_10101_01010_11011_10, ⟨0, 0, 0⟩, .gafmax 21 10 27 1),
    (0b0000_0_00_01110000_10101_01010_11011_00, ⟨0, 0, 0⟩, .mscwb 21 10 27),
    (0b0000_0_00_01110001_10101_01010_11011_00, ⟨0, 0, 0⟩, .mscinv 21 10 27),
    (0b0000_0_00_10000000_01010_01010_00000_00, ⟨10, 10, 0⟩, .gtt)] = true := by
  decide +kernel

theorem test_decode_G3 : decodesAll .G [
    (0b0000_0_00_10000001_01010_01010_00000_00, ⟨10, 10, 0⟩, .ggo),
    (0b0000_0_00_10000010_01010_00000_00000_00, ⟨10, 0, 0⟩, .gsave),
    (0b0000_0_00_10000011_01010_01010_00000_00, ⟨10, 10, 0⟩, .grestore),
    (0b0000_0_00_10000100_10101_01010_11011_00, ⟨21, 10, 27⟩, .gstat),
    (0b0000_0_00_10100000_01010_01010_01111_00, ⟨10, 10, 15⟩, .coll),
    (0b0000_0_00_10100001_01010_01010_01111_00, ⟨10, 10, 15⟩, .embr),
    (0b0000_0_00_10110000_01010_00000_00000_00, ⟨10, 0, 0⟩, .vprep),
    (0b0000_0_00_10110001_10101_01010_11011_01, ⟨0, 0, 0⟩, .vround 21 10 27 1),
    (0b0000_0_00_10110010_10101_01010_11011_00, ⟨21, 10, 27⟩, .vstat)] = true := by
  decide +kernel
/-! ### Well-formedness: a term for each check, which the check refuses; with 1 in every field each passes. -/

theorem test_wf_refuses_1 : ([
    .sext 1 1 3, .zext 1 1 3, .cmpeq 16 1 1, .cmpne 16 1 1, .cmplt 16 1 1, .cmple 16 1 1, .cmpltn 16 1 1, .cmplen 16 1 1,
    .cmpeqi 16 1 1, .cmpnei 16 1 1, .cmplti 16 1 1, .cmplei 16 1 1, .cmpgti 16 1 1, .cmpgei 16 1 1, .pand 16 1 1,
    .pand 1 16 1, .pand 1 1 16, .por 16 1 1, .por 1 16 1, .por 1 1 16] : List Instr).all (fun i => !instrOk i) = true := by
  decide +kernel

theorem test_wf_refuses_2 : ([
    .pxor 16 1 1, .pxor 1 16 1, .pxor 1 1 16, .pandn 16 1 1, .pandn 1 16 1, .pandn 1 1 16, .pnot 16 1, .pnot 1 16,
    .pmov 16 1, .pmov 1 16, .pset 16 1, .pset 1 2, .hmk 16 1 1, .hadd 16 1 1, .hadd 1 16 1, .haddi 16 1 1, .haddi 1 16 1,
    .hidx 1 16, .hoff 1 16, .hseto 16 1 1] : List Instr).all (fun i => !instrOk i) = true := by
  decide +kernel

theorem test_wf_refuses_3 : ([
    .hseto 1 16 1, .hmov 16 1, .hmov 1 16, .hchk 16 1 1 1, .hchk 1 16 1 1, .loop 6 1 1, .loop 1 1 0, .loop 1 1 65,
    .lstrd 6 1 1, .lstrd 1 16 1, .lbrk 6, .launch 1 1 16, .wtest 16 1, .whzn 1 3, .tbegin 16 1, .trec 1 1 2, .trecp 1 16,
    .trev 16 1, .tpop 1 1 2, .tpopp 1 16] : List Instr).all (fun i => !instrOk i) = true := by
  decide +kernel

theorem test_wf_refuses_4 : ([
    .vaddF 1 1 1 3, .vsubF 1 1 1 3, .vmulF 1 1 1 3, .vfma 1 1 1 3, .vfms 1 1 1 3, .vfnma 1 1 1 3, .vdiv 1 1 1 3,
    .vminF 1 1 1 3, .vmaxF 1 1 1 3, .vabsF 1 1 3, .vnegF 1 1 3, .vcmpeqF 1 1 1 3, .vcmpltF 1 1 1 3, .vcmpleF 1 1 1 3,
    .vcmpun 1 1 1 3, .vscalb 1 1 1 3, .vrint 1 1 5 1, .vrint 1 1 1 3, .vbcast 1 1 0,
    .vbcast 1 1 6] : List Instr).all (fun i => !instrOk i) = true := by
  decide +kernel

theorem test_wf_refuses_5 : ([
    .vbcast 1 1 8, .vbcast 1 1 17, .exp2 1 1 1 3, .log2 1 1 1 3, .rcp 1 1 1 3, .rsq 1 1 1 3, .sqrt 1 1 1 3, .sin 1 1 1 3,
    .cos 1 1 1 3, .tanh 1 1 1 3, .mmaBf16 16 1 1 1, .mmaBf16 1 8 1 1, .mmaBf16 1 1 8 1, .mmaFp8 16 1 1 1 1,
    .mmaFp8 1 8 1 1 1, .mmaFp8 1 1 8 1 1, .mmaE2m1 16 1 1, .mmaE2m1 1 8 1, .mmaE2m1 1 1 8,
    .mmaInt8 16 1 1 1 1] : List Instr).all (fun i => !instrOk i) = true := by
  decide +kernel

theorem test_wf_refuses_6 : ([
    .mmaInt8 1 8 1 1 1, .mmaInt8 1 1 8 1 1, .mmaQ8 16 1 1, .mmaQ8 1 8 1, .mmaQ8 1 1 8, .mmaQ4 16 1 1, .mmaQ4 1 8 1,
    .mmaQ4 1 1 8, .mmazBf16 16 1 1 1, .mmazBf16 1 8 1 1, .mmazBf16 1 1 8 1, .mmazFp8 16 1 1 1 1, .mmazFp8 1 8 1 1 1,
    .mmazFp8 1 1 8 1 1, .mmazE2m1 16 1 1, .mmazE2m1 1 8 1, .mmazE2m1 1 1 8, .mmazInt8 16 1 1 1 1, .mmazInt8 1 8 1 1 1,
    .mmazInt8 1 1 8 1 1] : List Instr).all (fun i => !instrOk i) = true := by
  decide +kernel

theorem test_wf_refuses_7 : ([
    .mmazQ8 16 1 1, .mmazQ8 1 8 1, .mmazQ8 1 1 8, .mmazQ4 16 1 1, .mmazQ4 1 8 1, .mmazQ4 1 1 8, .mzero 16 1, .mzero 1 3,
    .mld 16 1, .mld 1 8, .mst 1 16 1, .mst 1 1 8, .mrowv 1 16 1, .mvrow 16 1 1, .mcvt 16 1 1 1 1, .mcvt 1 16 1 1 1,
    .mcvt 1 1 1 5 1, .mcvt 1 1 1 1 3, .mrec 8 1 1, .mrecr 8 1 1 1] : List Instr).all (fun i => !instrOk i) = true := by
  decide +kernel

theorem test_wf_refuses_8 : ([
    .mrecr 1 8 1 1, .mrecr 1 1 1 3, .mmov 16 1, .mmov 1 16, .ldc 1 16 1 1, .ldcw 1 16 1 1, .spat 4 1, .sgo 4, .sstop 4,
    .qpop 1 4 1, .qpops 1 4 1, .qstat 1 4 1, .sinv 16 1, .ldg 1 16 1 1, .stg 1 16 1 1, .ldgv 1 16 1 1, .stgv 1 16 1 1,
    .ldgx 1 16 1, .stgx 1 16 1, .ldgw 1 16 1 1] : List Instr).all (fun i => !instrOk i) = true := by
  decide +kernel

theorem test_wf_refuses_9 : ([
    .ldgvw 1 16 1 1, .ldgxw 1 16 1 1, .ldgxw 1 1 1 3, .strc 1 16 1 1, .strcv 1 16 1 1, .stred 1 16 1 1, .stred 1 1 1 3,
    .pref 16 1 1, .gaadd 1 16 1 1 1, .gamin 1 16 1 1 1, .gamax 1 16 1 1 1, .gaand 1 16 1 1 1, .gaor 1 16 1 1 1,
    .gaxor 1 16 1 1 1, .gaswp 1 16 1 1 1, .gacas 1 16 1 1 1, .gafadd 1 16 1 1, .gafmin 1 16 1 1, .gafmax 1 16 1 1,
    .mscwb 1 16 1] : List Instr).all (fun i => !instrOk i) = true := by
  decide +kernel

theorem test_wf_refuses_10 : ([
    .mscinv 1 16 1] : List Instr).all (fun i => !instrOk i) = true := by
  decide +kernel

theorem test_wf_accepts_1 : ([
    .sext 1 1 1, .zext 1 1 1, .cmpeq 1 1 1, .cmpne 1 1 1, .cmplt 1 1 1, .cmple 1 1 1, .cmpltn 1 1 1, .cmplen 1 1 1,
    .cmpeqi 1 1 1, .cmpnei 1 1 1, .cmplti 1 1 1, .cmplei 1 1 1, .cmpgti 1 1 1, .cmpgei 1 1 1, .pand 1 1 1, .por 1 1 1,
    .pxor 1 1 1, .pandn 1 1 1, .pnot 1 1, .pmov 1 1, .pset 1 1, .hmk 1 1 1, .hadd 1 1 1,
    .haddi 1 1 1] : List Instr).all instrOk = true := by
  decide +kernel

theorem test_wf_accepts_2 : ([
    .hidx 1 1, .hoff 1 1, .hseto 1 1 1, .hmov 1 1, .hchk 1 1 1 1, .loop 1 1 1, .lstrd 1 1 1, .lbrk 1, .launch 1 1 1,
    .wtest 1 1, .whzn 1 1, .tbegin 1 1, .trec 1 1 1, .trecp 1 1, .trev 1 1, .tpop 1 1 1, .tpopp 1 1, .vaddF 1 1 1 1,
    .vsubF 1 1 1 1, .vmulF 1 1 1 1, .vfma 1 1 1 1, .vfms 1 1 1 1, .vfnma 1 1 1 1,
    .vdiv 1 1 1 1] : List Instr).all instrOk = true := by
  decide +kernel

theorem test_wf_accepts_3 : ([
    .vminF 1 1 1 1, .vmaxF 1 1 1 1, .vabsF 1 1 1, .vnegF 1 1 1, .vcmpeqF 1 1 1 1, .vcmpltF 1 1 1 1, .vcmpleF 1 1 1 1,
    .vcmpun 1 1 1 1, .vscalb 1 1 1 1, .vrint 1 1 1 1, .vbcast 1 1 1, .exp2 1 1 1 1, .log2 1 1 1 1, .rcp 1 1 1 1,
    .rsq 1 1 1 1, .sqrt 1 1 1 1, .sin 1 1 1 1, .cos 1 1 1 1, .tanh 1 1 1 1, .mmaBf16 1 1 1 1, .mmaFp8 1 1 1 1 1,
    .mmaE2m1 1 1 1, .mmaInt8 1 1 1 1 1, .mmaQ8 1 1 1] : List Instr).all instrOk = true := by
  decide +kernel

theorem test_wf_accepts_4 : ([
    .mmaQ4 1 1 1, .mmazBf16 1 1 1 1, .mmazFp8 1 1 1 1 1, .mmazE2m1 1 1 1, .mmazInt8 1 1 1 1 1, .mmazQ8 1 1 1,
    .mmazQ4 1 1 1, .mzero 1 1, .mld 1 1, .mst 1 1 1, .mrowv 1 1 1, .mvrow 1 1 1, .mcvt 1 1 1 1 1, .mrec 1 1 1,
    .mrecr 1 1 1 1, .mmov 1 1, .ldc 1 1 1 1, .ldcw 1 1 1 1, .spat 1 1, .sgo 1, .sstop 1, .qpop 1 1 1, .qpops 1 1 1,
    .qstat 1 1 1] : List Instr).all instrOk = true := by
  decide +kernel

theorem test_wf_accepts_5 : ([
    .sinv 1 1, .ldg 1 1 1 1, .stg 1 1 1 1, .ldgv 1 1 1 1, .stgv 1 1 1 1, .ldgx 1 1 1, .stgx 1 1 1, .ldgw 1 1 1 1,
    .ldgvw 1 1 1 1, .ldgxw 1 1 1 1, .strc 1 1 1 1, .strcv 1 1 1 1, .stred 1 1 1 1, .pref 1 1 1, .gaadd 1 1 1 1 1,
    .gamin 1 1 1 1 1, .gamax 1 1 1 1 1, .gaand 1 1 1 1 1, .gaor 1 1 1 1 1, .gaxor 1 1 1 1 1, .gaswp 1 1 1 1 1,
    .gacas 1 1 1 1 1, .gafadd 1 1 1 1, .gafmin 1 1 1 1] : List Instr).all instrOk = true := by
  decide +kernel

theorem test_wf_accepts_6 : ([
    .gafmax 1 1 1 1, .mscwb 1 1 1, .mscinv 1 1 1] : List Instr).all instrOk = true := by
  decide +kernel

theorem test_wf_refuses_operands : ([
    (.copy, ⟨1, 0, 0⟩), (.copy, ⟨0, 16, 0⟩), (.copy, ⟨0, 0, 16⟩), (.copyl, ⟨1, 0, 0⟩), (.copyl, ⟨0, 16, 0⟩),
    (.copyg, ⟨1, 0, 0⟩), (.copyg, ⟨0, 0, 16⟩), (.skrd, ⟨1, 0, 0⟩), (.skrd, ⟨0, 16, 0⟩), (.skpat, ⟨4, 0, 0⟩),
    (.skpat, ⟨0, 0, 1⟩), (.gtt, ⟨1, 0, 0⟩), (.gtt, ⟨0, 16, 0⟩), (.gtt, ⟨0, 0, 1⟩), (.ggo, ⟨1, 0, 0⟩), (.ggo, ⟨0, 0, 1⟩),
    (.gsave, ⟨1, 0, 0⟩), (.gsave, ⟨0, 1, 0⟩), (.gsave, ⟨0, 0, 1⟩), (.grestore, ⟨1, 0, 0⟩), (.grestore, ⟨0, 0, 1⟩),
    (.coll, ⟨1, 0, 0⟩), (.coll, ⟨0, 16, 0⟩), (.coll, ⟨0, 0, 16⟩), (.embr, ⟨1, 0, 0⟩), (.embr, ⟨0, 16, 0⟩),
    (.embr, ⟨0, 0, 16⟩), (.vprep, ⟨1, 0, 0⟩), (.vprep, ⟨0, 1, 0⟩), (.vprep, ⟨0, 0, 1⟩),
    (.nop, ⟨1, 0, 0⟩)] : List (Instr × EngineOps)).all (fun r => !opsOk r.1 r.2) = true := by
  decide +kernel

theorem test_wf_accepts_operands : ([
    (.copy, ⟨0, 0, 0⟩), (.copyl, ⟨0, 0, 0⟩), (.copyg, ⟨0, 0, 0⟩), (.skrd, ⟨0, 0, 0⟩), (.skpat, ⟨0, 0, 0⟩),
    (.gtt, ⟨0, 0, 0⟩), (.ggo, ⟨0, 0, 0⟩), (.gsave, ⟨0, 0, 0⟩), (.grestore, ⟨0, 0, 0⟩), (.gstat, ⟨0, 0, 0⟩),
    (.coll, ⟨0, 0, 0⟩), (.embr, ⟨0, 0, 0⟩), (.vprep, ⟨0, 0, 0⟩),
    (.vstat, ⟨0, 0, 0⟩)] : List (Instr × EngineOps)).all (fun r => opsOk r.1 r.2) = true := by
  decide +kernel

/-- Either part refuses a slot instruction. -/
theorem test_wf_refuses_slot : wellFormed ⟨⟨0, 0, 0⟩, ⟨0, 0, 0⟩, .pmov 16 0⟩ = false ∧ wellFormed ⟨⟨0, 0, 0⟩, ⟨1, 0, 0⟩,
    .copy⟩ = false := by
  decide +kernel

/-! ### States that meet the hypotheses of the statements -/

/-- A part of one core after reset, its first context running. -/
def base : State := { State.reset with todo := [], ctx := { Ctx.idle 0 with mode := .run } }
def withC (s : State) (f : Ctx → Ctx) : State := { s with ctx := f s.ctx }
def withIss (s : State) (f : Iss → Iss) : State := { s with ctx := { s.ctx with iss := f s.ctx.iss } }
def withCsr (s : State) (f : Csrs → Csrs) : State := { s with ctx := { s.ctx with csr := f s.ctx.csr } }
/-- Registers written before the test. -/
def withR (s : State) (l : List Wr) : State := { s with ctx := { s.ctx with regs := l.foldl Regs.apply s.ctx.regs } }
/-- The record that a check passes, for its hypothesis. -/
def got {α : Type} (d : α) : Except Stop α → α
  | .ok x => x
  | .error _ => d
/-- The outcome is a next state. -/
def goes : Host.Outcome State Fault Refusal → Bool
  | .next _ => true
  | _ => false

/-- The checks of `State.passesChecks` in a form that decides. -/
def canPass (s : State) (idx : Nat) (o : Int) (n need : Nat) (copy : Bool) : Bool :=
  let e := s.pk.entryAt (bits s.ctx.csr.btab 47 0) idx
  decide (idx ≠ 0 ∧ idx ≤ bits s.ctx.csr.btab 63 48 ∧ e.tier ≠ 0 ∧ s.pk.entryOk e = true ∧ (e.owner = 0xFFFF ∨ e.owner = s.ownId.toNat) ∧
    e.res = true ∧ s.pk.sched.service.all (fun b => decide (¬ (b.migrate = true ∧ b.idx = idx ∧ b.table = bits s.ctx.csr.btab 47 0))) = true ∧
    (e.tier = 3 → copy = true) ∧ e.rights &&& need = need ∧ 0 ≤ o ∧ o + n ≤ e.limit)
theorem passesChecks_iff (s : State) (idx : Nat) (o : Int) (n need : Nat) (copy : Bool) :
    s.passesChecks idx o n need copy ↔ canPass s idx o n need copy = true := by
  unfold State.passesChecks canPass
  cases s.pk.sched.service with
  | none => simp; tauto
  | some b =>
    simp only [Option.all_some, decide_eq_true_eq, Option.some.injEq, forall_eq']
def canReach (s : State) (idx : Nat) (o : Int) (n need : Nat) (copy : Bool) : Bool :=
  canPass s idx o n need copy && decide (s.portHolds idx = true ∧ s.pk.readError (entryPiece s.ctx.table idx) = none)
theorem mayReach_iff (s : State) (idx : Nat) (o : Int) (n need : Nat) (copy : Bool) :
    s.mayReach idx o n need copy ↔ canReach s idx o n need copy = true := by
  simp only [State.mayReach, State.entryReady, canReach, passesChecks_iff, Bool.and_eq_true, decide_eq_true_eq]
theorem mayAccess_iff (s : State) (a : BitVec 5) (d : Int) (n need : Nat) (copy : Bool) :
    s.mayAccess a d n need copy ↔ canReach s (hIdx (s.ra a)) ((hOff (s.ra a) : Int) + d) n need copy = true := mayReach_iff ..

theorem witness_EncodedWordsDecode :
    (wellFormed ⟨⟨15, 1, 3⟩, ⟨0, 0, 0⟩, .add 31 0 31⟩ = true ∧ classOf (.add 31 0 31) = some .S) ∧
    (wellFormed ⟨⟨0, 0, 0⟩, ⟨0, 0, 0⟩, .vaddF 31 0 31 2⟩ = true ∧ classOf (.vaddF 31 0 31 2) = some .V) ∧
    (wellFormed ⟨⟨0, 0, 0⟩, ⟨0, 0, 0⟩, .mld 15 7⟩ = true ∧ classOf (.mld 15 7) = some .M) ∧
    (wellFormed ⟨⟨0, 0, 0⟩, ⟨0, 0, 0⟩, .ldl 31 0 31 3⟩ = true ∧ classOf (.ldl 31 0 31 3) = some .L) ∧
    (wellFormed ⟨⟨0, 0, 0⟩, ⟨30, 15, 15⟩, .copy⟩ = true ∧ classOf .copy = some .G) := by decide +kernel

theorem witness_StepKeepsMemoryForm : State.reset.wf = true ∧ goes (step State.reset) = true := by decide +kernel

theorem witness_StepStopsAfterFatalErrorOnly :
    let s (l : List Due) : State := { base with pk := { base.pk with svc := { base.pk.svc with fatal := true }, tick := 7, agenda := l } }
    let d : Due := ⟨9, .landing, {}⟩
    (∀ l ∈ [[], [d]], (s l).pk.svc.fatal = true ∧ ∀ x ∈ (s l).pk.agenda, servedAfterFatal x.ev = false) ∧
    (∀ n ∈ [7, 11], let r : Due := ⟨n, .partReset, {}⟩
     (s [d, r]).pk.svc.fatal = true ∧ (s [d, r]).pk.agenda = [d] ++ r :: [] ∧ (∀ x ∈ [d], servedAfterFatal x.ev = false) ∧
      servedAfterFatal r.ev = true) ∧
    base.pk.svc.fatal = false := by decide +kernel

/-- An action due in this very half nanosecond. -/
theorem witness_StepRunsDueAction :
    let s : State := { base with pk := { base.pk with tick := 7, agenda := [⟨7, .csstatErrClear, {}⟩] } }
    s.pk.svc.fatal = false ∧ s.pk.agenda = [⟨7, .csstatErrClear, {}⟩] ∧ 7 ≤ s.pk.tick := by decide +kernel

/-- The S slot of NOP placed where the next step fetches; the next action is due half a nanosecond later. -/
def fetching : State :=
  let s := base.withFetchWord 32 0x011A0000
  { s with pk := { s.pk with agenda := [⟨s.pk.tick + 1, .csstatErrClear, {}⟩] } }
def nopSlot : Slot × BitVec 32 × SlotInstr := (.S, 0x011A0000, ⟨⟨0, 0, 0⟩, ⟨0, 0, 0⟩, .nop⟩)
def nopBundle : Bundle := got ⟨decodeHeader 0, [], none⟩ (match decodeBundle fetching.pk.reduced fetching.headerWord
  ((fetching.bundleWords (1 + (decodeHeader fetching.headerWord).slotWords)).drop 1) with | .ok b => .ok b | .error _ => .error .stall)

theorem witness_StepRunsDecodedInstruction :
    let s := fetching
    let hd := decodeHeader s.headerWord
    s.pk.svc.fatal = false ∧ (∀ d ∈ s.pk.agenda.head?, s.pk.tick < d.at_) ∧ (s.core.turn = 1 ∨ s.core.turn = 2) ∧ s.ctx.ue = false ∧
    s.ctx.mode = .run ∧ s.ctx.faults = [] ∧ s.ctx.owe = 0 ∧ s.ctx.notBefore ≤ s.core.cyc ∧ s.ctx.yield_ = none ∧ s.ctx.framed = false ∧
    s.ctx.pptRec = none ∧
    s.fetchFault = none ∧ decodeBundle s.pk.reduced s.headerWord ((s.bundleWords (1 + hd.slotWords)).drop 1) = .ok nopBundle ∧
    hd.pm ≠ 0 ∧ s.stampOf s.ctx hd = .free ∧ s.ctx.replay = false ∧ s.ctx.resume = false ∧ s.core.blocked = false ∧ s.core.taken = [] ∧
    nopBundle.slots = [nopSlot] ∧ s.ctx.executes hd.lql.toNat nopSlot.2.2 = true := by decide +kernel
theorem witness_StepRunsDecodedInstruction_runs :
    let s1 := fetching.openBundle fetching.headerWord
    goes (exec nopSlot.2.2.i (s1.openSlot nopBundle nopSlot)) = true ∧ goes (runSlots nopBundle s1 s1 none true nopBundle.slots) = true := by
  decide +kernel

/-- An active level at its first iteration, at its last, at both, at neither; no level. -/
theorem witness_GuardsAndQualifiers :
    let lv (i t : Nat) : Ctx := { base.ctx with lnu := ⟨[⟨2, t, i, 0, 0, 0, []⟩], []⟩ }
    let x (n : BitVec 1) (q : BitVec 2) : SlotInstr := ⟨⟨0, n, q⟩, ⟨0, 0, 0⟩, .nop⟩
    (lv 1 3).executes 2 (x 0 1) = true ∧ (lv 2 3).executes 2 (x 0 1) = false ∧ (lv 3 3).executes 2 (x 0 2) = true ∧
    (lv 2 3).executes 2 (x 0 2) = false ∧ (lv 1 1).executes 2 (x 0 3) = true ∧ (lv 2 3).executes 2 (x 0 3) = false ∧
    (lv 2 3).executes 1 (x 0 3) = true ∧ (lv 1 3).executes 2 (x 1 1) = false := by decide +kernel

theorem witness_RegisterWrites :
    (Regs.zero.apply (.s 31 5)).rs 31 = 5 ∧ (Regs.zero.apply (.s 0 5)).rs 0 = 0 ∧ (Regs.zero.apply (.p 15 true)).rp 15 = true ∧
    (Regs.zero.apply (.p 0 false)).rp 0 = true := by decide +kernel

/-- A zero written over a listed byte; the bytes just below and just above the written ones. -/
theorem witness_MemoryReadsWhatWasWritten :
    let m : Memory := [(4, 9), (5, 1), (7, 3)]
    m.wf = true ∧ (4 < 5 ∨ 5 + 2 ≤ 4) ∧ (7 < 5 ∨ 5 + 2 ≤ 7) ∧ m.write 5 [0, 2] = [(4, 9), (6, 2), (7, 3)] ∧
    (∀ y, m.read y 1 = m.read y 1) := by
  refine ⟨by decide, by decide, by decide, by decide, fun _ => rfl⟩

/-- A context with a handler, outside it, with DET set, a result due now and a level active. -/
def handled : State := withC (withCsr base (fun c => { c with tvec := 0x8000000000000040, issctl := 1 })) (fun c => { c with
  pend := [{ due := 0, wr := .s 1 5 }], lnu := ⟨[⟨0, 2, 1, 4, 8, 12, []⟩], []⟩ })
/-- The fault of a landing of this cycle and one that is not; a snapshot still to replay, a restored one. -/
theorem witness_TrapEntry : let r : FaultRec := { code := 0x1F, blen := 8 }
    let p : Pend := { due := 0, wr := .s 1 5 }
    let c (l : List Pend) : Ctx := { handled.ctx with landed := l, replay := true, held := [p] }
    (∀ x ∈ [c [p, { p with err := some r }, p], c [p], { handled.ctx with resume := true }],
      x.csr.tstat.getLsbD 0 = false ∧ x.csr.tvec.getLsbD 63 = true ∧ r.blen ≤ 8 ∧ x.undo = none) ∧
    ((c [p, { p with err := some r }, p]).landed = [p] ++ { p with err := some r } :: [p] ∧ ({ p with err := some r }).err = some r ∧
      ∀ x ∈ [p], x.err ≠ some r) ∧ (∀ x ∈ (c [p]).landed, x.err ≠ some r) := by decide +kernel
theorem witness_TrapReturn : let r : FaultRec := { code := 0x1F, blen := 8 }
    handled.ctx.csr.tstat.getLsbD 0 = false ∧ handled.ctx.csr.tvec.getLsbD 63 = true ∧ r.blen ≤ 8 := by decide +kernel
theorem witness_FaultsFreeze :
    (withCsr base (fun c => { c with tstat := 1 })).ctx.csr.tstat.getLsbD 0 = true ∧
    base.ctx.csr.tstat.getLsbD 0 = false ∧ base.ctx.csr.tvec.getLsbD 63 = false := by decide +kernel

/-- A completion that closes a gap of one; a failure below and above FLO; another timeline. -/
theorem witness_TimelineCounts :
    let k := Pack.reset.setTl 5 { iss := 4, head := 1, above := [3], flo := 3 }
    ((k.completeOp 5 2).tl 5).head = 3 ∧ ((k.failOp 5 2 7).tl 5).flo = 2 ∧ ((k.failOp 5 4 7).tl 5).flo = 3 ∧ (6 : Nat) ≠ 5 := by
  decide +kernel

/-- Issue count 2^41 − 1: the point just issued and just not, at both ends of the span, at the head, at FLO. -/
def issued : Pack := Pack.reset.setTl 5 { iss := 2 ^ 41 - 1, head := 2 ^ 41 - 3, flo := 2 ^ 41 - 4 }
theorem witness_PointCases :
    let ok (seq : Nat) : Prop := witK (pointWit 5 seq) = 1 ∧ issued.witFormat (pointWit 5 seq) = none ∧
      issued.isLocal (witDev (pointWit 5 seq)) = true ∧ ((seq : Int) - (witSeq (pointWit 5 seq) : Int)) % 2 ^ 42 = 0 ∧
      ((issued.tl (witTl (pointWit 5 seq))).iss : Int) - 2 ^ 41 < seq ∧ (seq : Int) ≤ ((issued.tl (witTl (pointWit 5 seq))).iss : Int) + 2 ^ 41
    ok (2 ^ 41) ∧ ok (2 ^ 42 - 1) ∧ ok (2 ^ 40 - 1) ∧ ok (2 ^ 40) ∧ ok (2 ^ 41 - 2) ∧ ok (2 ^ 41 - 3) ∧ ok (2 ^ 41 - 4) ∧ ok (2 ^ 41 - 5) ∧
    issued.witness (pointWit 5 (2 ^ 41)) none = .bad 0x16 1 (2 ^ 41 - 1) ∧ issued.witness (pointWit 5 (2 ^ 40 - 1)) none = .ok ∧
    issued.witness (pointWit 5 (2 ^ 41 - 2)) none = .wait ∧ issued.witness (pointWit 5 (2 ^ 41 - 4)) none = .bad 0x17 1 (2 ^ 41 - 4) ∧
    issued.witness (pointWit 5 (2 ^ 41 - 5)) none = .ok := by decide +kernel

theorem witness_SlotInstructionsLeaveMemory :
    (classOf (.add 1 2 3)).isSome = true ∧ goes (exec (.add 1 2 3) base) = true ∧ (classOf (.trev 1 2)).isSome = true ∧
    goes (exec (.trev 1 2) base) = true ∧ base.wf = true := by decide +kernel
/-- A clean line over DRAM that holds what it holds. -/
theorem witness_SlotInstructionsLeaveMemory_copies : Pack.copiesSound { Pack.reset with msc := [⟨128, List.replicate 128 0, false, 0, false, false, [], []⟩] } := by
  refine ⟨by decide, fun l h => ?_⟩
  obtain rfl : l = _ := List.mem_singleton.mp h
  refine ⟨by decide, fun _ => ⟨List.length_replicate, fun i hi _ => ?_⟩⟩
  simp only [List.getElem?_replicate, hi, if_true]
  rfl

/-! #### The S slot -/

/-- The quotient that does not fit, and a division by 0. -/
theorem witness_ScalarSumsAndDivisions :
    let s := withR base [.s 1 0x8000000000000000, .s 2 0xFFFFFFFFFFFFFFFF]
    (s.rs (1 : BitVec 5)).toInt = -2 ^ 63 ∧ (s.rs (2 : BitVec 5)).toInt = -1 ∧ s.rs (0 : BitVec 5) = 0 := by decide +kernel

/-- Without an X word and with one. -/
theorem witness_ScalarImmediates :
    (base.ctx.iss.x = none ∧ (0xFFFFFFFFFFFFFFC0 : Word) = BitVec.ofInt 64 (0x40 : BitVec 7).toInt) ∧
    ((withIss base (fun i => { i with x := some 0x80000000 })).ctx.iss.x = some 0x80000000 ∧
      (0xFFFFFFFF80000000 : Word) = BitVec.ofInt 64 (0x80000000 : BitVec 32).toInt) := by decide +kernel

/-- Each range at its two ends and one past them. -/
theorem witness_HandleArithmetic :
    let s := withR base [.s 1 0xFFFF, .s 2 0xFFFFFFFFFFFFFF, .s 3 0x10000, .s 4 0x100000000000000, .s 5 0xFFFFFFFFFFFFFFFF, .a 1 (mkHandle 3 0),
      .a 2 (mkHandle 3 0xFFFFFFFFFFFFFF)]
    let off (h : BitVec 5) : Int := hOff (s.ra h)
    ((s.rs (1 : BitVec 5)).toNat < 2 ^ 16 ∧ (s.rs (2 : BitVec 5)).toNat < 2 ^ 56) ∧ (2 ^ 16 ≤ (s.rs (3 : BitVec 5)).toNat) ∧
    ((s.rs (1 : BitVec 5)).toNat < 2 ^ 16 ∧ 2 ^ 56 ≤ (s.rs (4 : BitVec 5)).toNat) ∧
    (0 ≤ off 1 + (s.rs (2 : BitVec 5)).toInt ∧ off 1 + (s.rs (2 : BitVec 5)).toInt < 2 ^ 56) ∧ (off 1 + (s.rs (5 : BitVec 5)).toInt < 0) ∧
    (0 ≤ off 2 + (s.imm 0).toInt ∧ off 2 + (s.imm 0).toInt < 2 ^ 56) ∧ (2 ^ 56 ≤ off 2 + (s.imm 1).toInt) := by decide +kernel
/-- An index without an entry, the null one; an entry at the port and one not yet there; one whose reading meets an error. -/
theorem witness_HandleArithmetic_check :
    let at_ (e : List PortEntry) (b : List (Space × Nat)) : State :=
      { withR (withCsr base (fun c => { c with btab := 0x0001000000010000 })) [.a 1 (mkHandle 1 0), .a 2 (mkHandle 2 0)] with
        core := { base.core with entries := e }, pk := { base.pk with bad := b } }
    let has (s : State) (a : BitVec 5) : Prop := hIdx (s.ra a) ≠ 0 ∧ hIdx (s.ra a) ≤ bits s.ctx.csr.btab 63 48
    let p : PortEntry := ⟨0, 0, 0x10000, 1⟩
    ¬ has (at_ [] []) 0 ∧ ¬ has (at_ [] []) 2 ∧
    (has (at_ [p] []) 1 ∧ (at_ [p] []).portHolds 1 = true ∧ (at_ [p] []).pk.readError (entryPiece (at_ [p] []).ctx.table 1) = none) ∧
    (∀ e ∈ [[], [{ p with ready := 1 }]], has (at_ e []) 1 ∧ (at_ e []).portHolds 1 = false) ∧
    (let s := at_ [p] [(.dram, 0x10020)]; has s 1 ∧ s.portHolds 1 = true ∧ s.pk.readError (entryPiece s.ctx.table 1) = some (1, 0x10020)) := by
  decide +kernel

/-- Slot S; the top of the mask stack empty and full; a store with room, full and empty. Slot X beside EXIT, another target, the same
target, none. A full store whose spill area is full or missing, an empty one with nothing spilled. -/
theorem witness_Branches :
    let x (e : BundleEnd) : State := withIss base (fun i => { i with slot := .X, be := e })
    let full (w : Word) (n : BitVec 16) : State := withCsr (withC base (fun c => { c with ras := List.replicate 16 4 })) (fun c =>
      { c with rsspill := w, spilled := n })
    base.ctx.iss.slot ≠ .X ∧ (∀ k < 512 / 2 ^ (3 : BitVec 2).toNat, (withR base [.mpush 0]).ctx.regs.top.getLsbD k = false) ∧
    (∀ k < 512 / 2 ^ (0 : BitVec 2).toNat, base.ctx.regs.top.getLsbD k = true) ∧
    (withC base (fun c => { c with ras := List.replicate 15 4 })).ctx.ras.length < 16 ∧ (full 0 0).ctx.iss.slot ≠ .X ∧
    ((full 0 0).ctx.ras = 4 :: List.replicate 15 4) ∧
    (16 ≤ (full 0 0).ctx.ras.length ∧ bits (full 0 0).ctx.csr.rsspill 63 48 = 0) ∧
    (let f := full 0x0001000800000000 8; 16 ≤ f.ctx.ras.length ∧ bits f.ctx.csr.rsspill 63 48 ≠ 0 ∧
      f.ctx.csr.spilled.toNat = bits f.ctx.csr.rsspill 47 32) ∧
    (base.ctx.ras = [] ∧ base.ctx.csr.spilled = 0) ∧ (x {}).ctx.iss.slot = .X ∧
    (∀ k < 512 / 2 ^ (0 : BitVec 2).toNat, (x {}).ctx.regs.top.getLsbD k = true) ∧
    (∀ k < 512 / 2 ^ (3 : BitVec 2).toNat, (withR (x {}) [.mpush 0]).ctx.regs.top.getLsbD k = false) ∧
    (x { exit_ := true }).ctx.iss.be.exit_ = true ∧
    ((x {}).ctx.iss.be.exit_ = false ∧ (x {}).ctx.iss.be.sBranch = none ∧ ((x {}).rs (0 : BitVec 5)).setWidth 48 = (0 : Dpa)) ∧
    ((x { sBranch := some 4 }).ctx.iss.be.sBranch = some 4 ∧ (4 : Dpa) ≠ 0) ∧ (x { sBranch := some 0 }).ctx.iss.be.sBranch = some 0 := by
  decide +kernel

/-- The outermost level, one inside level 0 that ends with it, one inside and outside the handler, a trip count of 0 and of 1. -/
def looping : State := withR (withC base (fun c => { c with lnu := ⟨[⟨0, 3, 1, 0x100, 0x200, 0x300, []⟩], []⟩ })) [.s 1 1]
/-- Strides of three other registers that wait for level 1. -/
def strides3 : List (Nat × Nat × Word) := [(1, 1, 5), (1, 2, 5), (1, 3, 5)]
theorem witness_Loops :
    let s := looping
    s.ctx.csr.inHandler = false ∧ s.ctx.iss.be.loopsBegun = 0 ∧ (∀ x ∈ base.ctx.lnu.act, x.lvl < (0 : BitVec 3).toNat) ∧
    (∀ x ∈ s.ctx.lnu.act, x.lvl < (1 : BitVec 3).toNat) ∧
    (∃ x ∈ s.ctx.lnu.act, x.lvl + 1 = (1 : BitVec 3).toNat ∧ (∀ y ∈ s.ctx.lnu.act, y.lvl = x.lvl → y = x) ∧
      (s.pk.bodyEnd (s.ctx.iss.pc + BitVec.ofNat 48 (4 * s.ctx.iss.words)) 1).1.toNat ≤ x.last.toNat) ∧
    s.rs (1 : BitVec 5) ≠ 0 ∧ (s.rs (2 : BitVec 5) = 0 ∧ s.ctx.iss.slot ≠ .X) ∧
    (∀ x ∈ s.ctx.lnu.act, x.lvl ≠ (1 : BitVec 3).toNat) ∧
    (∀ w ∈ [[], strides3, (1, 0, 9) :: strides3], ((w.filter (fun w => !(w.1 == (1 : BitVec 3).toNat && w.2.1 == (0 : BitVec 5).toNat))).filter
      (fun w => w.1 == (1 : BitVec 3).toNat)).length < 4) ∧
    (s.ctx.lnu.act = ⟨0, 3, 1, 0x100, 0x200, 0x300, []⟩ :: [] ∧ 0 = (0 : BitVec 3).toNat) := by
  refine ⟨by decide, by decide, by decide, by decide, ⟨_, List.mem_singleton_self _, by decide +kernel⟩, by decide, by decide, by decide,
    by decide, by decide⟩
theorem witness_Loops_faults :
    let s := looping
    (withCsr s (fun c => { c with tstat := 1 })).ctx.csr.inHandler = true ∧
    (withIss s (fun i => { i with be := { loopsBegun := 1 } })).ctx.iss.be.loopsBegun ≠ 0 ∧
    (∃ x ∈ s.ctx.lnu.act, (0 : BitVec 3).toNat ≤ x.lvl) ∧ ((2 : BitVec 3) ≠ 0 ∧ ∀ x ∈ s.ctx.lnu.act, x.lvl + 1 ≠ (2 : BitVec 3).toNat) ∧
    (∃ x ∈ s.ctx.lnu.act, x.lvl = (0 : BitVec 3).toNat) ∧ (∀ x ∈ s.ctx.lnu.act, x.lvl ≠ (1 : BitVec 3).toNat) ∧
    (let u := withIss s (fun i => { i with pc := 0x200 })
     let x : Level := ⟨0, 3, 1, 0x100, 0x200, 0x300, []⟩
     (1 : BitVec 3) ≠ 0 ∧ u.ctx.lnu.act.find? (fun y => y.lvl == (1 : BitVec 3).toNat - 1) = some x ∧
      x.last.toNat < (u.pk.bodyEnd (u.ctx.iss.pc + BitVec.ofNat 48 (4 * u.ctx.iss.words)) (0 : BitVec 7).toNat).1.toNat) ∧
    4 ≤ ((((1, 4, 5) :: strides3 : List (Nat × Nat × Word)).filter
      (fun w => w.1 == (1 : BitVec 3).toNat && w.2.1 != (0 : BitVec 5).toNat)).length) := by decide +kernel
theorem witness_Loops_end :
    let x : Level := ⟨0, 3, 1, 0x100, 0x200, 0x300, []⟩
    x.last ≠ (0x1FC : Dpa) ∧ (x.last = 0x200 ∧ x.iter < x.trip) ∧ ({ x with iter := 3 }.trip ≤ { x with iter := 3 }.iter) ∧
    (x.last = 0x200 ∧ x.iter = 1 ∧ x.trip = 2 + 1) := by decide +kernel

theorem witness_FlowInstructions :
    let y := withC base (fun c => { c with yield_ := some 0 })
    let h := withCsr base (fun c => { c with tstat := 1 })
    (y.ctx.yield_ = some 0 ∧ y.core.cyc ≤ 0 ∧ y.ctx.csr.inHandler = false) ∧ base.ctx.yield_ = none ∧
    (h.ctx.csr.inHandler = true ∧ h.ctx.iss.slot ≠ .X) ∧ base.ctx.csr.inHandler = false := by decide +kernel

/-- A writable CSR, FSTAT, an unassigned number, a read-only CSR; FRLEN below, at and above its range. -/
theorem witness_CsrInstructions :
    (base.csrRead 9).isSome = true ∧ (csrMask 9).isSome = true ∧ (base.csrRead 0).isSome = true ∧ (csrMask 0).isSome = true ∧
    base.csrRead 127 = none ∧ ((base.csrRead 3).isSome = true ∧ csrMask 3 = none) ∧
    ((15 : Word) &&& ~~~((csrMask 9).getD 0) = 0 ∧ (16 : Word) &&& ~~~((csrMask 9).getD 0) = 0 ∧ (2049 : Word) &&& ~~~((csrMask 9).getD 0) = 0) ∧
    (0x3F : Word) &&& ~~~((csrMask 0).getD 0) = 0 ∧ (8 : Nat) ≠ 9 := by decide +kernel

/-- A point that is satisfied, one that waits and one of device 7, which has answered a test with AHEAD; the timelines at both ends
of their numbers. -/
def pointing : State :=
  let k := (base.pk.setTl 5 { iss := 2, head := 1, flo := 2 }).setTl 2575 { iss := 1, flo := 1, owner := 9 }
  let k := { k with fab := { k.fab with answers := [⟨testOfCtx 0, 7, 5, 9, 3, 4⟩, ⟨waitOfCtx 0, 8, 5, 9, 2, 3⟩] } }
  withR { base with pk := k } [.s 1 (pointWit 5 1), .s 2 (pointWit 5 2), .s 3 2575, .s 4 2576, .s 5 5, .s 6 (BitVec.ofNat 64 (2 ^ 62 + 7 * 2 ^ 54 + 5 * 2 ^ 42 + 9)),
    .s 7 (BitVec.ofNat 64 (2 ^ 62 + 8 * 2 ^ 54 + 5 * 2 ^ 42 + 9))]
theorem witness_WitnessInstructions :
    let s := pointing
    let w : Word := got 0 (match s.pk.merge (s.rs (1 : BitVec 5)) (s.rs (2 : BitVec 5)) with | .value w => .ok w | _ => .error .stall)
    (∀ r ∈ [(1 : BitVec 5), 2], s.pk.answerTo (waitOfCtx s.ctx.num) (s.rs r) = none ∧ s.pk.answerTo (testOfCtx s.ctx.num) (s.rs r) = none) ∧
    s.pk.answerTo (waitOfCtx s.ctx.num) (s.rs (7 : BitVec 5)) = some (.bad 0x17 1 3) ∧
    s.pk.witness (s.rs (1 : BitVec 5)) none = .ok ∧ s.pk.witness (s.rs (2 : BitVec 5)) none = .wait ∧
    (s.pk.isLocal (witDev (s.rs (6 : BitVec 5))) = false ∧ s.pk.answerTo (testOfCtx s.ctx.num) (s.rs (6 : BitVec 5)) = some (.bad 0x16 1 4)) ∧
    (s.mergeCheck 1 (s.rs (1 : BitVec 5)) = .ok () ∧ s.mergeCheck 2 (s.rs (2 : BitVec 5)) = .ok () ∧
      s.pk.merge (s.rs (1 : BitVec 5)) (s.rs (2 : BitVec 5)) = .value w) ∧
    (s.rs (0 : BitVec 5) = 0 ∧ witK (s.rs (2 : BitVec 5)) = 1 ∧ s.pk.isLocal (witDev (s.rs (2 : BitVec 5))) = true ∧
      witTl (s.rs (2 : BitVec 5)) < 2576 ∧ witSeq (s.rs (2 : BitVec 5)) ≤ (s.pk.tl (witTl (s.rs (2 : BitVec 5)))).iss ∧
      (s.pk.tl (witTl (s.rs (2 : BitVec 5)))).iss < 2 ^ 41 ∧ (s.pk.own < 144 ∨ s.pk.own = 255)) ∧
    ((s.rs (3 : BitVec 5)).toNat % 4096 < 2576 ∧ (s.pk.tl 2575).flo ≠ 0 ∧ (s.pk.tl 2575).owner ≠ s.ownId) ∧
    ((s.rs (5 : BitVec 5)).toNat % 4096 < 2576 ∧ (s.pk.tl 5).flo ≠ 0 ∧ (s.pk.tl 5).owner = s.ownId) ∧
    2576 ≤ (s.rs (4 : BitVec 5)).toNat % 4096 := by decide +kernel

theorem witness_HorizonFormed :
    ({ base with pk := base.pk.ioWr 0x71000 5 } : State).pk.own ≠ 0xFF ∧ base.pk.own = 0xFF := by decide +kernel

/-- A stamp one past the limit, at it, one before the span and at its start, with and without an operation open. -/
def later : Pack := { Pack.reset with tick := 2 ^ 43 }
theorem witness_HorizonCases :
    let w (S : Nat) : Word := BitVec.ofNat 64 (2 ^ 63 + 0xFF * 2 ^ 54 + S)
    let ok (S : Nat) : Prop := witK (w S) = 2 ∧ later.witFormat (w S) = none ∧ ((S : Int) - (witStamp (w S) : Int)) % 2 ^ 54 = 0 ∧
      -2 ^ 53 < (S : Int) - (later.tstamp : Int) ∧ (S : Int) - (later.tstamp : Int) ≤ 2 ^ 53 ∧ later.isLocal (witDev (w S)) = true
    later.tstamp = 2 ^ 42 ∧ ok (2 ^ 42 + 9) ∧ ok (2 ^ 42 + 8) ∧ ok (2 ^ 42 - 8) ∧ ok (2 ^ 42 - 7) ∧ ok (2 ^ 42 - 2 ^ 40 - 1) ∧ ok (2 ^ 42 - 2 ^ 40) ∧
    later.witness (w (2 ^ 42 - 8)) none = .ok ∧ later.witness (w (2 ^ 42 - 7)) none = .wait ∧
    (later.setTl 1 { iss := 1, open_ := [(1, 2 ^ 42 - 1, 0)] }).witness (w (2 ^ 42 - 8)) none = .wait := by decide +kernel


/-! ### Single steps, with results worked by hand -/

/-- The last result put in flight: due cycle, register write, flags. -/
def wrote : Host.Outcome State Fault Refusal → Option (Nat × Wr × Flags)
  | .next t => t.ctx.pend.getLast?.map (fun p => (p.due, p.wr, p.flags))
  | _ => none
/-- The fault code, cause and TVAL of a fault taken. -/
def faulted : Host.Outcome State Fault Refusal → Option (Nat × Nat × Word)
  | .next t => t.ctx.iss.fault.map (fun r => (r.code.toNat, r.cause.toNat, r.tval))
  | _ => none
/-- Element `i` of the vector result last put in flight. -/
def lane (f : Fmt) (i : Nat) (o : Host.Outcome State Fault Refusal) : Option Nat :=
  match wrote o with
  | some (_, .v _ x, _) => (vecCodes f x.pay)[i]?
  | _ => none
def regs (l : List Wr) : State := withR { State.reset with todo := [], ctx := { Ctx.idle 0 with mode := .run } } l
def lanesOf (f : Fmt) (c : Nat) : VReg := { pay := vecPay f.width (List.replicate (2048 / f.width) c), tag := tagOf f }
def m64 (n : Int) : Word := BitVec.ofInt 64 n

/-! #### S -/
theorem test_add_wraps : wrote (exec (.add 3 1 2) (regs [.s 1 (m64 (-1)), .s 2 1])) = some (1, .s 3 0, 0) := by decide +kernel
theorem test_sub_below_zero : wrote (exec (.sub 1 1 2) (regs [.s 1 1, .s 2 3])) = some (1, .s 1 (m64 (-2)), 0) := by decide +kernel
theorem test_mulh_signed : wrote (exec (.mulh 3 1 2) (regs [.s 1 (m64 (-1)), .s 2 2])) = some (3, .s 3 (m64 (-1)), 0) := by decide +kernel
theorem test_mulhn_natural : wrote (exec (.mulhn 3 1 2) (regs [.s 1 (m64 (-1)), .s 2 2])) = some (3, .s 3 1, 0) := by decide +kernel
theorem test_div_truncates : wrote (exec (.div 3 1 2) (regs [.s 1 (m64 (-7)), .s 2 2])) = some (20, .s 3 (m64 (-3)), 0) := by decide +kernel
theorem test_rem_sign : wrote (exec (.rem 3 1 2) (regs [.s 1 (m64 (-7)), .s 2 2])) = some (20, .s 3 (m64 (-1)), 0) := by decide +kernel
theorem test_divn_by_zero : wrote (exec (.divn 3 1 0) (regs [.s 1 5])) = some (20, .s 3 (m64 (-1)), 0) := by decide +kernel
theorem test_sll_mod_64 : wrote (exec (.sll 3 1 2) (regs [.s 1 3, .s 2 65])) = some (1, .s 3 6, 0) := by decide +kernel
theorem test_sra_sign : wrote (exec (.sra 3 1 2) (regs [.s 1 (m64 (-8)), .s 2 2])) = some (1, .s 3 (m64 (-2)), 0) := by decide +kernel
theorem test_maxn_natural : wrote (exec (.maxn 3 1 2) (regs [.s 1 (m64 (-8)), .s 2 2])) = some (1, .s 3 (m64 (-8)), 0) := by decide +kernel
theorem test_clz_zero : wrote (exec (.clz 3 0) (regs [])) = some (1, .s 3 64, 0) := by decide +kernel
theorem test_sext_byte : wrote (exec (.sext 3 1 0) (regs [.s 1 0x180])) = some (1, .s 3 (m64 (-128)), 0) := by decide +kernel
theorem test_adds_saturates : wrote (exec (.adds 3 1 2 0) (regs [.s 1 0x7FFFFFFFFFFFFFFF, .s 2 1])) = some (1, .s 3 0x7FFFFFFFFFFFFFFF, flSA) := by
  decide +kernel
theorem test_addi_negative : wrote (exec (.addi 3 0 0x7F) (regs [])) = some (1, .s 3 (m64 (-1)), 0) := by decide +kernel
theorem test_cmpltn_natural : wrote (exec (.cmpltn 2 1 3) (regs [.s 1 (m64 (-1)), .s 3 1])) = some (1, .p 2 false, 0) := by decide +kernel
theorem test_cmplt_signed : wrote (exec (.cmplt 2 1 3) (regs [.s 1 (m64 (-1)), .s 3 1])) = some (1, .p 2 true, 0) := by decide +kernel
theorem test_pandn : wrote (exec (.pandn 2 0 3) (regs [.p 3 true])) = some (1, .p 2 false, 0) := by decide +kernel
theorem test_hadd_below_zero : faulted (exec (.hadd 1 1 2) (regs [.a 1 (mkHandle 5 3), .s 2 (m64 (-4))])) = some (9, 0, m64 (-1)) := by
  decide +kernel
theorem test_hidx : wrote (exec (.hidx 3 1) (regs [.a 1 (mkHandle 5 3)])) = some (1, .s 3 5, 0) := by decide +kernel
theorem test_call_full : faulted (exec (.call 0) (withC (regs []) (fun c => { c with ras := List.replicate 16 0 }))) = some (0x0B, 0, 4) := by
  decide +kernel
theorem test_ret_empty : (faulted (exec .ret (regs []))).map Prod.fst = some 0x0C := by decide +kernel
theorem test_rett_outside_handler : (faulted (exec .rett (regs []))).map Prod.fst = some 0x20 := by decide +kernel
theorem test_lbrk_inactive : (faulted (exec (.lbrk 2) (regs []))).map Prod.fst = some 0x0D := by decide +kernel
theorem test_csrr_frlen : wrote (exec (.csrr 3 9) (regs [])) = some (2, .s 3 0x800, 0) := by decide +kernel
theorem test_csr_unassigned : faulted (exec (.csrr 3 15) (regs [])) = some (0x0A, 0, 15) := by decide +kernel
theorem test_whzn_outside_domain : wrote (exec (.whzn 3 2) (regs [])) = some (2, .s 3 0xBFC0000000000000, 0) := by decide +kernel
theorem test_tlread_range : faulted (exec (.tlread 3 1 0) (regs [.s 1 2576])) = some (0x15, 3, 2576) := by decide +kernel

/-! #### V: 1 is 0x3F800000 in F32, 0x3F80 in BF16, 0x3C00 in F16 -/
theorem test_vadd_f32 : lane .f32 63 (exec (.vaddF 3 1 2 0) (regs [.v 1 (lanesOf .f32 0x3F800000), .v 2 (lanesOf .f32 0x40000000)])) = some 0x40400000 := by
  decide +kernel
theorem test_vdiv_by_zero : (wrote (exec (.vdiv 3 1 2 2) (regs [.v 1 (lanesOf .f16 0x3C00), .v 2 (lanesOf .f16 0)]))).map (fun r => (r.1, r.2.2)) = some (24, flDZ) ∧
    lane .f16 0 (exec (.vdiv 3 1 2 2) (regs [.v 1 (lanesOf .f16 0x3C00), .v 2 (lanesOf .f16 0)])) = some 0x7C00 := by decide +kernel
theorem test_vfma_f32 : lane .f32 0 (exec (.vfma 3 1 2 0) (regs [.v 1 (lanesOf .f32 0x40000000), .v 2 (lanesOf .f32 0x40400000), .v 3 (lanesOf .f32 0x3F800000)])) =
    some 0x40E00000 := by decide +kernel
theorem test_vneg_bf16 : lane .bf16 127 (exec (.vnegF 3 1 1) (regs [.v 1 (lanesOf .bf16 0x3F80)])) = some 0xBF80 := by decide +kernel
theorem test_vadds_i8 : lane .i8 255 (exec (.vadds 0 3 1 2 0) (regs [.v 1 (lanesOf .i8 127), .v 2 (lanesOf .i8 1)])) = some 127 ∧
    (wrote (exec (.vadds 0 3 1 2 0) (regs [.v 1 (lanesOf .i8 127), .v 2 (lanesOf .i8 1)]))).map (fun r => (r.1, r.2.2)) = some (2, flSA) := by decide +kernel
theorem test_vmulh_n16 : lane .n16 0 (exec (.vmulh 1 3 1 2 1) (regs [.v 1 (lanesOf .n16 0xFFFF), .v 2 (lanesOf .n16 2)])) = some 1 := by decide +kernel
theorem test_vcmplt_i32 : lane .n32 0 (exec (.vcmpltI 0 3 1 2 2) (regs [.v 1 (lanesOf .i32 0xFFFFFFFF), .v 2 (lanesOf .i32 0)])) = some 0xFFFFFFFF := by
  decide +kernel
theorem test_vadd_masked : lane .i32 0 (exec (.vaddI 0 3 1 1 2) (regs [.v 1 (lanesOf .i32 7), .v 3 (lanesOf .i32 9), .mpush 2])) = some 9 ∧
    lane .i32 1 (exec (.vaddI 0 3 1 1 2) (regs [.v 1 (lanesOf .i32 7), .v 3 (lanesOf .i32 9), .mpush 2])) = some 14 := by decide +kernel
theorem test_vadd_wrong_format : faulted (exec (.vaddF 3 1 2 0) (regs [.v 1 (lanesOf .i32 0), .v 2 (lanesOf .f32 0)])) = some (6, 0, 11) := by decide +kernel
theorem test_mpop_empty : faulted (exec .mpop (regs [])) = some (0x10, 2, 0) := by decide +kernel
theorem test_vrot : lane .n32 63 (exec (.vrot 3 1 2) (regs [.v 1 { pay := 5, tag := tagOf .n32 }, .s 2 1])) = some 5 := by decide +kernel
theorem test_vext : wrote (exec (.vext 3 1 2) (regs [.v 1 { pay := 5 * 2 ^ 32, tag := tagOf .n32 }, .s 2 65])) = some (3, .s 3 5, 0) := by decide +kernel
theorem test_vrsum_no_element : (wrote (exec (.vrsum 3 1) (regs [.v 1 (lanesOf .f32 0xBF800000), .mpush 0]))).map (fun r => r.2.2) = some 0 ∧
    lane .f32 0 (exec (.vrsum 3 1) (regs [.v 1 (lanesOf .f32 0xBF800000), .mpush 0])) = some 0 := by decide +kernel
theorem test_vrsum_i8 : lane .i64 0 (exec (.vrsum 3 1) (regs [.v 1 (lanesOf .i8 0xFF)])) = some (2 ^ 64 - 256) := by decide +kernel
theorem test_vdot_bf16 : lane .f32 0 (exec (.vdot 3 1 1 0) (regs [.v 1 (lanesOf .bf16 0x3F80), .v 3 (lanesOf .f32 0)])) = some 0x43000000 := by decide +kernel
theorem test_exp2_correct : lane .f32 0 (exec (.exp2 1 3 1 0) (regs [.v 1 (lanesOf .f32 0x40400000)])) = some 0x41000000 := by decide +kernel
theorem test_sqrt_correct : lane .f32 0 (exec (.sqrt 1 3 1 0) (regs [.v 1 (lanesOf .f32 0x40800000)])) = some 0x40000000 := by decide +kernel
theorem test_cvt_f32_bf16 : lane .bf16 0 (exec (.cvt 3 1 2) (regs [.v 1 (lanesOf .f32 0x3F808001), .v 3 (lanesOf .bf16 0), .s 2 2])) = some 0x3F81 := by decide +kernel

/-! #### M, L, G -/
theorem test_mzero_busy : (match exec (.mzero 3 0) (regs []) with | .next t => (t.ctx.busy.getLsbD 3, t.ctx.mwrites.map (fun w => (w.1, w.2.1))) | _ => (false, [])) =
    (true, [(2, 3)]) := by decide +kernel
theorem test_mrecr_wraps : wrote (exec (.mrecr 1 2 3 0) (regs [.d 2 (2 ^ 22 - 1), .s 3 2])) = some (1, .d 1 1, 0) := by decide +kernel
theorem test_mld_bad_rows : faulted (exec (.mld 1 2) (regs [])) = some (0x11, 2, 0) := by decide +kernel
theorem test_ldl_past_end : faulted (exec (.ldl 1 2 0 3) (regs [.s 2 0x3FFFFC])) = some (0x13, 2, 0x400000) := by decide +kernel
theorem test_ldl_not_owned : faulted (exec (.ldl 1 2 0 3) (regs [.s 2 0x40000])) = some (0x13, 1, 0x40000) := by decide +kernel
theorem test_ldg_null_handle : (faulted (exec (.ldg 1 2 0 3) (regs []))).map (fun r => (r.1, r.2.1)) = some (7, 1) := by decide +kernel
theorem test_copy_reserved_bits : (faulted (exec .copy (withIss (regs [.s 2 (2 ^ 32)]) (fun i => { i with ops := ⟨2, 0, 0⟩ })))).map (fun r => (r.1, r.2.1)) =
    some (0x18, 2) := by decide +kernel
theorem test_trec_idle : (faulted (exec (.trec 5 1 0) (regs []))).map (fun r => (r.1, r.2.1)) = some (0x1A, 1) := by decide +kernel
theorem test_sgo_without_pattern : (faulted (exec (.sgo 0) (regs []))).map Prod.fst = some 0x14 := by decide +kernel

/-! #### Whole steps from reset (the core then turns to its other context) -/
/-- ADDI s4, s0, −3 placed at the first fetch: it lands a cycle later, and the pc is past its two words. -/
theorem test_step_addi : (match step (State.reset.withFetchWord 32 0b0000_0_00_00100000_00100_00000_11111_01) with
    | .next t => some (t.sib.pc.toNat, t.sib.pend.map (fun p => (p.due, p.wr)))
    | _ => none) = some (8, [(1, .s 4 (m64 (-3)))]) := by decide +kernel
/-- A word of no operation takes the reserved-encoding fault; without a handler the context freezes. -/
theorem test_step_reserved : (match step (State.reset.withFetchWord 32 0xFFFFFFFF) with
    | .next t => some (t.sib.mode, t.sib.pend)
    | _ => none) = some (.frozen 4, []) := by decide +kernel
/-- R346: a copy of one line onto itself moved by 32 bytes cuts its destination at sectors. -/
theorem test_overlap_sectors : sectorSpans 0 (byteAddrs [⟨.dram, 0x30, 40⟩]) = [(0, 16), (16, 24)] := by decide +kernel


/-! #### The V slots -/

/-- v`r` written before the test. -/
def vec (f : Fmt) (pay : BitVec 2048 := 0) : VReg := { pay := pay, tag := tagOf f }
/-- v1 and v2 of one format, v3 of another, v4 N8, v5 E2M1 with blocks of 8. -/
def vecs (f g : Fmt) : State :=
  withR base [.v 1 (vec f), .v 2 (vec f 5), .v 3 (vec g), .v 4 (vec .n8), .v 5 { tag := 4 * 32 + 6 }]

/-- Lanes at the greatest code; an empty mask entry. -/
theorem witness_VectorMerging :
    let r : List (Nat × Flags) := List.replicate 64 (2 ^ 32 - 1, 0x3F)
    r.length = 2048 / Fmt.f32.width ∧ (∀ x ∈ r, x.1 < 2 ^ Fmt.f32.width) ∧ (withR base [.mpush 0]).ctx.regs.top.getLsbD 0 = false := by
  decide +kernel
theorem witness_FloatLanes :
    let s (f g : Fmt) := vecs f g
    (∀ t ∈ [(0, Fmt.f32, Fmt.i32), (1, .bf16, .i16), (2, .f16, .i16)], floatType (BitVec.ofNat 2 t.1) = t.2.1 ∧
      tagFmt ((s t.2.1 t.2.2).rv (1 : BitVec 5)).tag = some t.2.1 ∧ tagFmt ((s t.2.1 t.2.2).rv (2 : BitVec 5)).tag = some t.2.1 ∧
      tagFmt ((s t.2.1 t.2.2).rv (3 : BitVec 5)).tag = some t.2.2 ∧ (if t.2.1.width = 32 then Fmt.i32 else .i16) = t.2.2) := by
  decide +kernel
theorem witness_IntegerLanes :
    (∀ f ∈ [(0, 0), (0, 1), (0, 2), (0, 3), (1, 0), (1, 1), (1, 2), (1, 3)],
      let ty := intType (BitVec.ofNat 1 f.1) (BitVec.ofNat 2 f.2)
      tagFmt ((vecs ty ty).rv (1 : BitVec 5)).tag = some ty ∧ tagFmt ((vecs ty ty).rv (2 : BitVec 5)).tag = some ty) := by decide +kernel
/-- The mask stack empty, with one entry, one short of full, full; a source of another format. -/
theorem witness_MaskStackAndFormatFaults :
    let at_ (n : Nat) : State := withR (vecs .i32 .f16) (List.replicate n (.mpush 1))
    tagFmt ((at_ 0).rv (1 : BitVec 5)).tag = some .i32 ∧ (at_ 7).depth < 8 ∧ 8 ≤ (at_ 8).depth ∧ (at_ 0).depth = 0 ∧ 0 < (at_ 1).depth ∧
    (at_ 1).ctx.regs.k = [1] ∧ (at_ 2).ctx.regs.k = 1 :: 1 :: [] ∧
    tagFmt ((at_ 0).rv (1 : BitVec 5)).tag ≠ some (floatType 0) ∧ tagFmt ((at_ 0).rv (1 : BitVec 5)).tag ≠ some (intType 0 0) ∧
    (tagFmt ((at_ 0).rv (3 : BitVec 5)).tag = some (floatType 2) ∧ tagFmt ((at_ 0).rv (1 : BitVec 5)).tag ≠ some (floatType 2)) := by
  decide +kernel
/-- 2 in F32, a NaN, a negative number, for the clauses on values: 2 is a power of two and an integer, and 1/2 lies in its own binade. -/
theorem witness_TranscendentalsAndConversions_values :
    (decodeFloat .f32 0x7FC00000 = .nan false ∧ 0x7FC00000 < 2 ^ Fmt.f32.width) ∧
    (∃ m e, decodeFloat .f32 0xC0000000 = .fin true m e ∧ m ≠ 0) ∧
    (∃ m e, decodeFloat .f32 0x40000000 = .fin false m e ∧ m ≠ 0) ∧
    (decodeFloat .f32 0x40000000).num = 2 ∧ (2 : ℚ) = 2 ^ (1 : Int) ∧ (1 : Int) ≠ 0 ∧ (-4096 : Int) ≤ 2 ∧ (2 : Int) ≤ 4096 ∧
    fnSpecial .tanh (decodeFloat .f32 0x40000000) = none ∧ ¬ (fnC .f32 .rcp 0x40000000).2.has flOF ∧
    (2 : ℚ) ^ (-1 : Int) ≤ 1 / 2 ∧ (1 : ℚ) / 2 < 2 ^ ((-1 : Int) + 1) := by
  have h : decodeFloat .f32 0x40000000 = .fin false (2 ^ 23) (-22) := by decide +kernel
  refine ⟨by decide +kernel, ⟨2 ^ 23, -22, by decide +kernel, by decide⟩, ⟨_, _, h, by decide⟩, ?_, by norm_num, by decide, by decide, by decide,
    by decide +kernel, by unfold Flags.has; decide +kernel, by norm_num, by norm_num⟩
  rw [h]
  norm_num [Val.num]
theorem witness_MovesAndPermutes :
    let s := vecs .f32 .f16
    tagFmt (s.rv (1 : BitVec 5)).tag = some .f32 ∧ Fmt.f32.isScaled = false ∧ tagFmt (s.rv (4 : BitVec 5)).tag = some .n8 ∧
    (s.rv (2 : BitVec 5)).tag = (s.rv (1 : BitVec 5)).tag ∧ tagFmt (s.rv (5 : BitVec 5)).tag = some .e2m1 := by decide +kernel
/-- Sums of the three kinds; a dot product of one segment and of 64, and one of whole E2M1 blocks. -/
theorem witness_Reductions :
    (∀ f ∈ [Fmt.f32, .i8, .n64], tagFmt ((vecs f f).rv (1 : BitVec 5)).tag = some f ∧ f.isScaled = false) ∧
    (∀ l ∈ [[], [Wr.mpush 0]], let on := ((vecCodes .f32 ((withR (vecs .f32 .f32) l).rv (1 : BitVec 5)).pay).zipIdx.filter
      (fun p => (withR (vecs .f32 .f32) l).ctx.regs.top.getLsbD p.2)).map Prod.fst; (on = [] ↔ l ≠ [])) ∧
    (Fmt.f32.isFloat = true) ∧ (Fmt.i8.isFloat = false ∧ Fmt.i8.isSigned = true) ∧ (Fmt.n64.isFloat = false ∧ Fmt.n64.isSigned = false) ∧
    (let s := vecs .bf16 .f32
     tagFmt (s.rv (3 : BitVec 5)).tag = some .f32 ∧ tagFmt (s.rv (1 : BitVec 5)).tag = some .bf16 ∧ tagFmt (s.rv (2 : BitVec 5)).tag = some .bf16 ∧
       dotPair .bf16 .bf16 = true ∧ bits (s.rv (1 : BitVec 5)).tag 7 5 = bits (s.rv (2 : BitVec 5)).tag 7 5 ∧
     tagFmt (s.rv (5 : BitVec 5)).tag = some .e2m1 ∧ dotPair .e2m1 .e2m1 = true ∧
       (∀ sg ∈ [(0 : BitVec 2), 3], 2048 / Fmt.e2m1.width / 4 ^ sg.toNat % groupLen (bits (s.rv (5 : BitVec 5)).tag 7 5) = 0)) := by
  decide +kernel
/-- A narrowing, a copy, a dequantisation, a quantisation and a copy of a quantised register. -/
theorem witness_TranscendentalsAndConversions :
    let s := withR (vecs .f32 .f32) [.s 1 2, .s 2 1, .s 3 (4 * 32 + 6)]
    let c (a b : BitVec 5) (ok : BitVec 32 → Bool) (src : Fmt → Bool) (g : Bool) : Bool :=
      decide (s.conv a b ok src g = .ok (got ⟨0, 0, .f32, .f32, ⟨0, 0, 0, 0⟩⟩ (s.conv a b ok src g)))
    let ctl (a b : BitVec 5) (ok : BitVec 32 → Bool) (src : Fmt → Bool) (g : Bool) : BitVec 32 :=
      (got ⟨0, 0, .f32, .f32, ⟨0, 0, 0, 0⟩⟩ (s.conv a b ok src g)).ctl
    tagFmt (s.rv (1 : BitVec 5)).tag = some (floatType 0) ∧ c 1 1 cvtWordOk unscaled false = true ∧
    (c 1 2 cvtWordOk unscaled false = true ∧ tagSame (s.rv (1 : BitVec 5)).tag (ctlTag (ctl 1 2 cvtWordOk unscaled false)) = true ∧
      s.ctx.regs.top = BitVec.allOnes 512) ∧
    c 5 2 dqntWordOk Fmt.isScaled false = true ∧
    (c 1 3 qntWordOk (fun _ => true) true = true ∧ tagSame (s.rv (1 : BitVec 5)).tag (ctlTag (ctl 1 3 qntWordOk (fun _ => true) true)) = false) ∧
    (c 5 3 qntWordOk (fun _ => true) true = true ∧ tagSame (s.rv (5 : BitVec 5)).tag (ctlTag (ctl 5 3 qntWordOk (fun _ => true) true)) = true) := by
  decide +kernel
/-- The greatest F32, minus infinity, the least subnormal of F16, minus zero. -/
theorem witness_ExactValuesRoundToThemselves :
    ((0 : BitVec 2) ≠ 3 ∧ 0xFF7FFFFF < 2 ^ (floatType 0).width ∧ (decodeFloat (floatType 0) 0xFF7FFFFF).isNaN = false) ∧
    (0xFF800000 < 2 ^ (floatType 0).width ∧ (decodeFloat (floatType 0) 0xFF800000).isNaN = false) ∧
    ((2 : BitVec 2) ≠ 3 ∧ 1 < 2 ^ (floatType 2).width ∧ (decodeFloat (floatType 2) 1).isNaN = false) ∧
    (0x8000 < 2 ^ (floatType 2).width ∧ (decodeFloat (floatType 2) 0x8000).isNaN = false) := by decide +kernel

/-! #### The M slot -/

/-- A record of R248: BASE, STRIDE, ROWS, KLEN, FMT, GS, SBASE. -/
def record (base stride rows klen fmt gs sbase : Nat) : BitVec 128 :=
  BitVec.ofNat 128 (base + stride * 2 ^ 22 + rows * 2 ^ 44 + klen * 2 ^ 51 + fmt * 2 ^ 64 + gs * 2 ^ 69 + sbase * 2 ^ 88)
/-- d1 in bank group 0 and d2 in group 1, 64 rows of `klen` elements; tile 1 of tag `tag`; groups 0 and 1 leased. -/
def matrix (fmt fmt' gs klen : Nat) (tag : BitVec 32) : State :=
  let s := withR base [.d 1 (record 0 1024 64 klen fmt gs 0x20000), .d 2 (record 0x40000 1024 64 klen fmt' gs 0x60000)]
  withC (withCsr s (fun c => { c with lease := 3, place := 0xFFFF000000000000 })) (fun c => { c with
    m := (Vector.replicate 16 {}).set 1 { tag := tag } })
/-- Each queued MMA and MMAZ in every form, at KLEN = 512 and at its least. -/
theorem witness_MatrixQueue_mma :
    let ok (s : State) (zero : Bool) (kind m : Nat) : Bool :=
      let ra : NamedRec := (1, s.rd (1 : BitVec 5))
      let rb : NamedRec := (2, s.rd (2 : BitVec 5))
      s.ctx.busy.getLsbD (1 : BitVec 5).toNat == false && decide (s.recordCheck 512 [ra, rb] = .ok ()) &&
        decide (s.mmaFormats zero kind m 1 ra rb = .ok ()) && decide (s.bankCheck [ra, rb] = .ok ()) &&
        decide (s.arrayStall false [ra, rb] 2 (mmaWork kind (mmaFmts kind m).1 (opRec ra.2).klen s.ctx.iss.np) = .ok ())
    [false, true].all (fun z => ok (matrix 2 2 0 512 1) z 0 0 && ok (matrix 3 3 0 1 1) z 0 1 &&
      ok (matrix 4 4 0 512 1) z 1 0 && ok (matrix 5 4 0 512 1) z 1 1 && ok (matrix 4 5 0 512 1) z 1 2 && ok (matrix 5 5 0 1 1) z 1 3 &&
      ok (matrix 6 6 4 512 1) z 2 0 && ok (matrix 9 9 0 512 11) z 3 0 && ok (matrix 13 13 0 512 15) z 3 1 &&
      ok (matrix 9 9 0 1 11) z 3 2 && ok (matrix 13 13 0 1 15) z 3 3 && ok (matrix 7 7 1 512 1) z 4 0 && ok (matrix 8 8 1 32 1) z 5 0) = true := by
  decide +kernel
theorem witness_MatrixQueue_moves :
    let s := matrix 1 1 0 64 1
    let r : NamedRec := (1, s.rd (1 : BitVec 5))
    (s.ctx.busy.getLsbD (2 : BitVec 5).toNat = false ∧ s.moveRecord r = .ok () ∧ s.bankCheck [r] = .ok () ∧ s.arrayStall false [r] 1 32 = .ok ()) ∧
    (s.ctx.busy.getLsbD (1 : BitVec 5).toNat = false ∧ (s.rm (1 : BitVec 5)).tag = (opRec r.2).tag ∧ s.arrayStall true [r] 1 32 = .ok ()) ∧
    (tileTag (s.rm (1 : BitVec 5)).tag = true ∧ s.queueRoom 32 = true) := by decide +kernel
theorem witness_TilesAndRecords :
    let s := withR (matrix 1 1 0 64 1) [.v 1 (vec .f32)]
    s.ctx.busy.getLsbD (0 : BitVec 5).toNat = false ∧ s.ctx.busy.getLsbD (1 : BitVec 5).toNat = false ∧
    tileTag (s.rv (1 : BitVec 5)).tag = true ∧ tileTag (s.rm (1 : BitVec 5)).tag = true := by decide +kernel
/-- Every kind of MMA at its widest and at its least, MLD of each type, MCVT to another type and to its own. -/
theorem witness_MatrixArithmetic : 2 ^ 32 - 1 < 2 ^ 32 ∧ (1 : Nat) ≠ 0 ∧
    (∀ w ∈ [(0, 0, 2, 2, 0, 512), (0, 1, 3, 3, 0, 1), (1, 0, 4, 4, 0, 512), (1, 1, 5, 4, 0, 512), (1, 2, 4, 5, 0, 1), (1, 3, 5, 5, 0, 1), (2, 0, 6, 6, 4, 8),
        (2, 0, 6, 6, 6, 512), (3, 0, 9, 9, 0, 512), (3, 3, 13, 13, 0, 1), (4, 0, 7, 7, 1, 512), (5, 0, 8, 8, 3, 128)],
      let ra := opRec (record 0 1024 64 w.2.2.2.2.2 w.2.2.1 w.2.2.2.2.1 0)
      let rb := opRec (record 0 1024 64 w.2.2.2.2.2 w.2.2.2.1 w.2.2.2.2.1 0)
      w.1 ≤ 5 ∧ tagOk ra.tag = true ∧ tagOk rb.tag = true ∧ ra.fmt = (mmaFmts w.1 w.2.1).1 ∧ rb.fmt = (mmaFmts w.1 w.2.1).2.1 ∧ ra.gs = rb.gs ∧
      rb.klen = ra.klen ∧ ra.klen % ra.group = 0 ∧ ra.rows ≤ 64 ∧ rb.rows ≤ 64) ∧
    (∀ f ∈ [1, 11, 15], let r := opRec (record 0 256 64 64 f 0 0); (r.fmt = 1 ∨ r.fmt = 11 ∨ r.fmt = 15) ∧ r.klen ≤ 64 ∧ r.rows ≤ 64) ∧
    (∀ g ∈ [(1, Fmt.f32), (11, .i32), (15, .n32)], tileTag (BitVec.ofNat 32 g.1) = true ∧ Fmt.ofCode g.1 = some g.2) := by decide +kernel

/-! #### The Spindle -/

/-- A buffer table at DPA 0x10000 with seven slots: 1 a buffer of 4,096 bytes in DRAM at 0x100000 with every right, 2 the same at
0x200000. -/
def entry (b : Nat) : List Byte :=
  leBytes 32 (b + 4096 * 2 ^ 64 + 2 ^ 160 + 2 * 2 ^ 164 + 127 * 2 ^ 184 + 255 * 2 ^ 216 + 0xFFFF * 2 ^ 224)
def world : State :=
  let s := withR (withCsr base (fun c => { c with btab := 0x0007000000010000, place := 0xFFFF000000000000 }))
    [.a 1 (mkHandle 1 0), .a 2 (mkHandle 2 0), .s 1 1, .v 1 (vec .f32)]
  { s with pk := { s.pk with mem := { s.pk.mem with dram := Memory.write [] 0x10020 (entry 0x100000 ++ entry 0x200000) } }
           core := { s.core with entries := [⟨0, 0, 0x10000, 1⟩, ⟨0, 0, 0x10000, 2⟩] } }
/-- A full return store with room for its last place of a spill area in buffer 1; an empty one with one entry spilled. -/
theorem witness_Branches_spill :
    let s (r : List Dpa) (n : BitVec 16) : State := withCsr (withC world (fun c => { c with ras := r })) (fun c =>
      { c with rsspill := 0x0001000800000000, spilled := n })
    let full := s (List.replicate 16 4) 7
    let buf : Nat := 1
    (16 ≤ full.ctx.ras.length ∧ buf = bits full.ctx.csr.rsspill 63 48 ∧ buf ≠ 0 ∧ full.ctx.csr.spilled.toNat ≠ bits full.ctx.csr.rsspill 47 32 ∧
      8 * (bits full.ctx.csr.rsspill 31 3 + full.ctx.csr.spilled.toNat) = 56 ∧ full.mayReach buf 56 8 rWR false ∧
      full.ctx.ras.getLast? = some 4 ∧ full.ctx.iss.slot ≠ .X) ∧
    ((s [] 1).ctx.ras = [] ∧ (s [] 1).ctx.csr.spilled.toNat ≠ 0 ∧ 8 * (bits (s [] 1).ctx.csr.rsspill 31 3 + ((s [] 1).ctx.csr.spilled.toNat - 1)) = 0 ∧
      (s [] 1).mayReach buf 0 8 rRD false) := by
  simp only [mayReach_iff]
  decide +kernel
def spun (p : Spindle) : State := withC world (fun c => { c with spin := p })
theorem witness_SpindleInstructions_modes :
    (spun { mode := .record }).ctx.spin.mode ≠ .idle ∧ (spun {}).ctx.spin.mode = .idle ∧ (spun { mode := .replay }).ctx.spin.mode = .replay ∧
    (spun { mode := .record }).ctx.spin.mode = .record ∧ (List.replicate 8 (0 : Byte)).length % 4 = 0 := by decide +kernel
/-- The smallest tape at an aligned handle; records that just fit; TEND with every anchor placed. -/
theorem witness_SpindleInstructions_record :
    let s := withR (spun {}) [.s 2 16, .s 3 0x123456789ABCDEF0]
    let r (o n : Nat) (bs : Nat) : State := withR (spun { mode := .record, opened := o, nfr := n, bytes := List.replicate bs 1 }) [.s 3 0x123456789ABCDEF0]
    (s.ctx.spin.mode = .idle ∧ hOff (s.ra (1 : BitVec 5)) % 64 = 0 ∧ 16 ≤ (s.rs (2 : BitVec 5)).toNat ∧ (s.rs (2 : BitVec 5)).toNat < 2 ^ 32 ∧
      s.mayAccess (1 : BitVec 5) 0 (64 * (s.rs (2 : BitVec 5)).toNat) rWR) ∧
    ((r 15 16 55).ctx.spin.mode = .record ∧ (r 15 16 55).ctx.spin.opened + 1 ≤ (r 15 16 55).ctx.spin.nfr ∧ (r 15 16 55).ctx.spin.bytes.length < 56) ∧
    ((r 7 16 47).ctx.spin.opened + 9 ≤ (r 7 16 47).ctx.spin.nfr ∧ (r 7 16 47).ctx.spin.bytes.length < 48 ∧ (r 7 16 47).ctx.spin.site 5 false = none ∧
      (r 7 16 47).ctx.spin.sites.length < 8 ∧ ¬ (zrun (leBytes 8 ((r 7 16 47).rs (3 : BitVec 5)).toNat)).length < 8) ∧
    ((r 2 16 0).ctx.spin.opened + 14 ≤ (r 2 16 0).ctx.spin.nfr ∧ (1 : BitVec 2) ≠ 0) ∧
    (let q := spun { mode := .record, opened := 9, nfr := 16, sites := [⟨5, true, []⟩] }
     q.ctx.spin.mode = .record ∧ q.ctx.spin.opened + ((q.ctx.spin.sites.map (fun e => if e.vec then 7 else 2)).foldl (· + ·) 0) ≤ q.ctx.spin.nfr) := by
  simp only [mayAccess_iff]
  decide +kernel
/-- A sealed tape of one record in buffer 1: its header frame names the frame below. -/
def taped : State :=
  let hdr := leBytes 8 0x7A9ED21C ++ leBytes 9 0x01000000000040 ++ List.replicate 7 0 ++ leBytes 8 1 ++ List.replicate 28 0 ++ leBytes 4 0x2000000
  { world with pk := { world.pk with mem := world.pk.mem.write .dram 0x100000 hdr } }
theorem witness_SpindleInstructions_trev :
    let s := taped
    let g := s.reach (1 : BitVec 5) 0 64
    let hdr := s.ownBytes g
    s.ctx.spin.mode = .idle ∧ s.mayAccess (1 : BitVec 5) 0 64 rRD ∧ s.pk.answerTo (waitOfCtx s.ctx.num) (s.rs (0 : BitVec 5)) = none ∧
    s.pk.witness (s.rs (0 : BitVec 5)) none = .ok ∧ s.ownError g = none ∧ hdr.length = 64 ∧ leNat (hdr.take 4) = 0x7A9ED21C ∧ leNat (hdr.drop 60) / 2 ^ 24 % 4 = 2 ∧
    leNat (hdr.drop 60) % 2 ^ 24 = 0 := by
  simp only [mayAccess_iff]
  decide +kernel
/-- A frame under the walk with one record of site 5: `rk`, `enc`, PV and the value before it. -/
def replaying (rk enc pv : Nat) (v : List Byte) : State :=
  let t := leBytes 4 (5 * 2 ^ 24 + rk * 2 ^ 22 + enc * 2 ^ 20 + pv * 2 ^ 16 + v.length)
  spun { mode := .replay, opened := 1, recs := 1, pos := v.length + 4, bytes := v ++ t ++ List.replicate (60 - v.length) 0
         sites := [⟨5, false, leBytes 8 9⟩] }
def popped (s : State) : Walk × Except (TapeErr × Pack) (Tail × List Byte × Walk) := s.walkPop (2 ^ 24) ⟨s.pk, s.ctx.spin⟩
def poppedTail (s : State) : Option (Tail × Bool) :=
  match (popped s).2 with
  | .ok (tl, _, w) => some (tl, (w.sp.site 5 false).isSome)
  | .error _ => none
theorem witness_SpindleInstructions_pop :
    poppedTail (replaying 0 0 0 (leBytes 8 7)) = some (⟨5, 0, 0, false, 0, false⟩, true) ∧
    poppedTail (replaying 0 2 0 (zrun (leBytes 8 7))) = some (⟨5, 0, 2, false, 0, false⟩, true) ∧
    poppedTail (replaying 1 0 1 []) = some (⟨5, 1, 0, false, 0, true⟩, true) ∧
    poppedTail (replaying 2 1 0 (zrun (List.replicate 324 0))) = some (⟨5, 2, 1, false, 0, false⟩, true) := by decide +kernel
def bareSites (s : State) (v : List Site) : State := withC s (fun c => { c with spin := { c.spin with sites := v } })
def poppedSites (s : State) : Nat × Nat × List Byte × List Byte := match (popped s).2 with
  | .ok (tl, _, w) => (tl.rk, tl.enc, ((w.sp.site 5 false).map Site.val).getD [], ((w.sp.site 5 true).map Site.val).getD [])
  | .error _ => (0, 0, [], [])
def poppedErr (s : State) : Nat × Nat := match (popped s).2 with
  | .error (.div c, _) => (1, c)
  | .error (.fmt c, _) => (2, c)
  | _ => (0, 0)
/-- Another site and another kind are met above; a difference without its site, one of a vector with its site; the tape's end; a record
that the rules do not allow. -/
theorem witness_SpindleInstructions_faults :
    poppedSites (bareSites (replaying 0 2 0 (zrun (leBytes 8 7))) []) = (0, 2, [], []) ∧
    poppedSites (bareSites (replaying 2 2 0 (zrun (List.replicate 324 0))) []) = (2, 2, [], []) ∧
    poppedSites (bareSites (replaying 2 2 0 (zrun (List.replicate 324 0))) [⟨5, true, List.replicate 324 1⟩]) = (2, 2, [], List.replicate 324 1) ∧
    (spun { mode := .replay }).ctx.spin.mode = .replay ∧ poppedErr (spun { mode := .replay }) = (1, 3) ∧
    poppedErr (replaying 3 0 0 (leBytes 8 7)) = (2, 2) ∧ ({} : Spindle).opened = 0 ∧ ({} : Spindle).frame = ({} : Spindle).origin := by
  decide +kernel


/-! #### The L slot -/

/-- Bank groups 0 and 1 owned; an access below, at the end of, past and across what is owned. -/
def lanes (x : Nat) : VReg := vec .n32 (BitVec.ofNat 2048 (x % 2 ^ 32))
def local_ : State := withR (withCsr world (fun c => { c with place := 0x0003000000000000 }))
  [.s 1 0x7FFFC, .s 2 1, .s 3 0x7FF00, .s 4 0x7FEBC, .v 1 (vec .f32), .v 2 (lanes 0x7FFFC)]
theorem witness_LocalLoadsAndStores_ranges :
    let owned (x : Nat) : Bool := local_.bgm.testBit (x / 2 ^ 18)
    ((-1 : Int) < 0 ∧ (1 : Nat) ≠ 0) ∧ 2 ^ 22 < 0x3FFFFD + 4 ∧
    (0x7FFFE + 4 ≤ 2 ^ 22 ∧ 0x7FFFE ≤ 0x80000 ∧ 0x80000 < 0x7FFFE + 4 ∧ owned 0x80000 = false ∧ (∀ y < 0x80000, 0x7FFFE ≤ y → owned y = true)) ∧
    (0x7FFFC + 4 ≤ 2 ^ 22 ∧ (∀ y < 0x7FFFC + 4, 0x7FFFC ≤ y → owned y = true) ∧ 0x7FFFC % 4 = 0 ∧ 0x7FFFC % 8 ≠ 0) := by
  refine ⟨by decide, by decide, ⟨by decide, by decide, by decide, by decide +kernel, fun y h1 h2 => ?_⟩, by decide, fun y h1 h2 => ?_, by decide, by decide⟩
  · have : y / 2 ^ 18 = 1 := by omega
    simp only [this]; decide +kernel
  · have : y / 2 ^ 18 = 1 := by omega
    simp only [this]; decide +kernel
/-- The last word, vector and image of what is owned. -/
theorem witness_LocalLoadsAndStores :
    let s := local_
    let ok (w : Bool) (e n : Nat) : Prop := s.localBad e n 1 = none ∧ s.boardBlocks s.cluster w e n = false
    s.ctx.landings < 32 ∧ (s.eaL (1 : BitVec 5) = (0x7FFFC : Nat) ∧ ok false 0x7FFFC 4 ∧ ok true 0x7FFFC 4 ∧ s.witCheck 0 (s.rs (0 : BitVec 5)) = .ok ()) ∧
    (s.eaL (3 : BitVec 5) = (0x7FF00 : Nat) ∧ ok false 0x7FF00 (plainLen ((s.rs (2 : BitVec 5)).setWidth 32)) ∧
      tagOk ((s.rs (2 : BitVec 5)).setWidth 32) = true ∧ ok false 0x7FF00 (plainLen (s.rv (1 : BitVec 5)).tag) ∧
      ok true 0x7FF00 (plainLen (s.rv (1 : BitVec 5)).tag) ∧ tagOk (s.rv (1 : BitVec 5)).tag = true) ∧
    (s.eaL (4 : BitVec 5) = (0x7FEBC : Nat) ∧ ok false 0x7FEBC 324 ∧ ok true 0x7FEBC 324) := by decide +kernel
theorem witness_LocalLoadsAndStores_lanes :
    let s := local_
    let xs := got [] (s.lanesCheck (s.laneAddrs (2 : BitVec 5) s.dispL) 4)
    tagFmt (s.rv (2 : BitVec 5)).tag = some .n32 ∧ s.lanesCheck (s.laneAddrs (2 : BitVec 5) s.dispL) 4 = .ok xs ∧
    laneTagOk ((s.rs (2 : BitVec 5)).setWidth 32) = true ∧ laneTagOk (s.rv (1 : BitVec 5)).tag = true ∧
    (∀ e ∈ xs, s.boardBlocks s.cluster false e 4 = false) ∧ (∀ e ∈ xs, s.boardBlocks s.cluster true e 4 = false) ∧ s.ctx.landings < 32 := by
  decide +kernel
/-- Operands at the greatest words; a NaN. -/
theorem witness_LocalAtomics :
    let s := withR local_ [.s 1 0x7FFF8]
    (s.eaL (1 : BitVec 5) = (0x7FFF8 : Nat) ∧ s.localBad (0x7FFF8 : Nat) 8 8 = none ∧ s.localBad (0x7FFF8 : Nat) 4 4 = none ∧
      s.boardBlocks s.cluster true 0x7FFF8 8 = false ∧ s.boardBlocks s.cluster true 0x7FFF8 4 = false ∧ s.ctx.landings < 32) ∧
    (2 ^ 32 - 1 < 2 ^ (8 * 4) ∧ 2 ^ 64 - 1 < 2 ^ (8 * 8)) ∧ (decodeFloat .f32 0x7FC00000).isNaN = true ∧ (0x7FC00000 < 2 ^ (8 * 4)) := by
  decide +kernel

/-- A line in the L1 and one that is not; a weight-store window used to its end. -/
def cached : State :=
  let s := withC (withR world [.s 1 60, .s 2 0x200, .s 3 ((2 : Word) <<< 24), .s 4 1]) (fun c => { c with wsbase := 0x100, wslen := 0x240 })
  { s with core := { s.core with l1 := [⟨0x100000, List.replicate 64 7, 0xFF, false⟩] } }
theorem witness_L1AndWeightStore :
    let s := cached
    let r := s.reach (1 : BitVec 5) s.dispL 4
    let r2 := s.reach (2 : BitVec 5) s.dispL 4
    s.ctx.landings < 32 ∧
    (s.mayAccess (1 : BitVec 5) s.dispL 4 rRD ∧ s.core.l1Read (s.pk.homeDev r.via) r.pieces = some [7, 7, 7, 7]) ∧
    (s.mayAccess (2 : BitVec 5) s.dispL 4 rRD ∧ s.core.l1Read (s.pk.homeDev r2.via) r2.pieces = none ∧ s.witCheck 0 (s.rs (0 : BitVec 5)) = .ok ()) ∧
    (s.eaL (2 : BitVec 5) = (0x200 : Nat) ∧ s.ctx.wsbase ≤ 0x200 ∧ 0x200 + plainLen ((s.rs (4 : BitVec 5)).setWidth 32) ≤ s.ctx.wsbase + s.ctx.wslen ∧
      tagOk ((s.rs (4 : BitVec 5)).setWidth 32) = true ∧ 0x200 + 8 ≤ s.ctx.wsbase + s.ctx.wslen) ∧
    (0x200 + 32 * bits (s.rs (3 : BitVec 5)) 40 24 ≤ s.ctx.wsbase + s.ctx.wslen ∧ 32 * bits (s.rs (3 : BitVec 5)) 40 24 ≠ 0 ∧
      s.localBad (bits (s.rs (3 : BitVec 5)) 21 0) (32 * bits (s.rs (3 : BitVec 5)) 40 24) 1 = none ∧
      s.boardBlocks s.cluster true (bits (s.rs (3 : BitVec 5)) 21 0) (32 * bits (s.rs (3 : BitVec 5)) 40 24) = false ∧ s.boardFull = false) ∧
    32 * bits (s.rs (0 : BitVec 5)) 40 24 = 0 := by
  simp only [mayAccess_iff]
  decide +kernel

/-- A pattern of two words, 4 bytes apart, from 0x40 of the scratchpad. -/
def patWords : List Word := [0x40, (2 : Word) <<< 54, ((1 : Word) <<< 24) + 4, 0, 0, 0, 0, 0]
def streaming (q : StreamQ) : State :=
  let s := withC world (fun c => { c with stallAt := some 0, q := (Vector.replicate 4 {}).set 1 q })
  { s with pk := { s.pk with mem := { s.pk.mem with spad := Memory.write [] 0 (patWords.flatMap (fun w => leBytes 8 w.toNat)) } } }
theorem witness_StreamInstructions_spat :
    let s := streaming {}
    let pc : Piece := ⟨.spad, s.core.num / 8 * 2 ^ 22 + 0, 64⟩
    s.eaL (0 : BitVec 5) = (0 : Nat) ∧ (s.queue (1 : BitVec 5)).run = false ∧ s.localBad (0 : Nat) 64 1 = none ∧
    s.waitLocal false [((0 : Nat), 64)] = .ok () ∧ s.ctx.stallAt.any (fun c => decide (c ≤ s.core.cyc)) = true ∧ s.recordFenced = false ∧ s.waitOwn pc = .ok () ∧ s.pk.readError pc = none ∧
    patWords = (List.range 8).map (fun i => BitVec.ofNat 64 (leNat ((s.pk.mem.read pc).drop (8 * i) |>.take 8))) ∧ patOk patWords = true ∧
    s.patRanges patWords = .ok () := by decide +kernel
/-- A queue ready to start; a full queue to pop; a queue of vectors; the POPPED count at its end. -/
theorem witness_StreamInstructions :
    let s := streaming { pat := some patWords, elems := List.replicate 16 { val := .scal 5 }, popped := 2 ^ 48 - 1 }
    let pv : List Word := [(1 : Word) <<< 32, (1 : Word) <<< 53, 0, 0, 0, 0, 0, 0]
    let v := streaming { pat := some pv, elems := [{ val := .vec (vec .f32) }] }
    let e : QElem := { val := .scal 5 }
    ((s.queue (1 : BitVec 5)).pat = some patWords ∧ (s.queue (1 : BitVec 5)).run = false) ∧
    ((s.queue (1 : BitVec 5)).elems = e :: List.replicate 15 e ∧ e.poison = none ∧ e.err = none ∧ (s.queue (1 : BitVec 5)).ahead = none ∧
      s.ctx.landings < 32 ∧ patVec patWords = false ∧ e.val = .scal 5) ∧
    ((v.queue (1 : BitVec 5)).pat = some pv ∧ patVec pv = true ∧ patOk pv = true) ∧
    ((s.queue (1 : BitVec 5)).popped < 2 ^ 48 ∧ (s.queue (1 : BitVec 5)).elems.length < 2 ^ 5) := by decide +kernel

/-! #### The G slot and the engines -/

/-- A table entry of the given tier, flags, owner, rights and DEVN, 4,096 bytes at 0x100000. -/
def entryOf (tier res owner rights devn : Nat) : List Byte :=
  leBytes 32 (0x100000 + 4096 * 2 ^ 64 + res * 2 ^ 160 + tier * 2 ^ 164 + rights * 2 ^ 184 + devn * 2 ^ 216 + owner * 2 ^ 224)
/-- Slots 1 to 6: good, empty, ill-formed, another owner's, not resident, tier 3; slot 7 without rights. -/
def table : Pack :=
  let bs := entryOf 2 1 0xFFFF 1 255 ++ entryOf 0 0 0 0 0 ++ entryOf 1 1 0xFFFF 1 255 ++ entryOf 2 1 9 1 255 ++ entryOf 2 0 0xFFFF 1 255 ++
    entryOf 3 1 0xFFFF 1 255 ++ entryOf 2 1 5 0 255
  { Pack.reset with mem := { Pack.reset.mem with dram := Memory.write [] 0x10020 bs } }
/-- Each cause of R65, and an access of the last byte. -/
theorem witness_HandleChecks :
    let btab : Word := 0x0007000000010000
    let e (i : Nat) := table.entryAt (bits btab 47 0) i
    let known (i : Nat) : Prop := 0 < i ∧ i ≤ bits btab 63 48
    let formed (i : Nat) : Prop := known i ∧ (e i).tier ≠ 0 ∧ table.entryOk (e i) = true
    let owned (i : Nat) : Prop := formed i ∧ ((e i).owner = 0xFFFF ∨ (e i).owner = 5)
    (let k := { table with sched := { table.sched with service := some ⟨0x10000, 1, true, 0, 0, [], 0, []⟩ } }
     k.sched.service = some ⟨0x10000, 1, true, 0, 0, [], 0, []⟩ ∧ (0x10000 = bits btab 47 0) ∧ k.mem = table.mem) ∧
    bits btab 63 48 < 8 ∧ (known 2 ∧ (e 2).tier = 0) ∧ (known 3 ∧ (e 3).tier ≠ 0 ∧ table.entryOk (e 3) = false) ∧
    (formed 4 ∧ (e 4).owner ≠ 0xFFFF ∧ (e 4).owner ≠ 5) ∧ (owned 5 ∧ (e 5).res = false) ∧ table.sched.service = none ∧
    (owned 6 ∧ (e 6).res = true ∧ (e 6).tier = 3) ∧ (owned 7 ∧ (e 7).res = true ∧ (e 7).tier ≠ 3 ∧ (e 7).rights &&& 1 ≠ 1) ∧
    (owned 1 ∧ (e 1).res = true ∧ (e 1).tier ≠ 3 ∧ (e 1).rights &&& 1 = 1 ∧ ((4095 : Int) + 2 > (e 1).limit) ∧ (4095 : Int) + 1 ≤ (e 1).limit) := by
  decide +kernel
theorem witness_Translation : 2 ^ 31 - 1 < 2 ^ 31 ∧ 255 < 256 ∧ cellOf 1 3 (2 ^ 31 - 1) = cellOf 1 3 (2 ^ 31 - 1) := by decide +kernel

/-- The last word, vector and image of buffer 1; lanes that end with it. -/
def handles : State := withR world [.a 3 (mkHandle 1 4092), .a 4 (mkHandle 1 3840), .a 5 (mkHandle 1 3772), .v 2 (lanes 4092), .v 3 (lanes 4092)]
theorem witness_HandleLoadsAndStores :
    let s := handles
    let ok (a : BitVec 5) (n need : Nat) : Prop := s.mayAccess a s.dispG n need
    s.ctx.landings < 32 ∧ s.witCheck 0 (s.rs (0 : BitVec 5)) = .ok () ∧ ok 3 4 rRD ∧ ok 3 4 rWR ∧
    (ok 4 (plainLen ((s.rs (1 : BitVec 5)).setWidth 32)) rRD ∧ tagOk ((s.rs (1 : BitVec 5)).setWidth 32) = true) ∧
    (ok 4 (plainLen (s.rv (1 : BitVec 5)).tag) rRD ∧ tagOk (s.rv (1 : BitVec 5)).tag = true) ∧ ok 5 324 rRD ∧
    (ok 4 (plainBytes (s.rv (1 : BitVec 5))).length rWR ∧ ok 5 (imageBytes (s.rv (1 : BitVec 5))).length rWR) := by
  simp only [mayAccess_iff]
  decide +kernel
theorem witness_HandleLoadsAndStores_lanes :
    let s := handles
    let offs (v : VReg) : List Int := (unpackW 32 64 v.pay.toNat).map Int.ofNat
    (tagFmt (s.rv (2 : BitVec 5)).tag = some .n32 ∧ (∀ o ∈ offs (s.rv (2 : BitVec 5)), s.mayAccess (1 : BitVec 5) (s.dispG + o) 4 rRD) ∧
      laneTagOk ((s.rs (1 : BitVec 5)).setWidth 32) = true) ∧
    (laneTagOk (s.ctx.regs.rv (2 * (1 : BitVec 4).toNat)).tag = true ∧ tagFmt (s.ctx.regs.rv (2 * (1 : BitVec 4).toNat + 1)).tag = some .n32 ∧
      ∀ o ∈ offs (s.ctx.regs.rv (2 * (1 : BitVec 4).toNat + 1)), s.mayAccess (1 : BitVec 5) (s.dispG + o) 4 rWR) := by
  simp only [mayAccess_iff]
  decide +kernel
/-- An atomic on the last aligned operand, from an address inside it. -/
theorem witness_HandleAtomics :
    let s := withR world [.a 3 (mkHandle 1 4095)]
    let at_ (n : Nat) : Int := ((hOff (s.ra (3 : BitVec 5)) : Int) + s.dispG) / n * n - hOff (s.ra (3 : BitVec 5))
    let ok (n need : Nat) : Prop := s.mayAccess (3 : BitVec 5) (at_ n) n need
    s.ctx.landings < 32 ∧ ok 4 rAT ∧ ok 8 rAT ∧ ok 4 (rAT + rRD) ∧ ok 8 (rAT + rRD) := by
  simp only [mayAccess_iff]
  decide +kernel
/-- A prefetch of nothing, of the buffer's end and past it; a stream that takes LAUNCH. -/
theorem witness_CacheControlAndLaunch :
    let s := withR handles [.s 2 4, .s 3 5, .s 4 63]
    let p := s.pk.ioWr (csOff 63 8) 0xC000000000000000
    let u : State := { s with pk := p }
    s.mayAccess (3 : BitVec 5) s.dispG (Min.min (s.rs (2 : BitVec 5)).toNat (2 ^ 24)) rCS ∧ s.pk.msc.length < 16 ∧
    (match s.accessReg (3 : BitVec 5) s.dispG (Min.min (s.rs (3 : BitVec 5)).toNat (2 ^ 24)) rCS with | .error (.fault _) => true | _ => false) = true ∧
    (let t := { s with pk := { s.pk with bad := [(.dram, 0x10020)] } }
     match t.accessReg (3 : BitVec 5) t.dispG 4 rCS with | .error (.met _) => true | _ => false) = true ∧
    s.mayAccess (3 : BitVec 5) 0 (s.rs (2 : BitVec 5)).toNat rRD ∧
    (63 = (u.rs (4 : BitVec 5)).toNat ∧ 63 < 64 ∧ u.pk.csEn 63 = true ∧ (u.pk.csCtl 63).getLsbD 62 = true ∧
      bits (u.pk.csCtl 63) 15 0 = u.ownId.toNat ∧ u.mayAccess (1 : BitVec 5) 0 128 rRD) := by
  simp only [mayAccess_iff]
  decide +kernel

/-- A command's fields D, A and B. -/
def command (s : State) (d a b : BitVec 5) : State := withIss s (fun i => { i with ops := ⟨d, a, b⟩ })
/-- Copies of the whole of buffer 1, on the last queue; of nothing; a local address; a pattern slot filled. -/
def skewPat : List Word := [0, 8, 4, 0]
def copying (n : Nat) : State :=
  let s := command (withC (withR world [.s 2 (BitVec.ofNat 64 (13 * 2 ^ 28 + n))]) (fun c => { c with
    skew := (Vector.replicate 4 []).set 0 skewPat, stallAt := some 0 })) 2 1 2
  { s with pk := { s.pk with mem := { s.pk.mem with spad := Memory.write [] 4 (skewPat.flatMap (fun w => leBytes 8 w.toNat)) } } }
theorem witness_CopyCommands :
    (∀ n ∈ [0, 4096],
      let s := copying n
      let ctl := s.ctx.regs.rs s.cmdD.toNat
      bits ctl 31 28 < 14 ∧ bits ctl 63 32 = 0 ∧ bits ctl 27 0 = n ∧
      s.witCheck (s.cmdD.toNat + 1) (s.ctx.regs.rs (s.cmdD.toNat + 1)) = .ok () ∧
      (s.pk.ops.filter (fun o => o.tl == 1600 + 14 * (s.core.num / 8) + bits ctl 31 28 && o.seq != 0)).length < 32 ∧
      s.boardFull = false ∧ s.localBad (0 : Nat) n 1 = none) ∧
    (∀ n ∈ [0, 4096], (copying n).mayReach (hIdx ((copying n).ra (copying n).cmdA)) ((hOff ((copying n).ra (copying n).cmdA) : Int) + 0) n rCS true) ∧
    (∀ n ∈ [0, 4096], (copying n).mayReach (hIdx ((copying n).ra (copying n).cmdB)) ((hOff ((copying n).ra (copying n).cmdB) : Int) + 0) n rCD true) ∧
    ((command (copying 0) 2 3 3).rs (command (copying 0) 2 3 3).cmdB).toNat = 0 := by
  simp only [mayReach_iff]
  decide +kernel
theorem witness_CopyCommands_skew :
    let s := command (copying 0) 2 4 3
    let t := withR s [.s 4 4]
    let pc : Piece := ⟨.spad, s.core.num / 8 * 2 ^ 22 + 4, 32⟩
    ((t.rs t.cmdA).toNat = 4 ∧ t.localBad (4 : Nat) 32 1 = none ∧ t.waitLocal false [((4 : Nat), 32)] = .ok () ∧
      t.ctx.stallAt.any (fun c => decide (c ≤ t.core.cyc)) = true ∧ t.recordFenced = false ∧ t.waitOwn pc = .ok () ∧ t.pk.readError pc = none ∧
      skewPat = (List.range 4).map (fun i => BitVec.ofNat 64 (leNat (((t.pk.mem.read pc).drop (8 * i)).take 8))) ∧ skewOk skewPat = true) ∧
    (let u := command (copying 0) 2 1 3
     let p := u.ctx.skew[bits (u.ctx.regs.rs u.cmdD.toNat) 1 0]?
     let (esz, rows, cols, rstr, dstr) := skewOf skewPat
     let x := u.pk.entryAt (bits u.ctx.csr.btab 47 0) (hIdx (u.ra u.cmdA))
     p = some skewPat ∧ skewPat ≠ [] ∧ bits (u.ctx.regs.rs u.cmdD.toNat) 27 2 = 0 ∧
       u.mayReach (hIdx (u.ra u.cmdA)) (hOff (u.ra u.cmdA)) ((rows - 1) * rstr + cols * esz) rCS true ∧ x.tier ≠ 3 ∧
       x.devn = 0xFF ∧ (u.rs u.cmdB).toNat = 0 ∧ u.localBad (0 : Nat) ((cols - 1) * dstr + rows * esz) 1 = none ∧ u.boardFull = false) := by
  simp only [mayReach_iff]
  decide +kernel

/-- Commands to channel 255, to collective timeline 255 over a route of two devices, and to group slot 15. -/
def engines (ctl : Word) : State :=
  let s := command (withR world [.s 2 ctl]) 2 1 2
  let k := (s.pk.ioWr 0x70000 0x8002000000000000).setSlot 15 (fun v => { v with state := .active, vopen := 1 })
  { s with pk := k }
theorem witness_EngineCommands :
    let ctl (s : State) : Word := s.ctx.regs.rs s.cmdD.toNat
    let ok (s : State) : Prop := s.witCheck (s.cmdD.toNat + 1) (s.ctx.regs.rs (s.cmdD.toNat + 1)) = .ok ()
    (let s := engines 255
     bits (ctl s) 63 8 = 0 ∧ ok s ∧ (s.pk.tl (2304 + bits (ctl s) 7 0)).open_.length < 8 ∧
       s.mayAccess s.cmdA 0 1088 rRD ∧ s.ctx.landings < 32) ∧
    (let s := engines 0x0002_00FF_0000_0400
     bits (ctl s) 47 40 = 0 ∧ bits (ctl s) 31 18 = 0 ∧ ok s ∧ (let t := s.pk.tl (2048 + bits (ctl s) 39 32); t.iss - t.head < 16) ∧
       s.mayAccess s.cmdA 0 (4 * bits (ctl s) 15 0) rRD ∧ s.mayReach (bits (ctl s) 63 48) 0 (128 * 2 ^ bits (ctl s) 17 16) rCS false ∧
       s.mayAccess s.cmdB 0 (128 * 2 ^ bits (ctl s) 17 16) rEM) := by
  simp only [mayAccess_iff, mayReach_iff]
  decide +kernel
def ctlOf (s : State) : Word := s.ctx.regs.rs s.cmdD.toNat
/-- Each collective over its route, with its sizes: a normalised reduce, a broadcast of rank 1, an exchange of nothing. -/
def collWords : List (Word × Nat × Nat) :=
  [(0x0200_00FF_0000_0080, 256, 132), (0x1000_0000_0000_0080, 128, 256), (0x3001_0000_0000_0080, 128, 128), (0x4000_0000_0000_0000, 0, 0)]
theorem witness_EngineCommands_coll :
    (∀ w ∈ collWords, let c := w.1
      let n := bits ((engines 0).pk.rtctl (bits c 47 40)) 55 48
      bits c 63 60 ≤ 4 ∧ c.getLsbD 56 = false ∧ (bits c 63 60 = 3 → bits c 55 48 < n) ∧ (bits c 63 60 ≠ 3 → bits c 55 48 = 0) ∧
      (c.getLsbD 57 = true → bits c 63 60 = 0 ∧ bits c 59 58 < 2) ∧ bits c 31 0 % 128 = 0 ∧ bits c 47 40 < 64 ∧
      collSizes c n = (w.2.1, w.2.2)) ∧
    (∀ w ∈ collWords, ctlOf (engines w.1) = w.1) ∧ ((engines 0).pk.rtctl 0).getLsbD 63 = true := by decide +kernel
theorem witness_EngineCommands_collRanges :
    let s := engines 0x0200_00FF_0000_0080
    (∀ n ∈ [0, 128, 256], s.mayAccess s.cmdA 0 n rCS) ∧ (∀ n ∈ [0, 128, 132, 256], s.mayAccess s.cmdB 0 n rCD) ∧
    (∀ r ∈ [s.cmdA, s.cmdB], (s.pk.entryAt (bits s.ctx.csr.btab 47 0) (hIdx (s.ra r))).devn = 0xFF) ∧
    s.witCheck (s.cmdD.toNat + 1) (s.ctx.regs.rs (s.cmdD.toNat + 1)) = .ok () ∧
    (let t := s.pk.tl (2048 + bits (ctlOf s) 39 32); t.iss - t.head < 16) := by
  simp only [mayAccess_iff]
  decide +kernel
theorem witness_EngineCommands_vprep :
    (let s := engines 0x0000_0001_0000_000F
     bits (ctlOf s) 3 0 = 15 ∧ bits (ctlOf s) 31 4 = 0 ∧ bits (ctlOf s) 63 32 = 1 ∧ s.pk.vStandby 15 = false ∧ s.ownId = s.pk.vOwner 15 ∧
       s.witCheck (s.cmdD.toNat + 1) (s.ctx.regs.rs (s.cmdD.toNat + 1)) = .ok () ∧ s.pk.ops = []) ∧
    ((engines 0x0000_0001_0000_000F).pk.slot 15).state = .active ∧ ((engines 0x0000_0001_0000_000F).pk.slot 15).vopen = 1 ∧
    nearest 32 1 1 ≤ 1 := by decide +kernel


/-! #### Steps without an encoding -/

def withPk (s : State) (f : Pack → Pack) : State := { s with pk := f s.pk }
def withArg (s : State) (a : EventArg) : State := { s with pk := { s.pk with arg := a } }
def withCore (s : State) (f : Core → Core) : State := { s with core := f s.core }

/-- A result due now; data that has not come for an entry due now, or that comes now; phases; faults; strides of a body that ends. -/
theorem witness_CoreCycleSteps :
    let p : Pend := { due := 0, wr := .s 1 5 }
    let s := withC base (fun c => { c with pend := [p] })
    let l := withC base (fun c => { c with pend := [{ due := 0, wr := .s 1 5, land := 3, ready := false, buf := true }] })
    let f := withC base (fun c => { c with faults := [{ code := 0x1F }] })
    let e := withC base (fun c => { c with lnu := ⟨[⟨0, 1, 1, 0, 0, 8, [(1, 5)]⟩], []⟩ })
    (s.ctx.resume = false ∧ s.ctx.pend = p :: [] ∧ p.due ≤ s.core.cyc ∧ p.err = none ∧ s.core.thaw = false ∧
      s.ctx.lateEntry s.core.cyc = false ∧ s.sib.lateEntry s.core.cyc = false) ∧
    l.ctx.lateEntry l.core.cyc = true ∧ (withCore base (fun k => { k with thaw := true })).core.thaw = true ∧
    (let b := withCore base (fun c => { c with ddthr := 0x82BC })
     base.pk.arg.n = base.core.num ∧ b.core.ddthr.getLsbD 15 = true ∧ 0x2BB < bits b.core.ddthr 9 0 ∧ bits b.core.ddthr 9 0 ≤ 0x2BC ∧
       (withCore base (fun c => { c with ddthr := 0x2BC })).core.ddthr.getLsbD 15 = false) ∧
    (base.ctx.nullCosts = false ∧ (withCsr base (fun c => { c with issctl := 1 })).ctx.nullCosts = true) ∧
    (e.ctx.nullCosts = false ∧ (e.ctx.goOn {} e.ctx.pc (e.openBundle e.headerWord).followPc).2.2 = [(1, 5)] ∧
      (0 : Int) ≤ hOff (e.ctx.regs.ra 1) + (5 : Word).toInt ∧ (hOff (e.ctx.regs.ra 1) : Int) + (5 : Word).toInt < 2 ^ 56) ∧
    ((withCore base (fun c => { c with phase := 65 })).core.trip = false ∧ (withCore base (fun c => { c with phase := 65 })).core.phase = 65) ∧
    ((withCore base (fun c => { c with phase := 1 })).core.phase = 1 ∧ (withCore base (fun c => { c with phase := 1, trip := true })).core.trip = true) ∧
    ((withArg base { k := 7 }).pk.arg.m = 0 ∧ (withArg base { k := 7 }).pk.arg.n = base.core.num ∧ (withArg base { k := 7 }).pk.arg.k < 8) ∧
    (f.ctx.faults = [{ code := 0x1F }] ∧ (0x1F : BitVec 8) ≠ 0x09) ∧ fetching.fetchFault = none ∧
    (base.fetchFault.map (fun r => decide (r.code ≠ 0x1E))) = some true := by decide +kernel
theorem witness_CoreCycleSteps_stride : ∀ r x, (Wr.s 1 5) ≠ .stride r x := by intro r x h; cases h
/-- A held entry due later, one due with the bundle beside a result that landed in the bundle's cycle. -/
theorem witness_CoreCycleSteps_replay :
    let p (n : Nat) : Pend := { due := n, wr := .s 1 5 }
    let q : Pend := { due := 0, wr := .s 2 6 }
    let h (n : Nat) (l : List Pend) : State := withC base (fun c => { c with replay := true, held := [p n], landed := l })
    (∀ x ∈ [h 1 [], h 0 [q]], x.ctx.resume = false ∧ x.ctx.replay = true ∧ x.ctx.pend = [] ∧ x.ctx.faults = [] ∧ x.ctx.undo = none) ∧
    ((h 1 []).ctx.held = [p 1] ∧ (h 1 []).ctx.landed = [] ∧ (p 1).err = none) ∧
    ((h 0 [q]).ctx.held = [p 0] ∧ (p 0).ready = true ∧ (∀ x ∈ [q], x.due ≤ (h 0 [q]).core.cyc ∧ x.ready = true ∧ x.err = none)) := by decide +kernel

/-- An entry that may begin now; each kind of entry at the end of its occupancy; completions due now, of a tile and of a store. -/
theorem witness_MatrixAndStreamSteps :
    let e : MEntry := { op := .mma false 0 0, dst := 1, ra := record 0 1024 64 1 2 0 0, rb := record 0x40000 1024 64 1 2 0 0, work := 1, from_ := 0, id := 7 }
    let st : MEntry := { op := .mst, dst := 1, ra := record 0 256 64 64 1 0 0, work := 32, from_ := 0, id := 8 }
    let cv : MEntry := { op := .mcvt 0 0 false, dst := 1, work := 32, from_ := 0, id := 9 }
    let ld : MEntry := { op := .mld, dst := 1, ra := record 0 256 64 64 1 0 0, work := 32, from_ := 0, id := 10 }
    let s := withC base (fun c => { c with mq := [e] })
    let r (x : MEntry) : State := withCore base (fun k => { k with run := some ⟨0, x, 0⟩ })
    let d (x : MEntry) : MxDone := ⟨0, x, 0, {}, 0, none⟩
    let k (x : MEntry) : State := withCore base (fun k => { k with done := [d x] })
    (s.ctx.num % 2 = 0 ∧ s.ctx.mq = e :: [] ∧ e.from_ ≤ s.core.cyc ∧ e.after = [] ∧ s.core.run = none ∧ s.core.aside = none ∧
      s.ctx.drainAt = none ∧ s.sib.mq = []) ∧
    (∀ x ∈ [e, st, cv, ld], (r x).core.run = some ⟨(r x).ctx.num % 2, x, 0⟩) ∧ (st.op = .mst ∧ cv.op = .mcvt 0 0 false ∧ e.op = .mma false 0 0) ∧
    ((r e).matrixError (r e).ctx.num e = none ∧ (r ld).matrixError (r ld).ctx.num ld = none) ∧
    (∀ x ∈ [e, st], (k x).core.done = d x :: [] ∧ (d x).due ≤ (k x).core.cyc ∧ (d x).side = (k x).ctx.num % 2 ∧ (d x).err = none) ∧
    (e.op ≠ .mst ∧ (k st).pk.ops = [] ∧ (k st).wf = true ∧ 63 + 1 = (opRec st.ra).rows) := by decide +kernel
/-- An affine scalar element that is not the last and one that is, a vector one, an indirect one inside and outside the scratchpad. -/
theorem witness_MatrixAndStreamSteps_stream :
    let pat (w0 w1 n : Nat) : List Word := [BitVec.ofNat 64 w0, BitVec.ofNat 64 w1, BitVec.ofNat 64 (n * 2 ^ 24 + 4), 0, 0, 0, 0, 0]
    let at_ (p : List Word) (m : Nat) : State := withArg (streaming { pat := some p, run := true, elems := List.replicate 15 { val := .scal 5 }, made := m })
      { n := 0, m := 1 }
    let ind := pat 0x40 (2 ^ 53 / 2 + 2 * 2 ^ 54) 1
    let far := pat (0x40 + 15 * 2 ^ 22) (2 ^ 53 / 2 + 2 * 2 ^ 54 + 0x3FFFFF) 1
    (∀ x ∈ [(patWords, 0), (patWords, 1), (pat (2 ^ 32 + 0x100) (2 ^ 53) 1, 0), (ind, 0), (far, 0)], let s := at_ x.1 x.2
      let e : StreamQ := (s.ctx.q[1]?).getD { }
      s.pk.arg.n = s.ctx.num ∧ s.pk.arg.m = 1 ∧ 1 < 4 ∧ s.pk.arg.k ≤ s.ageOf s.ctx.num ∧ s.ctx.q[1]? = some e ∧ e.run = true ∧ e.pat = some x.1 ∧ e.ahead = none ∧
      e.waits = [] ∧ e.elems.length < 16 ∧ e.made < patTotal x.1 ∧
      (let c := (patAddr x.1 e.made).toNat; let n := if patInd x.1 then 4 else patLen x.1
       s.boardBlocks (s.ctx.num / 16) false c n = false ∧ s.pk.readError ⟨.spad, s.ctx.num / 16 * 2 ^ 22 + c, n⟩ = none)) ∧
    (patTotal patWords = 2 ∧ patInd patWords = false ∧ patVec (pat (2 ^ 32 + 0x100) (2 ^ 53) 1) = true ∧ patInd ind = true ∧ patInd far = true) ∧
    (let s := at_ ind 0
     let ea := bits (patWord ind 1) 21 0 + leNat (s.pk.mem.read ⟨.spad, 0x40, 4⟩) * 2 ^ bits (patWord ind 0) 25 22
     ea + patLen ind ≤ 2 ^ 22 ∧ s.boardBlocks (s.ctx.num / 16) false ea (patLen ind) = false ∧ s.pk.readError ⟨.spad, ea, patLen ind⟩ = none) ∧
    2 ^ 22 < bits (patWord far 1) 21 0 + leNat ((at_ far 0).pk.mem.read ⟨.spad, 0x40, 4⟩) * 2 ^ bits (patWord far 0) 25 22 + patLen far := by
  decide +kernel

/-- An operation number 1 at its time, of each kind, on buffer 1, the scratchpad, the weight store and device 5. -/
def near (n : Nat) : Range := ⟨[⟨.dram, 0x100000, n⟩], {}, 0⟩
def far : Range := ⟨[⟨.dram, 0x100000, 4⟩], { dev := 5 }, 0⟩
def op (kind : OpKind) (cls : BitVec 8 := 0) : Op := { id := 1, ctx := 0, kind := kind, cls := cls, begun := true }
def doing (o : Op) (a : EventArg := { n := 1 }) : State :=
  withArg { world with pk := { world.pk with ops := [o] } } a
def ready (s : State) (o : Op) : Bool :=
  decide (s.findOp s.pk.arg.n = some o) && o.begun && !s.olderBlocks o && !s.pk.opHeld o && decide (o.due ≤ s.ageOf o.ctx) && !s.pk.portHeld o &&
    !s.pk.arrayHolds o
def good : Written → Bool
  | .ok _ => true
  | _ => false
theorem witness_MemorySteps :
    let ld := op (.load (.s 1 0) .scalar (near 4) none)
    let st := op (.store (near 4) [1, 2, 3, 4] 0)
    let cp := op (.copy (near 4) ⟨[⟨.dram, 0x200000, 4⟩], {}, 0⟩ 0)
    let ws (n : Nat) := op (.wlds ⟨.ws, 0, n⟩ ⟨.spad, 0, n⟩)
    let pf := op (.pref (near 4))
    let rm := op (.store far [1, 2, 3, 4] 0)
    (ready (doing ld) ld ∧ (doing ld).pk.arg.k ≠ 1 ∧ (doing ld).pk.wsHold ld.kind.quarters = none ∧ (doing ld).pk.rangeError (near 4).pieces = none ∧
      ((doing ld).pk.settle {} (near 4).pieces).rangeError (near 4).pieces = none) ∧ ready (doing pf) pf ∧
    (ready (doing ld { n := 1, k := 1 }) ld ∧ (doing ld { n := 1, k := 1 }).pk.arg.k = 1) ∧
    (ready (doing st) st ∧ st.fail = false) ∧
    (ready (doing cp) cp ∧ (doing cp).boardBefore cp false (near 4).pieces = false ∧ (doing cp).boardBefore cp true [⟨.dram, 0x200000, 4⟩] = false ∧
      (doing cp).pk.isRemote {} = false ∧ (((doing cp).pk.settle ((near 4).as cp.kind.cls).via (near 4).pieces).goodPrefix (chopAll (near 4).pieces)).2 = none ∧
      cp.paged = false ∧ cp.kind.hostPages.length ≤ cp.at_ ∧ cp.fail = false ∧ (doing cp).pk.arg.k = 0 ∧ cp.taken = false ∧ cp.begun = true ∧
      (near 4).pieces.any (fun p => [(⟨.dram, 0x200000, 4⟩ : Piece)].any p.meets) = false) ∧
    (let h : Op := { op (.copy ⟨[⟨.host, 0, 4⟩], {}, 0⟩ (near 4) 0) with paged := true, at_ := 1 }
     (doing h { n := 1, m := 1 }).findOp 1 = some h ∧ h.paged = true ∧ h.at_ = (doing h { n := 1, m := 1 }).pk.arg.m ∧
      (h.kind.hostPages[h.at_ - 1]?).getD 0 = 0 ∧ h.at_ ≠ 0) ∧
    { cp with taken := true }.taken = true ∧
    (∀ n ∈ [32, 64], let d := withPk (doing (ws n)) (fun k => { k with tick := 2400 })
     let p := wldsPart (ws n) ⟨.ws, 0, n⟩
     ready d (ws n) ∧ d.pk.wsHold p.quarters = none ∧ d.pk.readError p = none ∧ (n = 64 → (ws n).at_ + p.len < n) ∧
       (n = 32 → n ≤ (ws n).at_ + p.len ∧ (ws n).fail = false)) ∧
    (ready (doing rm) rm ∧ (doing rm).pk.arg.k = 0 ∧ (doing rm).pk.isRemote far.via = true ∧ ∀ p ∈ far.pieces, p.space = .dram) := by decide +kernel
/-- The writes those operations make are performed; a port to the other device is live or not. -/
theorem witness_MemorySteps_writes :
    let at_ := op (.atomic (near 4) false 0 1 0 none)
    good (world.pk.piecesWrite {} 0 (near 4).pieces [1, 2, 3, 4]) = true ∧
    (ready (doing at_) at_ ∧ (match (doing at_).pk.sliceAtomic {} (near 4).pieces 0 1 0 with | .inl (w, _) => good w | .inr _ => false) = true) ∧
    (let k := world.pk.settle {} (near 4).pieces
     let dst : Range := ⟨[⟨.dram, 0x200000, 4⟩], {}, 0⟩
     let cls := (OpKind.copy (near 4) dst 0).cls
     good ((k.didRead ((near 4).as cls) true).destWrite (dst.as cls) (k.sourceBytes ((near 4).as cls))) = true ∧
     ∀ n ∈ [1, 2, 3, 4], good (world.pk.destWrite (dst.as cls) ((world.pk.sourceBytes ((near 4).as cls)).take n)) = true) ∧
    (let k := world.pk.setSlot 0 (fun v => { v with state := .active, regions := [(1, 0, 0x0000010000000010)] })
     (match k.piecesWrite {} 0 (near 4).pieces [1, 2, 3, 4] with | .held .. => true | _ => false) = true) ∧
    good (world.pk.pieceWrite {} ⟨.spad, 0, 32⟩ (world.pk.mem.read ⟨.ws, 0, 32⟩)) = true ∧
    world.pk.unreachable far.via = true ∧
    ({ (base.pk.ioWr 0x71000 3).ioWr 0x71008 0x28 with fab := { base.pk.fab with live := 1 } } : Pack).unreachable far.via = false := by decide +kernel
/-- A host read and a host write of the last bytes of a decoder's range. -/
theorem witness_MemorySteps_host :
    let s (bs : List Byte) : State := withArg (withPk base (fun k => { k with hdm := k.hdm.set 1 (2 ^ 28, 2 ^ 28, 2 ^ 28) }))
      { n := 2 ^ 29 - 4, m := 4, bytes := bs }
    let ps (bs : List Byte) : List Piece := linePieces (4 / 128 + 2) (dpaCell (2 ^ 29 - 4)) (if bs = [] then 4 else bs.length)
    (∀ bs ∈ [[], [1, 2, 3, 4]], (s bs).pk.arg.k = 0 ∧ (s bs).pk.hdmDpa (2 ^ 29 - 4) = some (2 ^ 29 - 4) ∧
      (s bs).pk.servedLater 0xFF {} (ps bs) .hostMemAccess = none) ∧
    ((s []).pk.arg.bytes = [] ∧ (s []).pk.rangeError (ps []) = none) ∧ (s [1, 2, 3, 4]).pk.arg.bytes ≠ [] ∧
    (s [1, 2, 3, 4]).pk.arg.v.getLsbD 63 = false ∧ (base.pk.arg.k = 0 ∧ base.pk.hdmDpa base.pk.arg.n = none) ∧
    good ((s [1, 2, 3, 4]).pk.piecesWrite {} 0 (ps [1]) [1, 2, 3, 4]) = true := by decide +kernel

/-- Streams: TAIL at both ends of what the ring takes, one below and one past it; a stream that takes LAUNCH; a ring of the least and the
greatest size. -/
theorem witness_SchedulerSteps_streams :
    let k := (base.pk.ioWr (csOff 1 0) (4 * 2 ^ 48)).ioWr (csOff 1 0x10) 3
    let big := base.pk.ioWr (csOff 1 0) (16 * 2 ^ 48)
    (k.csCtl 1).getLsbD 62 = false ∧ (k.csTail 1 ≤ 3 ∧ 3 ≤ k.csHead 1 + k.ringLen 1) ∧ (k.csTail 1 ≤ 16 ∧ 16 ≤ k.csHead 1 + k.ringLen 1) ∧
    2 < k.csTail 1 ∧ k.csHead 1 + k.ringLen 1 < 17 ∧ ((base.pk.ioWr (csOff 1 8) (2 ^ 62)).csCtl 1).getLsbD 62 = true ∧
    (k.csEn 1 = false ∧ 4 ≤ bits (k.csBase 1) 55 48 ∧ bits (k.csBase 1) 55 48 ≤ 16) ∧
    (big.csEn 1 = false ∧ 4 ≤ bits (big.csBase 1) 55 48 ∧ bits (big.csBase 1) 55 48 ≤ 16) := by decide +kernel
def launched (l : Launch) (f : Sched → Sched) (a : EventArg) : State :=
  withArg (withPk base (fun k => { k with sched := f { k.sched with launches := [l] } })) a
/-- Interrupts, ramps at each end, in both ways and both together, a round with nothing to do. -/
theorem witness_SchedulerSteps_service :
    let irq := withArg (withPk base (fun k => { k with sched := { k.sched with pendIrq := [(5, 2)] } })) { n := 5 }
    let rp (r : Ramp) : State := withArg (withPk base (fun k => { k with sched := { k.sched with ramps := [r] } })) {}
    let se (e b : List Nat) : Pack := { base.pk with sched := { base.pk.sched with starts := b, ends := e } }
    (irq.pk.sched.pendIrq = [(5, 2)] ∧ irq.pk.arg.n = 5 ∧
      ((irq.pk.sched.lastIrq.find? (fun x => x.1 == 5)).map Prod.snd).getD 0 + bits (irq.pk.ioRd 0x20010) 31 0 ≤ irq.tstamp) ∧
    (∀ r ∈ [⟨0, true, 6, 100⟩, ⟨0, true, 7, 100⟩, ⟨0, false, 2, 100⟩, ⟨0, false, 1, 100⟩], (rp r).pk.sched.ramps = [r] ∧ (rp r).pk.arg.n = r.cluster) ∧
    (∀ x ∈ [([3], []), ([], [3]), ([3], [3])], (se x.1 x.2).sched.ends = x.1 ∧ (se x.1 x.2).sched.starts = x.2 ∧ (se x.1 x.2).sched.ramps = [] ∧
      bits ((se x.1 x.2).ioRd 0x30008) 15 0 ≠ 0) ∧
    (base.pk.arg.n ≠ 1 ∧ base.pk.sched.claims = [] ∧ base.pk.heads (List.range 64) = (base.pk, []) ∧ ∀ l ∈ base.pk.sched.launches, l.phase ≠ .saved) := by
  decide +kernel
/-- The slots of the table of `world` past the second are empty. -/
theorem world_tier (i : Nat) (h : 3 ≤ i) (hi : i ≤ 65535) : (world.pk.entryAt 0x10000 i).tier = 0 := by
  have hm : world.pk.mem.dram.wf = true := by decide +kernel
  have hk : ∀ c ∈ world.pk.mem.dram, c.1 < 0x10060 := by decide +kernel
  have hc : dpaCell (0x10000 + 32 * i) = 0x10000 + 32 * i := by unfold dpaCell cellOf; rw [if_neg (by omega)]; omega
  have hz : world.pk.dpaRead (0x10000 + 32 * i) 32 = List.replicate 32 0 := by
    unfold Pack.dpaRead Pack.homeRead
    rw [hc]
    have hmin : min 32 (128 - (0x10000 + 32 * i) % 128) = 32 := by omega
    simp only [Pack.homeReadGo, hmin]
    simp only [show (32 : Nat) ≠ 0 by decide, if_false, Nat.sub_self, if_true, List.append_nil]
    have hr : world.pk.chunkRead (0x10000 + 32 * i) 32 = world.pk.mem.dram.read (0x10000 + 32 * i) 32 := rfl
    rw [hr, Memory.read_eq _ _ _ hm]
    apply List.ext_getElem
    · simp
    · intro n h1 h2
      simp only [List.getElem_map, List.getElem_range, List.getElem_replicate]
      exact Memory.get_eq_zero (fun c hc' => by have := hk c hc'; omega)
  unfold Pack.entryAt
  rw [hz]
  decide +kernel
/-- UNMAP and MIGRATE: a bad entry, a good one whose table a launch names and does not; a new place that is ill-formed, taken, free. -/
def migrating (i : Nat) (v : Word) : State := withArg (withPk world (fun k => k.ioWr 0x20800 (BitVec.ofNat 64 (i * 2 ^ 48 + 0x10000)))) { v := v }
def placed (v : Word) : BufEntry := { (migrating 1 v).pk.entryAt 0x10000 1 with cgb := bits v 55 48, base := bits v 30 0 }
theorem witness_SchedulerSteps_buffer :
    let bad (k : Pack) : Option Nat := k.serviceBad (bits (k.ioRd 0x20800) 47 0) (bits (k.ioRd 0x20800) 63 48)
    let used (k : Pack) : Pack := { k with sched := { k.sched with launches := [{ id := 1, stream := 0, j := 1, record := [0, 0x10000], owner := 0 }] } }
    let k (i : Nat) (v : Word) : Pack := (migrating i v).pk
    ((k 0 0).bsBusy = false ∧ bad (k 0 0) = some 2) ∧ ((k 1 0).bsBusy = false ∧ bad (k 1 0) = none ∧ (k 1 0).tableUsed 0x10000 = false) ∧
    (used (k 1 0)).tableUsed 0x10000 = true ∧ (k 1 0x41).entryOk (placed 0x41) = false ∧
    ((k 1 0x200000).entryOk (placed 0x200000) = true ∧ (let e := (k 1 0x200000).entryAt 0x10000 2
      e.tier = 2 ∧ (k 1 0x200000).entryOk e = true ∧ e.devn = 0xFF ∧ sameCells e (placed 0x200000) = true)) ∧
    ((k 1 0x300000).entryOk (placed 0x300000) = true ∧ sameCells ((k 1 0x300000).entryAt 0x10000 2) (placed 0x300000) = false) := by decide +kernel
theorem witness_SchedulerSteps_buffer_free : ∀ i, ¬ (1 ≤ i ∧ i ≤ 65535 ∧ i ≠ 1 ∧ ((migrating 1 0x300000).pk.entryAt 0x10000 i).tier = 2 ∧
    sameCells ((migrating 1 0x300000).pk.entryAt 0x10000 i) (placed 0x300000) = true) := by
  rintro i ⟨h1, h2, h3, h4, h5⟩
  by_cases h : i = 2
  · subst h; revert h5; decide +kernel
  · rw [show (migrating 1 0x300000).pk.entryAt 0x10000 i = world.pk.entryAt 0x10000 i from rfl, world_tier i (by omega) h2] at h4
    exact absurd h4 (by decide)
/-- The service at work on buffer 1, of 128 bytes, of a table that no launch names: to unmap it, to move it, all of it moved. -/
def serving (b : BufService) : State :=
  withPk world (fun k => { k with sched := { k.sched with service := some b }, mem := k.mem.write .dram 0x10028 (leBytes 8 128) })
theorem witness_SchedulerSteps_resume :
    let b (m : Bool) : BufService := ⟨0x10000, 1, m, 0, 0x300000, [], 0, []⟩
    let d : BufService := ⟨0x10000, 1, true, 0, 0x300000, List.replicate 128 0, 128, []⟩
    let m (b : BufService) := (serving b).pk.moveOn b (entryRange ((serving b).pk.entryAt 0x10000 1) 0 128)
      (entryRange { (serving b).pk.entryAt 0x10000 1 with cgb := b.newcgb, base := b.newbase } 0 128)
    (∀ x ∈ [b false, b true, d], (serving x).pk.sched.service = some x ∧ (serving x).pk.tableUsed x.table = false ∧ (serving x).pk.msc = [] ∧
      (serving x).pk.pins = []) ∧ ((serving d).pk.entryAt 0x10000 1).limit = 128 ∧ 128 ≤ (m d).2.put ∧ 128 ≤ (m (b true)).2.put ∧
    (((serving (b true)).pk.setChan 0 (fun _ => { pst := 1 })).moveOn (b true) ⟨[⟨.dram, 0x100000, 128⟩], {}, 0⟩ ⟨[⟨.dram, 0x300000, 128⟩], {}, 0⟩).2.put < 128 ∧
    ((serving (b false)).pk.mem.wf = true ∧ 0x10000 % 32 = 0 ∧ 0x10000 + 32 * 1 + 32 ≤ 2 ^ 31) := by decide +kernel
theorem witness_SchedulerSteps_resume_plain : ∀ b, (∀ g, ((serving b).pk.slot g).regions = []) ∧ ∀ x, (serving b).pk.windowAt x = none := by
  refine fun b => ⟨fun g => ?_, fun x => rfl⟩
  show (((Vector.replicate 16 ({} : VSlot))[g]?).getD {}).regions = []
  rw [Vector.getElem?_replicate]
  split <;> rfl
/-- Launches: none of its contexts here, one starting, saving, frozen; one over; a weight-store load that nothing holds. -/
theorem witness_SchedulerSteps_launches :
    let l : Launch := { id := 1, stream := 0, j := 1, record := [], owner := 0 }
    let t : Seat := ⟨0, 0, 2, []⟩
    let s := withC (launched { l with seats := [t] } id { n := 1 }) (fun c => { c with mode := .starting })
    let other := launched { l with seats := [⟨0, 1, 2, []⟩] } id { n := 1 }
    let sv := withC (launched { l with phase := .saving, seats := [t] } id { n := 0, m := 1 }) (fun c => { c with launch := 1 })
    let z : Frozen := ⟨0, 1, 0, 4, 0, 0⟩
    let fz := withC (launched { l with seats := [t] } (fun d => { d with frozen := [z] }) { n := 0 }) (fun c => { c with mode := .frozen 4, launch := 1 })
    let one := launched l id { n := 1 }
    (one.pk.sched.launches = [l] ∧ one.pk.arg.n = l.id ∧ one.pk.arg.k ≠ 1 ∧ l.seats = [] ∧ l.phase = .running ∧
      one.boxes.all (fun b => b.a.over l.id && b.b.over l.id) = true ∧ one.pk.drained l = true ∧ l.slots = [] ∧ l.imgs = [] ∧ one.pk.wsLoadHeld l = false) ∧
    (s.ctx.mode = .starting ∧ s.ctx.num ∈ t.ctxs) ∧ other.ctx.num ∉ (⟨0, 1, 2, []⟩ : Seat).ctxs ∧
    (sv.pk.sched.launches = [{ l with phase := .saving, seats := [t] }] ∧ sv.pk.arg.n ∈ t.ctxs ∧ sv.pk.arg.m = 1 ∧ sv.ctx.num ∈ t.ctxs ∧
      sv.ctx.launch = l.id) ∧
    (fz.pk.sched.frozen = [z] ∧ z.stream = fz.pk.arg.n ∧ z.launch = l.id ∧ z.ctx = fz.ctx.num ∧ fz.ctx.launch = l.id ∧ fz.ctx.mode = .frozen 4) := by
  decide +kernel
theorem witness_SchedulerSteps_wsload :
    let rec_ : List Word := [0x2000000000000000, 0x0007000000010000, 0, 0, 0, 0, 0, 0, 0, 1, 0, 128, 0, 0, 0, 0]
    (match world.pk.checkKind 0 rec_ with | .ready (.wsload _ _ _ len) => decide (len = 128) | _ => false) = true := by decide +kernel

/-- Stream 1 with one record, of priority `p`, for a kernel of one cluster on die 0, bank group 0, whose context 0 is active; `two`: it
takes both sides. Four save slots from 0x1000000. -/
def queued (p : Nat) (two : Nat) (ls : List Launch) : State :=
  let ws (l : List Nat) : List Byte := l.flatMap (leBytes 8)
  let record := ws [2 ^ 60 + p * 2 ^ 58 + 2 ^ 54 + 0x30000]
  let kernel := ws ([2 ^ 56 + 2 ^ 50 + 2 ^ 48 + two * 2 ^ 47 + 2 ^ 16, 0x40000, 64, 0, 0, 0, 0, 0] ++ [2 ^ 47])
  withPk base (fun k =>
    let k := ((k.ioWr (csOff 1 0) (BitVec.ofNat 64 (4 * 2 ^ 48 + 0x20000))).ioWr (csOff 1 8) (2 ^ 63 + 3 * 2 ^ 60)).ioWr (csOff 1 0x10) 1
    let k := k.ioWr 0x20018 (BitVec.ofNat 64 (4 * 2 ^ 48 + 0x1000000))
    { k with mem := (k.mem.write .dram 0x20000 record).write .dram 0x30000 kernel, sched := { k.sched with launches := ls } })
def ready_ (s : State) : Cand := (s.pk.heads (List.range 64)).2.headD ⟨0, 0, 0, 0, [], .noop⟩
def kernelOf (s : State) : List Word × List Word := (s.pk.dpaWords 0x30000 8, s.pk.dpaWords 0x30040 16)
def victim : Launch := { id := 7, stream := 2, j := 1, record := [], owner := 0, seats := [⟨0, 0, 0, []⟩] }
/-- A kernel that fits an empty part; one for which the launch on its cluster is saved, its context here; one that waits behind a launch
of its own priority. -/
theorem witness_AdmissionAndPlacement_rounds :
    let s (p two : Nat) (ls : List Launch) : State := withC (queued p two ls) (fun c => { c with launch := 7 })
    (∀ x ∈ [(1, 0, []), (1, 1, [victim]), (0, 1, [victim])], let s := s x.1 x.2.1 x.2.2
      let c := ready_ s
      s.pk.arg.n ≠ 1 ∧ s.pk.sched.claims = [] ∧ s.pk.svc.moving = false ∧ s.pk.sched.launches = x.2.2 ∧ s.pk.heads (List.range 64) = (s.pk, [c]) ∧
      c.launch = 0 ∧ c.stream = 1 ∧ c.work = .kernel (kernelOf s).1 (kernelOf s).2 ∧ s.pk.csHead c.stream + 1 < 2 ^ 64 ∧ s.pk.mem.wf = true) ∧
    (let s := s 1 0 []
     s.pk.placement [] s.pk.closed (kernelOf s).1 = some [⟨0, 0, 0, []⟩] ∧ (kernelOf s).2.any roleAct = true ∧ s.ctx.num = (⟨0, 0, 0, []⟩ : Seat).ctxNum 0 0 ∧
     (0 ∈ (⟨0, 0, 0, []⟩ : Seat).roles) ∧ (koBgm (kernelOf s).1).testBit 0 = true) ∧
    (let s := s 1 1 [victim]
     let ko := (kernelOf s).1
     victim.phase = .running ∧ victim.prio < (ready_ s).prio ∧ victim.seats ≠ [] ∧ s.pk.placement [victim] [] ko = none ∧
     s.pk.placement [] [] ko = some [⟨0, 0, 2, []⟩] ∧ victim.seats.length ≤ s.pk.freeSlots.length ∧ s.ctx.launch = victim.id ∧
     s.ctx.num ∈ (⟨0, 0, 0, []⟩ : Seat).ctxs) ∧
    (let s := s 0 1 [victim]
     (∀ l ∈ s.pk.sched.launches, l.phase ≠ .saved) ∧ (s.place (ready_ s)).isNone = true ∧ (s.preempt (ready_ s)).isNone = true) := by decide +kernel
/-- A saved launch that fits again; a restored one of one context, its image as zeros of a save slot with one range. -/
theorem witness_AdmissionAndPlacement_restore :
    let t : Seat := ⟨0, 0, 0, []⟩
    let c : Ctx := { Ctx.idle 0 with mode := .saving }
    let l : Launch := { victim with seats := [], phase := .saved }
    let q := queued 1 0 [l]
    let r : Launch := { victim with phase := .restoring, seats := [t], slots := [(0, 1)], imgs := [(0, 0, c)] }
    let s := withArg (withPk (queued 1 0 [r]) (fun k => { k with mem := k.mem.write .dram 0x2000100 (leBytes 8 1 ++ leBytes 8 (64 * 2 ^ 22 + 0x80)) }))
      { n := 7 }
    (q.pk.sched.launches = [l] ∧ l.id ≠ 0 ∧ q.pk.placement [l] q.pk.closed (kernelOf q).1 = some [t]) ∧
    (s.pk.sched.launches = [r] ∧ s.pk.arg.n = r.id ∧ r.slots = [(t.lcl, 1)] ∧ r.seats = [t] ∧ r.imgs = [(t.lcl, 0, c)] ∧ r.marks = [] ∧
      s.pk.ops = [] ∧ s.pk.board = [] ∧ s.pk.msc = [] ∧ c.mode = .saving ∧ t.ctxNum (0 / 2) (0 % 2) = s.ctx.num ∧ t.pcl < 32 ∧ s.pk.mem.wf = true) ∧
    (let base := s.pk.slotBase 1
     let at_ := s.pk.dpaWord (base + 0x80 + 8 * 0)
     s.pk.dpaBad base 0x100 ++ s.pk.dpaBad (base + 64 * bits at_ 63 32) (64 * bits at_ 31 0) = []) ∧
    s.pk.slotRanges 1 = [(0x80, 64, 0x2000110)] ∧ 0x80 + 64 ≤ 2 ^ 22 := by decide +kernel

/-- Pin windows, shares at 256 and above, firmware, attestation, service modes. -/
theorem witness_HostAndServiceSteps :
    let pin (st f : Nat) (ls : List Nat := []) : Pack := { base.pk with msc := [{ line := 0, bytes := [] }] }.setPin ⟨0, 0, st, f, ls, 0⟩
    let v : Word := 0x8000000000000001
    let ab (x : Word) : Nat := ([bits x 55 48, bits x 47 40, bits x 39 32, bits (base.pk.ioRd 0x50000) 31 24, bits x 23 16, bits x 15 8, bits x 7 0]).sum
    ((base.pk.ioRd (pinOff 0 0 8)).getLsbD 63 = false ∧ (v &&& 0x80FF_FFFF_00FF_FFFF).getLsbD 63 = true ∧ (0 : Word).getLsbD 63 = false ∧
      base.pk.pinBad 0 0 0 = some 6 ∧ ((base.pk.ioWr (pinOff 0 0 8) v).ioRd (pinOff 0 0 8)).getLsbD 63 = true) ∧
    (((pin 1 0).pin 0 0).status = 1 ∧ ((pin 1 0).pin 0 0).lines = [] ∧ ((pin 1 0).pin 0 0).fcnt = 0 ∧ ((pin 1 0).pin 0 0).gen = (pin 1 0).arg.k) ∧
    (((pin 1 7 [0]).pin 0 0).lines = [0] ∧ (pin 1 7 [0]).absent 0 = false ∧ ((pin 1 7 [0]).pin 0 0).fcnt ≠ 0) ∧
    (((pin 2 1).pin 0 0).status = 2 ∧ ((pin 2 1).pin 0 0).fcnt = 1 ∧ ((pin 2 1).pin 0 0).gen = (pin 2 1).arg.k) ∧ (1 < ((pin 2 2).pin 0 0).fcnt) ∧
    (ab 0x00F4000000000000 ≤ 256 ∧ 256 < ab 0x00F5000000000000) ∧
    (base.pk.rwMask 0x20000 = some 0xFFFF ∧ base.pk.rwMask 0x50008 = none ∧ w1cMask 0x62000 = 1 ∧ ¬ (0x71008 ≤ 0x62000 ∧ 0x62000 < 0x71038) ∧
      0x100110 + 0x400 * base.core.num = 0x100110 ∧ base.core.num < 256) ∧
    ((0x8000000000000000 : Word).getLsbD 63 = true ∧ base.pk.fwst ≠ 1) ∧
    (let k := base.pk.ioWr 0x73000 0x1000000000010001
     k.reduced = true ∧ bits (k.ioRd 0x73000) 15 0 ≠ 0 ∧ k.sched.launches = [] ∧
       { k with sched := { k.sched with launches := [victim] } }.sched.launches ≠ []) ∧
    ((base.pk.ioRd 0x73028).getLsbD 62 = false ∧ bits (base.pk.ioRd 0x73000) 15 0 = 0 ∧ bits ((base.pk.ioWr 0x73000 1).ioRd 0x73000) 15 0 ≠ 0 ∧
      2 ≤ bits ((base.pk.ioWr 0x73020 0x20000000000).ioRd 0x73020) 47 40 ∧ ((base.pk.ioWr 0x73020 0x8000000000).ioRd 0x73020).getLsbD 39 = true ∧
      bits (base.pk.ioRd 0x73020) 47 40 < 2 ∧ (base.pk.ioRd 0x73020).getLsbD 39 = false) ∧
    ((base.pk.ioWr 0x73028 0x4000000000000000).ioRd 0x73028).getLsbD 62 = true ∧ base.pk.svc.next = none ∧
    { base.pk with svc := { base.pk.svc with next := some (3, 0) } }.svc.next = some (3, 0) := by decide +kernel
/-- Images read whole: an empty one, and one of a header and a signature (whether it verifies is the algorithm's); versions above and
below MINVER, full service and not. -/
def headed (ver : Nat) : List Byte := leBytes 4 0x5F1AE7C3 ++ leBytes 2 ver ++ List.replicate 250 0
theorem witness_HostAndServiceSteps_image (ver : Nat) (h : ver ∈ [0, 3]) :
    let img := headed ver ++ List.replicate 4627 0
    let f (o n : Nat) : Nat := leNat ((img.drop o).take n)
    img.length = 0x100 + f 8 8 + 4627 ∧ f 0 4 = 0x5F1AE7C3 ∧ f 6 2 = 0 ∧ f 0x10 0xF0 = 0 ∧ f 4 2 = ver ∧
    (let s := withPk base (fun k => { k.ioWr 0x73000 0x20000 with svc := { k.svc with image := some img } })
     s.pk.svc.image = some img ∧ s.pk.arg.k ≠ 1 ∧ 0 < bits (s.pk.ioRd 0x73000) 31 16 ∧ bits (s.pk.ioRd 0x73000) 31 16 ≤ 3 ∧
       s.pk.svc.inFull = false ∧ (withArg s { k := 1 }).pk.arg.k = 1 ∧ { s.pk.svc with inFull := true }.inFull = true) := by
  have hl : (headed ver).length = 256 := by unfold headed; simp only [List.length_append, List.length_replicate]; rfl
  have hd (o n : Nat) (ho : o + n ≤ 256) : ((headed ver ++ List.replicate 4627 (0 : Byte)).drop o).take n = ((headed ver).drop o).take n := by
    rw [List.drop_append_of_le_length (by omega), List.take_append_of_le_length (by rw [List.length_drop]; omega)]
  simp only [hd 8 8 (by decide), hd 0 4 (by decide), hd 6 2 (by decide), hd 0x10 0xF0 (by decide), hd 4 2 (by decide), List.length_append, hl,
    List.length_replicate]
  simp only [List.mem_cons, List.not_mem_nil, or_false] at h
  rcases h with rfl | rfl <;> exact ⟨by decide +kernel, by decide +kernel, by decide +kernel, by decide +kernel, by decide +kernel, rfl, by decide,
    by decide +kernel, by decide +kernel, rfl, rfl, True.intro⟩
theorem witness_HostAndServiceSteps_empty : ¬ (([] : List Byte).length = 0x100 + leNat (([] : List Byte).drop 8 |>.take 8) + 4627) := by decide
theorem witness_HostAndServiceSteps_pin : base.pk.pinBad 0 0 1 = none := by
  have h : pinLines 0 1 = [0] := by decide +kernel
  unfold Pack.pinBad
  rw [if_neg (by decide), h]
  simp [base, State.reset, Pack.reset]

/-- Gouge operations on channel 0 in the states they meet. -/
def gouging (cmd : Nat) (o : BitVec 8) (c : Channel) (img : Handle := 0) : State :=
  withPk (doing (op (.gouge cmd 0 img 0) o)) (fun k => k.setChan 0 (fun _ => c))
theorem witness_GougeSteps_commands :
    let ok (s : State) (o : Op) : Bool := ready s o && !(s.pk.chan 0).asleep
    (let s := gouging 0 0 {}
     ok s (op (.gouge 0 0 0 0) 0) = true ∧ (s.pk.chan 0).refuses 0 0 = none ∧ (s.pk.handleBad 0 0 (hIdx 0) (hOff 0) 1088 rRD false).isSome = true) ∧
    (let s := gouging 1 1 { state := .loaded }
     ok s (op (.gouge 1 0 0 0) 1) = true ∧ (s.pk.chan 0).state = .loaded ∧ (s.pk.chan 0).owner = 0) ∧
    (let s := gouging 2 2 { state := .loaded }
     ok s (op (.gouge 2 0 0 0) 2) = true ∧ (s.pk.chan 0).state = .loaded ∧ s.pk.unitsBusy 0 = false) ∧
    (let s := gouging 3 3 { state := .save }
     ok s (op (.gouge 3 0 0 0) 3) = true ∧ (s.pk.chan 0).state = .save ∧ (s.pk.chan 0).owner = 0 ∧ (s.pk.chan 0).restoreBad = true) := by
  decide +kernel
/-- Commands in a state that refuses them, and by another owner; the area of die 0 with recorded state `st`; units of none and of one. -/
def recorded (st : Nat) : List Byte := List.replicate 2176 0 ++ leBytes 8 st ++ leBytes 8 0 ++ leBytes 8 5 ++ leBytes 8 0
def still : GUnit := { die := 0, desc := List.replicate 8 0, ctr := [1], acc := [] }
theorem witness_GougeSteps_refused :
    ((gouging 0 0 { state := .running }).pk.chan 0).refuses 0 0 = some 2 ∧
    ((gouging 1 1 { state := .loaded, owner := 7 }).pk.chan 0).refuses 1 1 = some 1 ∧
    ((gouging 2 2 { state := .save }).pk.chan 0).refuses 2 2 = some 2 ∧ ((gouging 3 3 {}).pk.chan 0).refuses 3 3 = some 2 := by decide +kernel
theorem witness_GougeSteps_restore : ∀ st ∈ [1, 2, 3, 4], ∀ us ∈ [[], [still]],
    let s := gouging 3 3 { state := .save, units := us, window := [(0, recorded st)] }
    ready s (op (.gouge 3 0 0 0) 3) = true ∧ (s.pk.chan 0).asleep = false ∧ (s.pk.chan 0).state = .save ∧ (s.pk.chan 0).owner = 0 ∧
      (s.pk.chan 0).restoreBad = false ∧ areaNat ((s.pk.chan 0).area 0) 2176 8 = st := by decide +kernel
/-- An image of one unit with an empty body and the three entries that R376 asks for. -/
def imageBytes_ : List Byte :=
  leBytes 8 (0x6A5C0E01 * 2 ^ 32 + 2 ^ 16 + 2) ++ List.replicate 56 0 ++ leBytes 8 1 ++ leBytes 8 0 ++ leBytes 8 14
def timed : State :=
  let s := gouging 0 0 {} (mkHandle 1 0)
  let m := (s.pk.mem.write .dram 0x100000 imageBytes_).write .dram 0x100440
    (leBytes 8 (2 * 2 ^ 62 + 288) ++ leBytes 8 (2 ^ 62 + 64) ++ leBytes 8 16)
  withPk s (fun k => { k with mem := m, ops := [{ op (.gouge 0 0 (mkHandle 1 0) 0) 0 with btab := 0x0007000000010000 }] })
theorem witness_GougeSteps_image :
    let k := timed.pk
    let o : Op := { op (.gouge 0 0 (mkHandle 1 0) 0) 0 with btab := 0x0007000000010000 }
    let e := k.entryAt (bits o.btab 47 0) 1
    let r (x : Nat × Nat) : Range := entryRange e x.1 x.2
    let hd := k.sourceBytes (r (0, 8))
    let n := 0x440 + 8 * (bits (imgWord hd 0) 7 0 + 1)
    ready timed o = true ∧ (k.chan 0).asleep = false ∧ (k.chan 0).refuses 0 0 = none ∧
    n = 1112 ∧ (∀ m ∈ [1088, 1112], k.handleBad o.btab 0 1 0 m rRD false = none) ∧ k.unreachable (r (0, 8)).via = false ∧
    k.rangeErrorAt (r (0, 64)) = none ∧ imgSpans hd = [(0, 64), (0x40, 64), (0x440, 24)] ∧ (∀ x ∈ imgSpans hd, k.rangeErrorAt (r x) = none) ∧
    k.imageCause o.btab 0 0 (k.sourceBytes (r (0, 1112))) = none := by decide +kernel
/-- A channel armed, awake and asleep; at the end of an entry; in a row pass; asked to sleep, to power down, to wake. -/
theorem witness_GougeSteps_channel :
    let ch (c : Channel) (m : Nat := 0) : Pack := (withArg (withPk base (fun k => { k.setChan 0 (fun _ => c) with tick := 2 ^ 40 })) { m := m }).pk
    let u : GUnit := { ({ die := 0, desc := [1, 0, 14, 0, 0, 0, 0, 0], ctr := [], acc := [] } : GUnit).reset with busy := true }
    let run : Channel := { state := .running, entries := [2 ^ 62 + 64], units := [u] }
    (((ch { state := .armed }).chan 0).state = .armed ∧ ((ch { state := .armed }).chan 0).seq = (ch {}).arg.k ∧ ((ch { state := .armed }).chan 0).asleep = false) ∧
    ((ch { state := .armed, pst := 1 }).chan 0).asleep = true ∧
    (((ch run).chan 0).state = .running ∧ ((ch run).chan 0).seq = (ch run).arg.k ∧ entKind ((ch run).chan 0).entryWord = 1) ∧
    (((ch run).chan 0).units = [u] ∧ u.die = (ch run).arg.m ∧ u.busy = true ∧ ((ch run).rowPass 0 u).err = none ∧ u.next + u.passCost ≤ (ch run).chCycle ∧ ((ch run).chan 0).parked = false) ∧
    (((ch {}).chan 0).state = .empty ∧ ((ch {}).chan 0).pst ≠ 1 ∧ ((ch {}).chan 0).parking = false ∧ ((ch {}).chan 0).parked = false ∧
      (ch {}).arg.v.getLsbD 9 = false) ∧
    (let c : Channel := { state := .loaded }
     ((ch c).chan 0).state ≠ .empty ∧ ((ch c).chan 0).pst ≠ 1 ∧ ((ch c).chan 0).parking = false ∧ (ch c).unitsBusy 0 = false) ∧
    (let w : GUnit := { u with desc := [1, 0, 0x1E, 0, 0, 0, 0, 0] }
     let k : Pack := { ch { run with units := [w] } with bad := [(.dram, segCell 0 0 0 0)] }
     (k.chan 0).units = [w] ∧ w.busy = true ∧ (k.rowPass 0 w).err.isSome = true ∧ ((ch run).rowPass 0 u).u.fin = true) ∧
    (((ch { parking := true }).chan 0).parking = true ∧ (ch { parking := true }).unitsBusy 0 = false) := by decide +kernel

/-- A domain of the part as device 3 and device 5; queries, marks at their limit, a port at its eighth retry. -/
def domain : Pack := (base.pk.ioWr 0x71000 3).ioWr 0x71008 0x28
theorem witness_FabricSteps :
    let k := domain.setTl 5 { iss := 1, head := 1 }
    let q (sent : Bool) : Pack := { k with fab := { k.fab with queries := [⟨1, 5, 5, 1, 0, sent, 9⟩] } }
    let m : Pack := { k with tick := 20000, fab := { k.fab with marks := [(5, 0, 0)], live := 1 } }
    (5 ≠ 0xFF ∧ k.isMember 5 = true ∧ k.own ≠ 0xFF ∧ (k.answerFor 5 1).1 ≠ 0) ∧ (9 ≠ 0xFF ∧ k.isMember 9 = false) ∧
    ((q false).fab.queries = [⟨1, 5, 5, 1, 0, false, 9⟩]) ∧
    ((q true).fab.queries = [⟨1, 5, 5, 1, 0, true, 9⟩] ∧ bits (0 : Word) 63 62 = 0 ∧ bits (0x4000000000000000 : Word) 63 62 ≠ 0) ∧
    (k.isMember k.own = true ∧ m.fab.live ≠ 0) ∧ 5 ≠ k.own ∧
    (m.fab.marks = [(5, 0, 0)] ∧ 0 + 20000 ≤ m.tick ∧ m.devFailed 5 = false ∧ m.ops = [] ∧ (∀ g < 16, m.slotOn g = false)) ∧
    (m.fab.live.getLsbD 0 = true ∧ countOf [(0, 7)] 0 < 8 ∧ 8 ≤ countOf [(0, 8)] 0) := by decide +kernel
/-- DEVNUM in reduced service, out of range, in full service with the part's own bit in the membership and without; marks before an
operation; routes that list 3 and 5, off, on, of 145 devices. -/
theorem witness_FabricSteps_domain :
    let f := base.pk.ioWr 0x73000 0x2000000000010000
    let g := f.ioWr 0x71008 8
    let r := { domain with mem := domain.mem.write .dram 0x40000 [3, 5] }.ioWr 0x70008 0x40000
    let l := (r.dpaRead (bits (r.ioRd 0x70008) 47 0) 2).map BitVec.toNat
    base.pk.reduced = true ∧ (144 ≤ bits (200 : Word) 7 0 ∧ bits (200 : Word) 7 0 ≤ 254) ∧
    (f.reduced = false ∧ bits (3 : Word) 7 0 < 144 ∧ (f.ioWr 0x71000 3).inDomain = false) ∧
    (g.reduced = false ∧ (g.ioWr 0x71000 3).inDomain = true ∧ g.inDomain = false) ∧ base.pk.tstamp ≤ 2 ^ 62 ∧
    ((r.ioRd 0x70000).getLsbD 63 = false ∧ l = [3, 5] ∧ bits (0x8002000000000000 : Word) 55 48 = 2 ∧ bits (0x8002000000000000 : Word) 47 40 = 0 ∧
      bits (r.ioRd 0x70008) 47 40 = 0 ∧ (l[0]?).getD 0xFF = r.own ∧ l.Nodup ∧ (∀ d ∈ l, r.isMember d = true) ∧
      (0x8002000000000000 : Word).getLsbD 63 = true ∧ (0 : Word).getLsbD 63 = false) ∧
    ¬ (bits (0x8091000000000000 : Word) 55 48 ≤ 144) ∧ ((r.ioWr 0x70000 0x8002000000000000).ioRd 0x70000).getLsbD 63 = true := by decide +kernel
/-- Collectives of two devices: a reduction that may start, one whose block of the other device comes, one with NORM whose block comes and
whose s comes; of one device. -/
theorem witness_FabricSteps_collective :
    let c : Word := 0x2000_0000_0000_0080
    let nc : Word := 0x0200_0000_0000_0040
    let dst (n : Nat) : Range := ⟨[⟨.dram, 0x200000, n⟩], {}, 0⟩
    let a : Op := op (.coll c (near 128) (dst 128) 0 [3, 5])
    let b : Op := { a with stage := 1, bytes := List.replicate 128 0, taken := true }
    let m : Op := { op (.coll nc (near 128) (dst 68) 0 [3, 5]) with stage := 1, bytes := List.replicate 64 0, taken := true }
    let z : Op := { m with stage := 2 }
    let one : Op := op (.coll c (near 128) (dst 128) 0 [3])
    let s (o : Op) (x : Nat) : State := withPk (doing o { n := 1, k := x }) (fun k => { (k.ioWr 0x71000 3).ioWr 0x71008 0x28 with
      fab := { k.fab with live := 1, peers := [{ route := 0, idx := 0, rank := 1, ctl := c, ready := true }] } })
    (ready (s a 0) a = true ∧ a.stage = 0 ∧ (s a 0).pk.arg.k = 0 ∧ (∀ d ∈ [3, 5], d ≠ (s a 0).pk.own → (s a 0).pk.devFailed d = false ∧
      (s a 0).pk.fab.live ≠ 0) ∧ (s a 0).pk.allReady a = true) ∧
    ((s b 1).findOp 1 = some b ∧ (s b 1).pk.opHeld b = false ∧ b.stage = 1 ∧ collNorm c = false ∧ b.fail = false ∧
      (near 128).pieces.any (fun p => (dst 128).pieces.any p.meets) = false ∧
      good ((s b 1).pk.piecesWrite ((dst 128).as 6).via 0 (dst 128).pieces (collResult b.npdef c 0 2 b.bytes (s b 1).pk.arg.bytes)) = true) ∧
    ((s m 1).findOp 1 = some m ∧ (s m 1).pk.opHeld m = false ∧ collNorm nc = true) ∧
    ((s z 6).findOp 1 = some z ∧ (s z 6).pk.opHeld z = false ∧ 2 ≤ z.stage ∧ z.fail = false ∧
      (near 128).pieces.any (fun p => (dst 68).pieces.any p.meets) = false ∧
      good ((s z 6).pk.piecesWrite ((dst 68).as 6).via 0 (dst 68).pieces (z.bytes ++ leBytes 4 0)) = true) ∧
    (let k := (s one 0).pk
     let j := k.settle {} (near 128).pieces
     let bs := j.rangeBytes (near 128).pieces
     let o' := { one with bytes := bs, stage := 1 }
     (collOpc c = 3 → collRoot c = 0) ∧ j.rangeError (near 128).pieces = none ∧
       good (((j.touchAll ((near 128).as 6).via (near 128).pieces false).collSend o' false (collBlock c bs)).piecesWrite ((dst 128).as 6).via 0
         (dst 128).pieces (collResult one.npdef c 0 1 bs [])) = true) ∧
    (s a 2).findOp 1 = some a ∧ ((∀ p ∈ (near 128).pieces ++ (dst 128).pieces, p.space ≠ .spad) ∧ a.begun = true ∧ a.taken = false ∧
      (s a 2).pk.rangeError (near 128).pieces = none ∧ b.taken = true) ∧
    (domain.fromRank 0 1 5 = true ∧ domain.fromRank 0 1 9 = false) := by decide +kernel
/-- An embedding command with no entries, one that adds row 0 of buffer 1 to row 0 of buffer 2, one whose row is back. -/
def embedding (stage : Nat) : Op :=
  { op (.embr 0x0001000000000001 (mkHandle 1 0) (mkHandle 2 0)) with btab := 0x0007000000010000, stage := stage }
theorem witness_FabricSteps_entry :
    let e := embedding 0
    let s := doing e
    let t := doing (op (.embr 0 0 0))
    let j := (s.setOp e).pk
    let rs := j.embrRanges e 0x0001000000000001 (mkHandle 1 0) (mkHandle 2 0)
    let lr := rs.1.getD {}
    let src := rs.2.1.getD {}
    let dst := rs.2.2.getD {}
    let j1 := j.embrRead lr
    (ready t (op (.embr 0 0 0)) = true ∧ bits (0 : Word) 15 0 ≤ (op (.embr 0 0 0)).at_) ∧
    (ready (doing (embedding 3)) (embedding 3) = true) ∧
    ready s e = true ∧ e.at_ < bits (0x0001000000000001 : Word) 15 0 ∧ e.bytes = [] ∧
    rs = (some lr, some src, some dst) ∧ lr.pieces = [⟨.dram, 0x100000, 4⟩] ∧ src.pieces = [⟨.dram, 0x100000, 128⟩] ∧
    dst.pieces = [⟨.dram, 0x200000, 128⟩] ∧ j.isRemote lr.via = false ∧ j.isRemote src.via = false ∧ j.isRemote dst.via = false ∧
    j.rangeErrorAt lr = none ∧ j1.rangeErrorAt src = none ∧
    (match ((j1.embrRead src).settle { dst.via with ms := true } dst.pieces).rowAdd (dst.as 6).via dst.pieces (j1.sourceBytes src) with
      | .inl w => good w | .inr _ => false) = true := by decide +kernel

/-- Enabling a slot: a group of devices 3, 4 and 5 with two data shards and no region. -/
def grouping (c : Word) : Pack :=
  let k := [(0x73000, 0x2000000000010000), (0x71000, 3), (0x71008, 0x38), (0x81000, 0x100000), (vOff 15 + 8, 0x1000), (vOff 15 + 0x10, 2),
    (vOff 15 + 0x80, (0x0101 : Word)), (vOff 15, c)].foldl (fun (k : Pack) x => k.ioWr x.1 x.2) base.pk
  { k with mem := k.mem.write .dram 0x1000 [3, 0, 0, 0, 4, 1, 1, 0, 5, 2, 2, 0, 0xFF, 0, 0, 0] }
theorem grouping_regions (c : Word) (g : Nat) (hb : bits ((grouping c).ioRd 0x81000) 47 0 = 0x100000) : (grouping c).tableRegions g = [] := by
  have hm : (grouping c).mem.dram.wf = true := by
    show (base.pk.mem.write .dram 0x1000 [3, 0, 0, 0, 4, 1, 1, 0, 5, 2, 2, 0, 0xFF, 0, 0, 0]).dram.wf = true
    decide +kernel
  have hk : ∀ c' ∈ (grouping c).mem.dram, c'.1 < 0x2000 := by
    show ∀ c' ∈ (base.pk.mem.write .dram 0x1000 [3, 0, 0, 0, 4, 1, 1, 0, 5, 2, 2, 0, 0xFF, 0, 0, 0]).dram, c'.1 < 0x2000
    decide +kernel
  have hz (i : Nat) (hi : i < 4095) : (grouping c).dpaWord (0x100000 + 16 * (i + 1)) = 0 := by
    have hc : dpaCell (0x100000 + 16 * (i + 1)) = 0x100000 + 16 * (i + 1) := by unfold dpaCell cellOf; rw [if_neg (by omega)]; omega
    have hr : (grouping c).dpaRead (0x100000 + 16 * (i + 1)) 8 = List.replicate 8 0 := by
      unfold Pack.dpaRead Pack.homeRead
      rw [hc]
      have hmin : min 8 (128 - (0x100000 + 16 * (i + 1)) % 128) = 8 := by omega
      simp only [Pack.homeReadGo, hmin]
      simp only [show (8 : Nat) ≠ 0 by decide, if_false, Nat.sub_self, if_true, List.append_nil]
      have hr : (grouping c).chunkRead (0x100000 + 16 * (i + 1)) 8 = (grouping c).mem.dram.read (0x100000 + 16 * (i + 1)) 8 := rfl
      rw [hr, Memory.read_eq _ _ _ hm]
      apply List.ext_getElem
      · simp
      · intro n h1 h2
        simp only [List.getElem_map, List.getElem_range, List.getElem_replicate]
        exact Memory.get_eq_zero (fun c hc' => by have := hk c hc'; omega)
    unfold Pack.dpaWord
    rw [hr]
    decide
  unfold Pack.tableRegions
  rw [hb]
  apply List.filterMap_eq_nil_iff.2
  intro i hi
  simp only [hz i (List.mem_range.1 hi)]
  rfl
theorem witness_VeneerSteps_enable :
    let j := grouping 0x0011000000000000
    let m := (List.range (j.vN 15 + 1)).map (j.memberEntry 15)
    j.vEnableCause 15 m (j.tableRegions 15) = none ∧ j.slotOn 15 = false ∧ (j.slot 15).owed = [] := by
  have h (g : Nat) := grouping_regions 0x0011000000000000 g (by decide +kernel)
  refine ⟨?_, by decide +kernel, by decide +kernel⟩
  simp only [h, Pack.vEnableCause, Pack.vSpaceBad]
  decide +kernel
theorem witness_VeneerSteps_refuse (m : List (Nat × Nat × Nat)) (rs : List (Nat × Word × Word)) : base.pk.vEnableCause 15 m rs = some 7 ∧
    (0x8000000000000000 : Word).getLsbD 63 = true := by
  refine ⟨?_, by decide⟩
  rw [Pack.vEnableCause, if_pos (by decide +kernel)]

/-- Group slot 15 on: of three members (K = 2, M = 1), this part rank 0, or the standby. -/
def grouped (ctl : Word) (v : VSlot) (a : EventArg) : State :=
  withArg (withPk base (fun k => ((k.ioWr (vOff 15) ctl).ioWr (vOff 15 + 0x10) 2).setSlot 15 (fun _ => v))) { a with n := 15 }
def ranked (v : VSlot) (a : EventArg := {}) : State := grouped 0x8011000000000000 v a
def spare (v : VSlot) (a : EventArg := {}) : State := grouped (0x8011000000000000 + 31 * 2 ^ 43) v a
theorem witness_VeneerSteps :
    (15 < 16 ∧ base.pk.slotOn 15 = false ∧ base.pk.arg.v.getLsbD 63 = false) ∧ (ranked {}).pk.slotOn 15 = true ∧
    ((ranked { state := .join }).pk.slot 15).state = .join ∧
    (((ranked { state := .active }).pk.slot 15).state = .active ∧ ((ranked { state := .active }).pk.slot 15).sealed_ = [] ∧
      ((ranked { state := .active }).pk.slot 15).owed = [] ∧ (ranked { state := .active }).pk.arg.m ≠ 1 ∧
      ((ranked { state := .active, sealed_ := [1] }).pk.slot 15).sealed_ ≠ []) ∧ (ranked {} { m := 1 }).pk.arg.m = 1 ∧
    (let s := ranked { state := .resolve } { k := 1, m := 1 }
     let t := withPk s (fun k => k.ioWr (vOff 15 + 0x28) 1)
     (t.pk.slot 15).state = .resolve ∧ t.pk.arg.k ≠ 0 ∧ (t.pk.slot 15).nextCommit ≤ t.pk.arg.m ∧ (t.pk.slot 15).slog = [] ∧ (t.pk.slot 15).owed = [] ∧
       0 < t.pk.logCap 15 0x28 ∧
       (let off := t.pk.arg.v.toNat / 32 * 32
        let ch := cellCh (t.pk.parityCell 15 off)
        t.pk.rawHeld (t.pk.logCell 15 0x28 { ch := ch, pos := countOf (t.pk.slot 15).scount ch, off := off, round := 1, delta := [] }) = false)) ∧
    ((ranked { state := .join }).pk.slot 15).state ≠ .active ∧
    (let s := ranked { crd := 1, dead := 2 } { k := 1, bytes := [2] }
     s.pk.isCrd 15 = false ∧ s.pk.arg.k ≠ 0 ∧ (s.pk.slot 15).dead = BitVec.ofNat 20 (leNat s.pk.arg.bytes)) ∧
    (let s := ranked { state := .rollback, dead := 2, rolled := [0] } { k := 3, bytes := [2] }
     s.pk.isCrd 15 = true ∧ (s.pk.slot 15).state = .rollback ∧ (s.pk.slot 15).dead = BitVec.ofNat 20 (leNat s.pk.arg.bytes) ∧ s.pk.vLive 15 = [0, 2] ∧
       ∀ r ∈ s.pk.vLive 15, r = 2 ∨ (s.pk.slot 15).rolled.contains r = true) ∧
    (let s := ranked { state := .active, sentPrep := [1] } { m := 1 }
     (s.pk.slot 15).state = .active ∧ (s.pk.slot 15).sentPrep.contains 1 = true ∧ s.pk.arg.m = (s.pk.slot 15).nextCommit) ∧
    (let s (c : Nat) (st : VState) := ranked { state := st, crd := c, dead := 2 } { k := 3, bytes := [2] }
     (((s 2 .resolve).pk.slot 15).state = .resolve ∧ ((s 2 .resolve).pk.slot 15).dead = BitVec.ofNat 20 (leNat (s 2 .resolve).pk.arg.bytes) ∧
       (s 2 .resolve).pk.isCrd 15 = false ∧ (s 2 .resolve).pk.arg.k - 1 = ((s 2 .resolve).pk.slot 15).crd) ∧
     (((s 0 .active).pk.slot 15).state ≠ .resolve ∧ ((s 0 .active).pk.slot 15).state ≠ .lost) ∧ (s 0 .resolve).pk.isCrd 15 = true ∧
       ((s 0 .resolve).pk.slot 15).state = .resolve) ∧
    ((ranked { state := .rollback }).pk.vStandby 15 = false ∧ ((ranked { state := .rollback }).pk.slot 15).state = .rollback ∧
      ((ranked { state := .degraded, dead := 2 }).pk.slot 15).dead ≠ 0 ∧ ((ranked { state := .rebuild } { m := 2 }).pk.slot 15).state = .rebuild) ∧
    (let s := spare { state := .join } { m := 1 }
     s.pk.vStandby 15 = true ∧ (s.pk.slot 15).state = .join ∧ (s.pk.slot 15).shares = [] ∧ 0 < s.pk.vStripes 15) ∧
    (let s := spare { state := .rebuild } { k := 1 }
     s.pk.arg.k ≠ 0 ∧ (s.pk.slot 15).dead.getLsbD 0 = false ∧ (s.pk.slot 15).shares = [] ∧ 1 < s.pk.vK 15 ∧ (s.pk.slot 15).stripe < s.pk.vStripes 15) := by
  decide +kernel
/-- The exchange of JOIN: the values of rank 1 come, equal and with another group number, the last awaited and not; those of the
standby, equal, in a degraded group whose coordinator this part is. -/
theorem witness_VeneerSteps_join :
    let v (l : List Nat) : VSlot := { state := .join, members := [(3, 0, 0), (4, 1, 1), (5, 2, 2), (6, 3, 3)], joined := l }
    let w : VSlot := { v [] with state := .degraded, dead := 2, sbnone := false }
    let j := (ranked (v [])).pk
    let s (v : VSlot) (x : Word) (r : Nat) : State := ranked v { k := r + 1, v := x, bytes := j.joinRest 15 }
    let same (t : State) : Bool := decide (t.pk.arg.v &&& 0x00FF_0000_0000_FFFF = t.pk.joinShape 15 ∧ t.pk.arg.bytes = t.pk.joinRest 15)
    (let t := s (v [0, 2]) (j.joinShape 15) 1
     t.pk.arg.m = 0 ∧ t.pk.arg.k ≠ 0 ∧ (t.pk.tableOthers 15).contains 1 = true ∧ t.pk.vStandby 15 = false ∧ (t.pk.slot 15).dead = 0 ∧ t.pk.vN 15 = 3 ∧
       same t = true ∧ (∀ i < t.pk.vN 15, i = 1 ∨ (t.pk.slot 15).joined.contains i = true)) ∧
    (let t := s (v [0]) (j.joinShape 15) 1
     same t = true ∧ ∃ i < t.pk.vN 15, i ≠ 1 ∧ (t.pk.slot 15).joined.contains i = false) ∧
    same (s (v [0, 2]) (j.joinShape 15 + 1) 1) = false ∧
    (let t := s w (j.joinShape 15) 3
     same t = true ∧ (t.pk.slot 15).state = .degraded ∧ (t.pk.tableOthers 15).contains 3 = true ∧ 3 = t.pk.vN 15 ∧ t.pk.isCrd 15 = true ∧
       (t.pk.slot 15).dead ≠ 0 ∧ (t.pk.slot 15).sbnone = false) := by decide +kernel
/-- The standby entry read again: a device of the table, one of a member's power domain, none, a good one. -/
theorem witness_VeneerSteps_standby :
    let v : VSlot := { state := .degraded, members := [(3, 0, 0), (4, 1, 1), (5, 2, 2), (0xFF, 0, 0)] }
    let k (b : List Byte) : Pack := let k := ((ranked v).pk.ioWr 0x71000 3).ioWr 0x71008 0x78; { k with mem := k.mem.write .dram 12 b }
    let e (b : List Byte) : Nat × Nat × Nat := (k b).memberEntry 15 ((k b).vN 15)
    let m := v.members.take 3
    (k []).slotOn 15 = true ∧ (k []).vN 15 = 3 ∧ ((e [4, 7, 7]).1 ≠ 0xFF ∧ ∃ x ∈ m, x.1 = (e [4, 7, 7]).1) ∧
    ((k []).vStandby 15 = false ∧ (k []).isMember (e [6, 1, 7]).1 = true ∧ (¬ ∃ x ∈ m, x.1 = (e [6, 1, 7]).1) ∧ (e [6, 1, 7]).1 ≠ 0xFF ∧
      ∃ x ∈ m, x.2.1 = (e [6, 1, 7]).2.1 ∨ x.2.2 = (e [6, 1, 7]).2.2) ∧ (e [0xFF, 0, 0]).1 = 0xFF ∧
    ((k []).isMember (e [6, 7, 7]).1 = true ∧ (e [6, 7, 7]).1 ≠ 0xFF ∧ (¬ ∃ x ∈ m, x.1 = (e [6, 7, 7]).1) ∧
      (¬ ∃ x ∈ m, x.2.1 = (e [6, 7, 7]).2.1 ∨ x.2.2 = (e [6, 7, 7]).2.2) ∧ ((k []).slot 15).state ≠ .rebuild) := by decide +kernel

end Sys2Proof.Tests
end

-- ================================================================
-- Proofs, scope: the byte stores, reset, due actions
-- ================================================================

section
namespace Sys2Proof.Machine

/-! ### Reading the byte stores -/

theorem Memory.readFrom_nil (a n : Nat) : Memory.readFrom [] a n = List.replicate n 0 := by
  induction n generalizing a with
  | zero => rfl
  | succ n ih => rw [Memory.readFrom, ih, List.replicate_succ]

theorem Memory.read_nil (a n : Nat) : Memory.read [] a n = List.replicate n 0 := Memory.readFrom_nil a n

theorem Memory.read_one (m : Memory) (x : Nat) (h : m.wf = true) : m.read x 1 = [m.get x] := by
  simp [Memory.read_eq m x 1 h]

/-- The bytes of a write are read back. -/
theorem Memory.read_write (m : Memory) (a : Nat) (bs : List Byte) (h : m.wf = true) : (m.write a bs).read a bs.length = bs := by
  rw [Memory.read_eq _ _ _ (Memory.wf_write m a bs h)]
  refine List.ext_getElem (by simp) fun i hi hb => ?_
  simp [Memory.get_write m a bs (a + i) h, hb]

/-- A byte outside those of a write reads as before. -/
theorem Memory.read_write_outside (m : Memory) (a : Nat) (bs : List Byte) (x : Nat) (h : m.wf = true)
    (hx : x < a ∨ a + bs.length ≤ x) : (m.write a bs).read x 1 = m.read x 1 := by
  rw [Memory.read_one _ _ (Memory.wf_write m a bs h), Memory.read_one _ _ h, Memory.get_write m a bs x h, if_neg (by omega)]

/-- In canonical form the listed cells are the bytes that are not 0. -/
theorem Memory.mem_iff_get {m : Memory} (h : m.wf = true) (c : Host.Cell) : c ∈ m ↔ m.get c.1 = c.2 ∧ c.2 ≠ 0 := by
  obtain ⟨hz, hp⟩ := (Memory.wf_iff m).mp h
  constructor
  · exact fun hc => ⟨Memory.get_eq_of_mem hp hc, hz c hc⟩
  · rintro ⟨hg, h0⟩
    by_contra hc
    refine h0 (hg.symm.trans (Memory.get_eq_zero fun d hd he => hc ?_))
    obtain ⟨x, b⟩ := c
    obtain ⟨y, e⟩ := d
    simp only at he hg
    subst he
    rwa [← hg, Memory.get_eq_of_mem hp hd]

/-- One content has one canonical form. -/
theorem Memory.eq_of_get {m n : Memory} (hm : m.wf = true) (hn : n.wf = true) (h : ∀ x, m.get x = n.get x) : m = n := by
  have hs : ∀ c, c ∈ m ↔ c ∈ n := fun c => by rw [Memory.mem_iff_get hm, Memory.mem_iff_get hn, h]
  have hpm := ((Memory.wf_iff m).mp hm).2
  have hpn := ((Memory.wf_iff n).mp hn).2
  have hnd {l : Memory} (hl : l.Pairwise (fun a b => a.1 < b.1)) : l.Nodup := hl.imp fun hab he => by simp [he] at hab
  exact ((List.perm_ext_iff_of_nodup (hnd hpm) (hnd hpn)).mpr hs).eq_of_pairwise (fun a b _ _ hab hba => absurd hab (by omega)) hpm hpn

/-! ### Reset -/

/-- The boxes after reset are the idle ones, in order. -/
theorem State.boxes_reset : State.reset.boxes = (List.range 256).map CoreBox.idle := by
  decide +kernel
end Sys2Proof.Machine

open Sys2Proof Sys2Proof.Machine

/-- Settles O11, byte by byte from the laws of `Memory.get`. -/
theorem memoryReadsWhatWasWritten : Obligations.MemoryReadsWhatWasWritten := by
  intro m n a x bs hm hn
  refine ⟨Memory.wf_write m a bs hm, Memory.read_write m a bs hm, Memory.read_write_outside m a bs x hm, fun h => ?_⟩
  refine Memory.eq_of_get hm hn fun y => ?_
  simpa [Memory.read_one, hm, hn] using h y

/-- Settles O7: with a due head and no fatal error, `State.advance` answers before any core's step. -/
theorem stepRunsDueAction : Obligations.StepRunsDueAction := by
  intro s d ds hf ha hd
  simp [step, hf, State.advance, ha, hd, State.updPk]

/-- Settles O4: the boxes after reset are the idle ones, and the stores are empty. -/
theorem resetState : Obligations.ResetState := by
  unfold Obligations.ResetState
  simp only [State.boxes_reset]
  refine ⟨rfl, ?_, by simp, ?_, by decide +kernel, by decide +kernel, by decide +kernel, by decide +kernel, by decide +kernel, by decide +kernel, rfl, rfl, ?_, rfl, fun _ => rfl, ?_⟩
  · intro c hc
    obtain ⟨b, hb, hc⟩ := List.mem_flatMap.mp hc
    obtain ⟨i, -, rfl⟩ := List.mem_map.mp hb
    rcases List.mem_pair.mp hc with rfl | rfl <;> exact ⟨rfl, rfl, rfl, rfl, rfl, rfl, rfl, rfl, rfl, rfl⟩
  · simp [CoreBox.idle]
  · simp [Pack.copiesSound, State.reset, Pack.reset]
  · intro sp a n
    cases sp <;> exact Memory.read_nil a n
end

-- ================================================================
-- Proofs, scope: The form through results, choices and folds
-- ================================================================

section
namespace Sys2Proof.Machine
open Sys2Proof

/-! ### What keeping the form means for a result -/

/-- A state made, if any, has its stores in form when `m` is. -/
def Res.Keeps (m : Stores) (r : Res) : Prop := ∀ t, r = .ok t → m.wf = true → t.pk.mem.wf = true

/-- The outcome is a next state, and its stores are in form when `m` is. -/
def Outcome.Keeps (m : Stores) (o : Host.Outcome State Fault Refusal) : Prop :=
  ∃ t, o = .next t ∧ (m.wf = true → t.pk.mem.wf = true)

@[simp] theorem Outcome.keeps_next (m : Stores) (t : State) : Outcome.Keeps m (.next t) ↔ (m.wf = true → t.pk.mem.wf = true) := by
  simp [Outcome.Keeps]
@[simp] theorem Outcome.keeps_ite (m : Stores) (c : Prop) [Decidable c] (a b : Host.Outcome State Fault Refusal) :
    Outcome.Keeps m (if c then a else b) ↔ (c → Outcome.Keeps m a) ∧ (¬ c → Outcome.Keeps m b) := by
  split <;> simp [*]

@[simp] theorem Res.keeps_ok (m : Stores) (t : State) : Res.Keeps m (.ok t) ↔ (m.wf = true → t.pk.mem.wf = true) := by
  simp [Res.Keeps]
@[simp] theorem Res.keeps_pure (m : Stores) (t : State) : Res.Keeps m (pure t) ↔ (m.wf = true → t.pk.mem.wf = true) :=
  Res.keeps_ok m t
@[simp] theorem Res.keeps_error (m : Stores) (e : Stop) : Res.Keeps m (.error e) := by
  simp [Res.Keeps]
@[simp] theorem Res.keeps_failWith (m : Stores) (r : FaultRec) : Res.Keeps m (failWith r) := Res.keeps_error m _
@[simp] theorem Res.keeps_bind {α : Type} (m : Stores) (x : Except Stop α) (f : α → Res) :
    Res.Keeps m (x >>= f) ↔ ∀ a, x = .ok a → Res.Keeps m (f a) := by
  cases x <;> simp [bind, Except.bind]
@[simp] theorem Res.keeps_map (m : Stores) (r : Res) (f : State → State) :
    Res.Keeps m (r.map f) ↔ ∀ t, r = .ok t → m.wf = true → (f t).pk.mem.wf = true := by
  cases r <;> simp [Except.map]
@[simp] theorem Res.keeps_ite (m : Stores) (c : Prop) [Decidable c] (a b : Res) :
    Res.Keeps m (if c then a else b) ↔ (c → Res.Keeps m a) ∧ (¬ c → Res.Keeps m b) := by
  split <;> simp [*]

/-! ### The form through choices, folds and single stores -/

@[simp] theorem Pack.ite_mem (c : Prop) [Decidable c] (j k : Pack) : (if c then j else k).mem = if c then j.mem else k.mem :=
  apply_ite Pack.mem c j k
@[simp] theorem State.ite_pk (c : Prop) [Decidable c] (s t : State) : (if c then s else t).pk = if c then s.pk else t.pk :=
  apply_ite State.pk c s t
@[simp] theorem Stores.ite_wf (c : Prop) [Decidable c] (m n : Stores) :
    (if c then m else n).wf = true ↔ (c → m.wf = true) ∧ (¬ c → n.wf = true) := by
  split <;> simp [*]

@[simp] theorem Pack.foldl_mem {α : Type} (f : Pack → α → Pack) (l : List α) (k : Pack) (hf : ∀ k a, (f k a).mem = k.mem) :
    (l.foldl f k).mem = k.mem := by
  induction l generalizing k with
  | nil => rfl
  | cons a l ih => rw [List.foldl_cons, ih, hf]
@[simp] theorem State.foldl_mem {α : Type} (f : State → α → State) (l : List α) (s : State) (hf : ∀ s a, (f s a).pk.mem = s.pk.mem) :
    (l.foldl f s).pk.mem = s.pk.mem := by
  induction l generalizing s with
  | nil => rfl
  | cons a l ih => rw [List.foldl_cons, ih, hf]
@[simp] theorem State.foldl_wf {α : Type} (f : State → α → State) (l : List α) (s : State)
    (hf : ∀ s a, s.pk.mem.wf = true → (f s a).pk.mem.wf = true) (h : s.pk.mem.wf = true) : (l.foldl f s).pk.mem.wf = true := by
  induction l generalizing s with
  | nil => exact h
  | cons a l ih => exact ih _ (hf s a h)

theorem Stores.wf_iff (m : Stores) : m.wf = true ↔ m.dram.wf = true ∧ m.spad.wf = true ∧ m.ws.wf = true ∧ m.host.wf = true := by
  simp [Stores.wf, and_assoc]
@[simp] theorem Stores.wf_clearSpad (m : Stores) (lo hi : Nat) (h : m.wf = true) :
    Stores.wf { m with spad := m.spad.clear lo hi } = true := by
  rw [Stores.wf_iff] at h ⊢
  exact ⟨h.1, Memory.wf_clear _ _ _ h.2.1, h.2.2⟩
@[simp] theorem Stores.wf_clearDram (m : Stores) (lo hi : Nat) (h : m.wf = true) :
    Stores.wf { m with dram := m.dram.clear lo hi } = true := by
  rw [Stores.wf_iff] at h ⊢
  exact ⟨Memory.wf_clear _ _ _ h.1, h.2⟩

/-! As `Pack.ioWr_mem`, `Pack.schedule_mem` and `Pack.setSlot_mem`, but rewriting steps of their own in a proof: the kernel is slow to find out by
unfolding that a long chain of register writes leaves the stores alone, and a proof over one leaves the other form out (`-Pack.ioWr_mem`). -/

@[simp] theorem Pack.mem_ioWr (k : Pack) (off : Nat) (w : Word) : (k.ioWr off w).mem = k.mem := by rfl
@[simp] theorem Pack.mem_schedule (k : Pack) (delay : Nat) (ev : Instr) (arg : EventArg) : (k.schedule delay ev arg).mem = k.mem := by
  rfl
@[simp] theorem Pack.mem_setSlot (k : Pack) (g : Nat) (f : VSlot → VSlot) : (k.setSlot g f).mem = k.mem := by rfl

/-! ### The state, its registers and traps -/

@[simp] theorem State.noteEnd_mem (s : State) : s.noteEnd.pk.mem = s.pk.mem := by
  simp [State.noteEnd]
@[simp] theorem State.freeze_mem (s : State) (cause : Nat) (pc : Dpa) (r : FaultRec) : (s.freeze cause pc r).pk.mem = s.pk.mem := by
  simp [State.freeze]
@[simp] theorem State.returnFromTrap_mem (s : State) : s.returnFromTrap.pk.mem = s.pk.mem := by rfl
@[simp] theorem Pack.forget_mem (k : Pack) (who : Nat) : (k.forget who).mem = k.mem := by rfl

/-- However an instruction stops, its fault or stall leaves the stores of the state it is delivered on as they were (R18, R142). -/
@[simp] theorem Outcome.keeps_deliver (m : Stores) (s : State) (r : Res) :
    Outcome.Keeps m (deliver s r) ↔ Res.Keeps m r ∧ (∀ e, r = .error e → m.wf = true → s.pk.mem.wf = true) := by
  match r with
  | .ok u => simp
  | .error (.fault f) => simp
  | .error (.met f) => simp
  | .error .stall => simp
  | .error (.fetch i) => simp

end Sys2Proof.Machine
end

-- ================================================================
-- Proofs, scope: Errors, homes, flights and registers keep the form
-- ================================================================

section
namespace Sys2Proof.Machine
open Sys2Proof

/-! ### Errors, witnesses -/

@[simp] theorem Pack.logSectors_mem (k : Pack) (l : List Nat) : (k.logSectors l).mem = k.mem := by
  refine Pack.foldl_mem _ _ _ fun j x => ?_
  split <;> simp
@[simp] theorem Pack.forgetPoint_mem (k : Pack) (who : Nat) (w : Word) : (k.forgetPoint who w).mem = k.mem := by rfl
@[simp] theorem Pack.send_mem (k : Pack) (m : Msg) : (k.send m).mem = k.mem := by rfl
@[simp] theorem Pack.ask_mem (who : Nat) (k : Pack) (w : Word) : (Pack.ask who k w).mem = k.mem := by
  simp [Pack.ask]

/-! ### The home -/

@[simp] theorem Pack.charge_mem (k : Pack) (off cls n : Nat) : (k.charge off cls n).mem = k.mem := by rfl
@[simp] theorem Pack.closeRows_mem (k : Pack) (h : Nat) : (k.closeRows h).mem = k.mem := by rfl
@[simp] theorem Pack.reachBank_mem (k : Pack) (cls cell : Nat) : (k.reachBank cls cell).mem = k.mem := by rfl
@[simp] theorem Pack.refreshPin_mem (k : Pack) (line : Nat) : (k.refreshPin line).mem = k.mem := by rfl
@[simp] theorem Pack.overRead_mem (k : Pack) (line : Nat) : (k.overRead line).mem = k.mem := by rfl
@[simp] theorem Pack.vsend_mem (k : Pack) (g rank : Nat) (m : VMsg) : (k.vsend g rank m).mem = k.mem := by rfl
@[simp] theorem Pack.writeBack_wf (k : Pack) (line : Nat) (h : k.mem.wf = true) : (k.writeBack line).mem.wf = true := by
  unfold Pack.writeBack
  split
  · split
    · exact Pack.foldl_wf _ (fun j i hj => Stores.wf_write _ _ _ _ hj) _ _ h
    · exact h
  · exact h
@[simp] theorem Pack.flush_wf (k : Pack) (line : Nat) (h : k.mem.wf = true) : (k.flush line).mem.wf = true := by
  unfold Pack.flush
  simp only
  split <;> simp [h]
theorem Pack.makeRoom_wf (k j : Pack) (line : Nat) (h : k.mem.wf = true) (hj : k.makeRoom line = some j) : j.mem.wf = true := by
  unfold Pack.makeRoom at hj
  simp only at hj
  split at hj
  · cases hj; exact h
  · split at hj
    · cases hj; exact h
    · obtain ⟨l, -, rfl⟩ := Option.map_eq_some_iff.mp hj
      simp [h]
@[simp] theorem Pack.fill_wf (k : Pack) (line : Nat) (h : k.mem.wf = true) : (k.fill line).mem.wf = true := by
  unfold Pack.fill
  split
  · exact h
  next j hj => exact Pack.makeRoom_wf (k.dropLine line) j line h hj
@[simp] theorem Pack.touch_wf (k : Pack) (via : Via) (line : Nat) (err counts : Bool) (h : k.mem.wf = true) :
    (k.touch via line err counts).mem.wf = true := by
  unfold Pack.touch
  simp only
  (repeat' split) <;> simp [h]
@[simp] theorem Pack.settle_wf (k : Pack) (via : Via) (ps : List Piece) (h : k.mem.wf = true) : (k.settle via ps).mem.wf = true := by
  unfold Pack.settle
  split
  · exact Pack.foldl_wf _ (fun j l hj => by simp [hj]) _ _ h
  · exact h
@[simp] theorem Pack.touchAll_wf (k : Pack) (via : Via) (ps : List Piece) (counts : Bool) (h : k.mem.wf = true) :
    (k.touchAll via ps counts).mem.wf = true :=
  Pack.foldl_wf _ (fun _ _ hj => Pack.touch_wf _ _ _ _ _ hj) _ _ h
@[simp] theorem Pack.bankWrite_wf (k : Pack) (cls cell : Nat) (bs : List Byte) (h : k.mem.wf = true) :
    (k.bankWrite cls cell bs).mem.wf = true := by
  unfold Pack.bankWrite
  simp only
  split <;> simp [Stores.wf_write, h]
@[simp] theorem Pack.segWrite_wf (k : Pack) (cell : Nat) (bs : List Byte) (h : k.mem.wf = true) : (k.segWrite cell bs).mem.wf = true := by
  simp [Pack.segWrite, Stores.wf_write, h]
@[simp] theorem Pack.rawWrite_wf (k : Pack) (cell : Nat) (bs : List Byte) (h : k.mem.wf = true) : (k.rawWrite cell bs).mem.wf = true := by
  simp [Pack.rawWrite, h]
@[simp] theorem Pack.logWrite_wf (k : Pack) (g reg : Nat) (e : LogEntry) (h : k.mem.wf = true) : (k.logWrite g reg e).mem.wf = true := by
  simp [Pack.logWrite, h]
@[simp] theorem Pack.lineWrite_wf (k : Pack) (via : Via) (cell : Nat) (bs : List Byte) (count : Nat) (h : k.mem.wf = true) :
    (k.lineWrite via cell bs count).mem.wf = true := by
  unfold Pack.lineWrite
  simp only
  (repeat' split) <;> simp [h]

/-- The package after the write of one part. -/
def PartEnd.pack : PartEnd → Pack
  | .ok k => k
  | .held k => k
  | .failed k => k
  | .refused k _ => k

theorem Pack.setSlot_wf (k : Pack) (g : Nat) (f : VSlot → VSlot) (h : k.mem.wf = true) : (k.setSlot g f).mem.wf = true := h
theorem Pack.deltaSector_wf (k : Pack) (g off cell : Nat) (bs : List Byte) (h : k.mem.wf = true) :
    (k.deltaSector g off cell bs).pack.mem.wf = true := by
  unfold Pack.deltaSector
  extract_lets v sec unheld j0 j1 old at_ new delta e j2 K n rows
  have h0 : j0.mem.wf = true := h
  have h1 : j1.mem.wf = true := j0.flush_wf _ h0
  have h2 : j2.mem.wf = true := j1.bankWrite_wf _ _ _ h1
  split
  · exact Pack.setSlot_wf _ _ _ h0
  · split
    · exact Pack.setSlot_wf _ _ _ (by simp [h1])
    · split <;> simp [PartEnd.pack, h1, h2]
theorem Pack.partWrite_wf (k : Pack) (via : Via) (count : Nat) (p : Piece) (bs : List Byte) (h : k.mem.wf = true) :
    (k.partWrite via count p bs).pack.mem.wf = true := by
  unfold Pack.partWrite
  split
  · split
    · exact Pack.lineWrite_wf _ _ _ _ _ h
    · exact k.deltaSector_wf _ _ _ _ h
  · exact Stores.wf_write _ _ _ _ h
@[simp] theorem Pack.countDrops_mem (k : Pack) (gs : List Nat) : (k.countDrops gs).mem = k.mem :=
  Pack.foldl_mem _ _ _ fun _ _ => rfl
@[simp] theorem Pack.partsWrite_wf (via : Via) (count : Nat) (parts : List (Piece × List Byte)) (k : Pack) (n : Nat) (fail : Bool)
    (gs : List Nat) (h : k.mem.wf = true) : (Pack.partsWrite via count parts k n fail gs).pack.mem.wf = true := by
  induction parts generalizing k n fail gs with
  | nil =>
    rw [Pack.partsWrite]
    split <;> simpa [Written.pack] using h
  | cons p rest ih =>
    have hw := k.partWrite_wf via count p.1 p.2 h
    rw [Pack.partsWrite]
    cases he : k.partWrite via count p.1 p.2 with
    | held j => rw [he] at hw; simpa [Written.pack, PartEnd.pack] using hw
    | ok j | failed j | refused j g => rw [he] at hw; exact ih _ _ _ _ hw
@[simp] theorem Pack.piecesWrite_wf (k : Pack) (via : Via) (count : Nat) (ps : List Piece) (bs : List Byte) (h : k.mem.wf = true) :
    (k.piecesWrite via count ps bs).pack.mem.wf = true := by
  simp [Pack.piecesWrite, h]
@[simp] theorem Pack.pieceWrite_wf (k : Pack) (via : Via) (p : Piece) (bs : List Byte) (h : k.mem.wf = true) :
    (k.pieceWrite via p bs).pack.mem.wf = true := by
  simp [Pack.pieceWrite, h]

/-! ### Operations in flight -/

@[simp] theorem Pack.chargePorts_mem (k : Pack) (via : Via) (cls : Nat) (ps : List Piece) : (k.chargePorts via cls ps).mem = k.mem := by
  simp [Pack.chargePorts]
@[simp] theorem Pack.didRead_wf (k : Pack) (r : Range) (counts : Bool) (h : k.mem.wf = true) : (k.didRead r counts).mem.wf = true := by
  unfold Pack.didRead
  split <;> simp [h]
@[simp] theorem Pack.noteWait_mem (k : Pack) (offs : List Nat) : (k.noteWait offs).mem = k.mem := by
  refine Pack.foldl_mem _ _ _ fun j off => ?_
  simp
@[simp] theorem Pack.watchDead_mem (k : Pack) (o : Op) : (k.watchDead o).mem = k.mem := by
  simp [Pack.watchDead]
@[simp] theorem State.issueLoad_keeps (m : Stores) (s : State) (dst : Wr) (reg k : Nat) (o : Op) :
    Res.Keeps m (s.issueLoad dst reg k o) ↔ (s.ctx.landings < 32 → m.wf = true → s.pk.mem.wf = true) := by
  simp [State.issueLoad]
@[simp] theorem State.landNow_keeps (s : State) (dst : Wr) (k : Nat) : Res.Keeps s.pk.mem (s.landNow dst k) := by
  simp [State.landNow]
@[simp] theorem State.putWitness_pk {n : Nat} (s : State) (d : BitVec n) (w : Word) : (s.putWitness d w).pk = s.pk := by rfl
@[simp] theorem Pack.dpaWrite_wf (k : Pack) (d : Nat) (bs : List Byte) (h : k.mem.wf = true) : (k.dpaWrite d bs).mem.wf = true := by
  have hw := k.piecesWrite_wf {} 0 (linePieces (bs.length / 128 + 2) (dpaCell d) bs.length) bs h
  unfold Pack.dpaWrite
  split
  next he => rw [he] at hw; exact hw
  · exact hw
@[simp] theorem Pack.saveThrough_wf (k : Pack) (o : Op) (h : k.mem.wf = true) : (k.saveThrough o).mem.wf = true := by
  refine Pack.foldl_wf _ (fun j p hj => Pack.foldl_wf _ (fun i r hi => ?_) _ _ hj) _ _ h
  simp only
  split
  · exact hi
  · exact Pack.dpaWrite_wf _ _ _ hi
theorem State.finishOp_wf (s : State) (o : Op) (h : s.pk.mem.wf = true) : (s.finishOp o).pk.mem.wf = true := by
  simp [h]
theorem State.failOpState_wf (s : State) (o : Op) (h : s.pk.mem.wf = true) : (s.failOpState o).pk.mem.wf = true := by
  simp [h]
@[simp] theorem State.landFault_wf (s : State) (o : Op) (r : FaultRec) (h : s.pk.mem.wf = true) : (s.landFault o r).pk.mem.wf = true := by
  simp [State.landFault, h]
@[simp] theorem State.presentLanding_wf (s : State) (o : Op) (h : s.pk.mem.wf = true) : (s.presentLanding o).pk.mem.wf = true := by
  simp [State.presentLanding, h]
@[simp] theorem State.takeBoard_mem (s : State) (id : Nat) (write : Bool) (ranges : List (Nat × Nat)) (array : Bool) :
    (s.takeBoard id write ranges array).pk.mem = s.pk.mem := by rfl
@[simp] theorem State.storeNum_mem (s : State) (dst : Range) (bytes : List Byte) (count : Nat) :
    (s.storeNum dst bytes count).2.pk.mem = s.pk.mem := by
  simp [State.storeNum]
@[simp] theorem State.storeG_mem (s : State) (dst : Range) (bytes : List Byte) (count : Nat) :
    (s.storeG dst bytes count).2.pk.mem = s.pk.mem := by
  simp [State.storeG]

/-! ### Control -/

@[simp] theorem State.redirect_mem (s : State) (t : Dpa) (mark : BundleEnd → BundleEnd) : (s.redirect t mark).pk.mem = s.pk.mem := by
  simp [State.redirect]
theorem State.pushReturn_keeps (s : State) (ret : Dpa) : Res.Keeps s.pk.mem (s.pushReturn ret) := by
  simp [State.pushReturn]
@[simp] theorem State.callTo_keeps (s : State) (t : Dpa) : Res.Keeps s.pk.mem (s.callTo t) := by
  rw [State.callTo, Res.keeps_map]
  exact fun u hu hw => by simpa using s.pushReturn_keeps _ u hu hw
@[simp] theorem State.refillReturn_keeps (s : State) : Res.Keeps s.pk.mem s.refillReturn := by
  simp [State.refillReturn]
@[simp] theorem execRet_keeps (s : State) : Outcome.Keeps s.pk.mem (execRet s) := by
  unfold execRet
  split
  · simp
  · simp
@[simp] theorem State.csrModify_keeps (s : State) (d a : BitVec 5) (n : BitVec 7) (f : Word → Word → Word) (clr : Word → Word) :
    Res.Keeps s.pk.mem (s.csrModify d a n f clr) := by
  unfold State.csrModify
  (repeat' split) <;> simp

end Sys2Proof.Machine
end

-- ================================================================
-- Proofs, scope: Bundles and memory instructions keep the form
-- ================================================================

section
namespace Sys2Proof.Machine
open Sys2Proof

/-! ### Bundles and cycles -/

@[simp] theorem State.yieldAt_mem (s : State) (f : Nat) (snap : List Pend) (regs : Regs) (live : Option Nat) :
    (s.yieldAt f snap regs live).pk.mem = s.pk.mem := by
  simp [State.yieldAt]
@[simp] theorem State.endBundle_mem (s : State) (fly : List Pend) (slots : List (Slot × BitVec 32 × SlotInstr)) :
    (s.endBundle fly slots).pk.mem = s.pk.mem := by
  unfold State.endBundle
  simp only
  (repeat' split) <;> simp
@[simp] theorem State.writeFirst_mem (s : State) : s.writeFirst.pk.mem = s.pk.mem := by
  unfold State.writeFirst
  split <;> simp
@[simp] theorem State.openBundle_mem (s : State) (hw : BitVec 32) : (s.openBundle hw).pk.mem = s.pk.mem := by rfl
@[simp] theorem State.endCycle_mem (s : State) (phase : Nat) : (s.endCycle phase).pk.mem = s.pk.mem := by rfl
@[simp] theorem State.logFetch_mem (s : State) (r : FaultRec) : (s.logFetch r).pk.mem = s.pk.mem := by
  simp [State.logFetch]
theorem execDeferredFault_keeps (s : State) : Outcome.Keeps s.pk.mem (execDeferredFault s) := by
  unfold execDeferredFault
  split <;> simp
theorem execHandlerStart_keeps (s : State) : Outcome.Keeps s.pk.mem (execHandlerStart s) := by
  unfold execHandlerStart
  split <;> simp

/-! ### Local memory -/

@[simp] theorem State.loadL_keeps (s : State) (dst : Wr) (shape : Shape) (reg k : Nat) (ps : List Piece) (extra : Nat)
    (waits : List Word) (wreg : Nat) : Res.Keeps s.pk.mem (s.loadL dst shape reg k ps extra waits wreg) := by
  simp [State.loadL]
@[simp] theorem State.storeL_mem (s : State) (ps : List Piece) (bytes : List Byte) : (s.storeL ps bytes).2.pk.mem = s.pk.mem := by
  simp [State.storeL]
@[simp] theorem State.awaitRecord_mem (s : State) : s.awaitRecord.pk.mem = s.pk.mem := by
  simp [State.awaitRecord]
@[simp] theorem State.atomicL_keeps (s : State) (fn : Nat) (d a b : BitVec 5) (w z : BitVec 1) :
    Res.Keeps s.pk.mem (s.atomicL fn d a b w z) := by
  simp [State.atomicL]
@[simp] theorem State.missC_keeps (s : State) (d : BitVec 5) (k : Nat) (r : Range) (waits : List Word) (wreg : Nat) :
    Res.Keeps s.pk.mem (s.missC d k r waits wreg) := by
  simp [State.missC]
theorem execSinv_keeps (a b : BitVec 5) (s : State) : Outcome.Keeps s.pk.mem (execSinv a b s) := by
  unfold execSinv
  simp only
  split <;> simp

/-! ### Global memory -/

@[simp] theorem State.loadG_keeps (s : State) (dst : Wr) (shape : Shape) (reg k : Nat) (r : Range) (extra : Nat) (waits : List Word)
    (wreg : Nat) : Res.Keeps s.pk.mem (s.loadG dst shape reg k r extra waits wreg) := by
  simp [State.loadG]
@[simp] theorem State.storeW_mem (s : State) (d : BitVec 5) (r : Range) (bytes : List Byte) (count : Nat) :
    (s.storeW d r bytes count).pk.mem = s.pk.mem := by
  simp [State.storeW]
@[simp] theorem State.atomicG_keeps (s : State) (fn : Nat) (d a b : BitVec 5) (w z : BitVec 1) :
    Res.Keeps s.pk.mem (s.atomicG fn d a b w z) := by
  simp [State.atomicG]
@[simp] theorem State.mscRange_keeps (s : State) (drop : Bool) (d a b : BitVec 5) : Res.Keeps s.pk.mem (s.mscRange drop d a b) := by
  simp [State.mscRange]
@[simp] theorem State.enqueueCopy_keeps (s : State) (q : Nat) (want : BoardWant) (kind : OpKind) (lat : Nat) :
    Res.Keeps s.pk.mem (s.enqueueCopy q want kind lat) := by
  unfold State.enqueueCopy
  split
  · simp
  · cases want <;> simp
theorem execPref_keeps (a b : BitVec 5) (f : BitVec 1) (s : State) : Outcome.Keeps s.pk.mem (execPref a b f s) := by
  unfold execPref
  split <;> simp
@[simp] theorem Res.keeps_commandFault (m : Stores) (s : State) (cause : Nat) (ctl : Word) : Res.Keeps m (s.commandFault cause ctl) :=
  Res.keeps_error m _
theorem execSkpat_keeps (s : State) : Outcome.Keeps s.pk.mem (execSkpat s) := by
  refine (Outcome.keeps_deliver _ _ _).mpr ⟨?_, by simp⟩
  simp only [Res.keeps_bind]
  intro ea _
  split
  · simp
  · simp only [Res.keeps_bind]
    intros
    split <;> simp

/-! ### Witnesses -/

theorem execWwait_keeps (a : BitVec 5) (s : State) : Outcome.Keeps s.pk.mem (execWwait a s) := by
  unfold execWwait
  extract_lets who
  split <;> simp
theorem execWtest_keeps (d a : BitVec 5) (s : State) : Outcome.Keeps s.pk.mem (execWtest d a s) := by
  unfold execWtest
  simp only
  (repeat' split) <;> simp

/-! ### Launches and interrupts -/

@[simp] theorem Pack.updSched_mem (k : Pack) (f : Sched → Sched) : (k.updSched f).mem = k.mem := by rfl
@[simp] theorem Pack.updStream_mem (k : Pack) (n : Nat) (f : StreamState → StreamState) : (k.updStream n f).mem = k.mem := by rfl
@[simp] theorem Pack.appendTo_mem (k : Pack) (n v : Nat) : (k.appendTo n v).mem = k.mem := by rfl
@[simp] theorem Pack.roundNow_mem (k : Pack) : k.roundNow.mem = k.mem := by rfl
@[simp] theorem State.appendImage_wf (s : State) (o : Op) (n : Nat) (points : List Word) (img : List Byte) (h : s.pk.mem.wf = true) :
    (s.appendImage o n points img).pk.mem.wf = true := by
  unfold State.appendImage
  simp only
  (repeat' split) <;> simp [h]
@[simp] theorem Pack.sendIrq_wf (k : Pack) (v count : Nat) (h : k.mem.wf = true) : (k.sendIrq v count).mem.wf = true := by
  simp [Pack.sendIrq, Stores.wf_write, h]
@[simp] theorem Pack.requestIrq_wf (k : Pack) (v : Nat) (h : k.mem.wf = true) : (k.requestIrq v).mem.wf = true := by
  unfold Pack.requestIrq
  (repeat' split) <;> simp [h]
theorem execCoalesceExpiry_keeps (s : State) : Outcome.Keeps s.pk.mem (execCoalesceExpiry s) := by
  refine (Outcome.keeps_next _ _).mpr fun h => ?_
  split
  · split <;> simp [h]
  · exact h
@[simp] theorem Pack.moveDone_wf (k : Pack) (n fuel : Nat) (h : k.mem.wf = true) : (k.moveDone n fuel).mem.wf = true := by
  induction fuel generalizing k with
  | zero => exact h
  | succ fuel ih =>
    rw [Pack.moveDone]
    split
    next j v _ => cases v <;> exact ih _ (by simp [h])
    · exact h
@[simp] theorem Pack.finishRecord_wf (k : Pack) (n j : Nat) (x : Word) (bs : List Byte) (again : Bool) (h : k.mem.wf = true) :
    (k.finishRecord n j x bs again).mem.wf = true := by
  have hw := k.piecesWrite_wf {} 0 (linePieces (bs.length / 128 + 2) (dpaCell (bits x 47 0)) bs.length) bs h
  unfold Pack.finishRecord
  split
  next he => rw [he] at hw; exact hw
  · extract_lets k1 k2 irq k3 k4
    have h1 : k1.mem.wf = true := hw
    have h2 : k2.mem.wf = true := by simp [k2, h1]
    have h4 : k4.mem.wf = true := Pack.moveDone_wf _ _ _ h2
    simp [h4]
@[simp] theorem Pack.endRecord_wf (k : Pack) (n j : Nat) (w : List Word) (status code : Nat) (energy : Word) (h : k.mem.wf = true) :
    (k.endRecord n j w status code energy).mem.wf = true := by
  simp [Pack.endRecord, h]

end Sys2Proof.Machine
end

-- ================================================================
-- Proofs, scope: Operations taking effect keep the form
-- ================================================================

section
namespace Sys2Proof.Machine
open Sys2Proof

/-! ### Operations taking effect: admission -/

theorem State.letIn_later {s t : State} {o : Op} (h : s.letIn o = .later t) : t.pk.mem = s.pk.mem := by
  unfold State.letIn at h
  split at h
  · split at h
    · cases h; simp
    · cases h
  · split at h
    · split at h
      · cases h
      · cases h; simp
    · cases h; simp
    · cases h
/-- What goes on with the operation of a step, or with its failed witness, keeps the form: then the step does. -/
theorem State.onOp_wf (s : State) (f : Op → State → State) (bad : Op → Word → Nat → Nat → Word → State → State)
    (h : s.pk.mem.wf = true) (hf : ∀ o, (f o s).pk.mem.wf = true) (hb : ∀ o w a b t, (bad o w a b t s).pk.mem.wf = true) :
    (s.onOp f bad).pk.mem.wf = true := by
  unfold State.onOp
  split
  · exact h
  · split
    next he => rw [State.letIn_later he]; exact h
    · exact hb ..
    next o _ => split
                · simp [h]
                · split
                  · simp [h]
                  · exact hf o

/-! ### Loads -/

@[simp] theorem Op.badLoad_wf (o : Op) (w : Word) (code cause : Nat) (t : Word) (s : State) (h : s.pk.mem.wf = true) :
    (o.badLoad w code cause t s).pk.mem.wf = true := by
  simp [Op.badLoad, h]
@[simp] theorem Op.badCommand_wf (o : Op) (w : Word) (code cause : Nat) (t : Word) (s : State) (h : s.pk.mem.wf = true) :
    (o.badCommand w code cause t s).pk.mem.wf = true := by
  simp [Op.badCommand, h]
/-- A step of the memory slots keeps the form when its own part does. -/
theorem State.onOp_badLoad_wf (s : State) (f : Op → State → State) (h : s.pk.mem.wf = true) (hf : ∀ o, (f o s).pk.mem.wf = true) :
    (s.onOp f Op.badLoad).pk.mem.wf = true :=
  s.onOp_wf f _ h hf fun _ _ _ _ _ => Op.badLoad_wf _ _ _ _ _ _ h
theorem State.onOp_badCommand_wf (s : State) (f : Op → State → State) (h : s.pk.mem.wf = true) (hf : ∀ o, (f o s).pk.mem.wf = true) :
    (s.onOp f Op.badCommand).pk.mem.wf = true :=
  s.onOp_wf f _ h hf fun _ _ _ _ _ => Op.badCommand_wf _ _ _ _ _ _ h

@[simp] theorem State.loadError_wf (s : State) (o : Op) (e : Nat × Nat) (h : s.pk.mem.wf = true) : (s.loadError o e).pk.mem.wf = true := by
  simp [State.loadError, h]
@[simp] theorem State.takeLoad_wf (s : State) (o : Op) (shape : Shape) (bs : List Byte) (later : Nat) (h : s.pk.mem.wf = true) :
    (s.takeLoad o shape bs later).pk.mem.wf = true := by
  simp [State.takeLoad, h]
@[simp] theorem State.presentTaken_wf (s : State) (o : Op) (h : s.pk.mem.wf = true) : (s.presentTaken o).pk.mem.wf = true := by
  simp [State.presentTaken, h]
@[simp] theorem State.fillL1_mem (s : State) (core : Nat) (r : Range) : (s.fillL1 core r).pk.mem = s.pk.mem := by
  simp [State.fillL1]
@[simp] theorem State.fencedHit_wf (s : State) (o : Op) (h : s.pk.mem.wf = true) : (s.fencedHit o).pk.mem.wf = true := by
  unfold State.fencedHit
  (repeat' split) <;> simp [h]
@[simp] theorem State.remoteError_wf (s : State) (o : Op) (h : s.pk.mem.wf = true) : (s.remoteError o).pk.mem.wf = true := by
  unfold State.remoteError
  split <;> simp [h]
@[simp] theorem State.nearRead_wf (s : State) (o : Op) (h : s.pk.mem.wf = true) : (s.nearRead o).pk.mem.wf = true := by
  unfold State.nearRead
  (repeat' split) <;> simp [h]
@[simp] theorem State.farLoad_wf (s : State) (o : Op) (r : Range) (h : s.pk.mem.wf = true) : (s.farLoad o r).pk.mem.wf = true := by
  simp [State.farLoad, h]
@[simp] theorem State.readImage_wf (o : Op) (s : State) (h : s.pk.mem.wf = true) : (State.readImage o s).pk.mem.wf = true := by
  unfold State.readImage
  (repeat' split) <;> simp [h]
@[simp] theorem State.mergeNow_wf (s : State) (o : Op) (a b : Word) (named : Bool) (ra rb : Nat) (h : s.pk.mem.wf = true) :
    (s.mergeNow o a b named ra rb).pk.mem.wf = true := by
  unfold State.mergeNow
  (repeat' split) <;> simp [h]
theorem execLoadDataArrival_keeps (s : State) : Outcome.Keeps s.pk.mem (execLoadDataArrival s) := by
  refine (Outcome.keeps_next _ _).mpr fun h => ?_
  simp only
  split
  · exact h
  · split
    · exact s.presentTaken_wf _ h
    · split
      · exact s.mergeNow_wf _ _ _ _ _ _ h
      · exact s.onOp_badLoad_wf _ h fun _ => State.readImage_wf _ _ h
      · split
        · exact s.presentTaken_wf _ h
        · exact s.onOp_badLoad_wf _ h fun _ => State.fencedHit_wf _ _ h
      · exact s.onOp_badLoad_wf _ h fun _ => State.takeLoad_wf _ _ _ _ _ h
      · exact s.onOp_badLoad_wf _ h fun _ => State.takeLoad_wf _ _ _ _ _ h
      · exact s.onOp_badLoad_wf _ h fun _ => State.nearRead_wf _ _ h
theorem execWsReadRelease_keeps (s : State) : Outcome.Keeps s.pk.mem (execWsReadRelease s) := by
  unfold execWsReadRelease
  split <;> simp
@[simp] theorem Pack.prefetchLine_wf (via : Via) (k : Pack) (l : Nat) (h : k.mem.wf = true) : (Pack.prefetchLine via k l).mem.wf = true := by
  simp [Pack.prefetchLine, h]
@[simp] theorem State.serveRead_wf (o : Op) (s : State) (h : s.pk.mem.wf = true) : (State.serveRead o s).pk.mem.wf = true := by
  unfold State.serveRead
  split
  · extract_lets s1 bs later s2
    have h1 : s1.pk.mem.wf = true := Pack.settle_wf _ _ _ h
    split
    · simp [h1]
    · simp [s2, h1]
  · exact State.finishOp_wf _ _ (Pack.foldl_wf _ (fun _ _ hj => Pack.prefetchLine_wf _ _ _ hj) _ _ h)
  · exact h

/-! ### Stores, write-backs and atomics -/

@[simp] theorem State.await_mem (s : State) (o : Op) : (s.await o).pk.mem = s.pk.mem := by rfl
theorem State.written_wf (s : State) (o : Op) (w : Written) (h : w.pack.mem.wf = true) : (s.written o w).pk.mem.wf = true := by
  unfold State.written
  rw [Written.pack.eq_def] at h
  (repeat' split) <;> simp_all
@[simp] theorem Pack.cleanLine_wf (drop : Bool) (k : Pack) (line : Nat) (h : k.mem.wf = true) : (Pack.cleanLine drop k line).mem.wf = true := by
  unfold Pack.cleanLine
  simp only
  (repeat' split) <;> simp [h]
@[simp] theorem Pack.cleanLines_wf (k : Pack) (drop : Bool) (ps : List Piece) (h : k.mem.wf = true) : (k.cleanLines drop ps).1.mem.wf = true :=
  Pack.foldl_wf _ (fun _ _ hj => Pack.cleanLine_wf _ _ _ hj) _ _ h
@[simp] theorem State.atomicDone_wf (s : State) (o : Op) (ret : Option Nat) (old : Word) (later : Nat) (h : s.pk.mem.wf = true) :
    (s.atomicDone o ret old later).pk.mem.wf = true := by
  unfold State.atomicDone
  split <;> simp [h]
@[simp] theorem State.atomicError_wf (s : State) (o : Op) (ret : Option Nat) (e : Nat × Nat) (h : s.pk.mem.wf = true) :
    (s.atomicError o ret e).pk.mem.wf = true := by
  simp [State.atomicError, h]
@[simp] theorem State.serveStore_wf (o : Op) (s : State) (h : s.pk.mem.wf = true) : (State.serveStore o s).pk.mem.wf = true := by
  unfold State.serveStore
  split
  · exact s.written_wf _ _ (by simp [h])
  · simp only
    split <;> simp [h]
  next at_ _ fn v cmp ret _ =>
    split
    · simp [h]
    · simp only
      have hw := s.pk.piecesWrite_wf {} 0 at_.pieces (atomicStep fn (s.pk.rangeBytes at_.pieces) v cmp).1 h
      split
      next he => rw [he] at hw; exact State.atomicDone_wf _ _ _ _ _ hw
      · exact h
  · exact h
@[simp] theorem Pack.raiseIv_mem (k : Pack) (ms : Bool) (cell : Nat) : (k.raiseIv ms cell).mem = k.mem := by rfl
@[simp] theorem Pack.heldAs_mem (k j : Pack) : (k.heldAs j).mem = k.mem :=
  Pack.foldl_mem _ _ _ fun _ _ => rfl
@[simp] theorem Pack.noteAtomic_mem (k : Pack) (ps : List Piece) (t : Nat) : (k.noteAtomic ps t).mem = k.mem := by rfl
theorem Pack.sliceAtomic_wf (k : Pack) (via : Via) (ps : List Piece) (fn : Nat) (v cmp : Word) (h : k.mem.wf = true) (w : Written)
    (x : Word) (he : k.sliceAtomic via ps fn v cmp = .inl (w, x)) : w.pack.mem.wf = true := by
  unfold Pack.sliceAtomic at he
  simp only at he
  split at he
  · cases he
  · have hw := k.piecesWrite_wf { via with cp := if via.ms then 2 else 0 } 0 ps (atomicStep fn (k.rangeBytes ps) v cmp).1 h
    cases he
    split
    next hj => rw [hj] at hw; simpa [Written.pack] using hw
    · exact hw
theorem Pack.rowAdd_wf (k : Pack) (via : Via) (ps : List Piece) (x : List Byte) (h : k.mem.wf = true) (w : Written)
    (he : k.rowAdd via ps x = .inl w) : w.pack.mem.wf = true := by
  unfold Pack.rowAdd at he
  simp only at he
  split at he
  · cases he
  · have hw := k.piecesWrite_wf { via with ms := true, cp := 2 } 0 ps (((List.zip (elemsOf 4 (k.rangeBytes ps)) (elemsOf 4 x)).map
      (fun p => atomicStep 8 (leBytes 4 p.1) (BitVec.ofNat 64 p.2) 0)).flatMap (fun l => l.1)) h
    cases he
    split
    next hj => rw [hj] at hw; simpa [Written.pack] using hw
    · simpa [Written.pack] using h
    next hj => rw [hj] at hw; exact hw
theorem execHomeAtomic_keeps (s : State) : Outcome.Keeps s.pk.mem (execHomeAtomic s) := by
  refine (Outcome.keeps_next _ _).mpr fun h => s.onOp_badCommand_wf _ h fun o => ?_
  split
  · extract_lets s1
    have h1 : s1.pk.mem.wf = true := Pack.settle_wf _ _ _ h
    split
    · exact s1.atomicError_wf _ _ _ h1
    next he =>
      exact State.atomicDone_wf _ _ _ _ _ (Pack.sliceAtomic_wf _ _ _ _ _ _ h1 _ _ he)
    next k _ he =>
      have hk : k.mem.wf = true := Pack.sliceAtomic_wf _ _ _ _ _ _ h1 _ _ he
      split
      · simp [hk]
      · exact State.failOpState_wf _ _ hk
    next he =>
      exact State.written_wf _ _ _ (Pack.sliceAtomic_wf _ _ _ _ _ _ h1 _ _ he)
  · exact h

/-! ### Copies -/

@[simp] theorem Pack.destWrite_wf (k : Pack) (r : Range) (bs : List Byte) (h : k.mem.wf = true) : (k.destWrite r bs).pack.mem.wf = true := by
  unfold Pack.destWrite
  split
  · simpa [Written.pack] using h
  · simp [h]
@[simp] theorem State.copyWrite_wf (s : State) (o : Op) (dst : Range) (bs : List Byte) (h : s.pk.mem.wf = true) :
    (s.copyWrite o dst bs).pk.mem.wf = true := by
  have hw := s.pk.destWrite_wf (dst.as o.kind.cls) bs h
  unfold State.copyWrite
  split
  next he => rw [he] at hw; exact hw
  · exact s.written_wf _ _ hw
@[simp] theorem State.failCopy_wf (s : State) (o : Op) (lim : Nat) (h : s.pk.mem.wf = true) : (s.failCopy o lim).pk.mem.wf = true := by
  unfold State.failCopy
  split <;> simp [h]
@[simp] theorem State.copyNow_wf (s : State) (o : Op) (src dst : Range) (h : s.pk.mem.wf = true) : (s.copyNow o src dst).pk.mem.wf = true := by
  unfold State.copyNow
  extract_lets src far s1 bs g laps bs1 s2 s3
  have h1 : s1.pk.mem.wf = true := by simp [s1, h]
  have h2 : s2.pk.mem.wf = true := Pack.didRead_wf _ _ _ h1
  have h3 : s3.pk.mem.wf = true := by simp [s3, h2]
  split
  · exact s.failOpState_wf _ h
  · split
    · simp [h]
    · split
      · simp [h3]
      · simp [h3]
@[simp] theorem State.askPage_mem (s : State) (o : Op) : (s.askPage o).pk.mem = s.pk.mem := by
  unfold State.askPage
  simp only
  split <;> simp
/-- The writes of a Skew read keep the form. -/
theorem Pack.skewWrites_wf (esz : Nat) (ws : List (Nat × List Byte)) (k : Pack) (h : k.mem.wf = true) :
    (ws.foldl (fun (k : Pack) (w : Nat × List Byte) =>
      { (k.clearBad ⟨.spad, w.1, esz⟩) with mem := k.mem.write .spad w.1 w.2 }) k).mem.wf = true :=
  Pack.foldl_wf _ (fun _ _ hj => Stores.wf_write _ _ _ _ hj) _ _ h
theorem execCopyPerformed_keeps (s : State) : Outcome.Keeps s.pk.mem (execCopyPerformed s) := by
  unfold execCopyPerformed
  extract_lets a s1
  refine (Outcome.keeps_next _ _).mpr fun h => ?_
  have h1 : s1.pk.mem.wf = true := by
    simp only [s1]
    (repeat' split) <;> simp [h]
  split
  · (repeat' split) <;> simp [h1]
  · refine s1.onOp_badCommand_wf _ h1 fun o => ?_
    split
    · simp [h1]
    · split
      · simp [h1]
      · extract_lets s2 ws k
        have h2 : s2.pk.mem.wf = true := Pack.settle_wf _ _ _ h1
        split
        · simp [h2]
        · exact State.finishOp_wf _ _ (Pack.skewWrites_wf _ _ _ (Pack.touchAll_wf _ _ _ _ h2))
    · exact h1
theorem execCopyFailure_keeps (s : State) : Outcome.Keeps s.pk.mem (execCopyFailure s) := by
  refine (Outcome.keeps_next _ _).mpr fun h => ?_
  split
  · simp [h]
  · exact h
theorem execPageRequestTimeout_keeps (s : State) : Outcome.Keeps s.pk.mem (execPageRequestTimeout s) := by
  refine (Outcome.keeps_next _ _).mpr fun h => ?_
  split
  · simp [h]
  · exact h
theorem execWldsComplete_keeps (s : State) : Outcome.Keeps s.pk.mem (execWldsComplete s) := by
  refine (Outcome.keeps_next _ _).mpr fun h => s.onOp_badCommand_wf _ h fun o => ?_
  simp only
  (repeat' split) <;> simp [h]

/-! ### Other devices -/

@[simp] theorem State.remoteBad_wf (s : State) (o : Op) (h : s.pk.mem.wf = true) : (s.remoteBad o).pk.mem.wf = true := by
  unfold State.remoteBad
  (repeat' split) <;> simp [h]
@[simp] theorem State.remoteOwn_wf (s : State) (o : Op) (h : s.pk.mem.wf = true) : (s.remoteOwn o).pk.mem.wf = true := by
  unfold State.remoteOwn
  extract_lets far bad t t1
  have ht : t.pk.mem.wf = true := by simp [t, h]
  have h1 : t1.pk.mem.wf = true := by simp [t1, ht]
  split
  · exact s.remoteError_wf _ h
  · split
    · exact State.remoteBad_wf { s with pk := { t1.pk with freeCtr := s.pk.freeCtr } } o h1
    · split
      · simp [h1]
      · simp [h1]
      · simp [h1]
@[simp] theorem Pack.servedWrite_wf (k : Pack) (dev : Nat) (via : Via) (count : Nat) (ps : List Piece) (ev : Instr) (h : k.mem.wf = true) :
    (k.servedWrite dev via count ps ev).mem.wf = true := by
  have hw := k.piecesWrite_wf via count ps k.arg.bytes h
  unfold Pack.servedWrite
  simp only
  split
  all_goals next he =>
    rw [he] at hw
    simpa [Written.pack] using hw
@[simp] theorem Pack.servedRead_wf (k : Pack) (dev : Nat) (via : Via) (ps : List Piece) (h : k.mem.wf = true) :
    (k.servedRead dev via ps).mem.wf = true := by
  unfold Pack.servedRead
  simp only
  split <;> simp [h]
theorem Pack.servedLater_wf (k j : Pack) (dev : Nat) (via : Via) (ps : List Piece) (ev : Instr) (h : k.mem.wf = true)
    (he : k.servedLater dev via ps ev = some j) : j.mem.wf = true := by
  simp only [Pack.servedLater, Option.ite_none_right_eq_some, Option.some.injEq] at he
  obtain ⟨-, rfl⟩ := he
  simp [h]
@[simp] theorem Pack.remoteServe_wf (k : Pack) (dev : Nat) (h : k.mem.wf = true) : (k.remoteServe dev).mem.wf = true := by
  unfold Pack.remoteServe
  extract_lets a via ps fn word x y k1 k2
  have hy : y.1.mem.wf = true := k.cleanLines_wf _ _ h
  have h1 : k1.mem.wf = true := k.settle_wf _ _ h
  have h2 : k2.mem.wf = true := k.settle_wf _ _ h
  split
  · exact h
  · split
    next he =>
      split at he
      · exact Pack.servedLater_wf _ _ _ _ _ _ h he
      · exact Pack.servedLater_wf _ _ _ _ _ _ h he
    · split
      · simp [h]
      · split
        · exact Pack.foldl_wf _ (fun _ _ hj => Pack.prefetchLine_wf _ _ _ hj) _ _ h
        · split
          · split <;> simp [hy]
          · split
            · split
              next he => exact k1.rowAdd_wf _ _ _ h1 _ he
              next he => exact k1.rowAdd_wf _ _ _ h1 _ he
              next he => exact k1.rowAdd_wf _ _ _ h1 _ he
              · simp [h1]
            · split
              next he => exact k2.sliceAtomic_wf _ _ _ _ _ h2 _ _ he
              next he => exact k2.sliceAtomic_wf _ _ _ _ _ h2 _ _ he
              next he => exact k2.sliceAtomic_wf _ _ _ _ _ h2 _ _ he
              · simp [h2]
theorem execRemoteAccess_keeps (s : State) : Outcome.Keeps s.pk.mem (execRemoteAccess s) := by
  refine (Outcome.keeps_next _ _).mpr fun h => ?_
  split
  · refine s.onOp_wf _ _ h (fun o => s.remoteOwn_wf o h) fun o w a b t => ?_
    split <;> simp [h]
  · simp [h]

end Sys2Proof.Machine
end

-- ================================================================
-- Proofs, scope: Registers, Gouge, matrix and streams keep the form
-- ================================================================

section
namespace Sys2Proof.Machine
open Sys2Proof

/-! ### Scalar, vector and matrix registers -/

@[simp] theorem moveOffset_keeps (d a : BitVec 5) (o : Int) (s : State) : Res.Keeps s.pk.mem (moveOffset d a o s) := by
  simp [moveOffset]
@[simp] theorem State.putLanes_mem (s : State) (d : BitVec 5) (f : Fmt) (lat : Nat) (r : List (Nat × Flags)) :
    (s.putLanes d f lat r).pk.mem = s.pk.mem := by rfl
@[simp] theorem State.putAll_mem (s : State) (d : BitVec 5) (tag : BitVec 32) (w lat : Nat) (l : List Nat) :
    (s.putAll d tag w lat l).pk.mem = s.pk.mem := by rfl
@[simp] theorem State.fbin_keeps (s : State) (d a b : BitVec 5) (t : BitVec 2) (lat : Nat) (f : Fmt → Nat → Nat → Nat × Flags) :
    Res.Keeps s.pk.mem (s.fbin d a b t lat f) := by
  simp [State.fbin]
@[simp] theorem State.ffma_keeps (s : State) (d a b : BitVec 5) (t : BitVec 2) (f : Val → Val → Val → Val) :
    Res.Keeps s.pk.mem (s.ffma d a b t f) := by
  simp [State.ffma]
@[simp] theorem State.funary_keeps (s : State) (d a : BitVec 5) (t : BitVec 2) (lat : Nat) (f : Fmt → Nat → Nat × Flags) :
    Res.Keeps s.pk.mem (s.funary d a t lat f) := by
  simp [State.funary]
@[simp] theorem State.fcmp_keeps (s : State) (d a b : BitVec 5) (t : BitVec 2) (any : Bool) (f : Val → Val → Bool) :
    Res.Keeps s.pk.mem (s.fcmp d a b t any f) := by
  simp [State.fcmp]
@[simp] theorem State.ibin_keeps (s : State) (u : BitVec 1) (d a b : BitVec 5) (w : BitVec 2) (lat : Nat)
    (f : Fmt → Int → Int → Nat × Flags) : Res.Keeps s.pk.mem (s.ibin u d a b w lat f) := by
  simp [State.ibin]
@[simp] theorem State.iunary_keeps (s : State) (u : BitVec 1) (d a : BitVec 5) (w : BitVec 2) (f : Fmt → Int → Int) :
    Res.Keeps s.pk.mem (s.iunary u d a w f) := by
  simp [State.iunary]
@[simp] theorem State.icmp_keeps (s : State) (u : BitVec 1) (d a b : BitVec 5) (w : BitVec 2) (f : Int → Int → Bool) :
    Res.Keeps s.pk.mem (s.icmp u d a b w f) := by
  simp [State.icmp]
@[simp] theorem State.reduce_keeps (s : State) (d a : BitVec 5) (isMax : Bool) : Res.Keeps s.pk.mem (s.reduce d a isMax) := by
  simp [State.reduce]
@[simp] theorem State.trans_keeps (s : State) (fn : Fn) (c : BitVec 1) (d a : BitVec 5) (t : BitVec 2) :
    Res.Keeps s.pk.mem (s.trans fn c d a t) := by
  simp [State.trans]

/-! ### Gouge -/

@[simp] theorem PassRun.bank_wf (r : PassRun) (n : Nat) (mode : PadMode) (e : List Int) (b : Nat) (h : r.k.mem.wf = true) :
    (r.bank n mode e b).k.mem.wf = true := by
  unfold PassRun.bank
  simp only
  (repeat' split) <;> simp [h]
/-- A run of row-pass parts keeps the form when each part does. -/
theorem PassRun.foldl_wf {α : Type} (f : PassRun → α → PassRun) (hf : ∀ r a, r.k.mem.wf = true → (f r a).k.mem.wf = true) (l : List α)
    (r : PassRun) (h : r.k.mem.wf = true) : (l.foldl f r).k.mem.wf = true := by
  induction l generalizing r with
  | nil => exact h
  | cons a l ih => exact ih _ (hf r a h)
@[simp] theorem PassRun.steps_wf (r : PassRun) (n : Nat) (h : r.k.mem.wf = true) : (r.steps n).k.mem.wf = true := by
  refine PassRun.foldl_wf _ (fun q i hq => ?_) _ _ h
  simp only
  split
  · exact hq
  · exact PassRun.foldl_wf _ (fun p b hp => p.bank_wf _ _ _ _ hp) _ { q with n := q.n + 1 } hq
@[simp] theorem PassRun.store_wf (r : PassRun) (n : Nat) (h : r.k.mem.wf = true) : (r.store n).k.mem.wf = true := by
  unfold PassRun.store
  split
  · exact h
  · exact PassRun.foldl_wf _ (fun p b hp => Pack.segWrite_wf _ _ _ hp) _ _ h
@[simp] theorem Pack.rowPass_wf (k : Pack) (n : Nat) (u : GUnit) (h : k.mem.wf = true) : (k.rowPass n u).k.mem.wf = true := by
  have hr := PassRun.store_wf _ n (PassRun.steps_wf { k := k, u := u } n h)
  unfold Pack.rowPass
  simp only
  split <;> exact hr
@[simp] theorem State.gougeCmd_keeps (s : State) (cmd : Nat) (img : Handle) (start : Word) : Res.Keeps s.pk.mem (s.gougeCmd cmd img start) := by
  simp [State.gougeCmd]
@[simp] theorem Pack.updUnit_mem (k : Pack) (n d : Nat) (f : GUnit → GUnit) : (k.updUnit n d f).mem = k.mem := by rfl
@[simp] theorem Pack.parkSoon_mem (k : Pack) (n : Nat) : (k.parkSoon n).mem = k.mem := by
  simp [Pack.parkSoon]
@[simp] theorem Pack.tryPass_mem (k : Pack) (n d : Nat) : (k.tryPass n d).mem = k.mem := by
  unfold Pack.tryPass
  simp only
  (repeat' split) <;> simp
@[simp] theorem Pack.beginEntry_mem (k : Pack) (n : Nat) : (k.beginEntry n).mem = k.mem := by
  simp [Pack.beginEntry]
@[simp] theorem Pack.beginRun_mem (k : Pack) (n start : Nat) : (k.beginRun n start).mem = k.mem := by
  simp [Pack.beginRun]
theorem execTimetableStart_keeps (s : State) : Outcome.Keeps s.pk.mem (execTimetableStart s) := by
  refine (Outcome.keeps_next _ _).mpr fun h => ?_
  simp [h]
theorem execTimetableEntry_keeps (s : State) : Outcome.Keeps s.pk.mem (execTimetableEntry s) := by
  refine (Outcome.keeps_next _ _).mpr fun h => ?_
  simp [h]
@[simp] theorem Pack.endPoint_wf (k : Pack) (n : Nat) (ok : Bool) (h : k.mem.wf = true) : (k.endPoint n ok).mem.wf = true := by
  simp [Pack.endPoint, h]
@[simp] theorem Pack.endPass_wf (n t : Nat) (u : GUnit) (r : PassRun) (h : r.k.mem.wf = true) : (Pack.endPass n t u r).mem.wf = true := by
  unfold Pack.endPass
  simp only
  (repeat' split) <;> simp [h]
theorem execRowPass_keeps (s : State) : Outcome.Keeps s.pk.mem (execRowPass s) := by
  refine (Outcome.keeps_next _ _).mpr fun h => ?_
  extract_lets
  split
  · exact h
  · split
    · exact h
    next u _ =>
      extract_lets r t
      have hr : r.k.mem.wf = true := Pack.rowPass_wf _ _ _ h
      clear_value r
      split
      · exact h
      · exact Pack.endPass_wf _ _ _ _ hr
@[simp] theorem State.gougeFail_wf (s : State) (o : Op) (n cause : Nat) (h : s.pk.mem.wf = true) : (s.gougeFail o n cause).pk.mem.wf = true :=
  State.failOpState_wf _ _ h
/-- What an accepted command does keeps the form: then its step does. -/
theorem State.gougeAct_wf (s : State) (f : Op → Nat → Handle → Word → State → State) (h : s.pk.mem.wf = true)
    (hf : ∀ o n img w, (f o n img w s).pk.mem.wf = true) : (s.gougeAct f).pk.mem.wf = true := by
  refine s.onOp_wf _ _ h (fun o => ?_) fun o w a b t => ?_
  · (repeat' split) <;> simp [h, hf]
  · split <;> simp [h]
theorem execGttLoad_keeps (s : State) : Outcome.Keeps s.pk.mem (execGttLoad s) := by
  refine (Outcome.keeps_next _ _).mpr fun h => s.gougeAct_wf _ h fun o n img w => ?_
  extract_lets e range bad head len rs bs t
  have ht : t.pk.mem.wf = true := Pack.foldl_wf _ (fun k r hk => Pack.didRead_wf k r _ hk) _ _ h
  (repeat' split) <;> simp [h, ht]
@[simp] theorem State.arm_wf (s : State) (o : Op) (n : Nat) (sa : Word) (h : s.pk.mem.wf = true) : (s.arm o n sa).pk.mem.wf = true := by
  simp [State.arm, h]
theorem execGgoArm_keeps (s : State) : Outcome.Keeps s.pk.mem (execGgoArm s) := by
  refine (Outcome.keeps_next _ _).mpr fun h => s.gougeAct_wf _ h fun o n img w => ?_
  simp [h]
theorem execSaveModeEntry_keeps (s : State) : Outcome.Keeps s.pk.mem (execSaveModeEntry s) := by
  refine (Outcome.keeps_next _ _).mpr fun h => s.gougeAct_wf _ h fun o n img w => ?_
  simp [h]
theorem execGougeRestore_keeps (s : State) : Outcome.Keeps s.pk.mem (execGougeRestore s) := by
  refine (Outcome.keeps_next _ _).mpr fun h => s.gougeAct_wf _ h fun o n img w => ?_
  simp [h]
@[simp] theorem Pack.ackPdref_mem (k : Pack) (n : Nat) : (k.ackPdref n).mem = k.mem := by
  simp [Pack.ackPdref]
@[simp] theorem Pack.wakeChannel_wf (k : Pack) (n : Nat) (h : k.mem.wf = true) : (k.wakeChannel n).mem.wf = true := by
  unfold Pack.wakeChannel
  simp only
  (repeat' split) <;> simp [h]
theorem execParkDone_keeps (s : State) : Outcome.Keeps s.pk.mem (execParkDone s) := by
  refine (Outcome.keeps_next _ _).mpr fun h => ?_
  extract_lets
  split
  · exact h
  · simp only [State.updPk_pk, Pack.setChan_mem, Pack.closeRows_mem]
    exact Pack.foldl_wf _ (fun _ _ hj => Pack.foldl_wf _ (fun _ _ hi => Pack.segWrite_wf _ _ _ hi) _ _ hj) _ _ h
theorem execPowerDownRequest_keeps (s : State) : Outcome.Keeps s.pk.mem (execPowerDownRequest s) :=
  (Outcome.keeps_next _ _).mpr fun h => Pack.wakeChannel_wf _ _ (by simp [h])
theorem execActiveRequest_keeps (s : State) : Outcome.Keeps s.pk.mem (execActiveRequest s) :=
  (Outcome.keeps_next _ _).mpr fun h => Pack.wakeChannel_wf _ _ (by simp [h])
@[simp] theorem Pack.gougePeriod_mem (k : Pack) : k.gougePeriod.mem = k.mem := by
  refine Pack.foldl_mem _ _ _ fun j e => ?_
  simp

/-! ### The matrix unit -/

@[simp] theorem State.enqueue_mem (s : State) (e : MEntry) (cls : BitVec 8) (tile : Option Nat) (write : Bool) (rs : List NamedRec) :
    (s.enqueue e cls tile write rs).pk.mem = s.pk.mem := by
  simp [State.enqueue]
@[simp] theorem State.mma_keeps (s : State) (zero : Bool) (kind m : Nat) (d a b : BitVec 5) : Res.Keeps s.pk.mem (s.mma zero kind m d a b) := by
  simp [State.mma]
@[simp] theorem State.putTile_mem (s : State) (d : Nat) (t : Tile) : (s.putTile d t).pk.mem = s.pk.mem := by rfl
@[simp] theorem State.updSide_mem (s : State) (n : Nat) (f : Ctx → Ctx) : (s.updSide n f).pk.mem = s.pk.mem := by
  simp [State.updSide]
@[simp] theorem State.startMatrix_mem (s : State) : (s.startMatrix).pk.mem = s.pk.mem := by
  unfold State.startMatrix
  (repeat' split) <;> simp
@[simp] theorem State.startDrain_mem (s : State) : (s.startDrain).pk.mem = s.pk.mem := by
  simp [State.startDrain]
@[simp] theorem State.tickMatrix_mem (s : State) : (s.tickMatrix).pk.mem = s.pk.mem := by rfl
@[simp] theorem State.clearBoard_mem (s : State) (id : Nat) (write : Bool) : (s.clearBoard id write).pk.mem = s.pk.mem := by rfl
@[simp] theorem State.endMatrix_mem (s : State) : (s.endMatrix).pk.mem = s.pk.mem := by
  unfold State.endMatrix
  (repeat' split) <;> simp
@[simp] theorem State.storeTile_wf (s : State) (e : MEntry) (h : s.pk.mem.wf = true) : (s.storeTile e).pk.mem.wf = true :=
  Pack.foldl_wf _ (fun _ _ hj => Stores.wf_write _ _ _ _ hj) _ _ h
@[simp] theorem State.completeMatrix_wf (s : State) (h : s.pk.mem.wf = true) : (s.completeMatrix).pk.mem.wf = true := by
  unfold State.completeMatrix
  simp only
  (repeat' split) <;> simp [h]
theorem execMatrixCompletion_keeps (s : State) : Outcome.Keeps s.pk.mem (execMatrixCompletion s) :=
  (Outcome.keeps_next _ _).mpr s.completeMatrix_wf

/-! ### Stream queues -/

@[simp] theorem State.updQ_mem (s : State) (q : BitVec 5) (f : StreamQ → StreamQ) : (s.updQ q f).pk.mem = s.pk.mem := by rfl
@[simp] theorem Pack.stillStream_mem (k : Pack) (ctx q : Nat) : (k.stillStream ctx q).mem = k.mem := by rfl
@[simp] theorem Res.keeps_streamFault (m : Stores) (s : State) (cause : Nat) (q : BitVec 5) (addr : Word) :
    Res.Keeps m (s.streamFault cause q addr) :=
  Res.keeps_error m _
theorem execSpat_keeps (d a : BitVec 5) (s : State) : Outcome.Keeps s.pk.mem (execSpat d a s) := by
  refine (Outcome.keeps_deliver _ _ _).mpr ⟨?_, by simp⟩
  simp only [Res.keeps_ite, Res.keeps_bind]
  refine ⟨by simp, fun _ => ⟨?_, fun _ => ?_⟩⟩
  · simp [State.streamFault, failWith]
  · intros
    split
    · simp
    · simp
@[simp] theorem State.popStream_keeps (s : State) (isVec : Bool) (q : BitVec 5) (k : Nat) (dst : List Word → QVal → Wr) :
    Res.Keeps s.pk.mem (s.popStream isVec q k dst) := by
  unfold State.popStream
  extract_lets u
  split
  · simp
  · split
    · simp
    · split
      · simp
      · split
        · simp
        · simp
        · simp only [Res.keeps_bind]
          intro t ht
          have hk := s.landNow_keeps (dst _ _) k t ht
          split <;> simpa using hk
theorem execStreamElement_keeps (s : State) : Outcome.Keeps s.pk.mem (execStreamElement s) := by
  unfold execStreamElement
  extract_lets cn qn age again
  have ha (t : State) : (again t).pk.mem = t.pk.mem := rfl
  split
  · exact ⟨s, rfl, id⟩
  next c _ =>
    extract_lets u
    split
    · exact ⟨s, rfl, id⟩
    next p _ =>
      extract_lets last go
      have hg (f : StreamQ → StreamQ) (t : State) : (go f t).pk.mem = t.pk.mem := by simp [go]
      (repeat' split) <;> simp [ha, hg]

end Sys2Proof.Machine
end

-- ================================================================
-- Proofs, scope: The scheduler keeps the form
-- ================================================================

section
namespace Sys2Proof.Machine
open Sys2Proof

/-! ### The scheduler -/

@[simp] theorem Pack.passHead_mem (k : Pack) (n : Nat) : (k.passHead n).mem = k.mem := by rfl
@[simp] theorem Pack.logRefused_mem (k : Pack) (n : Nat) (w : List Word) (code : Nat) : (k.logRefused n w code).mem = k.mem := by
  simp [Pack.logRefused]
@[simp] theorem Pack.refuse_wf (k : Pack) (n : Nat) (w : List Word) (code : Nat) (h : k.mem.wf = true) : (k.refuse n w code).mem.wf = true := by
  simp [Pack.refuse, h]
@[simp] theorem Pack.heads_wf (k : Pack) (ns : List Nat) (h : k.mem.wf = true) : (k.heads ns).1.mem.wf = true := by
  induction ns generalizing k with
  | nil => exact h
  | cons n ns ih =>
    rw [Pack.heads]
    simp only
    (repeat' split) <;> simp [h, ih]
@[simp] theorem State.seatContexts_mem (s : State) (x : Launch) (t : Seat) : (s.seatContexts x t).pk.mem = s.pk.mem := by
  simp [State.seatContexts]
@[simp] theorem Pack.zeroGroups_wf (k : Pack) (bgm p : Nat) (h : k.mem.wf = true) : (k.zeroGroups bgm p).mem.wf = true :=
  Pack.foldl_wf _ (fun _ _ hj => Stores.wf_clearSpad _ _ _ hj) _ _ h
theorem execContextStart_keeps (s : State) : Outcome.Keeps s.pk.mem (execContextStart s) := by
  refine (Outcome.keeps_next _ _).mpr fun h => ?_
  split <;> simp [h]
@[simp] theorem State.admitKernel_wf (s : State) (c : Cand) (ko roles : List Word) (seats : List Seat) (h : s.pk.mem.wf = true) :
    (s.admitKernel c ko roles seats).pk.mem.wf = true := by
  unfold State.admitKernel
  extract_lets k l k1 s1
  have h1 : s1.pk.mem.wf = true := State.foldl_wf _ _ _ (fun t x ht => Pack.zeroGroups_wf _ _ _ (by simp [ht])) h
  simp [h1]
@[simp] theorem State.admitWs_mem (s : State) (c : Cand) (src : Range) (len : Nat) : (s.admitWs c src len).pk.mem = s.pk.mem := by
  simp [State.admitWs]
@[simp] theorem State.resumeLaunch_mem (s : State) (id : Nat) (seats : List Seat) : (s.resumeLaunch id seats).pk.mem = s.pk.mem := by
  unfold State.resumeLaunch
  split <;> simp
theorem State.place_wf {s t : State} {c : Cand} (h : s.pk.mem.wf = true) (ht : s.place c = some t) : t.pk.mem.wf = true := by
  unfold State.place at ht
  split at ht
  · cases ht
    simp [h]
  · split at ht
    · cases ht
    · cases ht
      simp [h]
  · obtain ⟨seats, -, rfl⟩ := Option.map_eq_some_iff.mp ht
    split <;> simp [h]
@[simp] theorem State.requestYield_mem (s : State) (l : Launch) : (s.requestYield l).pk.mem = s.pk.mem := by
  simp [State.requestYield]
theorem State.preempt_mem {s t : State} {c : Cand} (ht : s.preempt c = some t) : t.pk.mem = s.pk.mem := by
  unfold State.preempt at ht
  split at ht
  · simp only at ht
    split at ht
    · cases ht
    · split at ht
      · cases ht
      · cases ht
        simp only [State.foldl_mem, State.requestYield_mem, Pack.updSched_mem, implies_true]
        exact Pack.foldl_mem _ _ _ fun _ _ => rfl
  · cases ht
@[simp] theorem State.walk_wf (s : State) (all cs : List Cand) (h : s.pk.mem.wf = true) : (s.walk all cs).pk.mem.wf = true := by
  induction cs generalizing s with
  | nil => exact h
  | cons c cs ih =>
    rw [State.walk]
    split
    · exact ih _ h
    · split
      next t ht => exact ih _ (State.place_wf h ht)
      · split
        next t ht =>
          split at ht
          · cases ht
          · exact ih _ (by rw [State.preempt_mem ht]; exact h)
        · exact h
@[simp] theorem Pack.ageOne_mem (k : Pack) (period : Nat) (before : Nat → Nat) (c : Cand) : (k.ageOne period before c).mem = k.mem := by
  simp [Pack.ageOne]
@[simp] theorem Pack.takeRamps_mem (k : Pack) (step : Nat → Nat) : (k.takeRamps step).mem = k.mem := by
  unfold Pack.takeRamps
  simp only
  split
  · rfl
  · refine Pack.foldl_mem _ _ _ fun j p => ?_
    (repeat' split) <;> rfl
theorem execRampDwell_keeps (s : State) : Outcome.Keeps s.pk.mem (execRampDwell s) := by
  refine (Outcome.keeps_next _ _).mpr fun h => ?_
  simp only
  (repeat' split) <;> simp [h]
theorem execSchedulingRound_keeps (s : State) : Outcome.Keeps s.pk.mem (execSchedulingRound s) := by
  unfold execSchedulingRound
  extract_lets s1 alive s2 r cands before t period
  refine (Outcome.keeps_next _ _).mpr fun h => ?_
  have h2 : s2.pk.mem.wf = true := by simp [s2, s1, h]
  have ht : t.pk.mem.wf = true := State.walk_wf _ _ _ (Pack.heads_wf _ _ h2)
  simp [ht]
@[simp] theorem Pack.serviceAgain_mem (k : Pack) : (k.serviceAgain).mem = k.mem := by
  simp [Pack.serviceAgain]
theorem execWsLoadDone_keeps (s : State) : Outcome.Keeps s.pk.mem (execWsLoadDone s) := by
  refine (Outcome.keeps_next _ _).mpr fun h => ?_
  split
  · exact h
  next l _ =>
    split
    · simp [h]
    · extract_lets src base len k1 bs bad k2 k3 k4 k5 k6 k7
      have h1 : k1.mem.wf = true := by simp [k1, h]
      have h2 : k2.mem.wf = true := by simp [k2, h1]
      have h3 : k3.mem.wf = true := Pack.didRead_wf _ _ _ h2
      have h7 : k7.mem.wf = true := Stores.wf_write _ _ _ _ h3
      simp [h7]
@[simp] theorem State.leaveSeat_mem (s : State) (id : Nat) (t : Seat) : (s.leaveSeat id t).pk.mem = s.pk.mem := by
  simp [State.leaveSeat]
@[simp] theorem Pack.endSides_mem (k : Pack) (id : Nat) (t : Seat) (f : Nat → Bool) : (k.endSides id t f).mem = k.mem := by rfl
@[simp] theorem State.noteEnds_mem (s : State) (l : Launch) : (s.noteEnds l).pk.mem = s.pk.mem := by
  simp [State.noteEnds]
theorem execLaunchRetire_keeps (s : State) : Outcome.Keeps s.pk.mem (execLaunchRetire s) := by
  unfold execLaunchRetire
  extract_lets a
  split
  · exact (Outcome.keeps_next _ _).mpr fun h => Pack.finishRecord_wf _ _ _ _ _ _ h
  · refine (Outcome.keeps_next _ _).mpr fun h => ?_
    split
    · exact h
    · split
      · exact h
      · extract_lets s1 s2 go keep used s3 s4 e k
        have h2 : s2.pk.mem.wf = true := by simp [s2, s1, h]
        have h4 : s4.pk.mem.wf = true := by simp [s4, s3, h2]
        (repeat' split) <;> simp [s1, h, h4, k]
theorem execEnrgUpdate_keeps (s : State) : Outcome.Keeps s.pk.mem (execEnrgUpdate s) := by
  unfold execEnrgUpdate
  extract_lets up grow
  refine (Outcome.keeps_next _ _).mpr fun h => ?_
  refine Pack.foldl_wf _ (fun j x hj => ?_) _ _ (by simpa using h)
  (repeat' split) <;> simp [hj]

end Sys2Proof.Machine
end

-- ================================================================
-- Proofs, scope: The fabric keeps the form
-- ================================================================

section
namespace Sys2Proof.Machine
open Sys2Proof

/-! ### The fabric -/

theorem execRemoteQuery_keeps (s : State) : Outcome.Keeps s.pk.mem (execRemoteQuery s) := by
  refine (Outcome.keeps_next _ _).mpr fun h => ?_
  simp only [State.updPk_pk]
  (repeat' split) <;> simp [h]
theorem execQueryHoldExpiry_keeps (s : State) : Outcome.Keeps s.pk.mem (execQueryHoldExpiry s) := by
  refine (Outcome.keeps_next _ _).mpr fun h => ?_
  split <;> simp [h]
@[simp] theorem Pack.watch_mem (k : Pack) (d stamp : Nat) : (k.watch d stamp).mem = k.mem := by rfl
@[simp] theorem Pack.stepTime_mem (k : Pack) (d : Nat) : (k.stepTime d).mem = k.mem := by
  unfold Pack.stepTime
  split
  · rfl
  · extract_lets c0 b k1 shift periodic moved b2 k2
    have h2 : k2.mem = k.mem := by
      simp only [k2]
      exact Pack.foldl_mem _ _ _ fun _ _ => rfl
    rw [← h2]
    refine Pack.foldl_mem _ _ _ fun j e => ?_
    (repeat' split) <;> rfl
@[simp] theorem Pack.joinDomain_mem (k : Pack) (t : Nat) : (k.joinDomain t).mem = k.mem := by
  simp [Pack.joinDomain]
theorem execRemoteErrorTimeout_keeps (s : State) : Outcome.Keeps s.pk.mem (execRemoteErrorTimeout s) := by
  refine (Outcome.keeps_next _ _).mpr fun h => ?_
  (repeat' split) <;> simp [h]
@[simp] theorem Pack.collNews_mem (k : Pack) (o : Op) (what : CollNews) : (k.collNews o what).mem = k.mem := by
  unfold Pack.collNews
  split <;> simp
@[simp] theorem Pack.collOver_mem (k : Pack) (o : Op) : (k.collOver o).mem = k.mem := by
  unfold Pack.collOver
  split <;> rfl
@[simp] theorem State.failColl_wf (s : State) (o : Op) (h : s.pk.mem.wf = true) : (s.failColl o).pk.mem.wf = true := by
  unfold State.failColl
  split
  · extract_lets far own w b k1 k2
    have h2 : k2.mem.wf = true := by
      simp only [k2]
      split
      · exact k1.piecesWrite_wf _ _ _ _ h
      · exact h
    exact State.failOpState_wf _ _ (by simp [h2])
  · exact s.failOpState_wf o h
@[simp] theorem State.portDown_wf (s : State) (p : Nat) (h : s.pk.mem.wf = true) : (s.portDown p).pk.mem.wf = true := by
  unfold State.portDown
  extract_lets many away on loads cut hit t
  refine State.foldl_wf _ _ t (fun u o hu => ?_) h
  split <;> simp [hu]
theorem execFlitRetry_keeps (s : State) : Outcome.Keeps s.pk.mem (execFlitRetry s) := by
  refine (Outcome.keeps_next _ _).mpr fun h => ?_
  simp [h]
/-- A step that acts on the package alone keeps the form when its action does. -/
theorem Outcome.keeps_updPk (s : State) (f : Pack → Pack) (hf : s.pk.mem.wf = true → (f s.pk).mem.wf = true) :
    Outcome.Keeps s.pk.mem (done (s.updPk f)) := ⟨_, rfl, hf⟩
theorem execRouteEnable_keeps (s : State) : Outcome.Keeps s.pk.mem (execRouteEnable s) := by
  unfold execRouteEnable
  extract_lets t v off n rank
  refine Outcome.keeps_updPk s _ fun h => ?_
  extract_lets cur k1 f k2 ids ok k3 g
  have h1 : k1.mem = s.pk.mem := Pack.ioWr_mem ..
  have h2 : k2.mem = s.pk.mem := Pack.ioWr_mem ..
  have h3 : k3.mem = k2.mem := Pack.ioWr_mem ..
  clear_value k3 g k1 f
  split
  · split <;> (rw [h1]; exact h)
  · split
    · rw [h2]; exact h
    · split <;> (rw [h3, h2]; exact h)
@[simp] theorem State.collCmd_keeps (s : State) (ct idx : Nat) (kind : OpKind) : Res.Keeps s.pk.mem (s.collCmd ct idx kind) := by
  simp [State.collCmd]
@[simp] theorem Pack.tellRoute_mem (k : Pack) (id : Nat) : (k.tellRoute id).mem = k.mem := by
  unfold Pack.tellRoute
  split
  · split
    · simp
    · rfl
  · rfl
theorem execColl_keeps (s : State) : Outcome.Keeps s.pk.mem (execColl s) := by
  refine (Outcome.keeps_deliver _ _ _).mpr ⟨?_, by simp⟩
  extract_lets c t opc ctl n z far i go
  have hgo (u : Unit) : Res.Keeps s.pk.mem (go u) := by
    simp only [go, Res.keeps_bind]
    intro a _ b _ _ _ x hx
    have hk := s.collCmd_keeps _ _ _ x hx
    simpa using hk
  rw [Res.keeps_ite]
  exact ⟨fun _ => by simp [hgo], fun _ => hgo ()⟩
@[simp] theorem State.collWrite_wf (s : State) (o : Op) (ps : List Piece) (bs : List Byte) (h : s.pk.mem.wf = true) :
    (s.collWrite o ps bs).pk.mem.wf = true := by
  unfold State.collWrite
  split
  next c src dst rank devs _ =>
    have hw := s.pk.piecesWrite_wf (dst.as 6).via 0 ps bs h
    split
    next he =>
      rw [he] at hw
      simpa [Written.pack] using hw
    next he =>
      rw [he] at hw
      exact s.written_wf _ _ (by simpa [Written.pack] using hw)
    next he =>
      rw [he] at hw
      exact s.written_wf _ _ (by simpa [Written.pack] using hw)
  · exact h
@[simp] theorem State.collFinish_wf (s : State) (o : Op) (bs : List Byte) (h : s.pk.mem.wf = true) :
    (s.collFinish o bs).pk.mem.wf = true := by
  unfold State.collFinish
  (repeat' split) <;> simp [h]
@[simp] theorem Pack.collSend_mem (k : Pack) (o : Op) (norm : Bool) (f : Nat → List Byte) : (k.collSend o norm f).mem = k.mem := by
  unfold Pack.collSend
  split <;> simp
@[simp] theorem State.collStart_wf (s : State) (o : Op) (h : s.pk.mem.wf = true) : (s.collStart o).pk.mem.wf = true := by
  unfold State.collStart
  split
  · extract_lets n o1 s1 bs o2 s2
    have h1 : s1.pk.mem.wf = true := by simp [s1, h]
    have h2 : s2.pk.mem.wf = true := by simp [s2, h1]
    (repeat' split) <;> simp [h, h1, h2]
  · exact h
@[simp] theorem State.collNow_wf (s : State) (o : Op) (bs : List Byte) (h : s.pk.mem.wf = true) : (s.collNow o bs).pk.mem.wf = true := by
  unfold State.collNow
  (repeat' split) <;> simp [h]
@[simp] theorem State.peerCommand_wf (s : State) (t r : Nat) (c : Word) (h : s.pk.mem.wf = true) : (s.peerCommand t r c).pk.mem.wf = true := by
  unfold State.peerCommand
  simp only
  (repeat' split) <;> simp [h]
@[simp] theorem State.peerNews_wf (s : State) (a : EventArg) (h : s.pk.mem.wf = true) : (s.peerNews a).pk.mem.wf = true := by
  unfold State.peerNews
  simp only
  (repeat' split) <;> simp [h]
@[simp] theorem State.collReady_wf (s : State) (o : Op) (h : s.pk.mem.wf = true) : (s.collReady o).pk.mem.wf = true := by
  unfold State.collReady
  (repeat' split) <;> simp [h]
theorem execCollPerformed_keeps (s : State) : Outcome.Keeps s.pk.mem (execCollPerformed s) := by
  unfold execCollPerformed
  extract_lets a again dev
  refine (Outcome.keeps_next _ _).mpr fun h => ?_
  have ha (t : State) : (again t).pk.mem = t.pk.mem := rfl
  split
  · (repeat' split) <;> simp [h]
  · split
    · split
      · split
        · simp [h]
        · split
          · exact s.onOp_wf _ _ h (fun o => s.collReady_wf o h) fun _ _ _ _ _ => s.failColl_wf _ h
          · (repeat' split) <;> simp [h, ha]
      · exact h
    · exact h

/-! ### Embedding reads -/

@[simp] theorem Pack.embrRead_wf (k : Pack) (r : Range) (h : k.mem.wf = true) : (k.embrRead r).mem.wf = true := by
  simp [Pack.embrRead, h]
@[simp] theorem State.embrAway_wf (s : State) (o : Op) (stage : Nat) (f : Pack → Pack) (h : s.pk.mem.wf = true)
    (hf : ∀ k : Pack, k.mem.wf = true → (f k).mem.wf = true) : (s.embrAway o stage f).pk.mem.wf = true := by
  unfold State.embrAway
  split
  · simp [h]
  · exact hf _ h
@[simp] theorem State.embrNext_mem (s : State) (o : Op) : (s.embrNext o).pk.mem = s.pk.mem := by rfl
@[simp] theorem State.embrUpdate_wf (s : State) (o : Op) (src dst : Range) (h : s.pk.mem.wf = true) :
    (s.embrUpdate o src dst).pk.mem.wf = true := by
  unfold State.embrUpdate
  extract_lets k x j
  have hj : j.mem.wf = true := by simp [j, k, h]
  have hs := j.settle_wf { dst.via with ms := true } dst.pieces hj
  split
  · exact s.failOpState_wf o h
  · split
    · exact State.embrAway_wf _ _ _ _ hj fun k hk => by simp [hk]
    · split
      next he => exact State.failOpState_wf _ _ (by simpa using hs)
      next he => simpa [Written.pack] using Pack.rowAdd_wf _ _ _ _ hs _ he
      · simp [k, h]
      next he => exact State.failOpState_wf _ _ (Pack.rowAdd_wf _ _ _ _ hs _ he)
@[simp] theorem State.embrAt_wf (s : State) (o : Op) (c : Word) (list target : Handle) (h : s.pk.mem.wf = true) :
    (s.embrAt o c list target).pk.mem.wf = true := by
  unfold State.embrAt
  extract_lets failAt
  have hfail (t : State) (r : Range) (e : Nat × Nat) (ht : t.pk.mem.wf = true) : (failAt t r e).pk.mem.wf = true :=
    State.failOpState_wf _ _ (by simp [ht])
  split
  next lr src dst _ =>
    split
    · exact s.embrAway_wf _ _ _ h fun k hk => k.embrRead_wf _ hk
    · split
      · exact hfail _ _ _ h
      · split
        · exact s.failOpState_wf _ h
        · extract_lets s1 o1
          have h1 : s1.pk.mem.wf = true := by simp [s1, h]
          split
          · split
            · exact s1.embrAway_wf _ _ _ h1 fun k hk => k.embrRead_wf _ hk
            · (repeat' split) <;> simp [h1, hfail]
          · exact s1.failOpState_wf _ h1
  · exact s.failOpState_wf _ h
theorem execEmbrEntry_keeps (s : State) : Outcome.Keeps s.pk.mem (execEmbrEntry s) := by
  refine (Outcome.keeps_next _ _).mpr fun h => s.onOp_badCommand_wf _ h fun o => ?_
  split
  · extract_lets o1 s1 s2 far
    have h2 : s2.pk.mem.wf = true := by simp [s2, s1, h]
    (repeat' split) <;> simp [h2]
  · exact h
theorem execHostMemAccess_keeps (s : State) : Outcome.Keeps s.pk.mem (execHostMemAccess s) := by
  refine (Outcome.keeps_next _ _).mpr fun h => ?_
  simp only [State.updPk_pk]
  split
  · split <;> exact h
  · split
    · exact h
    · split
      next he => exact Pack.servedLater_wf _ _ _ _ _ _ h he
      · (repeat' split) <;> simp [h]

end Sys2Proof.Machine
end

-- ================================================================
-- Proofs, scope: The host's registers keep the form
-- ================================================================

section
namespace Sys2Proof.Machine
open Sys2Proof

/-! ### The host's registers -/

theorem execCstail_keeps (s : State) : Outcome.Keeps s.pk.mem (execCstail s) := by
  refine (Outcome.keeps_next _ _).mpr fun h => ?_
  simp [-Pack.ioWr_mem, h]
theorem execCsctlEn_keeps (s : State) : Outcome.Keeps s.pk.mem (execCsctlEn s) :=
  Outcome.keeps_updPk s _ fun h => by simpa [-Pack.ioWr_mem] using h
theorem execCsstatErrClear_keeps (s : State) : Outcome.Keeps s.pk.mem (execCsstatErrClear s) :=
  Outcome.keeps_updPk s _ fun h => by simpa [-Pack.ioWr_mem] using h
@[simp] theorem Pack.setBsstat_mem (k : Pack) (status : Nat) : (k.setBsstat status).mem = k.mem := Pack.mem_ioWr ..
@[simp] theorem Pack.bsBegin_mem (k : Pack) : k.bsBegin.mem = k.mem := Pack.mem_ioWr ..
theorem execUnmap_keeps (s : State) : Outcome.Keeps s.pk.mem (execUnmap s) := by
  unfold execUnmap
  extract_lets k table idx k1
  have h1 : k1.mem = s.pk.mem := by simp [-Pack.ioWr_mem, -Pack.schedule_mem, k1, k]
  refine (Outcome.keeps_next _ _).mpr fun h => ?_
  split
  · exact h
  · split
    · simp [-Pack.ioWr_mem, -Pack.schedule_mem, h]
    · split <;> simp [-Pack.ioWr_mem, -Pack.schedule_mem, h, h1]
theorem execMigrate_keeps (s : State) : Outcome.Keeps s.pk.mem (execMigrate s) := by
  unfold execMigrate
  extract_lets k table idx cgb base e new clash refuse
  have hr (c : Nat) : (refuse c).pk.mem = s.pk.mem := Pack.setBsstat_mem ..
  refine (Outcome.keeps_next _ _).mpr fun h => ?_
  clear_value clash refuse new e base
  split
  · exact h
  · split
    · rw [hr]; exact h
    · split
      · rw [hr]; exact h
      · split
        · rw [hr]; exact h
        · simp [-Pack.ioWr_mem, -Pack.schedule_mem, k, h]
@[simp] theorem Pack.releasePin_mem (k : Pack) (w : PinWin) (st : Nat) : (k.releasePin w st).mem = k.mem := Pack.mem_ioWr ..
@[simp] theorem Pack.spoil_mem (k : Pack) (a : Nat) : (k.spoil a).mem = k.mem := by
  unfold Pack.spoil
  simp only
  (repeat' split) <;> simp
@[simp] theorem Pack.vacate_wf (k : Pack) (lines : List Nat) (h : k.mem.wf = true) : (k.vacate lines).mem.wf = true := by
  unfold Pack.vacate
  extract_lets k1 k2
  have h1 : k1.mem.wf = true := Pack.foldl_wf _ (fun j l hj => by simp [hj]) _ _ h
  have h2 : k2.mem.wf = true := by simp [k2, h1]
  exact (congrArg Stores.wf (Pack.foldl_mem (fun k l => k.dropLine l) _ k2 fun _ _ => rfl)).trans h2
@[simp] theorem Pack.moveReads_mem (pqs : List (Piece × Piece)) (k : Pack) (bs : List Byte) (bad : List Nat) :
    (Pack.moveReads pqs k bs bad).1.mem = k.mem := by
  fun_induction Pack.moveReads with
  | case1 => rfl
  | case2 => rfl
  | case3 _ _ _ _ _ _ _ _ ih => simpa using ih
@[simp] theorem Pack.moveWrites_wf (via : Via) (qs : List Piece) (k : Pack) (bs : List Byte) (n : Nat) (h : k.mem.wf = true) :
    (Pack.moveWrites via qs k bs n).1.mem.wf = true := by
  fun_induction Pack.moveWrites with
  | case1 => exact h
  | case2 => exact h
  | case3 _ _ _ _ _ _ ih => exact ih (by simp [h])
@[simp] theorem Pack.moveOn_wf (k : Pack) (b : BufService) (src dst : Range) (h : k.mem.wf = true) :
    (k.moveOn b src dst).1.mem.wf = true := by
  unfold Pack.moveOn
  extract_lets r w k1
  have hw : w.1.mem.wf = true := Pack.moveWrites_wf _ _ _ _ _ (by simp [r, h])
  split
  · simp [r, h]
  · simp [k1, hw]
theorem execBufferServiceResume_keeps (s : State) : Outcome.Keeps s.pk.mem (execBufferServiceResume s) := by
  refine (Outcome.keeps_next _ _).mpr fun h => ?_
  split
  · exact h
  next b _ =>
    split
    · exact h
    · extract_lets e old later k1 k2 at_ finish new m
      have hl (k : Pack) (b : BufService) (hk : k.mem.wf = true) : (later k b).pk.mem.wf = true := hk
      have hf (k : Pack) (hk : k.mem.wf = true) : (finish k).pk.mem.wf = true := by simp [finish, hk]
      have h1 : k1.mem.wf = true := Pack.foldl_wf _ (fun j l hj => by simp [hj]) _ _ h
      have h2 : k2.mem.wf = true := by simp [k2, h1]
      have hm : m.1.mem.wf = true := k2.moveOn_wf _ _ _ h2
      split
      · exact hl _ _ h1
      · split
        · split
          · exact hl _ _ hm
          · exact hf _ (by simp [hm])
        · exact hf _ (by simp [h2])
@[simp] theorem Pack.setPin_mem (k : Pack) (w : PinWin) : (k.setPin w).mem = k.mem := by rfl
theorem execPinEnable_keeps (s : State) : Outcome.Keeps s.pk.mem (execPinEnable s) := by
  unfold execPinEnable
  extract_lets k die win off v dpa len
  refine (Outcome.keeps_next _ _).mpr fun h => ?_
  clear_value off
  split
  · exact h
  · split
    · simp [-Pack.ioWr_mem, h]
    · split <;> simp [-Pack.ioWr_mem, h]
@[simp] theorem Pack.pinFill_wf (k : Pack) (l : Nat) (h : k.mem.wf = true) : (k.pinFill l).mem.wf = true := by
  simp [Pack.pinFill, h]
theorem execPinLoadDone_keeps (s : State) : Outcome.Keeps s.pk.mem (execPinLoadDone s) := by
  unfold execPinLoadDone
  extract_lets w
  refine (Outcome.keeps_next _ _).mpr fun h => ?_
  split
  · exact h
  · rw [State.updPk_pk]
    extract_lets k1 k2 k3
    have h1 : k1.mem.wf = true := Pack.foldl_wf _ (fun _ _ hj => Pack.pinFill_wf _ _ hj) _ _ h
    have h2 : k2.mem.wf = true := Pack.foldl_wf _ (fun j l hj => by split <;> simp [hj]) _ _ h1
    split
    · exact h1
    · split <;> simp [k3, h2]
theorem execPinRelease_keeps (s : State) : Outcome.Keeps s.pk.mem (execPinRelease s) := by
  simp [execPinRelease]
theorem execPinFade_keeps (s : State) : Outcome.Keeps s.pk.mem (execPinFade s) := by
  simp [execPinFade]
theorem execAbsh_keeps (s : State) : Outcome.Keeps s.pk.mem (execAbsh s) := by
  unfold execAbsh
  extract_lets off port cur v v1
  refine (Outcome.keeps_next _ _).mpr fun h => ?_
  split
  · exact h
  · split <;> (simp only [State.updPk_pk]; rw [Pack.ioWr_mem]; exact h)
theorem execBudgetPeriod_keeps (s : State) : Outcome.Keeps s.pk.mem (execBudgetPeriod s) := by
  refine Outcome.keeps_updPk s _ fun h => ?_
  extract_lets shares j
  have hj : j.mem = s.pk.mem := Pack.foldl_mem _ _ _ fun _ _ => Pack.mem_ioWr ..
  simp [hj, h]

end Sys2Proof.Machine
end

-- ================================================================
-- Proofs, scope: Saves and restores keep the form
-- ================================================================

section
namespace Sys2Proof.Machine
open Sys2Proof

/-! ### Saves and restores -/

@[simp] theorem Pack.remark_mem (k : Pack) (l : Launch) (lcl slot p : Nat) : (k.remark l lcl slot p).mem = k.mem := by rfl
@[simp] theorem Pack.rehome_mem (k : Pack) (id a b : Nat) : (k.rehome id a b).mem = k.mem := by rfl
/-- A run of writes keeps the form. -/
theorem Stores.foldl_wf {α : Type} (f : Stores → α → Stores) (hf : ∀ m a, m.wf = true → (f m a).wf = true) (l : List α) (m : Stores)
    (h : m.wf = true) : (l.foldl f m).wf = true := by
  induction l generalizing m with
  | nil => exact h
  | cons a l ih => exact ih _ (hf m a h)
@[simp] theorem Pack.keepSpad_wf (k : Pack) (bgm p slot : Nat) (h : k.mem.wf = true) : (k.keepSpad bgm p slot).mem.wf = true :=
  Stores.foldl_wf _ (fun _ _ hm => Stores.wf_write _ _ _ _ hm) _ _ h
@[simp] theorem Pack.dropSpad_wf (k : Pack) (slot : Nat) (h : k.mem.wf = true) : (k.dropSpad slot).mem.wf = true :=
  Stores.wf_clearSpad _ _ _ h
@[simp] theorem State.finishSave_wf (s : State) (l : Launch) (t : Seat) (h : s.pk.mem.wf = true) : (s.finishSave l t).pk.mem.wf = true := by
  unfold State.finishSave
  extract_lets ctr r slot b k0 k1 k2 k3 k4 s1
  have h1 : k1.mem.wf = true := Pack.dpaWrite_wf _ _ _ h
  have h2 : k2.mem.wf = true := by simp [k2, h1]
  have h3 : k3.mem = k2.mem := by simp [k3]
  have h4 : s1.pk.mem.wf = true := by simp [s1, k4, h3, h2]
  simp [h4]
theorem execContextSaveDone_keeps (s : State) : Outcome.Keeps s.pk.mem (execContextSaveDone s) := by
  refine (Outcome.keeps_next _ _).mpr fun h => ?_
  split
  · exact h
  · split
    · exact h
    · simp only
      (repeat' split) <;> simp [h]
@[simp] theorem Pack.restoreRange_wf (k : Pack) (a d n : Nat) (h : k.mem.wf = true) : (k.restoreRange a d n).mem.wf = true := by
  simp [Pack.restoreRange, Stores.wf_write, h]
@[simp] theorem Pack.restoreSpad_wf (k : Pack) (slot bgm p : Nat) (h : k.mem.wf = true) : (k.restoreSpad slot bgm p).mem.wf = true :=
  Pack.foldl_wf _ (fun _ _ hj => Pack.restoreRange_wf _ _ _ _ hj) _ _
    (Pack.foldl_wf _ (fun _ _ hj => Stores.wf_write _ _ _ _ hj) _ _ h)
@[simp] theorem State.placeContext_mem (s : State) (x : Launch) (t : Seat) (base role : Nat) (c : Ctx) :
    (s.placeContext x t base role c).pk.mem = s.pk.mem := by
  simp [State.placeContext]
@[simp] theorem Pack.renumber_mem (k : Pack) (x : Launch) : (k.renumber x).mem = k.mem := by rfl
theorem execContextRestore_keeps (s : State) : Outcome.Keeps s.pk.mem (execContextRestore s) := by
  refine (Outcome.keeps_next _ _).mpr fun h => ?_
  split
  · exact h
  next l _ =>
    extract_lets s1 s2
    have h2 : s2.pk.mem.wf = true := by
      refine State.foldl_wf _ _ _ (fun t x ht => ?_) h
      simp only
      split
      · exact ht
      · rw [State.foldl_mem _ _ _ fun _ _ => State.placeContext_mem _ _ _ _ _ _]
        refine Pack.dropSpad_wf _ _ ?_
        simp only [Pack.rehome_mem, Pack.remark_mem]
        exact Pack.restoreSpad_wf _ _ _ _ (Pack.foldl_wf _ (fun _ _ hj => Pack.saveThrough_wf _ _ hj) _ _ ht)
    simp [h2]
theorem execContextRelease_keeps (s : State) : Outcome.Keeps s.pk.mem (execContextRelease s) := by
  refine (Outcome.keeps_next _ _).mpr fun h => ?_
  (repeat' split) <;> simp [h]

end Sys2Proof.Machine
end

-- ================================================================
-- Proofs, scope: Veneer keeps the form
-- ================================================================

section
namespace Sys2Proof.Machine
open Sys2Proof

/-! ### Veneer: units, slots -/

@[simp] theorem Pack.writeUnit_wf (k : Pack) (g s rank : Nat) (bs : List Byte) (h : k.mem.wf = true) :
    (k.writeUnit g s rank bs).mem.wf = true := by
  refine Pack.foldl_wf _ (fun j i hj => ?_) _ _ h
  split
  · exact j.bankWrite_wf _ _ _ hj
  · exact hj
@[simp] theorem Pack.chargeUnit_mem (k : Pack) (g s rank : Nat) : (k.chargeUnit g s rank).mem = k.mem := by
  refine Pack.foldl_mem _ _ _ fun j i => ?_
  split <;> simp
@[simp] theorem Pack.sendJoin_mem (k : Pack) (g r : Nat) (ask : Bool) : (k.sendJoin g r ask).mem = k.mem := by rfl
@[simp] theorem Pack.pinRebuild_mem (k : Pack) (g : Nat) : (k.pinRebuild g).mem = k.mem := by
  unfold Pack.pinRebuild
  simp only [Pack.mem_setSlot]
  rw [Pack.foldl_mem]
  intro j w
  simp
@[simp] theorem Pack.unpinRebuild_mem (k : Pack) (g : Nat) : (k.unpinRebuild g).mem = k.mem := by
  simp [Pack.unpinRebuild]
@[simp] theorem Pack.openRound_mem (k : Pack) (g n : Nat) : (k.openRound g n).mem = k.mem := by
  simp [Pack.openRound]
@[simp] theorem Pack.passRounds_mem (k : Pack) (g m : Nat) : (k.passRounds g m).mem = k.mem := by
  induction m generalizing k with
  | zero => rfl
  | succ m ih => simp [Pack.passRounds, ih]
@[simp] theorem Pack.failRounds_mem (k : Pack) (g L : Nat) : (k.failRounds g L).mem = k.mem := by
  unfold Pack.failRounds
  rw [Pack.foldl_mem]
  intro j o
  exact Pack.failOp_mem ..
@[simp] theorem Pack.slotOff_mem (k : Pack) (g : Nat) : (k.slotOff g).mem = k.mem := by
  simp [-Pack.ioWr_mem, -Pack.setSlot_mem, Pack.slotOff]
@[simp] theorem Pack.zeroArea_wf (k : Pack) (a : Area) (h : k.mem.wf = true) : (k.zeroArea a).mem.wf = true :=
  Pack.foldl_wf _ (fun _ _ hj => Stores.wf_clearDram _ _ _ hj) _ _ h
@[simp] theorem Pack.freeHeld_mem (k : Pack) (g : Nat) : (k.freeHeld g).mem = k.mem := by
  simp [Pack.freeHeld]
@[simp] theorem Pack.loseSlot_mem (k : Pack) (g : Nat) : (k.loseSlot g).mem = k.mem := by
  simp [Pack.loseSlot]

/-! ### Veneer: entries owed, rounds -/

@[simp] theorem Pack.xorEntry_wf (k : Pack) (g cell reg : Nat) (e : LogEntry) (h : k.mem.wf = true) : (k.xorEntry g cell reg e).mem.wf = true := by
  unfold Pack.xorEntry
  split <;> simp [h]
@[simp] theorem Pack.payEntries_wf (k : Pack) (g : Nat) (h : k.mem.wf = true) : (k.payEntries g).mem.wf = true := by
  refine Pack.foldl_wf _ (fun j e hj => ?_) _ _ h
  split
  · split <;> simp [hj]
  · simp [hj]
@[simp] theorem Pack.sendShares_mem (k : Pack) (g fuel : Nat) : (k.sendShares g fuel).mem = k.mem := by
  induction fuel generalizing k with
  | zero => rfl
  | succ fuel ih =>
    rw [Pack.sendShares]
    (repeat' split) <;> simp [ih]
@[simp] theorem Pack.beginRebuild_mem (k : Pack) (g : Nat) : (k.beginRebuild g).mem = k.mem := by
  simp [Pack.beginRebuild]
@[simp] theorem Pack.decide_mem (k : Pack) (g : Nat) : (k.decide_ g).mem = k.mem := by
  simp [Pack.decide_]
@[simp] theorem Pack.checkRolled_mem (k : Pack) (g : Nat) : (k.checkRolled g).mem = k.mem := by
  simp [Pack.checkRolled]
@[simp] theorem Pack.payOwed_wf (k : Pack) (g : Nat) (h : k.mem.wf = true) : (k.payOwed g).mem.wf = true := by
  have hp := k.payEntries_wf g h
  simp [Pack.payOwed, hp]
@[simp] theorem Pack.commitRound_wf (k : Pack) (g n : Nat) (h : k.mem.wf = true) : (k.commitRound g n).mem.wf = true := by
  simp [Pack.commitRound, h]
@[simp] theorem Pack.tryCommit_wf (k : Pack) (g n : Nat) (h : k.mem.wf = true) : (k.tryCommit g n).mem.wf = true := by
  have hc := k.commitRound_wf g n h
  simp [Pack.tryCommit, h, hc]
@[simp] theorem Pack.checkPrepared_wf (k : Pack) (g n : Nat) (h : k.mem.wf = true) : (k.checkPrepared g n).mem.wf = true := by
  unfold Pack.checkPrepared
  simp only
  (repeat' split) <;> simp [h]
@[simp] theorem Pack.sealRound_wf (k : Pack) (g : Nat) (n : Int) (h : k.mem.wf = true) : (k.sealRound g n).mem.wf = true := by
  unfold Pack.sealRound
  simp only
  (repeat' split) <;> simp [h]
@[simp] theorem State.vreadOp_keeps (s : State) (which : Nat) (d : BitVec 5) (slot k : Nat) : Res.Keeps s.pk.mem (s.vreadOp which d slot k) := by
  simp [State.vreadOp]
theorem execVprep_keeps (s : State) : Outcome.Keeps s.pk.mem (execVprep s) := by
  simp [execVprep]
theorem execPrepared_keeps (s : State) : Outcome.Keeps s.pk.mem (execPrepared s) := by
  refine (Outcome.keeps_next _ _).mpr fun h => ?_
  split
  · refine s.onOp_wf _ _ h (fun o => ?_) fun _ _ _ _ _ => by simp [h]
    split <;> simp [h]
  · simp [h]
theorem execCommit_keeps (s : State) : Outcome.Keeps s.pk.mem (execCommit s) := by
  refine (Outcome.keeps_next _ _).mpr fun h => ?_
  split <;> simp [h]
theorem execCommitted_keeps (s : State) : Outcome.Keeps s.pk.mem (execCommitted s) := by
  refine (Outcome.keeps_next _ _).mpr fun h => ?_
  split <;> simp [h]
theorem execDeltaAcknowledgement_keeps (s : State) : Outcome.Keeps s.pk.mem (execDeltaAcknowledgement s) :=
  Outcome.keeps_updPk s _ fun h => by simp [h]
theorem execStagingDelta_keeps (s : State) : Outcome.Keeps s.pk.mem (execStagingDelta s) := by
  refine (Outcome.keeps_next _ _).mpr fun h => ?_
  simp only
  split
  · exact h
  · split <;> simp [h]
theorem execDeltaWrite_keeps (s : State) : Outcome.Keeps s.pk.mem (execDeltaWrite s) :=
  (Outcome.keeps_next _ _).mpr fun h => s.onOp_badCommand_wf _ h fun o => State.serveStore_wf o s h
theorem execDeltaLogRelease_keeps (s : State) : Outcome.Keeps s.pk.mem (execDeltaLogRelease s) := by
  unfold execDeltaLogRelease
  split
  · split
    · exact execCopyPerformed_keeps s
    · exact execWldsComplete_keeps s
    · exact execHomeAtomic_keeps s
    · exact execDeltaWrite_keeps s
  · exact ⟨s, rfl, id⟩

/-! ### Veneer: resolve, joining, rebuild -/

@[simp] theorem Pack.applyLevel_wf (k : Pack) (g L hi : Nat) (h : k.mem.wf = true) : (k.applyLevel g L hi).mem.wf = true := by
  unfold Pack.applyLevel
  extract_lets k1 k2 k3
  have h1 : k1.mem.wf = true := by simp [k1, h]
  have h3 : k3.mem.wf = true := by simp [k3, k2, h1]
  simp [h3]
@[simp] theorem Pack.checkReports_wf (k : Pack) (g : Nat) (h : k.mem.wf = true) : (k.checkReports g).mem.wf = true := by
  unfold Pack.checkReports
  simp only
  split
  · exact h
  · refine Pack.applyLevel_wf _ _ _ _ ?_
    rw [Pack.foldl_mem]
    · exact h
    · intro j r
      simp
@[simp] theorem Pack.beginResolve_wf (k : Pack) (g : Nat) (h : k.mem.wf = true) : (k.beginResolve g).mem.wf = true := by
  simp [Pack.beginResolve, h]
@[simp] theorem Pack.slotFailure_wf (k : Pack) (g d : Nat) (h : k.mem.wf = true) : (k.slotFailure g d).mem.wf = true := by
  unfold Pack.slotFailure
  simp only
  (repeat' split) <;> simp [h]
theorem execDeviceFailed_keeps (s : State) : Outcome.Keeps s.pk.mem (execDeviceFailed s) := by
  unfold execDeviceFailed
  extract_lets d late off s1 others s2 s3 s4
  refine (Outcome.keeps_next _ _).mpr fun h => ?_
  split
  · exact h
  · have h1 : s1.pk.mem = s.pk.mem := Pack.mem_ioWr ..
    have h2 : s2.pk.mem = s1.pk.mem := by simp [s2]
    have h3 : s3.pk.mem.wf = true := by
      refine State.foldl_wf _ _ _ (fun t o ht => t.failColl_wf o ht) ?_
      rw [h2, h1]
      exact h
    have h4 : s4.pk.mem = s3.pk.mem := 
      State.foldl_mem _ _ _ fun _ _ => by rw [State.updPk_pk, Pack.mem_schedule]
    refine Pack.foldl_wf _ (fun j g hj => j.slotFailure_wf _ _ hj) _ _ ?_
    rw [h4]
    exact h3
theorem execResolveVglcrReport_keeps (s : State) : Outcome.Keeps s.pk.mem (execResolveVglcrReport s) := by
  refine (Outcome.keeps_next _ _).mpr fun h => ?_
  split
  · exact h
  · simp [h]
theorem execRolledback_keeps (s : State) : Outcome.Keeps s.pk.mem (execRolledback s) := by
  refine Outcome.keeps_updPk s _ fun h => ?_
  simp [h]
@[simp] theorem Pack.checkJoined_wf (k : Pack) (g : Nat) (h : k.mem.wf = true) : (k.checkJoined g).mem.wf = true := by
  unfold Pack.checkJoined
  extract_lets v areas k1 k2
  split
  · exact h
  · have h1 : k1.mem.wf = true := Pack.foldl_wf _ (fun j a hj => j.zeroArea_wf a hj) _ _ h
    have h2 : k2.mem.wf = true := by simp [k2, h1]
    split
    · exact h2
    · exact k2.beginResolve_wf g h2
theorem execVeneerEnable_keeps (s : State) : Outcome.Keeps s.pk.mem (execVeneerEnable s) := by
  unfold execVeneerEnable
  extract_lets g v
  refine (Outcome.keeps_next _ _).mpr fun h => ?_
  split
  · exact h
  · rw [State.updPk_pk]
    extract_lets k1 m rs k2 k3 k4
    have h1 : k1.mem = s.pk.mem := Pack.mem_ioWr ..
    have h3 : k3.mem = k1.mem := by simp [-Pack.ioWr_mem, -Pack.setSlot_mem, k3, k2]
    have h4 : k4.mem.wf = true := by simp [-Pack.ioWr_mem, -Pack.setSlot_mem, k4, h3, h1, h]
    split
    · rw [h1]
      exact h
    · split
      · simp [-Pack.ioWr_mem, -Pack.setSlot_mem, h1, h]
      · exact k4.checkJoined_wf g h4
theorem execGroupJoinDone_keeps (s : State) : Outcome.Keeps s.pk.mem (execGroupJoinDone s) := by
  unfold execGroupJoinDone
  extract_lets a g r v off same
  have ho (k : Pack) : (off k).mem = k.mem := by simp [-Pack.ioWr_mem, -Pack.setSlot_mem, off]
  refine (Outcome.keeps_next _ _).mpr fun h => ?_
  split
  · exact h
  · rw [State.updPk_pk]
    extract_lets k1
    have h1 : k1.mem = s.pk.mem := by simp [-Pack.ioWr_mem, -Pack.setSlot_mem, k1]
    (repeat' split) <;> simp [-Pack.ioWr_mem, -Pack.setSlot_mem, ho, h1, h]
theorem execStandbyUpdate_keeps (s : State) : Outcome.Keeps s.pk.mem (execStandbyUpdate s) := by
  simp [execStandbyUpdate]
theorem execVeneerDissolve_keeps (s : State) : Outcome.Keeps s.pk.mem (execVeneerDissolve s) := by
  simp [execVeneerDissolve]
@[simp] theorem Pack.rebuildDone_wf (k : Pack) (g : Nat) (h : k.mem.wf = true) : (k.rebuildDone g).mem.wf = true := by
  unfold Pack.rebuildDone
  extract_lets v n r sb at_ ws k1 k2 k3 k4 k5 k6 k7
  have h1 : k1.mem.wf = true := by simp [-Pack.ioWr_mem, -Pack.setSlot_mem, k1, h]
  have h2 : k2.mem.wf = true := by simp [-Pack.ioWr_mem, -Pack.setSlot_mem, k2, h1]
  have h4 : k4.mem.wf = true := by simp [-Pack.ioWr_mem, -Pack.setSlot_mem, k4, k3, h2]
  have h6 : k6.mem = k4.mem := by
    simp only [k6, k5]
    rw [Pack.foldl_mem _ _ _ fun _ _ => Pack.completeOp_mem _ _ _, Pack.foldl_mem _ _ _ fun _ _ => Pack.openRound_mem _ _ _]
  have h7 : k7.mem.wf = true := by simp [-Pack.ioWr_mem, -Pack.setSlot_mem, k7, h6, h4]
  split <;> simp [-Pack.ioWr_mem, -Pack.setSlot_mem, h7]
@[simp] theorem Pack.decodeStripes_wf (k : Pack) (g fuel : Nat) (h : k.mem.wf = true) : (k.decodeStripes g fuel).mem.wf = true := by
  induction fuel generalizing k with
  | zero => exact h
  | succ fuel ih =>
    rw [Pack.decodeStripes]
    simp only
    split
    · exact h
    · split
      · exact h
      · exact ih _ (by simp [h])
@[simp] theorem Pack.shareRound_wf (k : Pack) (g : Nat) (h : k.mem.wf = true) : (k.shareRound g).mem.wf = true := by
  have hd := k.decodeStripes_wf g (k.slot g).shares.length h
  unfold Pack.shareRound
  simp only
  (repeat' split) <;> simp [h, hd]
theorem execResolveDecision_keeps (s : State) : Outcome.Keeps s.pk.mem (execResolveDecision s) := by
  unfold execResolveDecision
  extract_lets a g v dead
  refine Outcome.keeps_updPk s _ fun h => ?_
  extract_lets k1 k2
  have h2 : k2.mem = s.pk.mem := by simp [k2, k1]
  (repeat' split) <;> simp [h2, h]
theorem execRebuildShare_keeps (s : State) : Outcome.Keeps s.pk.mem (execRebuildShare s) := by
  refine (Outcome.keeps_next _ _).mpr fun h => ?_
  (repeat' split) <;> simp [h]

end Sys2Proof.Machine
end

-- ================================================================
-- Proofs, scope: The service core keeps the form
-- ================================================================

section
namespace Sys2Proof.Machine
open Sys2Proof

/-! ### The service core -/

@[simp] theorem Pack.channelWrite_mem (k : Pack) (off : Nat) (v : Word) : (k.channelWrite off v).mem = k.mem := by
  simp [Pack.channelWrite]
@[simp] theorem Pack.newlyWatched_mem (k was : Pack) (t : Nat) : (k.newlyWatched was t).mem = k.mem := by
  simp [Pack.newlyWatched]
theorem execRegisterWrite_keeps (s : State) : Outcome.Keeps s.pk.mem (execRegisterWrite s) := by
  unfold execRegisterWrite
  extract_lets off v c
  refine (Outcome.keeps_next _ _).mpr fun h => ?_
  split
  · (repeat' split) <;> simp [h]
  · split
    · simp [h]
    · split
      · split <;> simp [h]
      · rw [State.updPk_pk]
        extract_lets cur new k1
        have h1 : k1.mem = s.pk.mem := by simp [k1]
        split <;> simp [h1, h]
@[simp] theorem Pack.setFwst_mem (k : Pack) (x : Nat) : (k.setFwst x).mem = k.mem := Pack.mem_ioWr ..
theorem execFirmwareLoad_keeps (s : State) : Outcome.Keeps s.pk.mem (execFirmwareLoad s) := by
  refine (Outcome.keeps_next _ _).mpr fun h => ?_
  split <;> simp [-Pack.ioWr_mem, -Pack.schedule_mem, h]
theorem execFirmwareVerifyDone_keeps (s : State) : Outcome.Keeps s.pk.mem (execFirmwareVerifyDone s) := by
  refine (Outcome.keeps_next _ _).mpr fun h => ?_
  split
  · exact h
  · rw [State.updPk_pk]
    extract_lets r k1 v k2 w k3
    have h1 : k1.mem = s.pk.mem := Pack.setFwst_mem ..
    have h2 : k2.mem = s.pk.mem := h1
    have h3 : k3.mem = k2.mem := Pack.mem_ioWr ..
    split
    · rw [h2]
      exact h
    · split
      · exact (congrArg Stores.wf h2).trans h
      · exact (congrArg Stores.wf (h3.trans h2)).trans h
theorem execFullServiceEntry_keeps (s : State) : Outcome.Keeps s.pk.mem (execFullServiceEntry s) := by
  refine (Outcome.keeps_next _ _).mpr fun h => ?_
  split
  · exact h
  · rw [State.updPk_pk]
    extract_lets v k1 k2 w f
    have h2 : k2.mem = k1.mem := Pack.mem_ioWr ..
    split
    · exact h
    · rw [Pack.roundNow_mem]
      exact (congrArg Stores.wf h2).trans h
@[simp] theorem Pack.setAtcmd_mem (k : Pack) (busy : Bool) (status : Nat) : (k.setAtcmd busy status).mem = k.mem := Pack.mem_ioWr ..
theorem execAttestationRequest_keeps (s : State) : Outcome.Keeps s.pk.mem (execAttestationRequest s) := by
  refine (Outcome.keeps_next _ _).mpr fun h => ?_
  split <;> simp [h]
/-- The report's lines are written one after the other. -/
theorem Pack.attestWrites_wf (ps : List Piece) (x : Pack × List Byte) (h : x.1.mem.wf = true) :
    (ps.foldl (fun (x : Pack × List Byte) p => (x.1.dpaWrite p.addr (x.2.take p.len), x.2.drop p.len)) x).1.mem.wf = true := by
  induction ps generalizing x with
  | nil => exact h
  | cons p ps ih => exact ih _ (Pack.dpaWrite_wf _ _ _ h)
theorem execAttestationDone_keeps (s : State) : Outcome.Keeps s.pk.mem (execAttestationDone s) := by
  refine (Outcome.keeps_next _ _).mpr fun h => ?_
  split
  · exact h
  · rw [State.updPk_pk, Pack.setAtcmd_mem]
    exact Pack.attestWrites_wf _ _ h
@[simp] theorem Pack.dumpLines_wf (k : Pack) (d fuel : Nat) (bs : List Byte) (h : k.mem.wf = true) :
    (k.dumpLines d fuel bs).1.mem.wf = true := by
  induction fuel generalizing k d bs with
  | zero => exact h
  | succ fuel ih =>
    have hw := k.pieceWrite_wf {} ⟨.dram, dpaCell d, min 128 bs.length⟩ (bs.take 128) h
    rw [Pack.dumpLines]
    split
    · exact h
    · split
      next he =>
        rw [he] at hw
        exact ih _ _ _ hw
      · exact hw
theorem execFatalError_keeps (s : State) : Outcome.Keeps s.pk.mem (execFatalError s) := by
  unfold execFatalError
  extract_lets t d
  refine (Outcome.keeps_next _ _).mpr fun h => ?_
  rw [State.updPk_pk]
  extract_lets r k1 k2
  have hr : r.1.mem.wf = true := Pack.dumpLines_wf _ _ _ _ h
  have h1 : k1.mem.wf = true := by
    simp only [k1]
    split
    · exact Pack.pieceWrite_wf _ _ _ _ hr
    · exact hr
  simp [-Pack.ioWr_mem, k2, h1]
theorem execPartReset_keeps (s : State) : Outcome.Keeps s.pk.mem (execPartReset s) := by
  refine (Outcome.keeps_next _ _).mpr fun h => ?_
  split <;> simp [h]

end Sys2Proof.Machine
end

-- ================================================================
-- Proofs, scope: The Spindle keeps the form
-- ================================================================

section
namespace Sys2Proof.Machine
open Sys2Proof

/-! ### The Spindle -/

@[simp] theorem State.updSpin_mem (s : State) (f : Spindle → Spindle) : (s.updSpin f).pk.mem = s.pk.mem := by rfl
@[simp] theorem State.writeFrame_mem (s : State) (h : Handle) (bytes : List Byte) : (s.writeFrame h bytes).pk.mem = s.pk.mem := by
  simp [State.writeFrame]
@[simp] theorem State.closeFrame_mem (s : State) : (s.closeFrame).pk.mem = s.pk.mem := by
  simp [State.closeFrame]
@[simp] theorem State.nextFrame_mem (s : State) : (s.nextFrame).pk.mem = s.pk.mem := by
  simp [State.nextFrame]
@[simp] theorem State.placePieces_mem (s : State) (tail fuel : Nat) (first : Bool) (body : List Byte) :
    (s.placePieces tail fuel first body).pk.mem = s.pk.mem := by
  induction fuel generalizing s first body with
  | zero => rfl
  | succ fuel ih =>
    rw [State.placePieces]
    simp [ih]
@[simp] theorem State.placeValue_mem (s : State) (site an : Nat) (vec : Bool) (v : List Byte) :
    (s.placeValue site an vec v).pk.mem = s.pk.mem := by
  simp [State.placeValue]
@[simp] theorem State.encodeValue_mem (s : State) (site : BitVec 8) (vec : Bool) (v : List Byte) :
    (s.encodeValue site vec v).pk.mem = s.pk.mem := by
  unfold State.encodeValue
  simp only
  (repeat' split) <;> simp
@[simp] theorem State.logRead_mem (s : State) (r : Range) (u : Nat × Nat) : (s.logRead r u).pk.mem = s.pk.mem := by
  simp [State.logRead]
@[simp] theorem State.chain_mem (s : State) (h : Handle) (n : Nat) : (s.chain h n).pk.mem = s.pk.mem := by
  simp [State.chain]
/-- The state that reading a chain entry leaves, whether it is good or not. -/
def chainEnd : Except (FaultRec × State) (State × Handle × Nat) → State
  | .ok e => e.1
  | .error e => e.2
theorem State.chainEntry_wf (s : State) (site : Nat) (h : s.pk.mem.wf = true) : (chainEnd (s.chainEntry site)).pk.mem.wf = true := by
  unfold State.chainEntry
  simp only
  split
  · exact h
  · split
    · exact h
    · split
      · exact h
      · split
        · simpa [chainEnd] using h
        · split <;> simp [chainEnd, h]
@[simp] theorem State.room_wf (s : State) (need site fuel : Nat) (h : s.pk.mem.wf = true) : (s.room need site fuel).1.pk.mem.wf = true := by
  induction fuel generalizing s with
  | zero => exact h
  | succ fuel ih =>
    have hc := s.chainEntry_wf site h
    rw [State.room]
    split
    · exact h
    · split
      next he =>
        rw [he] at hc
        exact hc
      next he =>
        rw [he] at hc
        exact ih _ ((congrArg Stores.wf (State.chain_mem ..)).trans hc)
/-- A fault is delivered on the state met: it keeps the form when that state does. -/
theorem Outcome.keeps_fault (m : Stores) (s : State) (r : FaultRec) (h : m.wf = true → s.pk.mem.wf = true) :
    Outcome.Keeps m (deliver s (failWith r)) :=
  (Outcome.keeps_deliver _ _ _).mpr ⟨Res.keeps_failWith _ _, fun _ _ => h⟩
/-- Writing records once there is room for them keeps the form. -/
theorem State.withRoom_keeps (s : State) (need site : Nat) (f : State → State) (hf : ∀ t, (f t).pk.mem = t.pk.mem) :
    Outcome.Keeps s.pk.mem (s.withRoom need site f) := by
  have hr := s.room_wf need site 257
  unfold State.withRoom
  split
  next he =>
    rw [he] at hr
    exact Outcome.keeps_fault _ _ _ hr
  next he =>
    rw [he] at hr
    simpa [hf] using hr
theorem State.needMode_keeps (s : State) (m : TapeMode) (site : Nat) (f : Unit → Host.Outcome State Fault Refusal)
    (hf : Outcome.Keeps s.pk.mem (f ())) : Outcome.Keeps s.pk.mem (s.needMode m site f) := by
  unfold State.needMode
  split
  · exact hf
  · simp
theorem execTbegin_keeps (a b : BitVec 5) (s : State) : Outcome.Keeps s.pk.mem (execTbegin a b s) := by
  refine s.needMode_keeps _ _ _ ?_
  simp
theorem execTrec_keeps (t : BitVec 8) (r : BitVec 5) (k : BitVec 2) (s : State) : Outcome.Keeps s.pk.mem (execTrec t r k s) := by
  refine s.needMode_keeps _ _ _ ?_
  split
  · exact s.withRoom_keeps _ _ _ fun u => u.encodeValue_mem _ _ _
  · exact s.withRoom_keeps _ _ _ fun u => u.encodeValue_mem _ _ _
theorem execTrecp_keeps (t : BitVec 8) (r : BitVec 5) (s : State) : Outcome.Keeps s.pk.mem (execTrecp t r s) :=
  s.needMode_keeps _ _ _ (s.withRoom_keeps _ _ _ fun _ => State.placePieces_mem _ _ _ _ _)
@[simp] theorem State.seal_mem (s : State) : (s.seal).2.pk.mem = s.pk.mem := by
  simp [State.seal]
theorem execTend_keeps (d : BitVec 5) (s : State) : Outcome.Keeps s.pk.mem (execTend d s) := by
  unfold execTend
  split
  · simp
  · simp
  · exact s.withRoom_keeps _ _ _ fun u => u.seal_mem
theorem execTrev_keeps (a b : BitVec 5) (s : State) : Outcome.Keeps s.pk.mem (execTrev a b s) := by
  unfold execTrev
  refine s.needMode_keeps _ _ _ ?_
  split
  · simp
  · split
    · simp
    · simp
    · split
      · simp
      · simp only
        split <;> simp +contextual
@[simp] theorem State.logWalk_mem (s : State) (e : TapeErr) : (s.logWalk e).pk.mem = s.pk.mem := by
  unfold State.logWalk
  split <;> simp

/-! ### The backward walk: it reads, and its package stays in form -/

/-- The package that a walk ends with, at an error or where `f` says. -/
def walkEnd {α : Type} (f : α → Pack) : Except (TapeErr × Pack) α → Pack
  | .ok x => f x
  | .error e => e.2
theorem State.walkFrame_wf (s : State) (w : Walk) (inside : Bool) (h : w.pk.mem.wf = true) :
    (walkEnd Walk.pk (s.walkFrame w inside)).mem.wf = true := by
  unfold State.walkFrame
  simp only
  (repeat' split) <;> simp [walkEnd, h]
theorem State.walkToPiece_wf (s : State) (inside : Bool) (fuel : Nat) (w : Walk) (h : w.pk.mem.wf = true) :
    (walkEnd Walk.pk (s.walkToPiece inside fuel w)).mem.wf = true := by
  induction fuel generalizing w with
  | zero => exact h
  | succ fuel ih =>
    have hf := s.walkFrame_wf w inside h
    rw [State.walkToPiece]
    split
    · exact h
    · split
      next he =>
        rw [he] at hf
        exact ih _ hf
      next he =>
        rw [he] at hf
        exact hf
theorem State.walkPiece_wf (s : State) (inside : Bool) (w : Walk) (h : w.pk.mem.wf = true) :
    (walkEnd (fun x => x.2.2.pk) (s.walkPiece inside w)).mem.wf = true := by
  have hw := s.walkToPiece_wf inside (2 ^ 24) w h
  unfold State.walkPiece
  split
  next he =>
    rw [he] at hw
    exact hw
  next he =>
    rw [he] at hw
    simp only
    split
    · exact hw
    · split <;> exact hw
theorem State.walkRest_wf (s : State) (tl : Tail) (fuel : Nat) (body : List Byte) (w : Walk) (h : w.pk.mem.wf = true) :
    (walkEnd (fun x => x.2.pk) (s.walkRest tl fuel body w)).mem.wf = true := by
  induction fuel generalizing body w with
  | zero => exact h
  | succ fuel ih =>
    have hw := s.walkPiece_wf true w h
    rw [State.walkRest]
    split
    next he =>
      rw [he] at hw
      exact hw
    next he =>
      rw [he] at hw
      split
      · exact hw
      · split
        · exact hw
        · exact ih _ _ hw
theorem State.walkRecord_wf (s : State) (w : Walk) (h : w.pk.mem.wf = true) :
    (walkEnd (fun x => x.2.2.pk) (s.walkRecord w)).mem.wf = true := by
  have hw := s.walkPiece_wf false w h
  unfold State.walkRecord
  split
  next he =>
    rw [he] at hw
    exact hw
  next tl b v he =>
    rw [he] at hw
    extract_lets whole n
    have hv : (walkEnd (fun x => x.2.pk) whole).mem.wf = true := by
      simp only [whole]
      split
      · exact hw
      · split
        · exact s.walkRest_wf _ _ _ _ hw
        · exact hw
    clear_value whole n
    match whole with
    | .error e => exact hv
    | .ok (body, u) =>
      dsimp only
      (repeat' split) <;> exact hv
/-- Past its anchors too, the walk and what it ends with stay in form. -/
theorem State.walkPop_wf (s : State) (fuel : Nat) (w : Walk) (h : w.pk.mem.wf = true) :
    (walkEnd (fun x => x.2.2.pk) (s.walkPop fuel w).2).mem.wf = true := by
  induction fuel generalizing w with
  | zero => exact h
  | succ fuel ih =>
    have hw := s.walkRecord_wf w h
    rw [State.walkPop]
    split
    next he =>
      rw [he] at hw
      exact hw
    next he =>
      rw [he] at hw
      split
      · simp only
        split
        · exact hw
        · exact ih _ hw
      · exact hw
theorem State.pop_keeps (s : State) (site : BitVec 8) (rk reg : Nat) (wr : List Byte → Bool → Wr) :
    Outcome.Keeps s.pk.mem (s.pop site rk reg wr) := by
  have hw := s.walkPop_wf (2 ^ 24) ⟨s.pk, s.ctx.spin⟩
  unfold State.pop
  generalize s.walkPop (2 ^ 24) ⟨s.pk, s.ctx.spin⟩ = r at hw
  obtain ⟨r, e⟩ := r
  match e with
  | .error (e, k) => exact Outcome.keeps_fault _ _ _ fun h => (congrArg Stores.wf (State.logWalk_mem ..)).trans (hw h)
  | .ok (tl, v, w) =>
    dsimp only
    split
    · exact Outcome.keeps_fault _ _ _ hw
    · split
      · exact Outcome.keeps_fault _ _ _ hw
      · split
        · exact Outcome.keeps_fault _ _ _ hw
        · exact (Outcome.keeps_next _ _).mpr hw
theorem execTpop_keeps (t : BitVec 8) (r : BitVec 5) (k : BitVec 2) (s : State) : Outcome.Keeps s.pk.mem (execTpop t r k s) := by
  refine s.needMode_keeps _ _ _ ?_
  split <;> exact s.pop_keeps _ _ _ _
theorem execTpopp_keeps (t : BitVec 8) (r : BitVec 5) (s : State) : Outcome.Keeps s.pk.mem (execTpopp t r s) :=
  s.needMode_keeps _ _ _ (s.pop_keeps _ _ _ _)

end Sys2Proof.Machine
end

-- ================================================================
-- Proofs, scope: Every instruction answers and keeps the form
-- ================================================================

section
namespace Sys2Proof.Machine
open Sys2Proof

/-! ### Steps with a choice to follow -/

/-- An instruction delivered on the state it starts from keeps the form when its result does. -/
theorem Outcome.keeps_self {s : State} {r : Res} (h : Res.Keeps s.pk.mem r) : Outcome.Keeps s.pk.mem (deliver s r) :=
  (Outcome.keeps_deliver _ _ _).mpr ⟨h, fun _ _ h => h⟩
theorem execHchk_keeps (d a b : BitVec 5) (c : BitVec 2) (s : State) : Outcome.Keeps s.pk.mem (execHchk d a b c s) := by
  unfold execHchk
  extract_lets i e s1
  split
  · exact (Outcome.keeps_next _ _).mpr fun h => by simp [s1, h]
  · refine Outcome.keeps_self ?_
    split
    · simp
    · simp
theorem execLoop_keeps (l : BitVec 3) (a : BitVec 5) (n : BitVec 7) (s : State) : Outcome.Keeps s.pk.mem (execLoop l a n s) := by
  simp [execLoop]
theorem execLstrd_keeps (l : BitVec 3) (a : BitVec 5) (b : BitVec 5) (s : State) : Outcome.Keeps s.pk.mem (execLstrd l a b s) := by
  simp [execLstrd]
theorem execLbrk_keeps (l : BitVec 3) (s : State) : Outcome.Keeps s.pk.mem (execLbrk l s) := by
  unfold execLbrk
  split <;> simp
theorem execPpt_keeps (r : BitVec 17) (s : State) : Outcome.Keeps s.pk.mem (execPpt r s) := by
  refine (Outcome.keeps_next _ _).mpr fun h => ?_
  split <;> simp [h]
theorem execWmrg_keeps (d a b : BitVec 5) (x : BitVec 1) (s : State) : Outcome.Keeps s.pk.mem (execWmrg d a b x s) := by
  refine Outcome.keeps_self ?_
  simp only [Res.keeps_bind]
  intros
  split <;> simp
theorem execCsrr_keeps (d : BitVec 5) (n : BitVec 7) (s : State) : Outcome.Keeps s.pk.mem (execCsrr d n s) := by
  refine Outcome.keeps_self ?_
  split <;> simp
theorem execVbcast_keeps (d a f : BitVec 5) (s : State) : Outcome.Keeps s.pk.mem (execVbcast d a f s) := by
  refine Outcome.keeps_self ?_
  split <;> simp
theorem execLdc_keeps (d a l : BitVec 5) (z : BitVec 2) (s : State) : Outcome.Keeps s.pk.mem (execLdc d a l z s) := by
  refine Outcome.keeps_self ?_
  simp only [Res.keeps_bind]
  intros
  split <;> simp
theorem execStorePerformed_keeps (s : State) : Outcome.Keeps s.pk.mem (execStorePerformed s) :=
  (Outcome.keeps_next _ _).mpr fun h => s.onOp_badCommand_wf _ h fun o => State.serveStore_wf o s h
theorem execMscRead_keeps (s : State) : Outcome.Keeps s.pk.mem (execMscRead s) :=
  (Outcome.keeps_next _ _).mpr fun h => s.onOp_badLoad_wf _ h fun o => State.serveRead_wf o s h
theorem execStateWindowAccess_keeps (s : State) : Outcome.Keeps s.pk.mem (execStateWindowAccess s) := by
  refine (Outcome.keeps_next _ _).mpr fun h => s.onOp_wf _ _ h (fun o => ?_) fun o w a b t => ?_
  · split <;> simp [h]
  · split <;> simp [h]

/-! ### All instructions and steps -/

/-- Every instruction and every step answers a next state, whose stores are in form when those of the state before are. -/
theorem exec_keeps (i : Instr) (s : State) : Outcome.Keeps s.pk.mem (exec i s) := by
  cases i with
  | add | sub | mul | mulh | mulhn | div | divn | rem | remn | and | or | xor | andn | sll | srl | sra | min | max | minn | maxn | clz
  | ctz | popc | adds | subs | sext | zext | bfx | bfi | mov | addi | muli | andi | ori | xori | slli | srli | srai | mini | maxi | li
  | lih | cmpeq | cmpne | cmplt | cmple | cmpltn | cmplen | cmpeqi | cmpnei | cmplti | cmplei | cmpgti | cmpgei | pand | por | pxor
  | pandn | pnot | pmov | pset | ptos | spred | hidx | hoff | hmov | exit | frame | nop | fence | whzn | rdts | trap | vmov | mrec
  | mrecr | sstop | sinva | idleBundle | emptyStampedBundle | nullifiedBundle | stretchEnd | halfIssueEnd | throttleStepChange
  | yieldWindowExpiry | heldSnapshotReplay =>
    exact ⟨_, rfl, id⟩
  | hmk | hadd | haddi | hseto | call | callx | launch | tlread | csrw | csrs | csrc | rett | vaddF | vsubF | vmulF | vfma | vfms
  | vfnma | vdiv | vminF | vmaxF | vabsF | vnegF | vcmpeqF | vcmpltF | vcmpleF | vcmpun | vscalb | vrint | vaddI | vsubI | vadds
  | vsubs | vmulI | vmulh | vminI | vmaxI | vcmpeqI | vcmpltI | vcmpleI | vand | vor | vxor | vnot | vsll | vsrl | vsra | vabsI | vnegI
  | cvt | qnt | dqnt | vbcastl | vperm | vrot | vsel | vrsum | vrmax | vrmin | vdot | vext | vins | vzip | vunzip | exp2 | log2 | rcp
  | rsq | sqrt | sin | cos | tanh | mpush | minv | mpop | mmaBf16 | mmaFp8 | mmaE2m1 | mmaInt8 | mmaQ8 | mmaQ4 | mmazBf16 | mmazFp8
  | mmazE2m1 | mmazInt8 | mmazQ8 | mmazQ4 | mzero | mld | mst | mrowv | mvrow | mcvt | mmov | ldl | stl | ldlv | stlv | ldlx | stlx
  | ldlw | ldlvw | ldcw | sgo | qpop | qpops | qstat | laadd | lamin | lamax | laand | laor | laxor | laswp | lacas | lafadd | lafmin
  | lafmax | wld | wldx | wlds | wsnext | ldg | stg | ldgv | stgv | ldgx | stgx | ldgw | ldgvw | ldgxw | strc | strcv | stred | copy
  | copyl | copyg | skrd | gaadd | gamin | gamax | gaand | gaor | gaxor | gaswp | gacas | gafadd | gafmin | gafmax | mscwb | mscinv
  | gtt | ggo | gsave | grestore | gstat | embr | vround | vstat =>
    exact Outcome.keeps_self (by simp)
  | b | bx | bempty | fixedLatencyWrite | landing | droopTrip | matrixOccupancyStart | matrixOccupancyEnd | selfRefreshRequest
  | queryAnswer | completionMark | domainJoin | targetCycleEnd | temperatureOrCurrentLimit | markReceived =>
    exact (Outcome.keeps_next _ _).mpr fun h => by simp [h]
  | hchk => exact execHchk_keeps _ _ _ _ s
  | ret => exact execRet_keeps s
  | loop => exact execLoop_keeps _ _ _ s
  | lstrd => exact execLstrd_keeps _ _ _ s
  | lbrk => exact execLbrk_keeps _ s
  | ppt => exact execPpt_keeps _ s
  | wmrg => exact execWmrg_keeps _ _ _ _ s
  | wwait => exact execWwait_keeps _ s
  | wtest => exact execWtest_keeps _ _ s
  | csrr => exact execCsrr_keeps _ _ s
  | tbegin => exact execTbegin_keeps _ _ s
  | trec => exact execTrec_keeps _ _ _ s
  | trecp => exact execTrecp_keeps _ _ s
  | tend => exact execTend_keeps _ s
  | trev => exact execTrev_keeps _ _ s
  | tpop => exact execTpop_keeps _ _ _ s
  | tpopp => exact execTpopp_keeps _ _ s
  | vbcast => exact execVbcast_keeps _ _ _ s
  | ldc => exact execLdc_keeps _ _ _ _ s
  | spat => exact execSpat_keeps _ _ s
  | sinv => exact execSinv_keeps _ _ s
  | pref => exact execPref_keeps _ _ _ s
  | skpat => exact execSkpat_keeps s
  | coll => exact execColl_keeps s
  | vprep => exact execVprep_keeps s
  | loadDataArrival => exact execLoadDataArrival_keeps s
  | rampDwell => exact execRampDwell_keeps s
  | enrgUpdate => exact execEnrgUpdate_keeps s
  | schedulingRound => exact execSchedulingRound_keeps s
  | contextStart => exact execContextStart_keeps s
  | wsLoadDone => exact execWsLoadDone_keeps s
  | contextSaveDone => exact execContextSaveDone_keeps s
  | contextRestore => exact execContextRestore_keeps s
  | cstail => exact execCstail_keeps s
  | csctlEn => exact execCsctlEn_keeps s
  | csstatErrClear => exact execCsstatErrClear_keeps s
  | contextRelease => exact execContextRelease_keeps s
  | launchRetire => exact execLaunchRetire_keeps s
  | coalesceExpiry => exact execCoalesceExpiry_keeps s
  | unmap => exact execUnmap_keeps s
  | migrate => exact execMigrate_keeps s
  | bufferServiceResume => exact execBufferServiceResume_keeps s
  | matrixCompletion => exact execMatrixCompletion_keeps s
  | streamElement => exact execStreamElement_keeps s
  | wldsComplete => exact execWldsComplete_keeps s
  | wsReadRelease => exact execWsReadRelease_keeps s
  | copyPerformed => exact execCopyPerformed_keeps s
  | copyFailure => exact execCopyFailure_keeps s
  | pageRequestTimeout => exact execPageRequestTimeout_keeps s
  | storePerformed => exact execStorePerformed_keeps s
  | homeAtomic => exact execHomeAtomic_keeps s
  | mscRead => exact execMscRead_keeps s
  | pinEnable => exact execPinEnable_keeps s
  | pinLoadDone => exact execPinLoadDone_keeps s
  | pinRelease => exact execPinRelease_keeps s
  | pinFade => exact execPinFade_keeps s
  | budgetPeriod => exact execBudgetPeriod_keeps s
  | absh => exact execAbsh_keeps s
  | gttLoad => exact execGttLoad_keeps s
  | ggoArm => exact execGgoArm_keeps s
  | timetableStart => exact execTimetableStart_keeps s
  | timetableEntry => exact execTimetableEntry_keeps s
  | rowPass => exact execRowPass_keeps s
  | saveModeEntry => exact execSaveModeEntry_keeps s
  | gougeRestore => exact execGougeRestore_keeps s
  | stateWindowAccess => exact execStateWindowAccess_keeps s
  | powerDownRequest => exact execPowerDownRequest_keeps s
  | activeRequest => exact execActiveRequest_keeps s
  | parkDone => exact execParkDone_keeps s
  | remoteAccess => exact execRemoteAccess_keeps s
  | remoteQuery => exact execRemoteQuery_keeps s
  | deviceFailed => exact execDeviceFailed_keeps s
  | remoteErrorTimeout => exact execRemoteErrorTimeout_keeps s
  | flitRetry => exact execFlitRetry_keeps s
  | routeEnable => exact execRouteEnable_keeps s
  | collPerformed => exact execCollPerformed_keeps s
  | embrEntry => exact execEmbrEntry_keeps s
  | hostMemAccess => exact execHostMemAccess_keeps s
  | veneerEnable => exact execVeneerEnable_keeps s
  | standbyUpdate => exact execStandbyUpdate_keeps s
  | veneerDissolve => exact execVeneerDissolve_keeps s
  | groupJoinDone => exact execGroupJoinDone_keeps s
  | deltaWrite => exact execDeltaWrite_keeps s
  | deltaLogRelease => exact execDeltaLogRelease_keeps s
  | stagingDelta => exact execStagingDelta_keeps s
  | prepared => exact execPrepared_keeps s
  | commit => exact execCommit_keeps s
  | committed => exact execCommitted_keeps s
  | rolledback => exact execRolledback_keeps s
  | resolveDecision => exact execResolveDecision_keeps s
  | rebuildShare => exact execRebuildShare_keeps s
  | deferredFault => exact execDeferredFault_keeps s
  | handlerStart => exact execHandlerStart_keeps s
  | firmwareLoad => exact execFirmwareLoad_keeps s
  | firmwareVerifyDone => exact execFirmwareVerifyDone_keeps s
  | fullServiceEntry => exact execFullServiceEntry_keeps s
  | attestationRequest => exact execAttestationRequest_keeps s
  | attestationDone => exact execAttestationDone_keeps s
  | fatalError => exact execFatalError_keeps s
  | partReset => exact execPartReset_keeps s
  | registerWrite => exact execRegisterWrite_keeps s
  | queryHoldExpiry => exact execQueryHoldExpiry_keeps s
  | deltaAcknowledgement => exact execDeltaAcknowledgement_keeps s
  | resolveVglcrReport => exact execResolveVglcrReport_keeps s

end Sys2Proof.Machine
end

-- ================================================================
-- Proofs, scope: Every step keeps the form
-- ================================================================

section
namespace Sys2Proof.Machine
open Sys2Proof

/-! ### Turns and slots -/

@[simp] theorem State.swap_mem (s : State) : s.swap.pk.mem = s.pk.mem := by rfl
@[simp] theorem State.aFirst_mem (s : State) : s.aFirst.pk.mem = s.pk.mem := by
  simp [State.aFirst]
@[simp] theorem State.passTurn_mem (s : State) : s.passTurn.pk.mem = s.pk.mem := by
  unfold State.passTurn
  split <;> simp
@[simp] theorem State.openSlot_mem (s : State) (b : Bundle) (p : Slot × BitVec 32 × SlotInstr) : (s.openSlot b p).pk.mem = s.pk.mem := by
  rfl
@[simp] theorem State.keepAsked_mem (s0 t : State) : (s0.keepAsked t).pk.mem = s0.pk.mem := by rfl
@[simp] theorem State.asStalled_mem (s0 t : State) : (s0.asStalled t).pk.mem = s0.pk.mem := by rfl
@[simp] theorem State.asFaulted_mem (s0 t : State) (r : FaultRec) : (s0.asFaulted t r).pk.mem = s0.pk.mem := by
  unfold State.asFaulted State.takeFault
  rw [State.updIss_pk, State.enterTrap_mem]
  split
  · rw [State.updPk_pk]
    exact Pack.foldl_mem _ _ _ fun _ _ => Pack.mem_ioWr ..
  · rfl
@[simp] theorem State.deferB_mem (s : State) : s.deferB.pk.mem = s.pk.mem := by
  unfold State.deferB
  split <;> rfl

/-- A frame step after an outcome keeps what the outcome keeps. -/
theorem Outcome.keeps_thenDo {m : Stores} {o : Host.Outcome State Fault Refusal} {f : State → State} (hf : ∀ t, (f t).pk.mem = t.pk.mem)
    (h : Outcome.Keeps m o) : Outcome.Keeps m (thenDo f o) := by
  obtain ⟨t, rfl, ht⟩ := h
  exact ⟨f t, rfl, fun hm => by rw [hf]; exact ht hm⟩
/-- What is kept from one state is kept from another whose stores are in form when those of the first are. -/
theorem Outcome.Keeps.of_wf {m n : Stores} {o : Host.Outcome State Fault Refusal} (h : Outcome.Keeps n o) (hw : m.wf = true → n.wf = true) :
    Outcome.Keeps m o := by
  obtain ⟨t, ht, hn⟩ := h
  exact ⟨t, ht, fun hm => hn (hw hm)⟩

/-- The slots of a bundle answer a next state, and the form is kept through all of them: through the state `t` reached so far and the
outcome `flt` of the slot that failed. -/
theorem runSlots_keeps (b : Bundle) (s0 : State) (ps : List (Slot × BitVec 32 × SlotInstr)) (t : State) (flt : Option State) (first : Bool)
    (ht : s0.pk.mem.wf = true → t.pk.mem.wf = true) (hf : ∀ u ∈ flt, s0.pk.mem.wf = true → u.pk.mem.wf = true) :
    Outcome.Keeps s0.pk.mem (runSlots b s0 t flt first ps) := by
  induction ps generalizing t flt first with
  | nil =>
    refine (Outcome.keeps_next _ _).mpr ?_
    cases flt with
    | none => exact ht
    | some u => exact hf u rfl
  | cons p ps ih =>
    unfold runSlots
    split
    · obtain ⟨u, hu, hw⟩ := exec_keeps p.2.2.i (t.openSlot b p)
      rw [hu]
      rw [State.openSlot_mem] at hw
      dsimp only
      split
      · exact (Outcome.keeps_next _ _).mpr fun h => by rw [State.asStalled_mem]; exact h
      · split
        · refine ih t _ first ht fun v hv h => ?_
          rcases Option.or_eq_some_iff.mp hv with hv | ⟨-, hv⟩
          · exact hf v hv h
          · obtain rfl := Option.some.inj hv
            split
            · exact hw (ht h)
            · rw [State.asFaulted_mem]; exact h
        · exact ih u flt false (fun h => hw (ht h)) hf
    · exact ih t flt first ht hf

/-! ### What becomes of a bundle -/

/-- A turn's state, or the outcome it goes to, has its stores in form when `m` is. -/
def Turn.Keeps (m : Stores) : Turn → Prop
  | .waits t => m.wf = true → t.pk.mem.wf = true
  | .faults _ t => m.wf = true → t.pk.mem.wf = true
  | .goes o => Outcome.Keeps m o

theorem Turn.keeps_waits {m : Stores} {t : State} (h : t.pk.mem = m) : Turn.Keeps m (.waits t) := fun hm => by rw [h]; exact hm
theorem Turn.keeps_faults {m : Stores} {r : Bool} {t : State} (h : t.pk.mem = m) : Turn.Keeps m (.faults r t) := fun hm => by
  rw [h]; exact hm

theorem State.misses_keeps (s : State) : Turn.Keeps s.pk.mem s.misses := by
  obtain ⟨t, ht, hw⟩ := exec_keeps .targetCycleEnd s
  unfold State.misses
  rw [ht]
  exact hw

theorem State.tryBundle_keeps (s : State) (b : Bundle) (st : Stamp) : Turn.Keeps s.pk.mem (s.tryBundle b st) := by
  unfold State.tryBundle
  extract_lets mine clash miss s1
  have hmiss (t : State) (ht : s.pk.mem.wf = true → t.pk.mem.wf = true) : Turn.Keeps s.pk.mem (miss t) := by
    dsimp only [miss]
    split
    · have h := t.misses_keeps
      revert h
      cases t.misses with
      | waits u => exact fun h hm => h (ht hm)
      | faults r u => exact fun h hm => h (ht hm)
      | goes o => exact fun h => Outcome.Keeps.of_wf h ht
    · exact ht
  have h1 : s1.pk.mem = s.pk.mem := State.openBundle_mem ..
  clear_value miss s1
  split
  · exact hmiss s id
  split
  · exact Turn.keeps_faults (State.enterTrap_mem ..)
  obtain ⟨t, ht, hw⟩ := runSlots_keeps b s1 b.slots s1 none true id (by simp)
  rw [h1] at hw
  rw [ht]
  dsimp only
  split
  · exact hmiss t hw
  split
  · exact hmiss _ fun h => by rw [State.deferB_mem]; exact h
  split
  · exact hw
  · refine (Outcome.keeps_next _ _).mpr fun h => ?_
    rw [State.passTurn_mem, State.updCore_pk, State.endBundle_mem]
    exact hw h

theorem State.turnOfBad_keeps (s t : State) (h : Option Header) (ht : t.pk.mem = s.pk.mem) : Turn.Keeps s.pk.mem (s.turnOfBad t h) := by
  unfold State.turnOfBad
  split
  · split
    · exact Turn.keeps_waits rfl
    split
    · exact Turn.keeps_waits s.deferB_mem
    · exact Turn.keeps_faults ht
  · extract_lets st
    split
    · exact Turn.keeps_waits rfl
    split
    · exact Turn.keeps_waits s.deferB_mem
    · exact Turn.keeps_faults ht

theorem State.turnOf_keeps (s : State) : Turn.Keeps s.pk.mem s.turnOf := by
  have pass (i : Instr) : Outcome.Keeps s.pk.mem (thenDo State.passTurn (exec i s)) :=
    Outcome.keeps_thenDo State.passTurn_mem (exec_keeps i s)
  unfold State.turnOf
  extract_lets c hw h st
  split
  · exact s.turnOfBad_keeps _ _ (by rw [State.enterTrap_mem, State.logFetch_mem])
  · split
    · exact s.turnOfBad_keeps _ _ (State.enterTrap_mem ..)
    · split
      · exact Turn.keeps_faults (State.enterTrap_mem ..)
      split
      · exact Turn.keeps_faults (State.enterTrap_mem ..)
      split
      · exact Turn.keeps_waits rfl
      split
      · split
        · exact pass .emptyStampedBundle
        split
        · exact Turn.keeps_waits rfl
        · exact pass .idleBundle
      split
      · split
        · exact pass .nullifiedBundle
        · exact exec_keeps .nullifiedBundle s
      · exact s.tryBundle_keeps _ _

theorem State.bundleTurn_keeps (s : State) : Outcome.Keeps s.pk.mem s.bundleTurn := by
  unfold State.bundleTurn
  split
  · have h : Turn.Keeps s.pk.mem s.replayTurn := State.turnOf_keeps (s.updCtx fun c => c.replayNow s.core.cyc)
    revert h
    cases s.replayTurn with
    | waits t =>
      refine fun _ => (Outcome.keeps_next _ _).mpr fun hm => ?_
      rw [State.passTurn_mem, State.updCore_pk, State.keepAsked_mem]
      exact hm
    | faults r t =>
      refine fun h => (Outcome.keeps_next _ _).mpr fun hm => ?_
      rw [State.passTurn_mem, State.updCtx_pk]
      exact h hm
    | goes o =>
      rintro ⟨t, rfl, -⟩
      dsimp only
      split
      · exact (Outcome.keeps_next _ _).mpr fun hm => by rw [State.passTurn_mem]; exact hm
      · exact exec_keeps .heldSnapshotReplay s
  · have h := s.turnOf_keeps
    revert h
    cases s.turnOf with
    | waits t => exact fun h => (Outcome.keeps_next _ _).mpr fun hm => by rw [State.passTurn_mem]; exact h hm
    | faults r t => exact fun h => (Outcome.keeps_next _ _).mpr fun hm => by rw [State.passTurn_mem]; exact h hm
    | goes o => exact id

@[simp] theorem State.coreError_mem (s : State) : s.coreError.pk.mem = s.pk.mem := by
  unfold State.coreError
  extract_lets s1
  have h1 : s1.pk.mem = s.pk.mem := by rfl
  clear_value s1
  split
  · rw [State.freeze_mem, State.updPk_pk, Pack.logError_mem]; exact h1
  · exact h1

theorem State.contextTurn_keeps (s : State) : Outcome.Keeps s.pk.mem s.contextTurn := by
  have next (t : State) (ht : t.pk.mem = s.pk.mem) : Outcome.Keeps s.pk.mem (.next t) :=
    (Outcome.keeps_next _ _).mpr fun h => by rw [ht]; exact h
  have pass (i : Instr) : Outcome.Keeps s.pk.mem (thenDo State.passTurn (exec i s)) :=
    Outcome.keeps_thenDo State.passTurn_mem (exec_keeps i s)
  unfold State.contextTurn
  extract_lets c
  split
  · exact next _ (by simp)
  split
  · split
    · exact next _ (by simp [State.yieldHere])
    split
    · exact pass .deferredFault
    split
    · exact next _ (by simp)
    split
    · exact next _ (by simp)
    split
    · exact pass .yieldWindowExpiry
    split
    · exact next _ (by simp)
    · exact s.bundleTurn_keeps
  · split
    · exact exec_keeps .handlerStart s
    · exact next _ (by simp)
  · split
    · exact pass .yieldWindowExpiry
    split
    · exact next _ rfl
    · exact next _ (by simp)
  · exact next _ (by simp)

/-! ### One cycle, and the order of the cores -/

@[simp] theorem State.updSib_mem (s : State) (f : Ctx → Ctx) : (s.updSib f).pk.mem = s.pk.mem := by rfl
@[simp] theorem State.firstTurn_mem (s : State) : s.firstTurn.pk.mem = s.pk.mem := by
  unfold State.firstTurn
  extract_lets s1
  have h1 : s1.pk.mem = s.pk.mem := s.aFirst_mem
  clear_value s1
  split <;> exact h1

theorem State.cycleStart_keeps (s : State) : Outcome.Keeps s.pk.mem s.cycleStart := by
  have next (t : State) (ht : t.pk.mem = s.pk.mem) : Outcome.Keeps s.pk.mem (.next t) :=
    (Outcome.keeps_next _ _).mpr fun h => by rw [ht]; exact h
  unfold State.cycleStart
  extract_lets cyc
  split
  · exact next _ rfl
  split
  · exact next _ rfl
  split
  · exact exec_keeps .landing s
  split
  · exact exec_keeps _ s
  split
  · exact next _ rfl
  split
  · exact next _ rfl
  split
  · exact next _ rfl
  split
  · exact exec_keeps .throttleStepChange s
  split
  · exact exec_keeps _ s
  split
  · exact exec_keeps .landing (s.updCore fun c => { c with thaw := true })
  · exact next _ s.firstTurn_mem

theorem State.cycleEnd_keeps (s : State) : Outcome.Keeps s.pk.mem s.cycleEnd := by
  unfold State.cycleEnd
  extract_lets s1
  have h1 : s1.pk.mem = s.pk.mem := by
    rw [← s.startDrain_mem]
    exact State.tickMatrix_mem _
  clear_value s1
  rw [← h1]
  split
  · exact exec_keeps .stretchEnd s1
  split
  · exact exec_keeps .halfIssueEnd s1
  · exact (Outcome.keeps_next _ _).mpr id

@[simp] theorem State.focus_mem (s : State) (b : CoreBox) (todo past : List CoreBox) : (s.focus b todo past).pk.mem = s.pk.mem := by rfl
@[simp] theorem State.beginCycle_mem (s : State) : s.beginCycle.pk.mem = s.pk.mem := by
  unfold State.beginCycle
  extract_lets k all busy rest r
  clear_value busy r
  cases busy with
  | nil => dsimp only; split <;> rfl
  | cons b bs => rfl
@[simp] theorem State.nextCore_mem (s : State) : s.nextCore.pk.mem = s.pk.mem := by
  unfold State.nextCore
  split
  · rfl
  split
  · exact s.beginCycle_mem
  extract_lets
  split
  · split <;> rfl
  · rfl

theorem State.coreStep_keeps (s : State) : Outcome.Keeps s.pk.mem s.coreStep := by
  unfold State.coreStep
  split
  · exact s.cycleStart_keeps
  · exact s.contextTurn_keeps
  · exact s.contextTurn_keeps
  · exact s.cycleEnd_keeps
  · exact (Outcome.keeps_next _ _).mpr fun h => by rw [State.nextCore_mem]; exact h

theorem State.advance_keeps (s : State) : Outcome.Keeps s.pk.mem s.advance := by
  unfold State.advance
  split
  · split
    · exact exec_keeps _ _
    · exact s.coreStep_keeps
  · exact s.coreStep_keeps

/-- After a fatal error the machine stops, or performs one entry of the agenda (R509, log 39). -/
theorem State.afterFatal_cases (s : State) :
    s.afterFatal = .fault .fatalService ∨ Outcome.Keeps s.pk.mem s.afterFatal := by
  unfold State.afterFatal
  split
  · exact Or.inr (exec_keeps _ _)
  · exact Or.inl rfl

/-- A step that answers a next state keeps the form. -/
theorem step_keeps_wf {s t : State} (h : step s = .next t) (hs : s.pk.mem.wf = true) : t.pk.mem.wf = true := by
  have done (h : Outcome.Keeps s.pk.mem (.next t)) : t.pk.mem.wf = true := (Outcome.keeps_next _ _).mp h hs
  unfold step at h
  split at h
  · rcases s.afterFatal_cases with hf | hf
    · rw [hf] at h; cases h
    · exact done (h ▸ hf)
  · exact done (h ▸ s.advance_keeps)

end Sys2Proof.Machine

open Sys2Proof Sys2Proof.Machine

/-- Settles O5: `exec_keeps` answers a next state whatever the instruction. -/
theorem everyInstructionAnswers : Obligations.EveryInstructionAnswers := fun i s =>
  let ⟨t, h, _⟩ := exec_keeps i s
  ⟨t, h⟩

/-- Settles O3, from `exec_keeps` over the parts of a step. -/
theorem stepKeepsMemoryForm : Obligations.StepKeepsMemoryForm := fun _ _ hs h => step_keeps_wf h hs
end

-- ================================================================
-- Proofs, scope: Fields of a register
-- ================================================================

section
namespace Sys2Proof.Machine
open Sys2Proof

/-! ### Fields of a register -/

theorem bits_lt {n : Nat} (v : BitVec n) (h l : Nat) : bits v h l < 2 ^ (h + 1 - l) := Nat.mod_lt _ (Nat.two_pow_pos _)
/-- A word put together from a part above bit `h`, a field down to bit `l` and a part below it. -/
theorem joined_lt {a b c n l : Nat} (hn : n + l ≤ 64) (ha : a < 2 ^ (64 - (n + l))) (hb : b < 2 ^ n) (hc : c < 2 ^ l) :
    2 ^ l * (2 ^ n * a + b) + c < 2 ^ 64 := by
  have h1 : 2 ^ n * a + b < 2 ^ n * 2 ^ (64 - (n + l)) := by
    calc 2 ^ n * a + b < 2 ^ n * (a + 1) := by rw [Nat.mul_succ]; omega
      _ ≤ _ := Nat.mul_le_mul_left _ ha
  calc 2 ^ l * (2 ^ n * a + b) + c < 2 ^ l * (2 ^ n * a + b + 1) := by rw [Nat.mul_succ]; omega
    _ ≤ 2 ^ l * (2 ^ n * 2 ^ (64 - (n + l))) := Nat.mul_le_mul_left _ h1
    _ = 2 ^ 64 := by rw [← pow_add, ← pow_add]; congr 1; omega
/-- `setBits` replaces the field and nothing above or below it. -/
theorem setBits_toNat (v : Word) {h l n : Nat} (x : Nat) (hn : h + 1 = n + l) (hh : h < 64) :
    (setBits v h l x).toNat = 2 ^ l * (2 ^ n * (v.toNat / 2 ^ l / 2 ^ n) + x % 2 ^ n) + v.toNat % 2 ^ l := by
  have hsub : h + 1 - l = n := by omega
  have hv : v.toNat / 2 ^ l / 2 ^ n < 2 ^ (64 - (n + l)) := by
    rw [Nat.div_div_eq_div_mul, ← pow_add, Nat.div_lt_iff_lt_mul (Nat.two_pow_pos _), ← pow_add, show 64 - (n + l) + (l + n) = 64 by omega]
    exact v.isLt
  have hlt := joined_lt (n := n) (l := l) (by omega) hv (Nat.mod_lt x (Nat.two_pow_pos n)) (Nat.mod_lt v.toNat (Nat.two_pow_pos l))
  rw [setBits, bits, hsub, BitVec.toNat_ofNat, ← Nat.mod_eq_of_lt hlt]
  congr 1
  have hlow := Nat.div_add_mod v.toNat (2 ^ l)
  have hfield := Nat.div_add_mod (v.toNat / 2 ^ l) (2 ^ n)
  generalize v.toNat / 2 ^ l / 2 ^ n = a at *
  generalize v.toNat / 2 ^ l % 2 ^ n = b at *
  rw [← hfield, Nat.mul_add] at hlow
  rw [Nat.mul_add, Nat.mul_comm b, Nat.mul_comm (x % 2 ^ n)]
  omega
theorem bits_setBits_same (v : Word) {h l n : Nat} (x : Nat) (hn : h + 1 = n + l) (hh : h < 64) : bits (setBits v h l x) h l = x % 2 ^ n := by
  rw [bits, setBits_toNat v x hn hh, Nat.mul_add_div (Nat.two_pow_pos l), Nat.div_eq_of_lt (Nat.mod_lt _ (Nat.two_pow_pos l)),
    show h + 1 - l = n by omega, Nat.add_zero, Nat.mul_add_mod, Nat.mod_mod]
theorem bits_mod_two_pow (x : Nat) {n l m : Nat} (h : n + l ≤ m) : x % 2 ^ m / 2 ^ l % 2 ^ n = x / 2 ^ l % 2 ^ n := by
  obtain ⟨d, rfl⟩ : ∃ d, m = l + (n + d) := ⟨m - (n + l), by omega⟩
  rw [pow_add, Nat.mod_mul_right_div_self, pow_add, Nat.mod_mul_right_mod]
theorem bits_setBits_below (v : Word) {h l h' l' : Nat} (x : Nat) (hh : h < 64) (hl : l ≤ h) (hb : h' < l) (hl' : l' ≤ h') :
    bits (setBits v h l x) h' l' = bits v h' l' := by
  rw [bits, bits, ← bits_mod_two_pow _ (m := l) (by omega), setBits_toNat v x (n := h + 1 - l) (by omega) hh, Nat.mul_add_mod, Nat.mod_mod,
    bits_mod_two_pow _ (by omega)]
theorem bits_setBits_above (v : Word) {h l h' l' : Nat} (x : Nat) (hh : h < 64) (hl : l ≤ h) (ha : h < l') :
    bits (setBits v h l x) h' l' = bits v h' l' := by
  obtain ⟨m, rfl⟩ : ∃ m, l' = l + ((h + 1 - l) + m) := ⟨l' - (h + 1), by omega⟩
  rw [bits, bits, setBits_toNat v x (n := h + 1 - l) (by omega) hh]
  congr 1
  rw [pow_add, ← Nat.div_div_eq_div_mul, ← Nat.div_div_eq_div_mul, Nat.mul_add_div (Nat.two_pow_pos l),
    Nat.div_eq_of_lt (Nat.mod_lt _ (Nat.two_pow_pos l)), Nat.add_zero, pow_add, ← Nat.div_div_eq_div_mul, ← Nat.div_div_eq_div_mul,
    Nat.mul_add_div (Nat.two_pow_pos _), Nat.div_eq_of_lt (Nat.mod_lt _ (Nat.two_pow_pos _)), Nat.add_zero]

end Sys2Proof.Machine
end

-- ================================================================
-- Proofs, scope: Lines of the MSC and pin windows
-- ================================================================

section
namespace Sys2Proof.Machine
open Sys2Proof

/-! ### Entries replaced or added -/

/-- `w` in the place of every entry that `q` holds of, and at the end when there is none. -/
def replaceOrAdd {α : Type} (q : α → Bool) (w : α) (l : List α) : List α := if l.any q then l.map (fun y => if q y then w else y) else l ++ [w]
theorem find?_replaceOrAdd_same {α : Type} {q : α → Bool} {w : α} (l : List α) (hw : q w = true) : (replaceOrAdd q w l).find? q = some w := by
  unfold replaceOrAdd
  split
  next h =>
    rw [List.find?_map]
    have hq : q ∘ (fun y => if q y then w else y) = q := by
      funext y
      by_cases hy : q y <;> simp [hy, hw]
    rw [hq]
    obtain ⟨y, hy, hqy⟩ := List.any_eq_true.mp h
    obtain ⟨z, hz⟩ := Option.isSome_iff_exists.mp (List.find?_isSome.mpr ⟨y, hy, hqy⟩)
    simp [hz, List.find?_some hz]
  next h =>
    have hn : l.find? q = none := List.find?_eq_none.mpr fun y hy hqy => h (List.any_eq_true.mpr ⟨y, hy, hqy⟩)
    simp [List.find?_append, hn, hw]
theorem find?_replaceOrAdd_other {α : Type} {p q : α → Bool} {w : α} (l : List α) (hw : p w = false) (hpq : ∀ y, q y = true → p y = false) :
    (replaceOrAdd q w l).find? p = l.find? p := by
  unfold replaceOrAdd
  split
  · rw [List.find?_map]
    have hp : p ∘ (fun y => if q y then w else y) = p := by
      funext y
      by_cases hy : q y <;> simp [hy, hw, hpq]
    rw [hp]
    cases hf : l.find? p with
    | none => rfl
    | some y =>
      have hq : ¬ q y = true := fun hy => by simpa [hpq y hy] using List.find?_some hf
      simp [hq]
  · simp [List.find?_append, hw]

/-! ### Lines of the MSC and pin windows -/

theorem Pack.setLine_msc (k : Pack) (l : MscLine) : (k.setLine l).msc = replaceOrAdd (fun x => x.line == l.line) l k.msc := by
  simp [Pack.setLine, replaceOrAdd]
theorem Pack.mscLine_setLine (k : Pack) (l : MscLine) (x : Nat) : (k.setLine l).mscLine x = if x = l.line then some l else k.mscLine x := by
  rw [Pack.mscLine, Pack.setLine_msc]
  split
  next h => 
    rw [h]
    exact find?_replaceOrAdd_same k.msc (by simp)
  next h => exact find?_replaceOrAdd_other k.msc (by simpa using Ne.symm h) fun y hy => by simp_all [Ne.symm h]
theorem Pack.pin_die (k : Pack) (die win : Nat) : (k.pin die win).die = die ∧ (k.pin die win).win = win := by
  unfold Pack.pin
  cases h : k.pins.find? (fun w => w.die == die && w.win == win) with
  | none => exact ⟨rfl, rfl⟩
  | some w => simpa using List.find?_some h
theorem Pack.setPin_pins (k : Pack) (w : PinWin) : (k.setPin w).pins = replaceOrAdd (fun x => x.die == w.die && x.win == w.win) w k.pins := by
  simp [Pack.setPin, replaceOrAdd]
theorem Pack.pin_setPin (k : Pack) {w : PinWin} {die win : Nat} (hd : w.die = die) (hw : w.win = win) : (k.setPin w).pin die win = w := by
  subst hd hw
  rw [Pack.pin, Pack.setPin_pins, find?_replaceOrAdd_same k.pins (by simp)]
  rfl

/-- A line of a window that has loaded: pinned, and a counted one dirty (R354). -/
def MscLine.asPinned (x : MscLine) : MscLine := { x with pinned := true, rc := 0, dirty := x.dirty || x.rc != 0 }
def Pack.pinLine (k : Pack) (l : Nat) : Pack :=
  match k.mscLine l with
  | some x => k.setLine x.asPinned
  | none => k
/-- Pinning a line changes the MSC alone. -/
theorem Pack.pinLine_frame (k : Pack) (l : Nat) :
    (k.pinLine l).pins = k.pins ∧ (k.pinLine l).mem = k.mem ∧ (k.pinLine l).tick = k.tick := by
  unfold Pack.pinLine
  split <;> exact ⟨rfl, rfl, rfl⟩
theorem Pack.mscLine_line {k : Pack} {l : Nat} {x : MscLine} (h : k.mscLine l = some x) : x.line = l := by
  simpa using List.find?_some h
theorem Pack.mscLine_pinLine (k : Pack) (l x : Nat) :
    (k.pinLine l).mscLine x = if x = l then (k.mscLine l).map MscLine.asPinned else k.mscLine x := by
  unfold Pack.pinLine
  split
  next y hy =>
    have hl : y.line = l := Pack.mscLine_line hy
    rw [Pack.mscLine_setLine, show y.asPinned.line = l from hl, hy]
    rfl
  next hn =>
    split
    next h => rw [h, hn]; rfl
    · rfl
theorem Pack.foldl_pinLine_frame (ls : List Nat) (k : Pack) :
    (ls.foldl Pack.pinLine k).pins = k.pins ∧ (ls.foldl Pack.pinLine k).mem = k.mem ∧ (ls.foldl Pack.pinLine k).tick = k.tick := by
  induction ls generalizing k with
  | nil => exact ⟨rfl, rfl, rfl⟩
  | cons l ls ih =>
    obtain ⟨hp, hm, ht⟩ := k.pinLine_frame l
    rw [List.foldl_cons, ← hp, ← hm, ← ht]
    exact ih _
/-- A line that is in the MSC, and one of those pinned or pinned before, is pinned after all of them are. -/
theorem Pack.foldl_pinLine_pinned (ls : List Nat) (k : Pack) (x : Nat) (hx : (k.mscLine x).isSome = true)
    (h : x ∈ ls ∨ (k.mscLine x).any MscLine.pinned = true) : ((ls.foldl Pack.pinLine k).mscLine x).any MscLine.pinned = true := by
  induction ls generalizing k with
  | nil => exact h.resolve_left (by simp)
  | cons l ls ih =>
    have hp := k.mscLine_pinLine l x
    by_cases hl : x = l
    · subst hl
      obtain ⟨y, hy⟩ := Option.isSome_iff_exists.mp hx
      rw [if_pos rfl, hy, Option.map_some] at hp
      exact ih _ (by rw [hp]; rfl) (Or.inr (by rw [hp]; rfl))
    · rw [if_neg hl] at hp
      exact ih _ (by rwa [hp]) (by rw [hp]; simpa [hl] using h)
theorem Pack.mscLine_isSome_of_present {k : Pack} {l : Nat} (h : k.absent l = false) : (k.mscLine l).isSome = true := by
  unfold Pack.absent at h
  split at h
  next x hx => simp [hx]
  · cases h
/-- The lines that are there are not taken again. -/
theorem Pack.foldl_pinFill_present (ls : List Nat) (k : Pack) (h : ∀ l ∈ ls, k.absent l = false) : ls.foldl Pack.pinFill k = k := by
  induction ls with
  | nil => rfl
  | cons l ls ih =>
    have hl : k.pinFill l = k := by simp [Pack.pinFill, h l (by simp)]
    rw [List.foldl_cons, hl]
    exact ih fun x hx => h x (by simp [hx])

/-! ### Steps of a pin window -/

theorem execPinEnable_enabled {s : State} (h : (s.pk.ioRd (pinOff s.pk.arg.n s.pk.arg.m 8)).getLsbD 63 = true) : execPinEnable s = .next s := by
  simp [execPinEnable, h, done]
theorem execPinEnable_plain {s : State} {v : Word} (hv : s.pk.arg.v &&& 0x80FF_FFFF_00FF_FFFF = v)
    (h : (s.pk.ioRd (pinOff s.pk.arg.n s.pk.arg.m 8)).getLsbD 63 = false) (he : v.getLsbD 63 = false) :
    execPinEnable s = .next (s.updPk fun k => k.ioWr (pinOff s.pk.arg.n s.pk.arg.m 8) v) := by
  simp only [execPinEnable, hv, h, he, done, Bool.false_eq_true, if_false, Bool.not_false, if_true]
theorem execPinEnable_loads {s : State} {v : Word} (hv : s.pk.arg.v &&& 0x80FF_FFFF_00FF_FFFF = v)
    (h : (s.pk.ioRd (pinOff s.pk.arg.n s.pk.arg.m 8)).getLsbD 63 = false) (he : v.getLsbD 63 = true)
    (hb : s.pk.pinBad s.pk.arg.n (bits (s.pk.ioRd (pinOff s.pk.arg.n s.pk.arg.m 0)) 47 0) (bits v 23 0) = none) :
    let a := s.pk.arg
    let w := s.pk.pin a.n a.m
    execPinEnable s = .next (s.updPk fun k => ((k.ioWr (pinOff a.n a.m 8) v).setPin { w with
      status := 1, fcnt := bits v 55 32, lines := pinLines (bits (s.pk.ioRd (pinOff a.n a.m 0)) 47 0) (bits v 23 0), gen := w.gen + 1 }).scheduleCc
        (150 + bits v 23 0) .pinLoadDone { n := a.n, m := a.m, k := w.gen + 1 }) := by
  simp only [execPinEnable, hv, h, he, hb, done, Bool.false_eq_true, if_false, Bool.not_true]
  rfl
theorem execPinEnable_refused {s : State} {v : Word} {c : Nat} (hv : s.pk.arg.v &&& 0x80FF_FFFF_00FF_FFFF = v)
    (h : (s.pk.ioRd (pinOff s.pk.arg.n s.pk.arg.m 8)).getLsbD 63 = false) (he : v.getLsbD 63 = true)
    (hb : s.pk.pinBad s.pk.arg.n (bits (s.pk.ioRd (pinOff s.pk.arg.n s.pk.arg.m 0)) 47 0) (bits v 23 0) = some c) :
    execPinEnable s = .next (s.updPk fun k => (k.ioWr (pinOff s.pk.arg.n s.pk.arg.m 8) (setBits v 63 63 0)).setPin
      { s.pk.pin s.pk.arg.n s.pk.arg.m with status := c, fcnt := 0, lines := [] }) := by
  simp only [execPinEnable, hv, h, he, hb, done, Bool.false_eq_true, if_false, Bool.not_true]
  rfl

/-- With every line there, the load ends: the window is ACTIVE, its lines are pinned, and the fade time counts from now (R354). -/
theorem execPinLoadDone_loaded {s : State} {w : PinWin} (hw : s.pk.pin s.pk.arg.n s.pk.arg.m = w) (hs : w.status = 1)
    (hg : w.gen = s.pk.arg.k) (hl : ∀ l ∈ w.lines, s.pk.absent l = false) :
    let j := (w.lines.foldl Pack.pinLine s.pk).setPin { w with status := 2 }
    execPinLoadDone s =
      .next { s with pk := if w.fcnt = 0 then j else j.schedule 2000 .pinFade { n := w.die, m := w.win, k := w.gen } } := by
  have hany : w.lines.any s.pk.absent = false := List.any_eq_false.mpr fun l h => by simp [hl l h]
  simp only [execPinLoadDone, hw, hs, hg, ne_eq, not_true_eq_false, or_self, if_false, done, State.updPk, Pack.foldl_pinFill_present _ _ hl, hany,
    Bool.false_eq_true]
  rfl
theorem Pack.schedule_mem_agenda (k : Pack) (delay : Nat) (ev : Instr) (arg : EventArg) :
    ⟨k.tick + delay, ev, arg⟩ ∈ (k.schedule delay ev arg).agenda := by
  have h (d : Due) (ds : List Due) : d ∈ agendaInsert d ds := by
    induction ds with
    | nil => simp [agendaInsert]
    | cons e es ih => rw [agendaInsert]; split <;> simp [ih]
  exact h _ _
theorem execPinLoadDone_active {s : State} {w : PinWin} (hw : s.pk.pin s.pk.arg.n s.pk.arg.m = w) (hs : w.status = 1)
    (hg : w.gen = s.pk.arg.k) (hl : ∀ l ∈ w.lines, s.pk.absent l = false) :
    ∃ t, execPinLoadDone s = .next t ∧ t.pk.pin s.pk.arg.n s.pk.arg.m = { w with status := 2 } ∧
      (∀ l ∈ w.lines, (t.pk.mscLine l).any MscLine.pinned = true) ∧ t.ctx = s.ctx ∧ t.pk.mem = s.pk.mem ∧
      (w.fcnt ≠ 0 → ∃ d ∈ t.pk.agenda, d.ev = .pinFade ∧ d.at_ = s.pk.tick + 2000) := by
  refine ⟨_, execPinLoadDone_loaded hw hs hg hl, ?_⟩
  obtain ⟨-, hm, ht⟩ := Pack.foldl_pinLine_frame w.lines s.pk
  have hpin (l : Nat) (h : l ∈ w.lines) : ((w.lines.foldl Pack.pinLine s.pk).mscLine l).any MscLine.pinned = true :=
    Pack.foldl_pinLine_pinned _ _ l (Pack.mscLine_isSome_of_present (hl l h)) (Or.inl h)
  generalize w.lines.foldl Pack.pinLine s.pk = j at *
  obtain ⟨hd, hn⟩ := s.pk.pin_die s.pk.arg.n s.pk.arg.m
  rw [hw] at hd hn
  have hset : (j.setPin { w with status := 2 }).pin s.pk.arg.n s.pk.arg.m = { w with status := 2 } := j.pin_setPin hd hn
  split
  next hf => exact ⟨hset, hpin, rfl, hm, fun h => absurd hf h⟩
  next hf =>
    refine ⟨hset, hpin, rfl, hm, fun _ => ⟨_, Pack.schedule_mem_agenda .., rfl, ?_⟩⟩
    exact congrArg (· + 2000) ht

theorem execPinRelease_held {s : State} (h : (s.pk.pin s.pk.arg.n s.pk.arg.m).status = 1 ∨ (s.pk.pin s.pk.arg.n s.pk.arg.m).status = 2) :
    execPinRelease s = .next (s.updPk fun k => k.releasePin (s.pk.pin s.pk.arg.n s.pk.arg.m) 0) := by
  simp only [execPinRelease, h, if_true, done]
theorem execPinFade_last {s : State} {w : PinWin} (hw : s.pk.pin s.pk.arg.n s.pk.arg.m = w) (hs : w.status = 2) (hg : w.gen = s.pk.arg.k)
    (hf : w.fcnt = 1) : execPinFade s = .next (s.updPk fun k => k.releasePin w 3) := by
  simp [execPinFade, hw, hs, hg, hf, done]
theorem execPinFade_counts {s : State} {w : PinWin} (hw : s.pk.pin s.pk.arg.n s.pk.arg.m = w) (hs : w.status = 2) (hg : w.gen = s.pk.arg.k)
    (hf : 1 < w.fcnt) : execPinFade s = .next (s.updPk fun k =>
      (k.setPin { w with fcnt := w.fcnt - 1 }).schedule 2000 .pinFade { n := w.die, m := w.win, k := w.gen }) := by
  have h0 : w.fcnt ≠ 0 := by omega
  have h1 : w.fcnt ≠ 1 := by omega
  simp [execPinFade, hw, hs, hg, h0, h1, done]

end Sys2Proof.Machine
end

-- ================================================================
-- Proofs, scope: Budgets and plain registers
-- ================================================================

section
namespace Sys2Proof.Machine
open Sys2Proof

/-! ### Budgets -/

/-- A fold of steps that leave a part of the package leaves it. -/
theorem Pack.foldl_frame {α β : Type} (part : Pack → β) (f : Pack → α → Pack) (hf : ∀ k a, part (f k a) = part k) (l : List α) (k : Pack) :
    part (l.foldl f k) = part k := by
  induction l generalizing k with
  | nil => rfl
  | cons a l ih => rw [List.foldl_cons, ih, hf]
/-- What counts the free values drawn and the use of the present period. -/
def Pack.counts (k : Pack) : Nat × List (Nat × Nat × Nat) := (k.freeCtr, k.usage)
theorem Pack.tryPass_counts (k : Pack) (h d : Nat) : (k.tryPass h d).counts = k.counts := by
  unfold Pack.tryPass
  extract_lets c
  split
  · rfl
  split
  · rfl
  split <;> rfl
theorem Pack.gougePeriod_counts (k : Pack) : k.gougePeriod.counts = k.counts := by
  refine Pack.foldl_frame Pack.counts _ (fun j e => ?_) _ _
  extract_lets j1 j2
  split
  · rfl
  · exact Pack.foldl_frame Pack.counts _ (fun i u => i.tryPass_counts _ _) _ _

/-- The ABSTATs tell the use of the period that ends (R359). -/
def Pack.tellsUse (k : Pack) : Pack :=
  abshOffs.foldl (fun (j : Pack) o =>
    let use := (List.range 7).foldl (fun x c => x * 256 + k.useOf o c) 0
    j.ioWr (o + 8) (setBits (j.ioRd (o + 8)) 55 0 use)) k
theorem Pack.tellsUse_mem (k : Pack) : k.tellsUse.mem = k.mem := Pack.foldl_mem _ _ _ fun _ _ => Pack.mem_ioWr ..
/-- The package as a budget period begins (R357). -/
def Pack.newPeriod (k : Pack) : Pack :=
  let shares := (abshOffs.filter (fun o => k.ioRd o != ioReset o)).map (fun o => (o, k.ioRd o))
  ({ k.tellsUse with shares := shares, usage := [], freeCtr := k.freeCtr + 256 }.gougePeriod).schedule (k.ticksTo 10000) .budgetPeriod {}
theorem Pack.newPeriod_counts (k : Pack) : k.newPeriod.counts = (k.freeCtr + 256, []) := by
  have h (j : Pack) (n : Nat) (ev : Instr) (arg : EventArg) : (j.schedule n ev arg).counts = j.counts := by rfl
  rw [Pack.newPeriod, h, Pack.gougePeriod_counts]
  rfl
theorem Pack.newPeriod_mem (k : Pack) : k.newPeriod.mem = k.mem := by
  have h : k.newPeriod.mem = k.tellsUse.mem := by rw [Pack.newPeriod, Pack.mem_schedule, Pack.gougePeriod_mem]
  exact h.trans k.tellsUse_mem
theorem execBudgetPeriod_eq (s : State) : execBudgetPeriod s = .next { s with pk := s.pk.newPeriod } := by
  rfl
theorem execBudgetPeriod_next (s : State) : ∃ t, execBudgetPeriod s = .next t ∧ t.ctx = s.ctx ∧ t.core = s.core ∧
    t.pk.freeCtr = s.pk.freeCtr + 256 ∧ t.pk.usage = [] ∧ t.pk.mem = s.pk.mem := by
  obtain ⟨hf, hu⟩ := Prod.ext_iff.mp s.pk.newPeriod_counts
  exact ⟨_, execBudgetPeriod_eq s, rfl, rfl, hf, hu, s.pk.newPeriod_mem⟩

/-- The ABSH as a write of `v` to that of channel 0 makes it: RF is the controller's, RO of the top byte (R359). -/
def abshValue (cur v : Word) : Word := setBits (v &&& 0x00FF_FFFF_FFFF_FFFF) 31 24 (bits cur 31 24)
theorem bits_and_low56 (v : Word) {h l : Nat} (hh : h < 56) (hl : l ≤ h) : bits (v &&& 0x00FF_FFFF_FFFF_FFFF) h l = bits v h l := by
  have hm : (v &&& 0x00FF_FFFF_FFFF_FFFF).toNat = v.toNat % 2 ^ 56 := by
    rw [BitVec.toNat_and]
    exact Nat.and_two_pow_sub_one_eq_mod v.toNat 56
  rw [bits, bits, hm, bits_mod_two_pow _ (by omega)]
theorem abshFields_value (cur v : Word) : abshFields (abshValue cur v) =
    [bits v 55 48, bits v 47 40, bits v 39 32, bits cur 31 24, bits v 23 16, bits v 15 8, bits v 7 0] := by
  have above (h l : Nat) (hl : 31 < l) (hh : h < 56) (hlh : l ≤ h) : bits (abshValue cur v) h l = bits v h l := by
    rw [abshValue, bits_setBits_above _ _ (by decide) (by decide) hl, bits_and_low56 v hh hlh]
  have below (h l : Nat) (hh : h < 24) (hlh : l ≤ h) : bits (abshValue cur v) h l = bits v h l := by
    rw [abshValue, bits_setBits_below _ _ (by decide) (by decide) hh hlh, bits_and_low56 v (by omega) hlh]
  have same : bits (abshValue cur v) 31 24 = bits cur 31 24 := by
    rw [abshValue, bits_setBits_same (n := 8) _ _ (by decide) (by decide)]
    exact Nat.mod_eq_of_lt (bits_lt cur 31 24)
  simp [abshFields, above, below, same]
theorem execAbsh_channel0 {s : State} (hn : s.pk.arg.n = 0x50000) : execAbsh s =
    .next (if 256 < (abshFields (abshValue (s.pk.ioRd s.pk.arg.n) s.pk.arg.v)).sum
      then s.updPk fun k => k.ioWr (s.pk.arg.n + 8) (setBits (k.ioRd (s.pk.arg.n + 8)) 63 63 1)
      else s.updPk fun k => k.ioWr s.pk.arg.n (abshValue (s.pk.ioRd s.pk.arg.n) s.pk.arg.v)) := by
  have ho : abshOffs.contains s.pk.arg.n = true := by rw [hn]; decide
  have hp : decide (0x52000 ≤ s.pk.arg.n) = false := by rw [hn]; decide
  unfold execAbsh
  simp only [hp, ho, done, Bool.false_eq_true, if_false, Bool.not_true, List.sum_eq_foldl]
  rfl

theorem execAbsh_channel0_fits {s : State} (hn : s.pk.arg.n = 0x50000)
    (h : [bits s.pk.arg.v 55 48, bits s.pk.arg.v 47 40, bits s.pk.arg.v 39 32, bits (s.pk.ioRd s.pk.arg.n) 31 24, bits s.pk.arg.v 23 16,
      bits s.pk.arg.v 15 8, bits s.pk.arg.v 7 0].sum ≤ 256) :
    execAbsh s = .next (s.updPk fun k => k.ioWr s.pk.arg.n (abshValue (k.ioRd s.pk.arg.n) s.pk.arg.v)) := by
  rw [← abshFields_value] at h
  rw [execAbsh_channel0 hn, if_neg (Nat.not_lt.mpr h)]
  simp only [State.updPk]
theorem execAbsh_channel0_exceeds {s : State} (hn : s.pk.arg.n = 0x50000)
    (h : 256 < [bits s.pk.arg.v 55 48, bits s.pk.arg.v 47 40, bits s.pk.arg.v 39 32, bits (s.pk.ioRd s.pk.arg.n) 31 24, bits s.pk.arg.v 23 16,
      bits s.pk.arg.v 15 8, bits s.pk.arg.v 7 0].sum) :
    execAbsh s = .next (s.updPk fun k => k.ioWr (s.pk.arg.n + 8) (setBits (k.ioRd (s.pk.arg.n + 8)) 63 63 1)) := by
  rw [← abshFields_value] at h
  rw [execAbsh_channel0 hn, if_pos h]

/-! ### Plain registers -/

/-- The word that a write of `v` leaves in a plain register. -/
def Pack.plainWord (k : Pack) (off : Nat) (v : Word) : Word :=
  match k.rwMask off with
  | some m => (k.ioRd off &&& ~~~m) ||| (v &&& m)
  | none => k.ioRd off &&& ~~~(v &&& w1cMask off)
/-- The registers that are written as plain ones and neither watched nor counted (R11). -/
def plainOff (off : Nat) : Prop := off < 0x90000 ∧ ¬ (0x71008 ≤ off ∧ off < 0x71038) ∧ off ≠ 0x60800 ∧ off ≠ 0x61800
theorem execRegisterWrite_plain {s : State} (h : plainOff s.pk.arg.n) :
    execRegisterWrite s = .next (s.updPk fun k =>
      if k.plainWord k.arg.n k.arg.v = k.ioRd k.arg.n then k else k.ioWr k.arg.n (k.plainWord k.arg.n k.arg.v)) := by
  obtain ⟨hlt, hwatch, h0, h1⟩ := h
  have hcore : ¬ (0x100000 ≤ s.pk.arg.n ∧ s.pk.arg.n < 0x140000) := by omega
  have hchan : ¬ (0x90000 ≤ s.pk.arg.n ∧ s.pk.arg.n < 0x92000) := by omega
  simp only [execRegisterWrite, hcore, hchan, hwatch, h0, h1, or_self, if_false, done]
  rfl
theorem execRegisterWrite_reads {s : State} (h : plainOff s.pk.arg.n) : ∃ t, execRegisterWrite s = .next t ∧
    (∀ x, t.pk.ioRd x = if x = s.pk.arg.n then s.pk.plainWord s.pk.arg.n s.pk.arg.v else s.pk.ioRd x) ∧
    t.ctx = s.ctx ∧ t.core = s.core ∧ t.pk.mem = s.pk.mem ∧ t.pk.sched = s.pk.sched := by
  refine ⟨_, execRegisterWrite_plain h, ?_⟩
  rw [State.updPk_pk]
  split
  next he =>
    refine ⟨fun x => ?_, rfl, rfl, rfl, rfl⟩
    split
    next hx => rw [hx, he]
    · rfl
  · exact ⟨fun x => Pack.ioRd_ioWr .., rfl, rfl, Pack.mem_ioWr .., rfl⟩
theorem Pack.plainWord_masked {k : Pack} {off : Nat} {m : Word} (v : Word) (h : k.rwMask off = some m) :
    k.plainWord off v = (k.ioRd off &&& ~~~m) ||| (v &&& m) := by
  rw [Pack.plainWord, h]
theorem Pack.plainWord_clears {k : Pack} {off : Nat} (v : Word) (h : k.rwMask off = none) :
    k.plainWord off v = k.ioRd off &&& ~~~(v &&& w1cMask off) := by
  rw [Pack.plainWord, h]
theorem execRegisterWrite_frame {s : State} (h : plainOff s.pk.arg.n) : ∃ t, execRegisterWrite s = .next t ∧
    (∀ m, s.pk.rwMask s.pk.arg.n = some m → t.pk.ioRd s.pk.arg.n = (s.pk.ioRd s.pk.arg.n &&& ~~~m) ||| (s.pk.arg.v &&& m)) ∧
    (s.pk.rwMask s.pk.arg.n = none → t.pk.ioRd s.pk.arg.n = s.pk.ioRd s.pk.arg.n &&& ~~~(s.pk.arg.v &&& w1cMask s.pk.arg.n)) ∧
    (∀ x, x ≠ s.pk.arg.n → t.pk.ioRd x = s.pk.ioRd x) ∧ t.ctx = s.ctx ∧ t.core = s.core ∧ t.pk.mem = s.pk.mem ∧ t.pk.sched = s.pk.sched := by
  obtain ⟨t, ht, hr, hframe⟩ := execRegisterWrite_reads h
  refine ⟨t, ht, fun m hm => ?_, fun hm => ?_, fun x hx => ?_, hframe⟩
  · rw [hr, if_pos rfl, Pack.plainWord_masked _ hm]
  · rw [hr, if_pos rfl, Pack.plainWord_clears _ hm]
  · rw [hr, if_neg hx]
/-- Registers whose RW fields are the same whatever the package holds. -/
def fixedMasks : List (Nat × Word) :=
  [(0x20000, 0xFFFF), (0x20008, 0xFFFF_FFFF), (0x20010, 0xFFFF_FFFF), (0x20018, 0x00FF_FFFF_FFFF_FFFF), (0x20020, BitVec.allOnes 64),
    (0x30000, 0xF), (0x30008, 0xFFFF), (0x72000, 0xFFFF_FFFF), (0x73008, BitVec.allOnes 64), (0x73020, 0xFFFF_FFFF_FFFF), (0x73100, 0xFFFF_FFFF_FFFF),
    (0x73108, 0xFF), (0x81000, 0xFFFF_FFFF_FFFF)]
theorem plainOff_of_fixed {p : Nat × Word} (h : p ∈ fixedMasks) : plainOff p.1 := by
  have all : ∀ p ∈ fixedMasks, plainOff p.1 := by
    unfold plainOff
    decide
  exact all p h
theorem Pack.rwMask_of_fixed (k : Pack) {p : Nat × Word} (h : p ∈ fixedMasks) : k.rwMask p.1 = some p.2 := by
  fin_cases h <;> rfl
theorem execRegisterWrite_fixed {s : State} {m : Word} (h : (s.pk.arg.n, m) ∈ fixedMasks) : ∃ t, execRegisterWrite s = .next t ∧
    t.pk.ioRd s.pk.arg.n = (s.pk.ioRd s.pk.arg.n &&& ~~~m) ||| (s.pk.arg.v &&& m) := by
  obtain ⟨t, ht, hm, -⟩ := execRegisterWrite_frame (plainOff_of_fixed h)
  exact ⟨t, ht, hm m (s.pk.rwMask_of_fixed h)⟩

/-- Registers with write-1-to-clear bits alone: an ABSTAT (R359) and the HSSTATs of the first die and of the first stack of channels (R343). -/
def clearedMasks : List (Nat × Word) := [(0x50008, 0x8000_0000_0000_0000), (0x60808, 1), (0x62000, 1)]
theorem plainOff_of_cleared {p : Nat × Word} (h : p ∈ clearedMasks) : plainOff p.1 := by
  have all : ∀ p ∈ clearedMasks, plainOff p.1 := by
    unfold plainOff
    decide
  exact all p h
theorem Pack.rwMask_of_cleared (k : Pack) {p : Nat × Word} (h : p ∈ clearedMasks) : k.rwMask p.1 = none ∧ w1cMask p.1 = p.2 := by
  fin_cases h <;> exact ⟨rfl, rfl⟩
theorem execRegisterWrite_clears {s : State} {m : Word} (h : (s.pk.arg.n, m) ∈ clearedMasks) : ∃ t, execRegisterWrite s = .next t ∧
    t.pk.ioRd s.pk.arg.n = s.pk.ioRd s.pk.arg.n &&& ~~~(s.pk.arg.v &&& m) := by
  obtain ⟨t, ht, -, hc, -⟩ := execRegisterWrite_frame (plainOff_of_cleared h)
  obtain ⟨hn, hm⟩ := s.pk.rwMask_of_cleared h
  exact ⟨t, ht, by rw [hc hn, show w1cMask s.pk.arg.n = m from hm]⟩

theorem execRegisterWrite_mergeage {s : State} (h : s.pk.arg.n = 0x100110 + 0x400 * s.core.num) (hc : s.core.num < 256) :
    execRegisterWrite s = .next (s.updCore fun c => { c with mergeage := s.pk.arg.v &&& 0xFF }) := by
  have hr : 0x100000 ≤ s.pk.arg.n ∧ s.pk.arg.n < 0x140000 := by omega
  have hm : s.pk.arg.n % 0x400 = 0x110 := by omega
  have hd : (s.pk.arg.n - 0x100000) / 0x400 = s.core.num := by omega
  simp only [execRegisterWrite, hr, hm, hd, and_self, if_true, State.onCore_self, done]
  rfl
theorem execRegisterWrite_ddthr {s : State} (h : s.pk.arg.n = 0x100118 + 0x400 * s.core.num) (hc : s.core.num < 256) :
    execRegisterWrite s = .next (s.updCore fun c => { c with ddthr := s.pk.arg.v &&& 0x83FF }) := by
  have hr : 0x100000 ≤ s.pk.arg.n ∧ s.pk.arg.n < 0x140000 := by omega
  have hm : s.pk.arg.n % 0x400 = 0x118 := by omega
  have hd : (s.pk.arg.n - 0x100000) / 0x400 = s.core.num := by omega
  have hne : ¬ 0x118 = 0x110 := by decide
  simp only [execRegisterWrite, hr, hm, hd, and_self, if_true, if_neg hne, State.onCore_self, done]
  rfl

end Sys2Proof.Machine
end

-- ================================================================
-- Proofs, scope: Firmware, full service, attestation
-- ================================================================

section
namespace Sys2Proof.Machine
open Sys2Proof

/-! ### Firmware -/

theorem leNat_lt (bs : List Byte) : leNat bs < 256 ^ bs.length := by
  induction bs with
  | nil => simp [leNat]
  | cons b bs ih =>
    have hb : b.toNat < 256 := b.isLt
    rw [leNat, List.length_cons, Nat.pow_succ]
    omega

theorem Pack.ioRd_congr {j k : Pack} (h : j.io = k.io) (x : Nat) : j.ioRd x = k.ioRd x := by
  rw [Pack.ioRd, Pack.ioRd, h]
theorem Pack.ioRd_ioWr_same (k : Pack) (off : Nat) (v : Word) : (k.ioWr off v).ioRd off = v := by
  rw [Pack.ioRd_ioWr, if_pos rfl]
theorem Pack.fwst_congr {j k : Pack} (h : j.io = k.io) : j.fwst = k.fwst := by
  rw [Pack.fwst, Pack.fwst, Pack.ioRd_congr h]
theorem Pack.fwst_setFwst (k : Pack) {x : Nat} (hx : x < 16) : (k.setFwst x).fwst = x := by
  rw [Pack.fwst, Pack.setFwst, Pack.ioRd_ioWr_same, bits_setBits_same (n := 4) _ _ (by decide) (by decide)]
  exact Nat.mod_eq_of_lt hx
/-- FWST 1 and the image `bs` to verify after a load of FWCMD `v` (R504). -/
def Pack.loading (k : Pack) (v : Word) (bs : List Byte) : Pack :=
  { k.setFwst 1 with svc := { k.svc with image := some bs, inFull := k.full } }.schedule (2 * (1000 + bits v 31 0)) .firmwareVerifyDone {}
theorem Pack.schedule_io (k : Pack) (delay : Nat) (ev : Instr) (arg : EventArg) : (k.schedule delay ev arg).io = k.io := by rfl
theorem Pack.schedule_svc (k : Pack) (delay : Nat) (ev : Instr) (arg : EventArg) : (k.schedule delay ev arg).svc = k.svc := by rfl
theorem Pack.loading_frame (k : Pack) (v : Word) (bs : List Byte) : (k.loading v bs).fwst = 1 ∧ (k.loading v bs).mem = k.mem ∧
    (k.loading v bs).svc = { k.svc with image := some bs, inFull := k.full } := by
  have hf : (k.setFwst 1).fwst = 1 := k.fwst_setFwst (by decide)
  have hio : (k.loading v bs).io = (k.setFwst 1).io := by rw [Pack.loading, Pack.schedule_io]
  have hmem : (k.loading v bs).mem = (k.setFwst 1).mem := by rw [Pack.loading, Pack.mem_schedule]
  exact ⟨(Pack.fwst_congr hio).trans hf, hmem.trans (k.setFwst_mem 1), by rw [Pack.loading, Pack.schedule_svc]⟩
theorem execFirmwareLoad_eq {s : State} (hv : s.pk.arg.v.getLsbD 63 = true) (hf : s.pk.fwst ≠ 1) : execFirmwareLoad s =
    .next { s with pk := s.pk.loading s.pk.arg.v (s.pk.mem.read ⟨.host, (s.pk.ioRd 0x73008).toNat, bits s.pk.arg.v 31 0⟩) } := by
  simp only [execFirmwareLoad, hv, hf, Bool.not_true, Bool.false_eq_true, or_self, if_false]
  rfl

theorem execFirmwareLoad_begins {s : State} (hv : s.pk.arg.v.getLsbD 63 = true) (hf : s.pk.fwst ≠ 1) :
    ∃ t, execFirmwareLoad s = .next t ∧ t.pk.fwst = 1 ∧
      t.pk.svc.image = some (s.pk.mem.read ⟨.host, (s.pk.ioRd 0x73008).toNat, bits s.pk.arg.v 31 0⟩) ∧ t.pk.svc.inFull = s.pk.full ∧
      t.ctx = s.ctx ∧ t.pk.mem = s.pk.mem := by
  obtain ⟨hfw, hmem, hsvc⟩ :=
    s.pk.loading_frame s.pk.arg.v (s.pk.mem.read ⟨.host, (s.pk.ioRd 0x73008).toNat, bits s.pk.arg.v 31 0⟩)
  exact ⟨_, execFirmwareLoad_eq hv hf, hfw, congrArg Service.image hsvc, congrArg Service.inFull hsvc, rfl, hmem⟩

/-- The little-endian field of `n` bytes at offset `o` of an image. -/
def imageField (img : List Byte) (o n : Nat) : Nat := leNat ((img.drop o).take n)
/-- An image has the form of R506. -/
def imageShaped (img : List Byte) : Prop :=
  img.length = 0x100 + imageField img 8 8 + 4627 ∧ imageField img 0 4 = 0x5F1AE7C3 ∧ imageField img 6 2 = 0 ∧ imageField img 0x10 0xF0 = 0
def imageDigest (img : List Byte) : BitVec 512 := Config.sha3_512 (img.take (0x100 + imageField img 8 8))
/-- The signature of an image is that of its digest under the part's key. -/
def imageSigned (img : List Byte) : Bool :=
  Config.mldsaVerify Config.romKey (leBytes 64 (imageDigest img).toNat) (img.drop (0x100 + imageField img 8 8))
theorem imageVersion_lt (img : List Byte) : imageField img 4 2 < 2 ^ 16 :=
  (leNat_lt _).trans_le (Nat.pow_le_pow_right (by decide) (List.length_take_le ..))

theorem Pack.verify_eq (k : Pack) (img : List Byte) : k.verify img =
    if img.length < 0x100 ∨ imageField img 0 4 ≠ 0x5F1AE7C3 ∨ imageField img 6 2 ≠ 0 ∨ imageField img 0x10 0xF0 ≠ 0 ∨
        img.length ≠ 0x100 + imageField img 8 8 + 4627 then (3, imageField img 4 2, 0)
    else if !imageSigned img then (4, imageField img 4 2, imageDigest img)
    else if imageField img 4 2 < bits (k.ioRd 0x73000) 31 16 then (5, imageField img 4 2, imageDigest img)
    else (2, imageField img 4 2, imageDigest img) := by
  rfl
theorem Pack.verify_misshapen (k : Pack) {img : List Byte} (h : ¬ imageShaped img) : (k.verify img).1 = 3 := by
  rw [Pack.verify_eq, if_pos]
  unfold imageShaped at h
  tauto
theorem Pack.verify_shaped (k : Pack) {img : List Byte} (h : imageShaped img) : k.verify img =
    if !imageSigned img then (4, imageField img 4 2, imageDigest img)
    else if imageField img 4 2 < bits (k.ioRd 0x73000) 31 16 then (5, imageField img 4 2, imageDigest img)
    else (2, imageField img 4 2, imageDigest img) := by
  obtain ⟨hl, h0, h6, h10⟩ := h
  rw [Pack.verify_eq, if_neg]
  simp only [h0, h6, h10, hl.symm, ne_eq, not_true_eq_false, or_false]
  omega

/-- What the verification of `img` finds (R506); with `arg.k` = 1 the read from the host has failed. -/
def Pack.verdict (k : Pack) (img : List Byte) : Nat × Nat × BitVec 512 := if k.arg.k = 1 then (6, 0, 0) else k.verify img
/-- FWST becomes `x` and the image is gone; then the image runs now, or after the next reset. -/
def Pack.verified (k : Pack) (x : Nat) : Pack := { k.setFwst x with svc := { k.svc with image := none } }
def Pack.runsNow (k : Pack) (ver : Nat) (d : BitVec 512) : Pack :=
  { k.ioWr 0x73000 (setBits (k.ioRd 0x73000) 15 0 ver) with svc := { k.svc with digest := d } }
def Pack.runsNext (k : Pack) (ver : Nat) (d : BitVec 512) : Pack := { k with svc := { k.svc with next := some (ver, d) } }
theorem Pack.verdict_unread {k : Pack} (img : List Byte) (h : k.arg.k = 1) : (k.verdict img).1 = 6 := by
  rw [Pack.verdict, if_pos h]
theorem Pack.verdict_misshapen {k : Pack} {img : List Byte} (h : k.arg.k ≠ 1) (hs : ¬ imageShaped img) : (k.verdict img).1 = 3 := by
  rw [Pack.verdict, if_neg h, Pack.verify_misshapen k hs]
theorem Pack.verdict_unsigned {k : Pack} {img : List Byte} (h : k.arg.k ≠ 1) (hs : imageShaped img) (hg : imageSigned img = false) :
    (k.verdict img).1 = 4 := by
  rw [Pack.verdict, if_neg h, Pack.verify_shaped k hs, hg]
  rfl
theorem Pack.verdict_old {k : Pack} {img : List Byte} (h : k.arg.k ≠ 1) (hs : imageShaped img) (hg : imageSigned img = true)
    (hv : imageField img 4 2 < bits (k.ioRd 0x73000) 31 16) : (k.verdict img).1 = 5 := by
  rw [Pack.verdict, if_neg h, Pack.verify_shaped k hs, hg, if_neg (by decide), if_pos hv]
theorem Pack.verdict_good {k : Pack} {img : List Byte} (h : k.arg.k ≠ 1) (hs : imageShaped img) (hg : imageSigned img = true)
    (hv : bits (k.ioRd 0x73000) 31 16 ≤ imageField img 4 2) : k.verdict img = (2, imageField img 4 2, imageDigest img) := by
  rw [Pack.verdict, if_neg h, Pack.verify_shaped k hs, hg, if_neg (by decide), if_neg (Nat.not_lt.mpr hv)]
theorem Pack.verified_frame (k : Pack) (x : Nat) :
    (k.verified x).io = (k.setFwst x).io ∧ (k.verified x).mem = k.mem ∧ (k.verified x).svc = { k.svc with image := none } := by
  have hmem : (k.verified x).mem = (k.setFwst x).mem := by rw [Pack.verified]
  exact ⟨by rw [Pack.verified], hmem.trans (k.setFwst_mem x), by rw [Pack.verified]⟩
theorem Pack.runsNow_frame (k : Pack) (ver : Nat) (d : BitVec 512) :
    (k.runsNow ver d).io = (k.ioWr 0x73000 (setBits (k.ioRd 0x73000) 15 0 ver)).io ∧ (k.runsNow ver d).mem = k.mem ∧
      (k.runsNow ver d).svc = { k.svc with digest := d } := by
  have hmem : (k.runsNow ver d).mem = (k.ioWr 0x73000 (setBits (k.ioRd 0x73000) 15 0 ver)).mem := by rw [Pack.runsNow]
  exact ⟨by rw [Pack.runsNow], hmem.trans (Pack.mem_ioWr ..), by rw [Pack.runsNow]⟩
/-- MODE after the version of the running image is written: FWST stands. -/
theorem Pack.runsNow_mode (k : Pack) (d : BitVec 512) {ver : Nat} (hv : ver < 2 ^ 16) :
    (k.runsNow ver d).fwst = k.fwst ∧ bits ((k.runsNow ver d).ioRd 0x73000) 15 0 = ver := by
  obtain ⟨hio, -, -⟩ := k.runsNow_frame ver d
  have hmode : (k.runsNow ver d).ioRd 0x73000 = setBits (k.ioRd 0x73000) 15 0 ver := by rw [Pack.ioRd_congr hio, Pack.ioRd_ioWr_same]
  rw [Pack.fwst, Pack.fwst, hmode, bits_setBits_above _ _ (by decide) (by decide) (by decide),
    bits_setBits_same (n := 16) _ _ (by decide) (by decide)]
  exact ⟨rfl, Nat.mod_eq_of_lt hv⟩
/-- MODE after FWST is set: the version stands. -/
theorem Pack.verified_mode (k : Pack) {x : Nat} (hx : x < 16) :
    (k.verified x).fwst = x ∧ bits ((k.verified x).ioRd 0x73000) 15 0 = bits (k.ioRd 0x73000) 15 0 := by
  obtain ⟨hio, -, -⟩ := k.verified_frame x
  refine ⟨(Pack.fwst_congr hio).trans (k.fwst_setFwst hx), ?_⟩
  rw [Pack.ioRd_congr hio, Pack.setFwst, Pack.ioRd_ioWr_same, bits_setBits_below _ _ (by decide) (by decide) (by decide) (by decide)]

theorem execFirmwareVerifyDone_image {s : State} {img : List Byte} (hi : s.pk.svc.image = some img) :
    let r := s.pk.verdict img
    let k := s.pk.verified r.1
    execFirmwareVerifyDone s = .next { s with pk :=
      if r.1 ≠ 2 then k else if k.svc.inFull then k.runsNext r.2.1 r.2.2 else k.runsNow r.2.1 r.2.2 } := by
  unfold execFirmwareVerifyDone
  rw [hi]
  rfl
theorem execFirmwareVerifyDone_refused {s : State} {img : List Byte} {x : Nat} (hi : s.pk.svc.image = some img)
    (hr : (s.pk.verdict img).1 = x) (hx : x ≠ 2) :
    execFirmwareVerifyDone s = .next (s.updPk fun k => { k.setFwst x with svc := { k.svc with image := none } }) := by
  rw [execFirmwareVerifyDone_image hi, hr, if_pos hx]
  rfl
theorem execFirmwareVerifyDone_accepts {s : State} {img : List Byte} {ver : Nat} {d : BitVec 512} (hi : s.pk.svc.image = some img)
    (hr : s.pk.verdict img = (2, ver, d)) : execFirmwareVerifyDone s =
      .next { s with pk := if s.pk.svc.inFull then (s.pk.verified 2).runsNext ver d else (s.pk.verified 2).runsNow ver d } := by
  obtain ⟨-, -, hs⟩ := s.pk.verified_frame 2
  have hin : (s.pk.verified 2).svc.inFull = s.pk.svc.inFull := by rw [hs]
  rw [execFirmwareVerifyDone_image hi, hr, if_neg (fun h => h rfl), hin]
/-- A verified image runs at once, or after the next reset when its load was issued in full service (R506). -/
theorem execFirmwareVerifyDone_accepted {s : State} {img : List Byte} {ver : Nat} {d : BitVec 512} (hi : s.pk.svc.image = some img)
    (hr : s.pk.verdict img = (2, ver, d)) (hv : ver < 2 ^ 16) :
    ∃ t, execFirmwareVerifyDone s = .next t ∧ t.pk.fwst = 2 ∧ t.pk.svc.image = none ∧ t.ctx = s.ctx ∧ t.pk.mem = s.pk.mem ∧
      (s.pk.svc.inFull = false → bits (t.pk.ioRd 0x73000) 15 0 = ver ∧ t.pk.svc.digest = d ∧ t.pk.svc.next = s.pk.svc.next) ∧
      (s.pk.svc.inFull = true → bits (t.pk.ioRd 0x73000) 15 0 = bits (s.pk.ioRd 0x73000) 15 0 ∧ t.pk.svc.digest = s.pk.svc.digest ∧
        t.pk.svc.next = some (ver, d)) := by
  refine ⟨_, execFirmwareVerifyDone_accepts hi hr, ?_⟩
  obtain ⟨-, hm, hs⟩ := s.pk.verified_frame 2
  obtain ⟨hf, hver⟩ := s.pk.verified_mode (show 2 < 16 by decide)
  cases hin : s.pk.svc.inFull with
  | true =>
    have hio : ((s.pk.verified 2).runsNext ver d).io = (s.pk.verified 2).io := by rw [Pack.runsNext]
    have hmem : ((s.pk.verified 2).runsNext ver d).mem = (s.pk.verified 2).mem := by rw [Pack.runsNext]
    have hsvc : ((s.pk.verified 2).runsNext ver d).svc = { (s.pk.verified 2).svc with next := some (ver, d) } := by rw [Pack.runsNext]
    rw [if_pos rfl, Pack.fwst_congr hio, Pack.ioRd_congr hio, hsvc, hmem, hs]
    exact ⟨hf, rfl, rfl, hm, nofun, fun _ => ⟨hver, rfl, rfl⟩⟩
  | false =>
    obtain ⟨-, hmem, hsvc⟩ := (s.pk.verified 2).runsNow_frame ver d
    obtain ⟨hfw, hmode⟩ := (s.pk.verified 2).runsNow_mode d hv
    rw [if_neg (by decide), hfw, hmode, hsvc, hmem, hs]
    exact ⟨hf, rfl, rfl, hm, fun _ => ⟨rfl, rfl, rfl⟩, nofun⟩

/-! ### Full service -/

/-- The package while a move to full service is under way; as it waits on, and once it has moved (R504). -/
def Pack.moving (k : Pack) : Pack := { k with svc := { k.svc with moving := true } }
def Pack.waitsFull (k : Pack) : Pack := k.moving.scheduleCc 1 .fullServiceEntry {}
def Pack.movedFull (k : Pack) : Pack :=
  let k := k.moving.ioWr 0x73000 (setBits (k.moving.ioRd 0x73000) 63 60 2)
  { k with svc := { k.svc with moving := false }, period := 1, fab := { k.fab with live := BitVec.allOnes 18 } }.roundNow
theorem Pack.movedFull_full (k : Pack) : k.movedFull.full = true := by
  have hio : k.movedFull.io = (k.moving.ioWr 0x73000 (setBits (k.moving.ioRd 0x73000) 63 60 2)).io := by
    rw [Pack.movedFull, Pack.roundNow, Pack.schedule_io]
  rw [Pack.full, Pack.ioRd_congr hio, Pack.ioRd_ioWr_same, bits_setBits_same (n := 4) _ _ (by decide) (by decide)]
  rfl
theorem execFullServiceEntry_moves {s : State} (hr : s.pk.reduced = true) (hv : bits (s.pk.ioRd 0x73000) 15 0 ≠ 0) :
    execFullServiceEntry s = .next { s with pk := if !s.pk.sched.launches.isEmpty then s.pk.waitsFull else s.pk.movedFull } := by
  unfold execFullServiceEntry
  rw [if_neg (by simp [hr, hv])]
  rfl
theorem execFullServiceEntry_enters {s : State} (hr : s.pk.reduced = true) (hv : bits (s.pk.ioRd 0x73000) 15 0 ≠ 0)
    (hl : s.pk.sched.launches = []) : ∃ t, execFullServiceEntry s = .next t ∧
      t.pk.period = 1 ∧ t.pk.fab.live = BitVec.allOnes 18 ∧ t.pk.svc.moving = false ∧ t.pk.full = true := by
  refine ⟨_, execFullServiceEntry_moves hr hv, ?_⟩
  rw [if_neg (by simp [hl])]
  exact ⟨rfl, rfl, rfl, s.pk.movedFull_full⟩
theorem execFullServiceEntry_waits {s : State} (hr : s.pk.reduced = true) (hv : bits (s.pk.ioRd 0x73000) 15 0 ≠ 0)
    (hl : s.pk.sched.launches ≠ []) : ∃ t, execFullServiceEntry s = .next t ∧
      t.pk.period = s.pk.period ∧ t.pk.svc.moving = true ∧ t.pk.reduced = true := by
  refine ⟨_, execFullServiceEntry_moves hr hv, ?_⟩
  rw [if_pos (by simp [hl])]
  exact ⟨rfl, rfl, hr⟩

/-! ### Attestation -/

theorem dpaMalformed_iff (d : Word) : dpaMalformed d = true ↔ 2 ≤ bits d 47 40 ∨ d.getLsbD 39 = true := by
  simp [dpaMalformed]
theorem execAttestationRequest_free {s : State} (hv : s.pk.arg.v.getLsbD 63 = true) (hb : (s.pk.ioRd 0x73028).getLsbD 62 = false) :
    execAttestationRequest s = .next { s with pk :=
      (if (bits (s.pk.ioRd 0x73000) 15 0 = 0) then s.pk.setAtcmd false 1
      else if dpaMalformed (s.pk.ioRd 0x73020) then s.pk.setAtcmd false 2
      else (s.pk.setAtcmd true 0).schedule 2000 .attestationDone {}) } := by
  simp only [execAttestationRequest, hv, hb, Bool.not_true, Bool.false_eq_true, or_self, if_false]
  rfl
theorem execAttestationRequest_unverified {s : State} (hv : s.pk.arg.v.getLsbD 63 = true) (hb : (s.pk.ioRd 0x73028).getLsbD 62 = false)
    (h0 : bits (s.pk.ioRd 0x73000) 15 0 = 0) : execAttestationRequest s = .next (s.updPk fun k => k.setAtcmd false 1) := by
  rw [execAttestationRequest_free hv hb, if_pos h0]
  rfl
theorem execAttestationRequest_malformed {s : State} (hv : s.pk.arg.v.getLsbD 63 = true) (hb : (s.pk.ioRd 0x73028).getLsbD 62 = false)
    (h0 : bits (s.pk.ioRd 0x73000) 15 0 ≠ 0) (hm : 2 ≤ bits (s.pk.ioRd 0x73020) 47 40 ∨ (s.pk.ioRd 0x73020).getLsbD 39 = true) :
    execAttestationRequest s = .next (s.updPk fun k => k.setAtcmd false 2) := by
  rw [execAttestationRequest_free hv hb, if_neg h0, if_pos ((dpaMalformed_iff _).mpr hm)]
  rfl
theorem execAttestationRequest_forms {s : State} (hv : s.pk.arg.v.getLsbD 63 = true) (hb : (s.pk.ioRd 0x73028).getLsbD 62 = false)
    (h0 : bits (s.pk.ioRd 0x73000) 15 0 ≠ 0) (hw : bits (s.pk.ioRd 0x73020) 47 40 < 2) (hm : (s.pk.ioRd 0x73020).getLsbD 39 = false) :
    execAttestationRequest s = .next (s.updPk fun k => (k.setAtcmd true 0).schedule 2000 .attestationDone {}) := by
  have hgood : ¬ dpaMalformed (s.pk.ioRd 0x73020) = true := by
    rw [dpaMalformed_iff, hm]
    simpa using hw
  rw [execAttestationRequest_free hv hb, if_neg h0, if_neg hgood]
  rfl
theorem execAttestationDone_next {s : State} (h : (s.pk.ioRd 0x73028).getLsbD 62 = true) :
    ∃ t, execAttestationDone s = .next t ∧ t.pk.ioRd 0x73028 = 0 ∧ t.ctx = s.ctx := by
  simp only [execAttestationDone, h, Bool.not_true, Bool.false_eq_true, if_false, done]
  exact ⟨_, rfl, Pack.ioRd_ioWr_same .., rfl⟩

end Sys2Proof.Machine
end

-- ================================================================
-- Proofs, scope: Fatal errors and reset
-- ================================================================

section
namespace Sys2Proof.Machine
open Sys2Proof

/-! ### Fatal errors -/

/-- What a fatal error leaves of the service core and the ports: writes of memory change neither. -/
def Pack.ports (k : Pack) : Service × BitVec 18 := (k.svc, k.fab.live)
@[simp] theorem Pack.ports_ioWr (k : Pack) (off : Nat) (v : Word) : (k.ioWr off v).ports = k.ports := by rfl
@[simp] theorem Pack.ports_setLine (k : Pack) (l : MscLine) : (k.setLine l).ports = k.ports := by rfl
@[simp] theorem Pack.ports_dropLine (k : Pack) (l : Nat) : (k.dropLine l).ports = k.ports := by rfl
@[simp] theorem Pack.ports_reachBank (k : Pack) (cls cell : Nat) : (k.reachBank cls cell).ports = k.ports := by rfl
@[simp] theorem Pack.ports_refreshPin (k : Pack) (l : Nat) : (k.refreshPin l).ports = k.ports := by rfl
@[simp] theorem Pack.ports_windowWrite (k : Pack) (h d o : Nat) (bs : List Byte) : (k.windowWrite h d o bs).ports = k.ports := by rfl
@[simp] theorem Pack.ports_setSlot (k : Pack) (g : Nat) (f : VSlot → VSlot) : (k.setSlot g f).ports = k.ports := by rfl
@[simp] theorem Pack.ports_vsend (k : Pack) (g r : Nat) (m : VMsg) : (k.vsend g r m).ports = k.ports := by rfl
/-- Bytes stored, with the errors they clear. -/
@[simp] theorem Pack.ports_store (k : Pack) (p : Piece) (m : Stores) : ({ k.clearBad p with mem := m } : Pack).ports = k.ports := by rfl
@[simp] theorem Pack.ports_logError (k : Pack) (kind ctx addr : Nat) : (k.logError kind ctx addr).ports = k.ports := by
  simp [Pack.logError]
@[simp] theorem Pack.ports_writeBack (k : Pack) (l : Nat) : (k.writeBack l).ports = k.ports := by
  unfold Pack.writeBack
  split
  · split
    · rw [Pack.ports_setLine, Pack.foldl_frame Pack.ports _ fun _ _ => Pack.ports_store .., Pack.ports_reachBank]
    · rfl
  · rfl
@[simp] theorem Pack.ports_flush (k : Pack) (l : Nat) : (k.flush l).ports = k.ports := by
  unfold Pack.flush
  extract_lets j
  have hj : j.ports = k.ports := k.ports_writeBack l
  clear_value j
  rw [← hj]
  split
  · split <;> rfl
  · rfl
theorem Pack.ports_makeRoom {k j : Pack} {l : Nat} (h : k.makeRoom l = some j) : j.ports = k.ports := by
  unfold Pack.makeRoom at h
  extract_lets set can at h
  split at h
  · cases h; rfl
  split at h
  · cases h; rfl
  · obtain ⟨x, -, rfl⟩ := Option.map_eq_some_iff.mp h
    rw [Pack.ports_flush]
    rfl
@[simp] theorem Pack.ports_fill (k : Pack) (l : Nat) : (k.fill l).ports = k.ports := by
  unfold Pack.fill
  split
  · rfl
  next j h => rw [Pack.ports_setLine, Pack.ports_makeRoom h, Pack.ports_dropLine]
@[simp] theorem Pack.ports_bankWrite (k : Pack) (cls cell : Nat) (bs : List Byte) : (k.bankWrite cls cell bs).ports = k.ports := by
  unfold Pack.bankWrite
  extract_lets line k1 cleared k2
  have h2 : k2.ports = k.ports := (k1.ports_store ..).trans ((Pack.ports_reachBank ..).trans (k.ports_flush line))
  clear_value k2
  rw [← h2]
  split
  · extract_lets x
    split
    · rfl
    split <;> rfl
  · rfl
@[simp] theorem Pack.ports_lineWrite (k : Pack) (via : Via) (cell : Nat) (bs : List Byte) (count : Nat) :
    (k.lineWrite via cell bs count).ports = k.ports := by
  unfold Pack.lineWrite
  extract_lets line into k1 j
  have hinto (j : Pack) (c : Nat) : (into j c).ports = j.ports := by
    dsimp only [into]
    split <;> rfl
  have h1 : k1.ports = k.ports := k.ports_refreshPin line
  have hj : j.ports = k1.ports := by rw [Pack.ports_fill, Pack.ports_reachBank]
  rw [← h1]
  clear_value into k1 j
  split
  · rfl
  split
  · exact Pack.ports_bankWrite ..
  split
  · exact hinto ..
  split
  · exact Pack.ports_bankWrite ..
  split
  · exact Pack.ports_bankWrite ..
  · rw [hinto, hj]
@[simp] theorem Pack.ports_logWrite (k : Pack) (g reg : Nat) (e : LogEntry) : (k.logWrite g reg e).ports = k.ports :=
  Pack.ports_bankWrite ..
theorem Pack.ports_deltaSector (k : Pack) (g off cell : Nat) (bs : List Byte) : (k.deltaSector g off cell bs).pack.ports = k.ports := by
  unfold Pack.deltaSector
  extract_lets v sec unheld j0 j1 old at_ new delta e j2 K n rows
  have h1 : j1.ports = k.ports := (j0.ports_flush _).trans (k.ports_refreshPin _)
  have h2 : j2.ports = k.ports := (j1.ports_bankWrite ..).trans h1
  clear_value j1 j2
  split
  · rfl
  split
  · rw [PartEnd.pack, Pack.ports_setSlot, Pack.ports_logError, h1]
  split
  · exact h1
  split
  rw [PartEnd.pack, Pack.foldl_frame Pack.ports _ fun _ _ => Pack.ports_vsend .., Pack.ports_setSlot, Pack.ports_logWrite, h2]
theorem Pack.ports_partWrite (k : Pack) (via : Via) (count : Nat) (p : Piece) (bs : List Byte) :
    (k.partWrite via count p bs).pack.ports = k.ports := by
  unfold Pack.partWrite
  split
  · split
    · exact Pack.ports_lineWrite ..
    · exact Pack.ports_deltaSector ..
  · rfl
theorem Pack.ports_countDrops (k : Pack) (gs : List Nat) : (k.countDrops gs).ports = k.ports :=
  Pack.foldl_frame Pack.ports _ (fun _ _ => Pack.ports_setSlot ..) _ _
theorem Pack.ports_partsWrite (via : Via) (count : Nat) (parts : List (Piece × List Byte)) (k : Pack) (n : Nat) (fail : Bool) (gs : List Nat) :
    (Pack.partsWrite via count parts k n fail gs).pack.ports = k.ports := by
  induction parts generalizing k n fail gs with
  | nil =>
    rw [Pack.partsWrite]
    split <;> exact Pack.ports_countDrops ..
  | cons p rest ih =>
    have hp := k.ports_partWrite via count p.1 p.2
    rw [Pack.partsWrite]
    cases he : k.partWrite via count p.1 p.2 with
    | held j => rw [he] at hp; exact (Pack.ports_countDrops ..).trans hp
    | ok j | failed j | refused j g => rw [he] at hp; exact (ih ..).trans hp
theorem Pack.ports_pieceWrite (k : Pack) (via : Via) (p : Piece) (bs : List Byte) : (k.pieceWrite via p bs).pack.ports = k.ports :=
  Pack.ports_partsWrite ..
theorem Pack.ports_dumpLines (k : Pack) (d fuel : Nat) (bs : List Byte) : (k.dumpLines d fuel bs).1.ports = k.ports := by
  induction fuel generalizing k d bs with
  | zero => rfl
  | succ fuel ih =>
    have hp := k.ports_pieceWrite {} ⟨.dram, dpaCell d, min 128 bs.length⟩ (bs.take 128)
    rw [Pack.dumpLines]
    split
    · rfl
    split
    next j hj =>
      rw [hj] at hp
      exact (ih ..).trans hp
    · exact hp
theorem Pack.sendIrq_frame (k : Pack) (v count : Nat) : (k.sendIrq v count).ports = k.ports ∧ (k.sendIrq v count).io = k.io := by
  unfold Pack.sendIrq
  extract_lets e b j
  split <;> exact ⟨rfl, rfl⟩
theorem execFatalError_next (s : State) : ∃ t, execFatalError s = .next t ∧ t.pk.svc.fatal = true ∧ bits (t.pk.ioRd 0x73000) 63 60 = 3 ∧
    t.pk.fab.live = 0 ∧ t.ctx = s.ctx := by
  unfold execFatalError
  extract_lets s1 d
  have h1 : s1.pk.ports = ({ s.pk.svc with fatal := true }, 0) := by rfl
  have hctx (f : Pack → Pack) : (s1.updPk f).ctx = s.ctx := by rfl
  clear_value s1
  refine ⟨_, rfl, ?_⟩
  rw [State.updPk_pk]
  extract_lets r k2 k3
  have h2 : k2.ports = s1.pk.ports := by
    have hr : r.1.ports = s1.pk.ports := Pack.ports_dumpLines ..
    dsimp only [k2]
    split
    · rw [Pack.ports_pieceWrite, hr]
    · exact hr
  have hmode : bits (k3.ioRd 0x73000) 63 60 = 3 := by
    rw [Pack.ioRd_ioWr_same, bits_setBits_same (n := 4) _ _ (by decide) (by decide)]
    rfl
  have h3 : k3.ports = ({ s.pk.svc with fatal := true }, 0) := (k2.ports_ioWr ..).trans (h2.trans h1)
  clear_value k3
  obtain ⟨hp, hio⟩ := k3.sendIrq_frame (bits (k3.ioRd 0x73108) 7 0) 1
  obtain ⟨hsvc, hlive⟩ := Prod.ext_iff.mp (hp.trans h3)
  refine ⟨congrArg Service.fatal hsvc, ?_, hlive, hctx _⟩
  rw [Pack.ioRd_congr hio, hmode]

/-! ### Reset -/

theorem Pack.slot_map {j k : Pack} (f : VSlot → VSlot) (hj : j.ven = k.ven.map f) (hf : f {} = {}) (g : Nat) : j.slot g = f (k.slot g) := by
  simp only [Pack.slot, hj, Vector.getElem?_map]
  cases k.ven[g]? with
  | none => exact hf.symm
  | some v => rfl
/-- The package after a part reset, before an image verified in full service runs: storage, free values and what the Veneer's logs owe
stay (log 2, log 42). -/
def Pack.afterReset (k : Pack) : Pack :=
  { Pack.reset with mem := k.mem, bad := k.bad, freeCtr := k.freeCtr, ven := k.ven.map fun v => { owed := v.owed } }
def Pack.resetRuns (k : Pack) (ver : Nat) (d : BitVec 512) : Pack :=
  { k.ioWr 0x73000 (BitVec.ofNat 64 (0x1200_0000_0001_0000 + ver)) with svc := { k.svc with digest := d } }
theorem Pack.resetRuns_frame (k : Pack) (ver : Nat) (d : BitVec 512) :
    (k.resetRuns ver d).mem = k.mem ∧ (k.resetRuns ver d).ops = k.ops ∧ (k.resetRuns ver d).tls = k.tls ∧ (k.resetRuns ver d).ven = k.ven ∧
      (k.resetRuns ver d).svc = { k.svc with digest := d } ∧
      (k.resetRuns ver d).ioRd 0x73000 = BitVec.ofNat 64 (0x1200_0000_0001_0000 + ver) := by
  unfold Pack.resetRuns
  generalize BitVec.ofNat 64 (0x1200_0000_0001_0000 + ver) = w
  exact ⟨rfl, rfl, rfl, rfl, rfl, k.ioRd_ioWr_same 0x73000 w⟩
theorem Pack.slot_congr {j k : Pack} (h : j.ven = k.ven) (g : Nat) : j.slot g = k.slot g := by
  rw [Pack.slot, Pack.slot, h]
theorem execPartReset_eq (s : State) : execPartReset s = .next { State.reset with pk :=
    match s.pk.svc.next with
    | some (ver, d) => s.pk.afterReset.resetRuns ver d
    | none => s.pk.afterReset } := by
  rfl
theorem Pack.slot_afterReset (k : Pack) (g : Nat) : k.afterReset.slot g = { owed := (k.slot g).owed } :=
  Pack.slot_map (fun v => { owed := v.owed }) rfl rfl g
theorem execPartReset_next (s : State) : ∃ t, execPartReset s = .next t ∧ t.ctx = State.reset.ctx ∧ t.sib = State.reset.sib ∧
    t.core = State.reset.core ∧ t.todo = State.reset.todo ∧ t.past = [] ∧ t.pk.mem = s.pk.mem ∧ t.pk.ops = [] ∧ t.pk.tls = [] ∧
    t.pk.svc.fatal = false ∧ (∀ g, t.pk.slot g = { owed := (s.pk.slot g).owed }) ∧ (s.pk.svc.next = none → t.pk.io = []) ∧
    (∀ ver d, s.pk.svc.next = some (ver, d) →
      t.pk.svc.digest = d ∧ t.pk.ioRd 0x73000 = BitVec.ofNat 64 (0x1200_0000_0001_0000 + ver)) := by
  refine ⟨_, execPartReset_eq s, rfl, rfl, rfl, rfl, rfl, ?_⟩
  cases hn : s.pk.svc.next with
  | none => exact ⟨rfl, rfl, rfl, rfl, s.pk.slot_afterReset, fun _ => rfl, fun _ _ h => absurd h (by simp)⟩
  | some x =>
    obtain ⟨ver, d⟩ := x
    obtain ⟨hmem, hops, htls, hven, hsvc, hmode⟩ := s.pk.afterReset.resetRuns_frame ver d
    refine ⟨hmem, hops, htls, congrArg Service.fatal hsvc, fun g => ?_, fun h => absurd h (by simp), fun ver' d' h => ?_⟩
    · exact (Pack.slot_congr hven g).trans (s.pk.slot_afterReset g)
    · obtain ⟨rfl, rfl⟩ := Prod.mk.inj (Option.some.inj h)
      exact ⟨congrArg Service.digest hsvc, hmode⟩

end Sys2Proof.Machine

open Sys2Proof Sys2Proof.Machine

/-- Settles O57, each clause from the lemma about its step. -/
theorem hostAndServiceSteps : Obligations.HostAndServiceSteps := by
  intro s k a off v dpa w
  refine ⟨execPinEnable_enabled, fun h => ⟨execPinEnable_plain rfl h, execPinEnable_loads rfl h, fun c => execPinEnable_refused rfl h⟩,
    execPinLoadDone_active rfl, execPinRelease_held, fun hs hg => ⟨execPinFade_last rfl hs hg, execPinFade_counts rfl hs hg⟩,
    execBudgetPeriod_next s, fun hn _ => ?_, fun h1 h2 h3 h4 => execRegisterWrite_frame ⟨h1, h2, h3, h4⟩,
    fun m => execRegisterWrite_fixed, fun m => execRegisterWrite_clears, execRegisterWrite_mergeage, execRegisterWrite_ddthr,
    execFirmwareLoad_begins, fun img hi => ?_, execFullServiceEntry_enters, execFullServiceEntry_waits,
    fun hv hb => ⟨execAttestationRequest_unverified hv hb, execAttestationRequest_malformed hv hb, execAttestationRequest_forms hv hb⟩,
    execAttestationDone_next, execFatalError_next s, execPartReset_next s⟩
  · exact ⟨execAbsh_channel0_fits hn, execAbsh_channel0_exceeds hn⟩
  · exact ⟨fun h => execFirmwareVerifyDone_refused hi (Pack.verdict_unread img h) (by decide),
      fun h hs => execFirmwareVerifyDone_refused hi (Pack.verdict_misshapen h hs) (by decide),
      fun h hs hg => execFirmwareVerifyDone_refused hi (Pack.verdict_unsigned h hs hg) (by decide),
      fun h hs hg hv => execFirmwareVerifyDone_refused hi (Pack.verdict_old h hs hg hv) (by decide),
      fun h hs hg hv => execFirmwareVerifyDone_accepted hi (Pack.verdict_good h hs hg hv) (imageVersion_lt img)⟩
end

-- ================================================================
-- Proofs, scope: Magnitudes and their rounding
-- ================================================================

section
namespace Sys2Proof.Machine
open Sys2Proof

/-! ### Powers of two as fractions -/

theorem zpow_two_eq_div (q : Int) : (2 : ℚ) ^ q = 2 ^ q.toNat / 2 ^ (-q).toNat := by
  rw [eq_div_iff (by positivity), ← zpow_natCast, ← zpow_natCast, ← zpow_add₀ two_ne_zero]
  congr 1
  omega

theorem fracOf_den_pos (m : Nat) (e : Int) : 0 < (fracOf m e).2 := by simp [fracOf]

theorem fracOf_div (m : Nat) (e : Int) : ((fracOf m e).1 : ℚ) / (fracOf m e).2 = m * 2 ^ e := by
  simp [fracOf, zpow_two_eq_div e, mul_div_assoc]

theorem fracOf_num_pos {m : Nat} (e : Int) (h : m ≠ 0) : 0 < (fracOf m e).1 := by
  simp [fracOf, Nat.pos_of_ne_zero h]

theorem two_zpow_log2_le {n : Nat} (h : 0 < n) : (2 : ℚ) ^ (n.log2 : Int) ≤ n := by
  exact_mod_cast Nat.log2_self_le h.ne'

theorem lt_two_zpow_log2 (n : Nat) : (n : ℚ) < 2 ^ ((n.log2 : Int) + 1) := by
  exact_mod_cast Nat.lt_log2_self (n := n)

/-- The comparison by which `floorLog2` corrects its first guess. -/
theorem floorLog2_eq (num den : Nat) (h : 0 < den) :
    floorLog2 num den = if (2 : ℚ) ^ ((num.log2 : Int) - den.log2) ≤ num / den then (num.log2 : Int) - den.log2
      else (num.log2 : Int) - den.log2 - 1 := by
  have hd : (0 : ℚ) < den := by exact_mod_cast h
  unfold floorLog2
  generalize (num.log2 : Int) - den.log2 = l
  have hle : (2 : ℚ) ^ l ≤ num / den ↔ den * 2 ^ l.toNat ≤ num * 2 ^ (-l).toNat := by
    rw [zpow_two_eq_div, div_le_div_iff₀ (by positivity) hd, mul_comm]
    exact_mod_cast Iff.rfl
  by_cases h0 : 0 ≤ l
  · simp [h0, hle, Int.toNat_eq_zero.mpr (show -l ≤ 0 by omega)]
  · simp [h0, hle, Int.toNat_eq_zero.mpr (show l ≤ 0 by omega)]

theorem floorLog2_spec {num den : Nat} (hn : 0 < num) (hd : 0 < den) :
    (2 : ℚ) ^ floorLog2 num den ≤ num / den ∧ (num : ℚ) / den < 2 ^ (floorLog2 num den + 1) := by
  have hd' : (0 : ℚ) < den := by exact_mod_cast hd
  rw [floorLog2_eq num den hd]
  split
  case isTrue h =>
    refine ⟨h, ?_⟩
    rw [div_lt_iff₀ hd']
    calc (num : ℚ) < 2 ^ ((num.log2 : Int) + 1) := lt_two_zpow_log2 num
      _ = 2 ^ ((num.log2 : Int) - den.log2 + 1) * 2 ^ (den.log2 : Int) := by rw [← zpow_add₀ two_ne_zero]; congr 1; ring
      _ ≤ _ := by gcongr; exact two_zpow_log2_le hd
  case isFalse h =>
    refine ⟨?_, by simpa using h⟩
    rw [le_div_iff₀ hd']
    calc (2 : ℚ) ^ ((num.log2 : Int) - den.log2 - 1) * den
        ≤ 2 ^ ((num.log2 : Int) - den.log2 - 1) * 2 ^ ((den.log2 : Int) + 1) := by gcongr; exact (lt_two_zpow_log2 den).le
      _ = 2 ^ (num.log2 : Int) := by rw [← zpow_add₀ two_ne_zero]; congr 1; ring
      _ ≤ num := two_zpow_log2_le hn

theorem floorLog2_unique {num den : Nat} {k : Int} (hn : 0 < num) (hd : 0 < den) (h : (2 : ℚ) ^ k ≤ num / den)
    (h' : (num : ℚ) / den < 2 ^ (k + 1)) : floorLog2 num den = k := by
  obtain ⟨hl, hl'⟩ := floorLog2_spec hn hd
  have h1 := (zpow_lt_zpow_iff_right₀ (one_lt_two : (1 : ℚ) < 2)).mp (hl.trans_lt h')
  have h2 := (zpow_lt_zpow_iff_right₀ (one_lt_two : (1 : ℚ) < 2)).mp (h.trans_lt hl')
  omega

/-! ### The grid of magnitudes -/

/-- The magnitude of a code without its sign, as a multiple of the least subnormal. -/
def gridMag (man c : Nat) : Nat := if c < 2 ^ man then c else (2 ^ man + c % 2 ^ man) * 2 ^ (c / 2 ^ man - 1)

/-- A code is a place in a run of codes with the spacing 2^E. -/
theorem exists_grid_place (man c : Nat) :
    ∃ E t, c = E * 2 ^ man + t ∧ (E = 0 ∨ 2 ^ man ≤ t) ∧ t < 2 ^ (man + 1) := by
  have hp : 0 < 2 ^ man := by positivity
  have hc := Nat.div_add_mod' c (2 ^ man)
  have hm := Nat.mod_lt c hp
  refine ⟨c / 2 ^ man - 1, c - (c / 2 ^ man - 1) * 2 ^ man, ?_⟩
  cases h : c / 2 ^ man with
  | zero => rw [h] at hc; simp [pow_succ]; omega
  | succ k =>
    rw [h, add_mul, one_mul] at hc
    rw [Nat.add_sub_cancel, pow_succ]
    omega

theorem gridMag_place {man E t : Nat} (h : E = 0 ∨ 2 ^ man ≤ t) (ht : t ≤ 2 ^ (man + 1)) :
    gridMag man (E * 2 ^ man + t) = t * 2 ^ E := by
  have hp : 0 < 2 ^ man := by positivity
  rw [pow_succ] at ht
  unfold gridMag
  by_cases hlow : t < 2 ^ man
  · obtain rfl : E = 0 := by omega
    simp [hlow]
  obtain ⟨u, rfl⟩ := Nat.exists_eq_add_of_le (Nat.le_of_not_lt hlow)
  have he : E * 2 ^ man + (2 ^ man + u) = u + (E + 1) * 2 ^ man := by ring
  rw [if_neg (by have := Nat.zero_le (E * 2 ^ man); omega), he, Nat.add_mul_mod_self_right, Nat.add_mul_div_right _ _ hp]
  rcases (show u ≤ 2 ^ man by omega).lt_or_eq with hu | rfl
  · rw [Nat.mod_eq_of_lt hu, Nat.div_eq_of_lt hu, Nat.zero_add, Nat.add_sub_cancel]
  · rw [Nat.mod_self, Nat.div_self hp, Nat.add_sub_cancel_left]
    ring

theorem gridMag_place_succ {man E t : Nat} (h : E = 0 ∨ 2 ^ man ≤ t) (ht : t < 2 ^ (man + 1)) :
    gridMag man (E * 2 ^ man + t + 1) = t * 2 ^ E + 2 ^ E := by
  rw [Nat.add_assoc, gridMag_place (h.imp_right fun h => by omega) ht, Nat.succ_mul]

theorem gridMag_strictMono (man : Nat) : StrictMono (gridMag man) := by
  refine strictMono_nat_of_lt_succ fun c => ?_
  obtain ⟨E, t, rfl, h, ht⟩ := exists_grid_place man c
  rw [gridMag_place h ht.le, gridMag_place_succ h ht]
  exact Nat.lt_add_of_pos_right (by positivity)

/-- The magnitude of a code without its sign (R24). -/
def FpParams.mag (p : FpParams) (c : Nat) : ℚ := gridMag p.man c * 2 ^ (1 - (p.bias : Int) - p.man)

theorem FpParams.mag_strictMono (p : FpParams) : StrictMono p.mag := fun a b h => by
  unfold FpParams.mag
  have : (gridMag p.man a : ℚ) < gridMag p.man b := by exact_mod_cast gridMag_strictMono p.man h
  gcongr

@[simp] theorem FpParams.mag_zero (p : FpParams) : p.mag 0 = 0 := by simp [FpParams.mag, gridMag]

theorem FpParams.mag_place (p : FpParams) {E t : Nat} (h : E = 0 ∨ 2 ^ p.man ≤ t) (ht : t ≤ 2 ^ (p.man + 1)) :
    p.mag (E * 2 ^ p.man + t) = t * 2 ^ ((E : Int) + 1 - p.bias - p.man) := by
  rw [FpParams.mag, gridMag_place h ht, Nat.cast_mul, Nat.cast_pow, Nat.cast_ofNat, mul_assoc, ← zpow_natCast,
    ← zpow_add₀ two_ne_zero]
  congr 2
  ring

/-! ### The codes on either side of a fraction -/

theorem atQuantum_spec {num den : Nat} (h : 0 < den) (q : Int) {t r d : Nat} (ha : atQuantum num den q = (t, r, d)) :
    r < d ∧ (num : ℚ) / den = (t + r / d) * 2 ^ q := by
  obtain ⟨rfl, rfl, rfl⟩ : _ ∧ _ ∧ _ := by simpa [atQuantum] using ha
  have hd : 0 < den * 2 ^ q.toNat := by positivity
  refine ⟨Nat.mod_lt _ hd, ?_⟩
  have hdq : ((den * 2 ^ q.toNat : Nat) : ℚ) ≠ 0 := by exact_mod_cast hd.ne'
  have hdiv := congrArg (Nat.cast (R := ℚ)) (Nat.div_add_mod' (num * 2 ^ (-q).toNat) (den * 2 ^ q.toNat))
  rw [Nat.cast_add, Nat.cast_mul] at hdiv
  rw [show ((_ : ℚ) + _ / _) = ((num * 2 ^ (-q).toNat : Nat) : ℚ) / (den * 2 ^ q.toNat : Nat) by
    rw [← hdiv, add_div, mul_div_cancel_right₀ _ hdq], zpow_two_eq_div]
  push_cast
  field_simp

/-- `neighbours` by its parts: the code's run and its place there. -/
theorem neighbours_place (p : FpParams) {num den lo r d : Nat} (hn : 0 < num) (hd : 0 < den)
    (h : neighbours p num den = (lo, r, d)) : r < d ∧ ∃ E t : Nat, lo = E * 2 ^ p.man + t ∧ (E = 0 ∨ 2 ^ p.man ≤ t) ∧
      t < 2 ^ (p.man + 1) ∧ ((E : Int) + 1 - p.bias) = max (floorLog2 num den) (1 - (p.bias : Int)) ∧
      (num : ℚ) / den = (t + r / d) * 2 ^ ((E : Int) + 1 - p.bias - p.man) := by
  obtain ⟨hl, hl'⟩ := floorLog2_spec hn hd
  have hd0 : (0 : ℚ) < den := by exact_mod_cast hd
  unfold neighbours at h
  rw [if_neg hn.ne'] at h
  simp only at h
  generalize he : max (floorLog2 num den) (1 - (p.bias : Int)) = e at h
  cases ha : atQuantum num den (e - p.man) with | mk t rd =>
  obtain ⟨r', d'⟩ := rd
  obtain ⟨rfl, rfl, rfl⟩ : _ ∧ _ ∧ _ := by simpa [ha] using h
  obtain ⟨hr, hv⟩ := atQuantum_spec hd _ ha
  have hE : ((e - (1 - (p.bias : Int))).toNat : Int) + 1 - p.bias = e := by omega
  have hd' : (0 : ℚ) < d' := by exact_mod_cast (Nat.zero_le r').trans_lt hr
  have hr' : (r' : ℚ) / d' < 1 := by rw [div_lt_one hd']; exact_mod_cast hr
  have hq : (0 : ℚ) < 2 ^ (e - p.man) := by positivity
  refine ⟨hr, _, t, rfl, ?_, ?_, hE, by rw [hE, hv]⟩
  · refine or_iff_not_imp_left.mpr fun h0 => ?_
    have hle : (2 : ℚ) ^ (p.man : Int) * 2 ^ (e - p.man) ≤ (t + r' / d') * 2 ^ (e - p.man) := by
      rw [← zpow_add₀ two_ne_zero, ← hv, add_sub_cancel, show e = floorLog2 num den by omega]
      exact hl
    have := (le_of_mul_le_mul_right hle hq).trans_lt (add_lt_add_right hr' _)
    rw [zpow_natCast] at this
    exact Nat.lt_succ_iff.mp (by exact_mod_cast this)
  · have hlt : (t + r' / d' : ℚ) * 2 ^ (e - p.man) < 2 ^ ((p.man + 1 : Nat) : Int) * 2 ^ (e - p.man) := by
      rw [← zpow_add₀ two_ne_zero, ← hv, show ((p.man + 1 : Nat) : Int) + (e - p.man) = e + 1 by push_cast; ring]
      exact hl'.trans_le (zpow_le_zpow_right₀ one_le_two (by omega))
    have hpos : (0 : ℚ) ≤ r' / d' := by positivity
    have := (le_add_of_nonneg_right hpos).trans_lt (lt_of_mul_lt_mul_right hlt hq.le)
    rw [zpow_natCast] at this
    exact_mod_cast this

/-- The spacing of the codes at a fraction. -/
theorem neighbours_gap (p : FpParams) {num den lo r d : Nat} (hn : 0 < num) (hd : 0 < den)
    (h : neighbours p num den = (lo, r, d)) :
    p.mag (lo + 1) - p.mag lo = 2 ^ (max (floorLog2 num den) (1 - (p.bias : Int)) - p.man) := by
  obtain ⟨-, E, t, rfl, hE, ht, he, -⟩ := neighbours_place p hn hd h
  rw [Nat.add_assoc, p.mag_place hE ht.le, p.mag_place (hE.imp_right fun h => by omega) ht, he]
  push_cast
  ring

/-- R40: a fraction lies between the magnitudes of its two neighbours, at r/d of their spacing. -/
theorem neighbours_spec (p : FpParams) {num den lo r d : Nat} (hd : 0 < den) (h : neighbours p num den = (lo, r, d)) :
    r < d ∧ (num : ℚ) / den = p.mag lo + r / d * (p.mag (lo + 1) - p.mag lo) := by
  rcases num.eq_zero_or_pos with rfl | hn
  · obtain ⟨rfl, rfl, rfl⟩ : _ ∧ _ ∧ _ := by simpa [neighbours] using h
    simp
  · have hg := neighbours_gap p hn hd h
    obtain ⟨hr, E, t, rfl, hE, ht, he, hv⟩ := neighbours_place p hn hd h
    rw [hg, ← he, p.mag_place hE ht.le, hv]
    exact ⟨hr, by ring⟩

/-- A fraction below the next code and no smaller than its lower neighbour. -/
theorem neighbours_bounds (p : FpParams) {num den lo r d : Nat} (hd : 0 < den) (h : neighbours p num den = (lo, r, d)) :
    p.mag lo ≤ num / den ∧ (num : ℚ) / den < p.mag (lo + 1) ∧ (r = 0 ↔ (num : ℚ) / den = p.mag lo) := by
  obtain ⟨hr, hv⟩ := neighbours_spec p hd h
  have hgap : 0 < p.mag (lo + 1) - p.mag lo := sub_pos.mpr (p.mag_strictMono lo.lt_succ_self)
  have hd0 : (0 : ℚ) < d := by exact_mod_cast (Nat.zero_le r).trans_lt hr
  have hr1 : (r : ℚ) / d < 1 := by rw [div_lt_one hd0]; exact_mod_cast hr
  refine ⟨?_, ?_, ?_⟩
  · rw [hv]; exact le_add_of_nonneg_right (by positivity)
  · rw [hv]; linarith [mul_lt_of_lt_one_left hgap hr1]
  · rw [hv, add_eq_left, mul_eq_zero, div_eq_zero_iff]
    simp [hgap.ne', hd0.ne']

/-! ### Rounding a fraction -/

/-- A sticky bit halves the fraction's unit and lies in its middle. -/
theorem roundFrac_sticky (f : Fmt) (rm : Rnd) (neg : Bool) (num den : Nat) :
    roundFrac f rm neg num den (sticky := true) = roundFrac f rm neg (2 * num + 1) (2 * den) := rfl

/-- The code of a rounded magnitude before the overflow table, and whether it differs from the magnitude. -/
def roundMag (p : FpParams) (rm : Rnd) (neg : Bool) (num den : Nat) : Nat × Bool :=
  let (lo, r, d) := neighbours p num den
  (if roundsUp rm neg lo r d then lo + 1 else lo, r != 0)

theorem roundFrac_eq (f : Fmt) (rm : Rnd) (neg : Bool) (num den : Nat) :
    roundFrac f rm neg num den =
      if (roundMag f.params rm neg num den).1 ≤ f.params.maxCode then
        (f.signed neg (roundMag f.params rm neg num den).1,
          flagIf (roundMag f.params rm neg num den).2 flNX |||
            flagIf ((roundMag f.params rm neg num den).2 && decide ((roundMag f.params rm neg num den).1 < 2 ^ f.params.man)) flUF)
      else (f.signed neg (overflowCode f.params rm neg), flOF ||| flNX) := by
  unfold roundFrac roundMag Fmt.signed
  simp only [Bool.false_eq_true, if_false, gt_iff_lt, ← Nat.not_le, ite_not]
  cases neg <;> simp only [Bool.false_eq_true, if_false, if_true, Nat.zero_add]

theorem roundsUp_zero (rm : Rnd) (neg : Bool) (t d : Nat) (h : 0 < d) : roundsUp rm neg t 0 d = false := by
  cases rm <;> simp [roundsUp, h.ne]

/-- What every mode keeps to: the code is one of the two neighbours, and one that holds the magnitude stands. -/
theorem roundMag_spec (p : FpParams) (rm : Rnd) (neg : Bool) {num den : Nat} (hd : 0 < den) :
    ∃ lo, (roundMag p rm neg num den = (lo, false) ∧ (num : ℚ) / den = p.mag lo) ∨
      (((roundMag p rm neg num den).1 = lo ∨ (roundMag p rm neg num den).1 = lo + 1) ∧ (roundMag p rm neg num den).2 = true ∧
        p.mag lo < num / den ∧ (num : ℚ) / den < p.mag (lo + 1)) := by
  unfold roundMag
  cases h : neighbours p num den with | mk lo rd =>
  obtain ⟨r, d⟩ := rd
  obtain ⟨hlo, hhi, hz⟩ := neighbours_bounds p hd h
  obtain ⟨hr, -⟩ := neighbours_spec p hd h
  refine ⟨lo, ?_⟩
  by_cases hr0 : r = 0
  · exact .inl ⟨by simp [hr0, roundsUp_zero rm neg lo d (by omega)], hz.mp hr0⟩
  · refine .inr ⟨?_, by simpa using hr0, lt_of_le_of_ne hlo fun he => hr0 (hz.mpr he.symm), hhi⟩
    simp only
    split <;> simp

/-- R40: the magnitude of a code rounds to that code. -/
theorem roundMag_mag (p : FpParams) (rm : Rnd) (neg : Bool) {num den c : Nat} (hd : 0 < den) (h : (num : ℚ) / den = p.mag c) :
    roundMag p rm neg num den = (c, false) := by
  obtain ⟨lo, ⟨he, hlo⟩ | ⟨-, -, hlo, hhi⟩⟩ := roundMag_spec p rm neg (num := num) hd
  · rw [he, p.mag_strictMono.injective (hlo.symm.trans h)]
  · rw [h] at hlo hhi
    have := p.mag_strictMono.lt_iff_lt.mp hlo
    have := p.mag_strictMono.lt_iff_lt.mp hhi
    omega

theorem roundFrac_mag (f : Fmt) (rm : Rnd) (neg : Bool) {num den c : Nat} (hd : 0 < den) (h : (num : ℚ) / den = f.params.mag c)
    (hc : c ≤ f.params.maxCode) : roundFrac f rm neg num den = (f.signed neg c, 0) := by
  rw [roundFrac_eq, roundMag_mag f.params rm neg hd h, if_pos hc]
  simp [flagIf]

/-! ### What a code denotes -/

/-- The magnitude and the sign of a code that is neither a NaN nor an infinity (R24). -/
theorem decodeFloat_fin (f : Fmt) {c : Nat} (h : c % 2 ^ (f.params.width - 1) ≤ f.params.maxCode) :
    ∃ m e, decodeFloat f c = .fin (c / 2 ^ (f.params.width - 1) % 2 == 1) m e ∧
      (m : ℚ) * 2 ^ e = f.params.mag (c % 2 ^ (f.params.width - 1)) := by
  unfold decodeFloat FpParams.mag gridMag
  simp only
  generalize c % 2 ^ (f.params.width - 1) = mag at h
  rw [if_neg (Nat.not_lt.mpr h)]
  have hp : 0 < 2 ^ f.params.man := by positivity
  have hlt : mag / 2 ^ f.params.man = 0 ↔ mag < 2 ^ f.params.man := by rw [Nat.div_eq_zero_iff_lt hp]
  split
  case isTrue h0 =>
    refine ⟨_, _, rfl, ?_⟩
    rw [if_pos (hlt.mp h0), Nat.mod_eq_of_lt (hlt.mp h0)]
  case isFalse h0 =>
    refine ⟨_, _, rfl, ?_⟩
    rw [if_neg (mt hlt.mpr h0), Nat.cast_mul, Nat.cast_pow, Nat.cast_ofNat, mul_assoc, ← zpow_natCast (2 : ℚ) (_ - 1),
      ← zpow_add₀ two_ne_zero]
    congr 2
    generalize mag / 2 ^ f.params.man = k at h0
    omega

/-- A finite value comes from such a code. -/
theorem decodeFloat_eq_fin {f : Fmt} {c : Nat} {n : Bool} {m : Nat} {e : Int} (h : decodeFloat f c = .fin n m e) :
    c % 2 ^ (f.params.width - 1) ≤ f.params.maxCode ∧ n = (c / 2 ^ (f.params.width - 1) % 2 == 1) ∧
      (m : ℚ) * 2 ^ e = f.params.mag (c % 2 ^ (f.params.width - 1)) := by
  have hle : c % 2 ^ (f.params.width - 1) ≤ f.params.maxCode := by
    by_contra hc
    unfold decodeFloat at h
    simp only at h
    rw [if_pos (Nat.lt_of_not_le hc)] at h
    split at h <;> cases h
  obtain ⟨m', e', hd, hv⟩ := decodeFloat_fin f hle
  obtain ⟨rfl, rfl, rfl⟩ : _ ∧ _ ∧ _ := by simpa [hd] using h
  exact ⟨hle, rfl, hv⟩

/-- A code is its sign bit and its magnitude. -/
theorem Fmt.signed_split (f : Fmt) {c : Nat} (hw : 0 < f.params.width) (h : c < 2 ^ f.params.width) :
    f.signed (c / 2 ^ (f.params.width - 1) % 2 == 1) (c % 2 ^ (f.params.width - 1)) = c := by
  obtain ⟨w, hw⟩ := Nat.exists_eq_succ_of_ne_zero hw.ne'
  rw [hw, Nat.pow_succ] at h
  rw [Fmt.signed, hw, Nat.succ_sub_one]
  have hc := Nat.div_add_mod c (2 ^ w)
  have hq : c / 2 ^ w < 2 := Nat.div_lt_of_lt_mul h
  generalize c / 2 ^ w = q at hq hc
  interval_cases q <;> simp at hc ⊢ <;> omega

/-! ### The formats of float instructions -/

/-- A format laid out as IEEE 754 has it (R23): the code after the greatest magnitude is the infinity's, NaNs follow. -/
structure Fmt.Ieee (f : Fmt) : Prop where
  isFloat : f.isFloat = true
  width : f.width = f.params.width
  width_pos : 0 < f.params.width
  inf : f.params.inf = some (f.params.maxCode + 1)
  bias : 1 ≤ f.params.bias
  max : f.params.maxCode + 1 = (2 * f.params.bias + 1) * 2 ^ f.params.man
  top : 2 ^ (f.params.width - 1) = (2 * f.params.bias + 2) * 2 ^ f.params.man

theorem floatType_cases (t : BitVec 2) : floatType t = .f32 ∨ floatType t = .bf16 ∨ floatType t = .f16 := by
  unfold floatType
  split
  · exact .inl rfl
  · split <;> simp

theorem floatType_ieee (t : BitVec 2) : (floatType t).Ieee := by
  rcases floatType_cases t with h | h | h <;> rw [h] <;>
    exact ⟨rfl, rfl, by decide, rfl, by decide, by decide, by decide⟩

/-- The infinities and NaNs have the magnitudes above the greatest (R24). -/
theorem decodeFloat_special (f : Fmt) {c : Nat} (h : f.params.maxCode < c % 2 ^ (f.params.width - 1)) :
    (f.params.inf = some (c % 2 ^ (f.params.width - 1)) ∧ decodeFloat f c = .inf (c / 2 ^ (f.params.width - 1) % 2 == 1)) ∨
      ∃ sig, decodeFloat f c = .nan sig := by
  unfold decodeFloat
  simp only
  rw [if_pos h]
  split
  case isTrue hi => exact .inl ⟨by simpa using hi, rfl⟩
  case isFalse => exact .inr ⟨_, rfl⟩

/-- A value that a format holds rounds to its own code. -/
theorem roundVal_decodeFloat {f : Fmt} (hw : 0 < f.params.width) (rm : Rnd) {c : Nat} (hc : c < 2 ^ f.params.width)
    (hn : (decodeFloat f c).isNaN = false) : roundVal f rm (decodeFloat f c) = (c, 0) := by
  have hsplit := f.signed_split hw hc
  rcases Nat.lt_or_ge f.params.maxCode (c % 2 ^ (f.params.width - 1)) with h | h
  · obtain ⟨hi, hd⟩ | ⟨sig, hd⟩ := decodeFloat_special f h
    · rw [hd]
      simp only [roundVal, hi]
      unfold Fmt.signed at hsplit
      generalize (c / 2 ^ (f.params.width - 1) % 2 == 1) = n at hsplit ⊢
      cases n <;> simpa using hsplit
    · simp [hd, Val.isNaN] at hn
  · obtain ⟨m, e, hd, hv⟩ := decodeFloat_fin f h
    rw [hd]
    refine (roundFrac_mag f rm _ (fracOf_den_pos m e) ((fracOf_div m e).trans hv) h).trans ?_
    rw [hsplit]

end Sys2Proof.Machine

open Sys2Proof Sys2Proof.Machine

/-- Settles O37: the code's magnitude is its own lower neighbour, with no remainder. -/
theorem exactValuesRoundToThemselves : Obligations.ExactValuesRoundToThemselves := by
  intro t c _ hc hn
  have hf := floatType_ieee t
  exact roundVal_decodeFloat hf.width_pos .rne (hf.width ▸ hc) hn
end

-- ================================================================
-- Proofs, scope: Function values
-- ================================================================

section
namespace Sys2Proof.Machine
open Sys2Proof

/-! ### Rounding to nearest -/

/-- Bounds by codes hold after the rounding, in every mode. -/
theorem roundMag_le_le (p : FpParams) (rm : Rnd) (neg : Bool) {num den a b : Nat} (hd : 0 < den) (ha : p.mag a ≤ num / den)
    (hb : (num : ℚ) / den < p.mag b) :
    a ≤ (roundMag p rm neg num den).1 ∧ (roundMag p rm neg num den).1 ≤ b := by
  obtain ⟨lo, ⟨he, hlo⟩ | ⟨hc, -, hlo, hhi⟩⟩ := roundMag_spec p rm neg (num := num) hd
  · rw [hlo] at ha hb
    have := p.mag_strictMono.le_iff_le.mp ha
    have := p.mag_strictMono.lt_iff_lt.mp hb
    rw [he]
    dsimp only
    omega
  · have := p.mag_strictMono.lt_iff_lt.mp (ha.trans_lt hhi)
    have := p.mag_strictMono.lt_iff_lt.mp (hlo.trans hb)
    omega

/-- The second part says that the code is not exact. -/
theorem roundMag_inexact (p : FpParams) (rm : Rnd) (neg : Bool) {num den : Nat} (hd : 0 < den) :
    (roundMag p rm neg num den).2 = decide ((num : ℚ) / den ≠ p.mag (roundMag p rm neg num den).1) := by
  obtain ⟨lo, ⟨he, hlo⟩ | ⟨hc | hc, hx, hlo, hhi⟩⟩ := roundMag_spec p rm neg (num := num) hd
  · simp [he, hlo]
  · simp [hc, hx, hlo.ne']
  · simp [hc, hx, hhi.ne]

/-- The half-way points below and above the nearest code lie on either side (R39). -/
theorem roundMag_rne (p : FpParams) (neg : Bool) {num den : Nat} (hd : 0 < den) :
    (p.mag ((roundMag p .rne neg num den).1 - 1) + p.mag (roundMag p .rne neg num den).1) / 2 ≤ num / den ∧
      (num : ℚ) / den ≤ (p.mag (roundMag p .rne neg num den).1 + p.mag ((roundMag p .rne neg num den).1 + 1)) / 2 := by
  cases h : neighbours p num den with | mk lo rd =>
  obtain ⟨r, d⟩ := rd
  obtain ⟨hlo, hhi, -⟩ := neighbours_bounds p hd h
  obtain ⟨hr, hv⟩ := neighbours_spec p hd h
  have hd0 : (0 : ℚ) < d := by exact_mod_cast (Nat.zero_le r).trans_lt hr
  have hgap : 0 < p.mag (lo + 1) - p.mag lo := sub_pos.mpr (p.mag_strictMono lo.lt_succ_self)
  rw [show (roundMag p .rne neg num den).1 = if roundsUp .rne neg lo r d then lo + 1 else lo by simp [roundMag, h]]
  by_cases hup : roundsUp .rne neg lo r d
  · rw [if_pos hup]
    have hle : (1 / 2 : ℚ) ≤ r / d := by
      have : d ≤ 2 * r := by simp [roundsUp] at hup; omega
      have : (d : ℚ) ≤ 2 * r := by exact_mod_cast this
      rw [div_le_div_iff₀ two_pos hd0]
      linarith
    have hmul := mul_le_mul_of_nonneg_right hle hgap.le
    have hnext := p.mag_strictMono (lo + 1).lt_succ_self
    rw [Nat.add_sub_cancel]
    constructor <;> linarith
  · rw [if_neg hup]
    have hle : (r / d : ℚ) ≤ 1 / 2 := by
      have : 2 * r ≤ d := by simp [roundsUp] at hup; omega
      have : 2 * (r : ℚ) ≤ d := by exact_mod_cast this
      rw [div_le_div_iff₀ hd0 two_pos]
      linarith
    have hmul := mul_le_mul_of_nonneg_right hle hgap.le
    have hprev := p.mag_strictMono.monotone (Nat.sub_le lo 1)
    constructor <;> linarith

/-! ### Square roots -/

theorem isqrtGo_spec {n k r : Nat} (hr : r * r ≤ n) (hn : n < (r + 2 ^ k) * (r + 2 ^ k)) :
    isqrtGo n k r * isqrtGo n k r ≤ n ∧ n < (isqrtGo n k r + 1) * (isqrtGo n k r + 1) := by
  induction k generalizing r with
  | zero => exact ⟨hr, hn⟩
  | succ k ih =>
    unfold isqrtGo
    simp only
    split
    case isTrue h => exact ih h (by rwa [pow_succ, mul_two, ← add_assoc] at hn)
    case isFalse h => exact ih hr (Nat.lt_of_not_le h)

theorem isqrt_spec (n : Nat) : isqrt n * isqrt n ≤ n ∧ n < (isqrt n + 1) * (isqrt n + 1) := by
  refine isqrtGo_spec (Nat.zero_le n) ?_
  rw [zero_add, ← pow_add]
  exact Nat.lt_log2_self.trans_le (Nat.pow_le_pow_right two_pos (by omega))

theorem le_isqrt_iff (n k : Nat) : k ≤ isqrt n ↔ k * k ≤ n := by
  obtain ⟨h, h'⟩ := isqrt_spec n
  constructor
  · exact fun hk => (Nat.mul_le_mul hk hk).trans h
  · exact fun hk => Nat.lt_succ_iff.mp (Nat.mul_self_lt_mul_self_iff.mp (hk.trans_lt h'))

theorem fixOne_pos : 0 < fixOne := Nat.pow_pos two_pos

theorem sqrtFrac_neg (a b : Nat) : (sqrtFrac a b).neg = false := rfl

theorem fixOne_sq : fixOne ^ 2 = 2 ^ (2 * fixBits) := by
  rw [fixOne, ← pow_mul, mul_comm]

theorem sqrtFrac_eq (a b : Nat) : sqrtFrac a b = ⟨false, isqrt (a * b * fixOne ^ 2), b * fixOne,
    isqrt (a * b * fixOne ^ 2) * isqrt (a * b * fixOne ^ 2) == a * b * fixOne ^ 2⟩ := by
  simp only [sqrtFrac, fixOne_sq]

/-- The fraction that a function value is rounded as: the value itself, or the middle of the unit above it. -/
def FnVal.frac (y : FnVal) : Nat × Nat := if y.exact then (y.num, y.den) else (2 * y.num + 1, 2 * y.den)

theorem roundFrac_frac (f : Fmt) (rm : Rnd) (y : FnVal) :
    roundFrac f rm y.neg y.num y.den (sticky := !y.exact) = roundFrac f rm y.neg y.frac.1 y.frac.2 := by
  unfold FnVal.frac
  cases h : y.exact <;> simp [roundFrac_sticky]

theorem sqrtFrac_frac_den_pos {a b : Nat} (hb : 0 < b) : 0 < (sqrtFrac a b).frac.2 := by
  have hD := Nat.mul_pos hb fixOne_pos
  rw [FnVal.frac, sqrtFrac_eq]
  simp only
  split
  · exact hD
  · exact Nat.mul_pos two_pos hD

/-- The root and its fraction lie alike about every number with the denominator at hand. -/
theorem sqrtFrac_frac_compare {a b : Nat} (hb : 0 < b) {q : ℚ} {K : Nat} (hq : q = K / (b * fixOne : Nat)) :
    (q ≤ (sqrtFrac a b).frac.1 / (sqrtFrac a b).frac.2 ↔ q ^ 2 ≤ a / b) ∧
      (((sqrtFrac a b).frac.1 : ℚ) / (sqrtFrac a b).frac.2 ≤ q ↔ (a : ℚ) / b ≤ q ^ 2) := by
  rw [FnVal.frac, sqrtFrac_eq]
  have hone := fixOne_pos
  generalize fixOne = one at hq hone
  have hD : 0 < b * one := Nat.mul_pos hb hone
  have hab : (a : ℚ) / b = (a * b * one ^ 2 : Nat) / ((b * one : Nat) : ℚ) ^ 2 := by
    have hb' : (b : ℚ) ≠ 0 := by exact_mod_cast hb.ne'
    rw [div_eq_div_iff hb' (by positivity)]
    push_cast
    ring
  generalize a * b * one ^ 2 = n at hab
  obtain ⟨hlo, hhi⟩ := isqrt_spec n
  have hK := le_isqrt_iff n K
  generalize isqrt n = r at hlo hhi hK
  generalize b * one = D at hD hq hab
  have hD' : (0 : ℚ) < D := by exact_mod_cast hD
  have hsq : (K : ℚ) ^ 2 ≤ n ↔ K ≤ r := by rw [hK, ← pow_two]; exact_mod_cast Iff.rfl
  have hsq' : (n : ℚ) ≤ K ^ 2 ↔ n ≤ K * K := by rw [← pow_two]; exact_mod_cast Iff.rfl
  rw [hab, hq, div_pow, div_le_div_iff_of_pos_right (pow_pos hD' 2), div_le_div_iff_of_pos_right (pow_pos hD' 2), hsq, hsq']
  by_cases h : r * r = n
  · simp only [h, beq_self_eq_true, if_true, div_le_div_iff_of_pos_right hD', Nat.cast_le, true_and]
    rw [← h, Nat.mul_self_le_mul_self_iff]
  · have hmid : (K : ℚ) / D = (2 * K : Nat) / (2 * D : Nat) := by push_cast; rw [mul_div_mul_left _ _ two_ne_zero]
    have h2D : (0 : ℚ) < (2 * D : Nat) := by exact_mod_cast Nat.mul_pos two_pos hD
    simp only [beq_iff_eq, h, if_false, hmid, div_le_div_iff_of_pos_right h2D, Nat.cast_le]
    refine ⟨by omega, fun hle => ?_, fun hle => ?_⟩
    · exact hhi.le.trans (Nat.mul_le_mul (by omega) (by omega))
    · have := Nat.mul_self_lt_mul_self_iff.mp ((lt_of_le_of_ne hlo h).trans_le hle)
      omega

/-- Half a unit of the grid of a format, and so every code and half-way point, has a root's denominator. -/
theorem FpParams.half_grid {p : FpParams} (h : p.bias + p.man ≤ fixBits) (b k : Nat) (hb : 0 < b) :
    (k : ℚ) * 2 ^ (-(p.bias : Int) - p.man) = (k * 2 ^ (fixBits - (p.bias + p.man)) * b : Nat) / (b * fixOne : Nat) := by
  have hb' : (b : ℚ) ≠ 0 := by exact_mod_cast hb.ne'
  rw [show fixOne = 2 ^ (fixBits - (p.bias + p.man)) * 2 ^ (p.bias + p.man) by rw [← pow_add, Nat.sub_add_cancel h, fixOne],
    show -(p.bias : Int) - p.man = -((p.bias + p.man : Nat) : Int) by push_cast; ring, zpow_neg, zpow_natCast]
  push_cast
  field_simp

theorem FpParams.mag_half_grid (p : FpParams) (c : Nat) :
    p.mag c = (2 * gridMag p.man c : Nat) * 2 ^ (-(p.bias : Int) - p.man) := by
  rw [FpParams.mag, show 1 - (p.bias : Int) - p.man = 1 + (-(p.bias : Int) - p.man) by ring, zpow_add₀ two_ne_zero]
  push_cast
  ring

theorem FpParams.mid_half_grid (p : FpParams) (c c' : Nat) :
    (p.mag c + p.mag c') / 2 = (gridMag p.man c + gridMag p.man c' : Nat) * 2 ^ (-(p.bias : Int) - p.man) := by
  rw [p.mag_half_grid, p.mag_half_grid]
  push_cast
  ring

/-- R242 for roots: a root of a/b within the normal range is rounded to nearest and never overflows nor underflows. -/
theorem roundFrac_root {f : Fmt} {a b : Nat} (hb : 0 < b) (hp : f.params.bias + f.params.man ≤ fixBits)
    (hmax : 0 < f.params.maxCode) (hlow : f.params.mag (2 ^ f.params.man) ^ 2 ≤ a / b)
    (hhigh : (a : ℚ) / b < f.params.mag (f.params.maxCode - 1) ^ 2) :
    ∃ c, roundFrac f .rne (sqrtFrac a b).neg (sqrtFrac a b).num (sqrtFrac a b).den (sticky := !(sqrtFrac a b).exact) =
        (c, flagIf (decide (f.params.mag c ^ 2 ≠ a / b)) flNX) ∧
      1 ≤ c ∧ c < f.params.maxCode ∧ ((f.params.mag (c - 1) + f.params.mag c) / 2) ^ 2 ≤ a / b ∧
      (a : ℚ) / b ≤ ((f.params.mag c + f.params.mag (c + 1)) / 2) ^ 2 := by
  have hd := sqrtFrac_frac_den_pos (a := a) hb
  have hcode (c : Nat) := sqrtFrac_frac_compare (a := a) hb ((f.params.mag_half_grid c).trans (FpParams.half_grid hp b _ hb))
  have hmid (c c' : Nat) := sqrtFrac_frac_compare (a := a) hb ((f.params.mid_half_grid c c').trans (FpParams.half_grid hp b _ hb))
  rw [roundFrac_frac, sqrtFrac_neg, roundFrac_eq, roundMag_inexact f.params .rne false hd]
  obtain ⟨hmin, hle⟩ := roundMag_le_le f.params .rne false hd ((hcode _).1.mpr hlow)
    (lt_of_not_ge fun h => hhigh.not_ge ((hcode _).1.mp h))
  obtain ⟨hbelow, habove⟩ := roundMag_rne f.params false (num := (sqrtFrac a b).frac.1) hd
  generalize (roundMag f.params .rne false (sqrtFrac a b).frac.1 (sqrtFrac a b).frac.2).1 = c at *
  have hexact : ((sqrtFrac a b).frac.1 : ℚ) / (sqrtFrac a b).frac.2 = f.params.mag c ↔ f.params.mag c ^ 2 = a / b := by
    rw [le_antisymm_iff, le_antisymm_iff, (hcode c).1, (hcode c).2, and_comm]
  have hpos : 0 < 2 ^ f.params.man := by positivity
  refine ⟨c, ?_, by omega, by omega, (hmid _ _).1.mp hbelow, (hmid _ _).2.mp habove⟩
  rw [if_pos (by omega)]
  simp [Fmt.signed, hexact, flagIf, Nat.not_lt.mpr hmin]

/-! ### Special inputs and results -/

theorem Val.num_fin (n : Bool) (m : Nat) (e : Int) : (Val.fin n m e).num = (if n then -1 else 1) * (m * 2 ^ e) := by
  rw [Val.num, mul_assoc]

theorem Val.abs_num_fin (n : Bool) (m : Nat) (e : Int) : |(Val.fin n m e).num| = m * 2 ^ e := by
  have h : (0 : ℚ) ≤ m * 2 ^ e := by positivity
  cases n <;> simp [Val.num_fin, abs_of_nonneg h]

theorem Fmt.isFloat_cases {f : Fmt} (h : f.isFloat = true) : f = .f32 ∨ f = .bf16 ∨ f = .f16 ∨ f = .e4m3 ∨ f = .e5m2 := by
  cases f <;> simp [Fmt.isFloat] at h ⊢

theorem roundVal_nan {f : Fmt} (h : f.isFloat = true) (rm : Rnd) (s : Bool) : roundVal f rm (.nan s) = f.nanLane s := by
  rcases Fmt.isFloat_cases h with rfl | rfl | rfl | rfl | rfl <;> rfl

theorem roundVal_inf {f : Fmt} (hf : f.Ieee) (rm : Rnd) (n : Bool) : roundVal f rm (.inf n) = (f.infinity n, 0) := by
  cases n <;> simp [roundVal, hf.inf, Fmt.infinity, Fmt.signed]

theorem roundVal_fin (f : Fmt) (rm : Rnd) (n : Bool) (m : Nat) (e : Int) :
    roundVal f rm (.fin n m e) = roundFrac f rm n (fracOf m e).1 (fracOf m e).2 := rfl

theorem roundVal_mag {f : Fmt} (rm : Rnd) (n : Bool) {m c : Nat} {e : Int} (h : (m : ℚ) * 2 ^ e = f.params.mag c)
    (hc : c ≤ f.params.maxCode) : roundVal f rm (.fin n m e) = (f.signed n c, 0) := by
  rw [roundVal_fin, roundFrac_mag f rm n (fracOf_den_pos m e) ((fracOf_div m e).trans h) hc]

theorem roundVal_zero (f : Fmt) (rm : Rnd) (n : Bool) (e : Int) : roundVal f rm (.fin n 0 e) = (f.signed n 0, 0) :=
  roundVal_mag rm n (by simp) (Nat.zero_le _)

/-- The code of 1 is the bias above an empty mantissa. -/
theorem FpParams.mag_one {p : FpParams} (h : 1 ≤ p.bias) : p.mag (p.bias * 2 ^ p.man) = 1 := by
  obtain ⟨b, hb⟩ := Nat.exists_eq_add_of_le' h
  have hm := p.mag_place (E := b) (t := 2 ^ p.man) (.inr le_rfl) (Nat.pow_le_pow_right two_pos (Nat.le_succ _))
  rw [← Nat.succ_mul] at hm
  rw [hb, hm, hb]
  push_cast
  rw [← zpow_natCast, ← zpow_add₀ two_ne_zero, show (p.man : Int) + _ = 0 by ring, zpow_zero]

theorem Fmt.Ieee.one_le_max {f : Fmt} (hf : f.Ieee) : f.params.bias * 2 ^ f.params.man ≤ f.params.maxCode := by
  have hmax := hf.max
  have hpos : 0 < 2 ^ f.params.man := by positivity
  rw [show 2 * f.params.bias + 1 = f.params.bias + (f.params.bias + 1) by ring, add_mul, add_mul] at hmax
  omega

theorem roundVal_one {f : Fmt} (hf : f.Ieee) (rm : Rnd) (n : Bool) :
    roundVal f rm (.fin n 1 0) = (f.signed n (f.params.bias * 2 ^ f.params.man), 0) :=
  roundVal_mag rm n (by rw [FpParams.mag_one hf.bias, Nat.cast_one, zpow_zero, mul_one]) hf.one_le_max

theorem Fmt.Ieee.max_lt {f : Fmt} (hf : f.Ieee) : f.params.maxCode + 1 < 2 ^ (f.params.width - 1) := by
  rw [hf.max, hf.top]
  have hpos : 0 < 2 ^ f.params.man := by positivity
  exact Nat.mul_lt_mul_of_pos_right (Nat.lt_succ_self _) hpos

/-- The parts of a code with its sign. -/
theorem Fmt.signed_parts (f : Fmt) (n : Bool) {c : Nat} (h : c < 2 ^ (f.params.width - 1)) :
    f.signed n c % 2 ^ (f.params.width - 1) = c ∧ (f.signed n c / 2 ^ (f.params.width - 1) % 2 == 1) = n := by
  have hp : 0 < 2 ^ (f.params.width - 1) := by positivity
  cases n
  · simp [Fmt.signed, Nat.mod_eq_of_lt h, Nat.div_eq_of_lt h]
  · simp [Fmt.signed, Nat.mod_eq_of_lt h, Nat.div_eq_of_lt h, Nat.add_div_left _ hp]

theorem decodeFloat_signed {f : Fmt} (n : Bool) {c : Nat} (hw : f.params.maxCode < 2 ^ (f.params.width - 1))
    (h : c ≤ f.params.maxCode) : ∃ m e, decodeFloat f (f.signed n c) = .fin n m e ∧ (m : ℚ) * 2 ^ e = f.params.mag c := by
  obtain ⟨hm, hs⟩ := f.signed_parts n (h.trans_lt hw)
  have hd := decodeFloat_fin f (c := f.signed n c) (by rwa [hm])
  rwa [hm, hs] at hd

theorem num_decodeFloat_signed {f : Fmt} (n : Bool) {c : Nat} (hw : f.params.maxCode < 2 ^ (f.params.width - 1))
    (h : c ≤ f.params.maxCode) : (decodeFloat f (f.signed n c)).num = (if n then -1 else 1) * f.params.mag c := by
  obtain ⟨m, e, hd, hv⟩ := decodeFloat_signed n hw h
  rw [hd, Val.num_fin, hv]

theorem decodeFloat_infinity {f : Fmt} (hf : f.Ieee) (n : Bool) : decodeFloat f (f.infinity n) = .inf n := by
  obtain ⟨hm, hs⟩ := f.signed_parts n hf.max_lt
  unfold Fmt.infinity
  rw [hf.inf, Option.getD_some]
  unfold decodeFloat
  simp only [hm, hs]
  simp [hf.inf]

theorem decodeFloat_zero {f : Fmt} (hf : f.Ieee) (n : Bool) : ∃ e, decodeFloat f (f.signed n 0) = .fin n 0 e := by
  obtain ⟨m, e, hd, hv⟩ := decodeFloat_signed n (Nat.lt_of_succ_lt hf.max_lt) (Nat.zero_le _)
  have hm : m = 0 := by simpa [zpow_ne_zero] using hv
  exact ⟨e, hm ▸ hd⟩

/-- The special rows of R241 are the same for both forms. -/
theorem fn_of_special {f : Fmt} {fn : Fn} {p c : Nat} {v w : Val} {fl fl' : Flags} (hd : decodeFloat f p = v)
    (hs : fnSpecial fn v = some (w, fl)) (hw : roundVal f .rne w = (c, fl')) :
    fnC f fn p = (c, fl ||| fl') ∧ fnA f fn p = (c, fl ||| fl') := by
  constructor
  · simp only [fnC, hd, hs, hw]
  · simp only [fnA, hd, hs, hw]

/-! ### Values of the .C forms -/

theorem fnC_fin {f : Fmt} {fn : Fn} {p m : Nat} {n : Bool} {e : Int} (hd : decodeFloat f p = .fin n m e)
    (hs : fnSpecial fn (.fin n m e) = none) :
    fnC f fn p = roundFrac f .rne (fnValue fn n m e).neg (fnValue fn n m e).num (fnValue fn n m e).den
      (sticky := !(fnValue fn n m e).exact) := by
  simp only [fnC, hd, hs]

/-- An exact function value is rounded as R40 says. -/
theorem rounds_fnC {f : Fmt} {fn : Fn} {p m num den : Nat} {n neg : Bool} {e : Int} {y : ℚ} (hd : decodeFloat f p = .fin n m e)
    (hs : fnSpecial fn (.fin n m e) = none) (hy : fnValue fn n m e = ⟨neg, num, den, true⟩) (hden : 0 < den)
    (hv : (num : ℚ) / den = y) : f.rounds .rne neg y (fnC f fn p) :=
  ⟨num, den, hden, hv, by rw [fnC_fin hd hs, hy]; rfl⟩

theorem fnSpecial_rcp {n : Bool} {m : Nat} {e : Int} (hm : m ≠ 0) : fnSpecial .rcp (.fin n m e) = none := by
  simp [fnSpecial, hm]
theorem fnSpecial_exp2 {n : Bool} {m : Nat} {e : Int} (hm : m ≠ 0) : fnSpecial .exp2 (.fin n m e) = none := by
  simp [fnSpecial, hm]
theorem fnSpecial_sqrt {m : Nat} {e : Int} (hm : m ≠ 0) : fnSpecial .sqrt (.fin false m e) = none := by
  simp [fnSpecial, hm]
theorem fnSpecial_rsq {m : Nat} {e : Int} (hm : m ≠ 0) : fnSpecial .rsq (.fin false m e) = none := by
  simp [fnSpecial, hm]
theorem fnSpecial_log2 {m : Nat} {e : Int} (hm : m ≠ 0) (h : (m : ℚ) * 2 ^ e ≠ 1) :
    fnSpecial .log2 (.fin false m e) = none := by
  have hne : (fracOf m e).1 ≠ (fracOf m e).2 := fun he => h <| by
    rw [← fracOf_div, he, div_self]
    exact_mod_cast (fracOf_den_pos m e).ne'
  simp [fnSpecial, hm, hne]

theorem rounds_rcp {f : Fmt} {p m : Nat} {n : Bool} {e : Int} (hd : decodeFloat f p = .fin n m e) (hm : m ≠ 0) :
    f.rounds .rne n (1 / |(decodeFloat f p).num|) (fnC f .rcp p) :=
  rounds_fnC hd (fnSpecial_rcp hm) (num := (fracOf m e).2) (den := (fracOf m e).1) rfl (fracOf_num_pos e hm) <| by
    rw [hd, Val.abs_num_fin, ← fracOf_div, one_div_div]

theorem fnValue_exp2_int {n : Bool} {m k : Nat} {e : Int} (h : (fracOf m e).1 = k * (fracOf m e).2) (hk : k ≤ 2 ^ 12) :
    fnValue .exp2 n m e = if n then ⟨false, 1, 2 ^ k, true⟩ else ⟨false, 2 ^ k, 1, true⟩ := by
  have hb := fracOf_den_pos m e
  unfold fnValue
  simp only [h, Nat.mul_mod_left, Nat.mul_div_cancel _ hb, if_true, gt_iff_lt, Nat.not_lt.mpr hk, if_false]

/-- EXP2.C of an integer rounds its power of two. -/
theorem rounds_exp2 {f : Fmt} {p m : Nat} {n : Bool} {e k : Int} (hd : decodeFloat f p = .fin n m e) (hm : m ≠ 0)
    (hlo : -4096 ≤ k) (hhi : k ≤ 4096) (hk : (decodeFloat f p).num = k) : f.rounds .rne false (2 ^ k) (fnC f .exp2 p) := by
  have hpos : (0 : ℚ) < m * 2 ^ e := by positivity
  have hb : ((fracOf m e).2 : ℚ) ≠ 0 := by exact_mod_cast (fracOf_den_pos m e).ne'
  rw [hd, Val.num_fin] at hk
  have habs : (m : ℚ) * 2 ^ e = k.natAbs := by
    rw [Nat.cast_natAbs, Int.cast_abs, ← hk]
    cases n <;> simp [abs_of_pos hpos]
  have hfrac : (fracOf m e).1 = k.natAbs * (fracOf m e).2 := by
    rw [← fracOf_div, div_eq_iff hb] at habs
    exact_mod_cast habs
  have hle : k.natAbs ≤ 2 ^ 12 := by omega
  rw [habs] at hk
  generalize k.natAbs = j at hk hfrac hle
  have hval := fnValue_exp2_int (n := n) hfrac hle
  cases n with
  | false =>
    obtain rfl : (j : Int) = k := by
      rw [if_neg Bool.false_ne_true, one_mul] at hk
      exact_mod_cast hk
    exact rounds_fnC hd (fnSpecial_exp2 hm) hval one_pos (by simp)
  | true =>
    obtain rfl : -(j : Int) = k := by
      rw [if_pos rfl, neg_one_mul] at hk
      exact_mod_cast hk
    exact rounds_fnC hd (fnSpecial_exp2 hm) hval (Nat.pow_pos two_pos) (by simp)

theorem fnValue_log2_pow {m : Nat} {e l : Int} (hm : m ≠ 0) (h : (m : ℚ) * 2 ^ e = 2 ^ l) :
    fnValue .log2 false m e = ⟨l < 0, l.natAbs, 1, true⟩ := by
  have ha := fracOf_num_pos e hm
  have hb := fracOf_den_pos m e
  have hb' : ((fracOf m e).2 : ℚ) ≠ 0 := by exact_mod_cast hb.ne'
  have hv := (fracOf_div m e).trans h
  have hl : floorLog2 (fracOf m e).1 (fracOf m e).2 = l :=
    floorLog2_unique ha hb hv.ge (hv.trans_lt (zpow_lt_zpow_right₀ one_lt_two (lt_add_one l)))
  have hfrac : (fracOf m e).1 * 2 ^ (-l).toNat = (fracOf m e).2 * 2 ^ l.toNat := by
    rw [zpow_two_eq_div, div_eq_div_iff hb' (by positivity), mul_comm (2 ^ _ : ℚ)] at hv
    exact_mod_cast hv
  have hx : (if l < 0 then (fracOf m e).1 * 2 ^ (-l).toNat * fixOne / (fracOf m e).2
      else (fracOf m e).1 * fixOne / ((fracOf m e).2 * 2 ^ l.toNat)) = fixOne := by
    split
    case isTrue h0 => rw [hfrac, Int.toNat_eq_zero.mpr h0.le, pow_zero, mul_one, Nat.mul_div_cancel_left _ hb]
    case isFalse h0 =>
      rw [← hfrac, Int.toNat_eq_zero.mpr (show -l ≤ 0 by omega), pow_zero, mul_one, Nat.mul_div_cancel_left _ ha]
  unfold fnValue
  simp only [hl, hx, if_true]

/-- LOG2.C of a power of two rounds its exponent. -/
theorem rounds_log2 {f : Fmt} {p m : Nat} {e l : Int} (hd : decodeFloat f p = .fin false m e) (hm : m ≠ 0)
    (h : |(decodeFloat f p).num| = 2 ^ l) (hl : l ≠ 0) : f.rounds .rne (decide (l < 0)) (|l| : ℚ) (fnC f .log2 p) := by
  rw [hd, Val.abs_num_fin] at h
  have hne : (m : ℚ) * 2 ^ e ≠ 1 := by
    rw [h]
    exact fun h1 => hl ((zpow_eq_one_iff_right₀ zero_le_two (by norm_num)).mp h1)
  exact rounds_fnC hd (fnSpecial_log2 hm hne) (fnValue_log2_pow hm h) one_pos (by simp [Nat.cast_natAbs])

/-- The range of a format's values and of their roots: no root and no reciprocal root is subnormal or near the greatest value. -/
structure Fmt.RootsNormal (f : Fmt) : Prop where
  bits : f.params.bias + f.params.man ≤ fixBits
  sqrt_low : f.params.mag (2 ^ f.params.man) ^ 2 ≤ f.params.mag 1
  sqrt_high : f.params.mag f.params.maxCode < f.params.mag (f.params.maxCode - 1) ^ 2
  rsq_low : f.params.mag (2 ^ f.params.man) ^ 2 * f.params.mag f.params.maxCode ≤ 1
  rsq_high : 1 < f.params.mag (f.params.maxCode - 1) ^ 2 * f.params.mag 1

theorem floatType_rootsNormal (t : BitVec 2) : (floatType t).RootsNormal := by
  rcases floatType_cases t with h | h | h <;> rw [h] <;>
    exact ⟨by decide, by norm_num [FpParams.mag, gridMag, Fmt.params], by norm_num [FpParams.mag, gridMag, Fmt.params],
      by norm_num [FpParams.mag, gridMag, Fmt.params], by norm_num [FpParams.mag, gridMag, Fmt.params]⟩

theorem Fmt.Ieee.max_pos {f : Fmt} (hf : f.Ieee) : 0 < f.params.maxCode :=
  (Nat.mul_pos hf.bias (by positivity)).trans_le hf.one_le_max

/-- A code's magnitude that is not 0 lies between the least and the greatest. -/
theorem mag_range {f : Fmt} {p m : Nat} {n : Bool} {e : Int} (hd : decodeFloat f p = .fin n m e) (hm : m ≠ 0) :
    0 < (m : ℚ) * 2 ^ e ∧ f.params.mag 1 ≤ m * 2 ^ e ∧ (m : ℚ) * 2 ^ e ≤ f.params.mag f.params.maxCode := by
  obtain ⟨hle, -, hv⟩ := decodeFloat_eq_fin hd
  have hpos : (0 : ℚ) < m * 2 ^ e := by positivity
  refine ⟨hpos, ?_⟩
  rw [hv] at hpos ⊢
  rw [← f.params.mag_zero, f.params.mag_strictMono.lt_iff_lt] at hpos
  exact ⟨f.params.mag_strictMono.monotone hpos, f.params.mag_strictMono.monotone hle⟩

/-- What R242 asks of a root of `z`, in the words of O36: `val` and `mid` are a code's value and the half-way point above it. -/
theorem root_nearest {f : Fmt} (hf : f.Ieee) (hr : f.RootsNormal) {a b : Nat} (hb : 0 < b) {z : ℚ} (hz : (a : ℚ) / b = z)
    (hlow : f.params.mag (2 ^ f.params.man) ^ 2 ≤ z) (hhigh : z < f.params.mag (f.params.maxCode - 1) ^ 2) {r : Nat × Flags}
    (h : r = roundFrac f .rne (sqrtFrac a b).neg (sqrtFrac a b).num (sqrtFrac a b).den (sticky := !(sqrtFrac a b).exact)) :
    1 ≤ r.1 ∧ r.1 < f.params.maxCode ∧
      (((decodeFloat f (r.1 - 1)).num + (decodeFloat f (r.1 - 1 + 1)).num) / 2) ^ 2 ≤ z ∧
      z ≤ (((decodeFloat f r.1).num + (decodeFloat f (r.1 + 1)).num) / 2) ^ 2 ∧
      r.2 = flagIf (decide ((decodeFloat f r.1).num ^ 2 ≠ z)) flNX := by
  subst hz
  obtain ⟨c, hc, h1, hmax, hbelow, habove⟩ := roundFrac_root hb hr.bits hf.max_pos hlow hhigh
  have hval {c : Nat} (h : c ≤ f.params.maxCode) : (decodeFloat f c).num = f.params.mag c :=
    (num_decodeFloat_signed false (Nat.lt_of_succ_lt hf.max_lt) h).trans (one_mul _)
  rw [h, hc]
  dsimp only
  rw [Nat.sub_add_cancel h1, hval (by omega), hval (by omega), hval (by omega)]
  exact ⟨h1, hmax, hbelow, habove, rfl⟩

theorem sqrt_nearest {f : Fmt} (hf : f.Ieee) (hr : f.RootsNormal) {p m : Nat} {e : Int}
    (hd : decodeFloat f p = .fin false m e) (hm : m ≠ 0) {x : ℚ} (hx : |(decodeFloat f p).num| = x) {r : Nat × Flags}
    (h : fnC f .sqrt p = r) :
    1 ≤ r.1 ∧ r.1 < f.params.maxCode ∧
      (((decodeFloat f (r.1 - 1)).num + (decodeFloat f (r.1 - 1 + 1)).num) / 2) ^ 2 ≤ x ∧
      x ≤ (((decodeFloat f r.1).num + (decodeFloat f (r.1 + 1)).num) / 2) ^ 2 ∧
      r.2 = flagIf (decide ((decodeFloat f r.1).num ^ 2 ≠ x)) flNX := by
  obtain ⟨-, hmin, hmax⟩ := mag_range hd hm
  rw [hd, Val.abs_num_fin] at hx
  rw [hx] at hmin hmax
  exact root_nearest hf hr (fracOf_den_pos m e) ((fracOf_div m e).trans hx) (hr.sqrt_low.trans hmin)
    (hmax.trans_lt hr.sqrt_high) (h.symm.trans (fnC_fin hd (fnSpecial_sqrt hm)))

theorem rsq_nearest {f : Fmt} (hf : f.Ieee) (hr : f.RootsNormal) {p m : Nat} {e : Int}
    (hd : decodeFloat f p = .fin false m e) (hm : m ≠ 0) {x : ℚ} (hx : |(decodeFloat f p).num| = x) {r : Nat × Flags}
    (h : fnC f .rsq p = r) :
    1 ≤ r.1 ∧ r.1 < f.params.maxCode ∧
      (((decodeFloat f (r.1 - 1)).num + (decodeFloat f (r.1 - 1 + 1)).num) / 2) ^ 2 * x ≤ 1 ∧
      1 ≤ (((decodeFloat f r.1).num + (decodeFloat f (r.1 + 1)).num) / 2) ^ 2 * x ∧
      r.2 = flagIf (decide ((decodeFloat f r.1).num ^ 2 * x ≠ 1)) flNX := by
  obtain ⟨hpos, hmin, hmax⟩ := mag_range hd hm
  rw [hd, Val.abs_num_fin] at hx
  rw [hx] at hpos hmin hmax
  have hrec : ((fracOf m e).2 : ℚ) / (fracOf m e).1 = 1 / x := by rw [← hx, ← fracOf_div, one_div_div]
  have hlow : f.params.mag (2 ^ f.params.man) ^ 2 ≤ 1 / x := by
    rw [le_div_iff₀ hpos]
    exact (mul_le_mul_of_nonneg_left hmax (sq_nonneg _)).trans hr.rsq_low
  have hhigh : 1 / x < f.params.mag (f.params.maxCode - 1) ^ 2 := by
    rw [div_lt_iff₀ hpos]
    exact hr.rsq_high.trans_le (mul_le_mul_of_nonneg_left hmin (sq_nonneg _))
  have hroot := root_nearest hf hr (fracOf_num_pos e hm) hrec hlow hhigh (h.symm.trans (fnC_fin hd (fnSpecial_rsq hm)))
  simpa only [le_div_iff₀ hpos, div_le_iff₀ hpos, ne_eq, eq_div_iff hpos.ne'] using hroot

/-! ### The .A forms -/

theorem finite_of_fnSpecial_none {f : Fmt} {fn : Fn} {p : Nat} (h : fnSpecial fn (decodeFloat f p) = none) :
    ∃ n m e, decodeFloat f p = .fin n m e := by
  cases hd : decodeFloat f p with
  | nan s => simp [hd, fnSpecial] at h
  | inf n => cases n <;> simp [hd, fnSpecial] at h
  | fin n m e => exact ⟨n, m, e, rfl⟩

/-- Off the special rows an .A form's code is the .C form's, or the part's own one within the bound of R243 (log 8). -/
theorem fnA_fin {f : Fmt} {fn : Fn} {p m : Nat} {n : Bool} {e : Int} (hd : decodeFloat f p = .fin n m e)
    (hs : fnSpecial fn (.fin n m e) = none) :
    (fnA f fn p).2 = (fnC f fn p).2 ||| flNX ∧
      ((fnA f fn p).1 = (fnC f fn p).1 ∨ approxOk f fn (fnValue fn n m e) (fnA f fn p).1 = true) := by
  simp only [fnA, hd, hs]
  refine ⟨trivial, ?_⟩
  split
  case isTrue h => exact .inr (by simp at h; exact h.2)
  case isFalse => exact .inl rfl

/-- R243: an .A form sets NX beside the flags of the .C form. -/
theorem fnA_flags {f : Fmt} {fn : Fn} {p : Nat} (hs : fnSpecial fn (decodeFloat f p) = none) :
    (fnA f fn p).2 = (fnC f fn p).2 ||| flNX := by
  obtain ⟨n, m, e, hd⟩ := finite_of_fnSpecial_none hs
  exact (fnA_fin hd (hd ▸ hs)).1

/-- The bound by which a candidate is judged in the wide format. -/
theorem nearFn_spec {y : FnVal} {r : Val} {lim limDen : Nat} (hd : 0 < y.den) (hl : 0 < limDen)
    (h : nearFn y r lim limDen = true) :
    |r.num - (if y.neg then -1 else 1) * (y.num / y.den)| ≤ (lim : ℚ) / limDen := by
  unfold nearFn at h
  split at h
  case h_1 n m e =>
    have hb := fracOf_den_pos m e
    rw [Val.num_fin, ← fracOf_div]
    simp only [decide_eq_true_eq] at h
    generalize (fracOf m e).1 = a at h
    generalize (fracOf m e).2 = b at h hb
    generalize hi : (_ - _ : Int) = i at h
    have hb' : (b : ℚ) ≠ 0 := by exact_mod_cast hb.ne'
    have hd' : (y.den : ℚ) ≠ 0 := by exact_mod_cast hd.ne'
    have hdiff : (if n then -1 else 1) * ((a : ℚ) / b) - (if y.neg then -1 else 1) * (y.num / y.den) = (i : ℚ) / (b * y.den) := by
      rw [← hi]
      push_cast
      field_simp
    rw [hdiff, abs_div, abs_of_pos (by positivity : (0 : ℚ) < b * y.den), div_le_div_iff₀ (by positivity) (by exact_mod_cast hl),
      ← Int.cast_abs, ← Nat.cast_natAbs]
    exact_mod_cast h
  case h_2 => exact absurd h Bool.false_ne_true

/-- A neighbour of a fraction is within one spacing of it. -/
theorem abs_neighbour_sub_le (p : FpParams) {num den lo r d c : Nat} (hn : 0 < num) (hd : 0 < den)
    (h : neighbours p num den = (lo, r, d)) (hc : c = lo ∨ c = lo + 1) :
    |p.mag c - num / den| ≤ 2 ^ (max (floorLog2 num den) (1 - (p.bias : Int)) - p.man) := by
  obtain ⟨hlo, hhi, -⟩ := neighbours_bounds p hd h
  rw [← neighbours_gap p hn hd h, abs_le]
  rcases hc with rfl | rfl <;> constructor <;> linarith

/-- Without overflow a rounded fraction is within one spacing of it. -/
theorem roundFrac_near {f : Fmt} (hw : f.params.maxCode < 2 ^ (f.params.width - 1)) (rm : Rnd) (neg : Bool) {num den : Nat}
    (hn : 0 < num) (hd : 0 < den) (hof : ¬ (roundFrac f rm neg num den).2.has flOF) :
    |(decodeFloat f (roundFrac f rm neg num den).1).num - (if neg then -1 else 1) * (num / den)| ≤
      2 ^ (max (floorLog2 num den) (1 - (f.params.bias : Int)) - f.params.man) := by
  rw [roundFrac_eq] at hof ⊢
  split
  case isTrue hle =>
    rw [num_decodeFloat_signed neg hw hle, ← mul_sub, abs_mul]
    cases h : neighbours f.params num den with | mk lo rd =>
    obtain ⟨r, d⟩ := rd
    have hc : (roundMag f.params rm neg num den).1 = lo ∨ (roundMag f.params rm neg num den).1 = lo + 1 := by
      simp only [roundMag, h]
      split <;> simp
    have := abs_neighbour_sub_le f.params hn hd h hc
    cases neg <;> simpa using this
  case isFalse hgt =>
    rw [if_neg hgt] at hof
    exact absurd (show (flOF ||| flNX) &&& flOF ≠ 0 by decide) hof

/-- R243: a candidate that passes is within one spacing of the function's value. -/
theorem approxOk_rcp_near {f : Fmt} {y : FnVal} {c : Nat} (hn : 0 < y.num) (hd : 0 < y.den)
    (h : approxOk f .rcp y c = true) :
    |(decodeFloat f c).num - (if y.neg then -1 else 1) * (y.num / y.den)| ≤
      2 ^ (max (floorLog2 y.num y.den) (1 - (f.params.bias : Int)) - f.params.man) := by
  unfold approxOk at h
  simp only at h
  split at h
  case isTrue =>
    simp only [Bool.and_eq_true] at h
    have := nearFn_spec hd (by positivity) h.1
    rw [zpow_two_eq_div]
    simpa using this
  case isFalse =>
    simp only [Bool.and_eq_true, decide_eq_true_eq] at h
    obtain ⟨⟨hsign, hmag⟩, hle⟩ := h
    obtain ⟨m, e, hdec, hv⟩ := decodeFloat_fin f hle
    rw [hdec] at hsign ⊢
    have hneg : (c / 2 ^ (f.params.width - 1) % 2 == 1) = y.neg := beq_iff_eq.mp hsign
    rw [Val.num_fin, hv, hneg, ← mul_sub, abs_mul]
    cases hnb : neighbours f.params y.num y.den with | mk lo rd =>
    obtain ⟨r, d⟩ := rd
    rw [hnb] at hmag
    have := abs_neighbour_sub_le f.params hn hd hnb (by simpa using hmag)
    cases y.neg <;> simpa using this

theorem fnValue_rcp (n : Bool) (m : Nat) (e : Int) :
    fnValue .rcp n m e = ⟨n, (fracOf m e).2, (fracOf m e).1, true⟩ := rfl

theorem rcpA_near {f : Fmt} (hf : f.Ieee) {p m : Nat} {n : Bool} {e : Int} (hd : decodeFloat f p = .fin n m e) (hm : m ≠ 0)
    {x : ℚ} (hx : |(decodeFloat f p).num| = x) (hof : ¬ (fnC f .rcp p).2.has flOF) {k : Int} (hk : (2 : ℚ) ^ k ≤ 1 / x)
    (hk' : 1 / x < (2 : ℚ) ^ (k + 1)) :
    |(if n then -(decodeFloat f (fnA f .rcp p).1).num else (decodeFloat f (fnA f .rcp p).1).num) - 1 / x| ≤
      2 ^ (max k (1 - (f.params.bias : Int)) - f.params.man) := by
  have ha := fracOf_num_pos e hm
  have hb := fracOf_den_pos m e
  have hrec : 1 / x = ((fracOf m e).2 : ℚ) / (fracOf m e).1 := by
    rw [← hx, hd, Val.abs_num_fin, ← fracOf_div, one_div_div]
  rw [hrec] at hk hk' ⊢
  rw [← floorLog2_unique hb ha hk hk']
  have hnear : |(decodeFloat f (fnA f .rcp p).1).num - (if n then -1 else 1) * (((fracOf m e).2 : ℚ) / (fracOf m e).1)| ≤
      2 ^ (max (floorLog2 (fracOf m e).2 (fracOf m e).1) (1 - (f.params.bias : Int)) - f.params.man) := by
    rcases (fnA_fin hd (fnSpecial_rcp hm)).2 with h | h
    · rw [h]
      have hround : fnC f .rcp p = roundFrac f .rne n (fracOf m e).2 (fracOf m e).1 := fnC_fin hd (fnSpecial_rcp hm)
      rw [hround] at hof ⊢
      exact roundFrac_near (Nat.lt_of_succ_lt hf.max_lt) .rne n hb ha hof
    · rw [fnValue_rcp] at h
      exact approxOk_rcp_near (y := ⟨n, (fracOf m e).2, (fracOf m e).1, true⟩) hb ha h
  cases n with
  | false => simpa using hnear
  | true =>
    rw [if_pos rfl, neg_one_mul, sub_neg_eq_add] at hnear
    rwa [if_pos rfl, ← neg_add', abs_neg]

end Sys2Proof.Machine
end

-- ================================================================
-- Proofs, scope: Control and status registers
-- ================================================================

section
namespace Sys2Proof.Machine
open Sys2Proof

/-! ### Control and status registers -/

/-- R192: what reads a recorded write back. -/
theorem State.csrRead_csrWrite_same (s : State) {n : Nat} (x : Word) (h : (csrMask n).isSome) :
    (s.updCtx (fun c => c.csrWrite n x)).csrRead n =
      if n = 0 then some ((s.ctx.regs.fstat &&& ~~~(x.setWidth 6)).zeroExtend 64)
      else if n = 9 then some (BitVec.ofNat 64 (Max.max 16 (Min.min x.toNat 2048))) else some x := by
  unfold csrMask at h
  split at h
  case h_15 => exact absurd h Bool.false_ne_true
  all_goals rfl

/-- R192: a recorded write leaves every other CSR to be read as before. -/
theorem State.csrRead_csrWrite_ne (s : State) {n k : Nat} (x : Word) (h : k ≠ n) :
    (s.updCtx (fun c => c.csrWrite n x)).csrRead k = s.csrRead k := by
  unfold Ctx.csrWrite
  split
  case h_15 => rfl
  all_goals
    unfold State.csrRead
    split
    any_goals rfl
    exact absurd rfl h

/-- The old value on its way to a register, the new one recorded for the end of the bundle (R192). -/
def State.recordCsr (s : State) (d : BitVec 5) (n : BitVec 7) (old x : Word) : State :=
  (s.putS d 2 old).updEnd (fun e => { e with csrw := e.csrw ++ [(n.toNat, x)] })

theorem State.csrModify_ok {s : State} {n : BitVec 7} {old m : Word} (ho : s.csrRead n.toNat = some old)
    (hm : csrMask n.toNat = some m) (d a : BitVec 5) (f : Word → Word → Word) (clr : Word → Word) :
    s.csrModify d a n f clr = .ok (s.recordCsr d n old
      (if n = 0 then clr (s.rs a) &&& m else (old &&& ~~~m) ||| (f old (s.rs a) &&& m))) := by
  unfold State.csrModify
  rw [ho, hm]
  rfl

theorem State.csrModify_fault {s : State} {n : BitVec 7} (h : s.csrRead n.toNat = none ∨ csrMask n.toNat = none) (d a : BitVec 5)
    (f : Word → Word → Word) (clr : Word → Word) : s.csrModify d a n f clr = failWith (s.csrFault n.toNat) := by
  unfold State.csrModify
  rcases h with h | h <;> rw [h]
  cases s.csrRead n.toNat <;> rfl

/-- Setting under a mask keeps the bits outside it. -/
theorem set_under_mask (old x m : Word) : old &&& ~~~m ||| (old ||| x) &&& m = old ||| x &&& m := by
  ext i
  simp
  cases old[i] <;> cases m[i] <;> simp

/-- Clearing under a mask keeps the bits outside it. -/
theorem clear_under_mask (old x m : Word) : old &&& ~~~m ||| old &&& ~~~x &&& m = old &&& ~~~(x &&& m) := by
  ext i
  simp
  cases old[i] <;> cases m[i] <;> simp

/-- A write, a set and a clear of a CSR that a context may write; for FSTAT the word names the flags to clear (R46, R192). -/
theorem exec_csr_ok {s : State} {n : BitVec 7} {old m : Word} (ho : s.csrRead n.toNat = some old)
    (hm : csrMask n.toNat = some m) (d a : BitVec 5) :
    exec (.csrw d a n) s = .next (s.recordCsr d n old (if n = 0 then s.rs a &&& m else (old &&& ~~~m) ||| (s.rs a &&& m))) ∧
      exec (.csrs d a n) s = .next (s.recordCsr d n old (if n = 0 then s.rs a &&& m else old ||| (s.rs a &&& m))) ∧
      exec (.csrc d a n) s = .next (s.recordCsr d n old (if n = 0 then 0 else old &&& ~~~(s.rs a &&& m))) := by
  refine ⟨congrArg (deliver s) (State.csrModify_ok ho hm d a _ _), ?_, ?_⟩
  · rw [← set_under_mask]
    exact congrArg (deliver s) (State.csrModify_ok ho hm d a _ _)
  · rw [← clear_under_mask, ← show (0 : Word) &&& m = 0 from BitVec.zero_and]
    exact congrArg (deliver s) (State.csrModify_ok ho hm d a _ _)

theorem exec_csr_fault {s : State} {n : BitVec 7} (h : s.csrRead n.toNat = none ∨ csrMask n.toNat = none) (d a : BitVec 5) :
    exec (.csrw d a n) s = .next (s.takeFault (s.csrFault n.toNat)) ∧
      exec (.csrs d a n) s = .next (s.takeFault (s.csrFault n.toNat)) ∧
      exec (.csrc d a n) s = .next (s.takeFault (s.csrFault n.toNat)) :=
  ⟨congrArg (deliver s) (State.csrModify_fault h d a _ _), congrArg (deliver s) (State.csrModify_fault h d a _ _),
    congrArg (deliver s) (State.csrModify_fault h d a _ _)⟩

theorem exec_csrr_some {s : State} {n : BitVec 7} {old : Word} (h : s.csrRead n.toNat = some old) (d : BitVec 5) :
    exec (.csrr d n) s = .next (s.putS d 2 old) := by
  change execCsrr d n s = _
  rw [execCsrr, h, deliver_ok]

theorem exec_csrr_none {s : State} {n : BitVec 7} (h : s.csrRead n.toNat = none) (d : BitVec 5) :
    exec (.csrr d n) s = .next (s.takeFault (s.csrFault n.toNat)) := by
  change execCsrr d n s = _
  rw [execCsrr, h]
  rfl

end Sys2Proof.Machine

open Sys2Proof Sys2Proof.Machine

/-- Settles O26: by `exec_csr_ok` and `exec_csr_fault` for the instructions, and by the CSR written for what is read. -/
theorem csrInstructions : Obligations.CsrInstructions := by
  refine ⟨fun s d a n old m ho => ⟨exec_csrr_some ho d, rfl, fun hm hn => ?_, fun hm hn => ?_⟩,
    fun s d a n => ⟨fun h => exec_csrr_none h d, fun h => exec_csr_fault h d a⟩,
    fun s n k x hm _ => ⟨s.csrRead_csrWrite_same x hm, s.csrRead_csrWrite_ne x⟩⟩
  · have h := exec_csr_ok ho hm d a
    simp only [if_neg hn] at h
    exact h
  · have h := exec_csr_ok ho hm d a
    simp only [if_pos hn] at h
    exact h
end

-- ================================================================
-- Proofs, scope: Elements, the mask stack and format faults
-- ================================================================

section
namespace Sys2Proof.Machine
open Sys2Proof

/-! ### Elements of a payload -/

/-- Element `i` of a packed row is its code's low bits; past the end there are zeros (R36). -/
theorem packW_elem (w : Nat) (l : List Nat) (i : Nat) : packW w l / 2 ^ (w * i) % 2 ^ w = nthCode l i % 2 ^ w := by
  induction l generalizing i with
  | nil => simp [packW, nthCode]
  | cons x xs ih =>
    have hp : 0 < 2 ^ w := by positivity
    cases i with
    | zero => simp [packW, nthCode, Nat.add_mul_mod_self_left]
    | succ i =>
      rw [packW, Nat.mul_succ, Nat.add_comm (w * i), pow_add, ← Nat.div_div_eq_div_mul, Nat.add_mul_div_left _ _ hp,
        Nat.div_eq_of_lt (Nat.mod_lt _ hp), zero_add, ih]
      rfl

theorem packW_lt (w : Nat) (l : List Nat) : packW w l < 2 ^ (w * l.length) := by
  induction l with
  | nil => simp [packW]
  | cons x xs ih =>
    have hx := Nat.mod_lt x (show 0 < 2 ^ w by positivity)
    rw [packW, List.length_cons, Nat.mul_succ, Nat.add_comm (w * _), pow_add]
    calc x % 2 ^ w + 2 ^ w * packW w xs < 2 ^ w * (packW w xs + 1) := by rw [Nat.mul_succ]; omega
      _ ≤ 2 ^ w * 2 ^ (w * xs.length) := Nat.mul_le_mul_left _ ih

theorem Fmt.width_cases (f : Fmt) : f.width = 4 ∨ f.width = 8 ∨ f.width = 16 ∨ f.width = 32 ∨ f.width = 64 := by
  cases f <;> decide

theorem Fmt.width_pos (f : Fmt) : 0 < f.width := by
  cases f <;> decide

/-- The elements of a format fill a payload (R36). -/
theorem Fmt.width_mul_count (f : Fmt) : f.width * (2048 / f.width) = 2048 := by
  cases f <;> decide

@[simp] theorem length_vecCodes (f : Fmt) (pay : BitVec 2048) : (vecCodes f pay).length = 2048 / f.width := by
  simp [vecCodes, unpackW]

theorem nthCode_vecCodes {f : Fmt} {i : Nat} (pay : BitVec 2048) (hi : i < 2048 / f.width) :
    nthCode (vecCodes f pay) i = pay.toNat / 2 ^ (f.width * i) % 2 ^ f.width := by
  simp [nthCode, vecCodes, unpackW, hi]

theorem nthCode_vecCodes_lt (f : Fmt) (pay : BitVec 2048) (i : Nat) : nthCode (vecCodes f pay) i < 2 ^ f.width := by
  rcases Nat.lt_or_ge i (2048 / f.width) with hi | hi
  · rw [nthCode_vecCodes pay hi]
    exact Nat.mod_lt _ (by positivity)
  · rw [nthCode, List.getElem?_eq_none (by simpa using hi)]
    exact Nat.pow_pos two_pos

/-- The codes laid in a payload are read back (R36). -/
theorem nthCode_vecPay {f : Fmt} {l : List Nat} {i : Nat} (hl : l.length = 2048 / f.width) (hi : i < 2048 / f.width) :
    nthCode (vecCodes f (vecPay f.width l)) i = nthCode l i % 2 ^ f.width := by
  have hlt := packW_lt f.width l
  rw [hl, f.width_mul_count] at hlt
  rw [nthCode_vecCodes _ hi, vecPay, BitVec.toNat_ofNat, Nat.mod_eq_of_lt hlt, packW_elem]

/-! ### The mask stack (R222–R224) -/

theorem getLsbD_packW_one {n : Nat} (l : List Nat) (i : Nat) (h : l.length ≤ n) :
    (BitVec.ofNat n (packW 1 l)).getLsbD i = decide (nthCode l i % 2 = 1) := by
  have hlt : packW 1 l < 2 ^ n := (packW_lt 1 l).trans_le (Nat.pow_le_pow_right two_pos (by simpa using h))
  have helem := packW_elem 1 l i
  rw [one_mul, pow_one] at helem
  rw [BitVec.getLsbD, BitVec.toNat_ofNat, Nat.mod_eq_of_lt hlt, Nat.testBit_eq_decide_div_mod_eq, helem]

/-- R222: the string c has a bit for each element that is not zero, and none past the last. -/
theorem getLsbD_nonzeroMask (f : Fmt) (pay : BitVec 2048) (i : Nat) :
    (nonzeroMask f pay).getLsbD i = (decide (i < 2048 / f.width) && decide (nthCode (vecCodes f pay) i ≠ 0)) := by
  have hlen : ((vecCodes f pay).map (fun x => if x = 0 then 0 else 1)).length ≤ 512 := by
    rw [List.length_map, length_vecCodes]
    rcases f.width_cases with h | h | h | h | h <;> rw [h] <;> decide
  rw [nonzeroMask, getLsbD_packW_one _ i hlen]
  rcases Nat.lt_or_ge i (2048 / f.width) with hi | hi
  · have hget : i < (vecCodes f pay).length := by simpa using hi
    by_cases h0 : (vecCodes f pay)[i] = 0 <;> simp [nthCode, hi, h0]
  · simp [nthCode, Nat.not_lt.mpr hi]

theorem State.tagIn_any {s : State} {a : BitVec 5} {f : Fmt} (h : tagFmt (s.rv a).tag = some f) :
    s.tagIn a (fun _ => true) = .ok f := by
  simp [State.tagIn, h]

theorem execMpush_ok {s : State} {a : BitVec 5} {f : Fmt} (h : tagFmt (s.rv a).tag = some f) (hd : s.depth < 8) :
    execMpush a s = .next (s.put 1 (.mpush (nonzeroMask f (s.rv a).pay))) := by
  rw [execMpush, State.tagIn_any h]
  exact congrArg (deliver s) (if_neg (Nat.not_le.mpr hd))

theorem execMpush_full {s : State} {a : BitVec 5} {f : Fmt} (h : tagFmt (s.rv a).tag = some f) (hd : 8 ≤ s.depth) :
    execMpush a s = .next (s.takeFault (s.maskFault 1)) := by
  rw [execMpush, State.tagIn_any h]
  exact congrArg (deliver s) (if_pos hd)

theorem execMinv_ok {s : State} (hd : 0 < s.depth) : execMinv s = .next (s.put 1 .minv) :=
  congrArg (deliver s) (if_neg hd.ne')
theorem execMpop_ok {s : State} (hd : 0 < s.depth) : execMpop s = .next (s.put 1 .mpop) :=
  congrArg (deliver s) (if_neg hd.ne')
theorem execMinv_empty {s : State} (hd : s.depth = 0) : execMinv s = .next (s.takeFault (s.maskFault 2)) :=
  congrArg (deliver s) (if_pos hd)
theorem execMpop_empty {s : State} (hd : s.depth = 0) : execMpop s = .next (s.takeFault (s.maskFault 2)) :=
  congrArg (deliver s) (if_pos hd)

theorem Regs.apply_minv {g : Regs} {t : BitVec 512} {ks : List (BitVec 512)} (h : g.k = t :: ks) :
    (g.apply .minv).k = (ks.headD (BitVec.allOnes 512) &&& ~~~t) :: ks := by
  simp [Regs.apply, h]
theorem Regs.apply_mpop {g : Regs} {t : BitVec 512} {ks : List (BitVec 512)} (h : g.k = t :: ks) :
    (g.apply .mpop).k = ks := by
  simp [Regs.apply, h]

/-! ### Format faults (R34) -/

/-- The format fault of a register that does not carry the instruction's format. -/
theorem deliver_tagCheck_fault {s : State} {r : BitVec 5} {f : Fmt} (h : tagFmt (s.rv r).tag ≠ some f) (k : Unit → Res) :
    deliver s (s.tagCheck r f >>= k) = .next (s.takeFault (s.fmtFault r.toNat (s.rv r).tag)) := by
  rw [State.tagCheck, if_neg h]
  rfl

/-- One that does passes. -/
theorem tagCheck_bind {s : State} {r : BitVec 5} {f : Fmt} (h : tagFmt (s.rv r).tag = some f) (k : Unit → Res) :
    s.tagCheck r f >>= k = k () := by
  rw [State.tagCheck, if_pos h]
  rfl

/-- The second register of an instruction is checked once the first has passed. -/
theorem deliver_tagCheck_second {s : State} {r r' : BitVec 5} {f f' : Fmt} (h : tagFmt (s.rv r).tag = some f)
    (h' : tagFmt (s.rv r').tag ≠ some f') (k : Unit → Unit → Res) :
    deliver s (s.tagCheck r f >>= fun x => s.tagCheck r' f' >>= k x) =
      .next (s.takeFault (s.fmtFault r'.toNat (s.rv r').tag)) := by
  rw [tagCheck_bind h, deliver_tagCheck_fault h']

theorem deliver_trans_fault {s : State} {a : BitVec 5} {t : BitVec 2} (h : tagFmt (s.rv a).tag ≠ some (floatType t)) (fn : Fn)
    (c : BitVec 1) (d : BitVec 5) : deliver s (s.trans fn c d a t) = .next (s.takeFault (s.fmtFault a.toNat (s.rv a).tag)) := by
  unfold State.trans
  split <;> exact deliver_tagCheck_fault h _

end Sys2Proof.Machine

open Sys2Proof Sys2Proof.Machine

/-- Settles O33: the stack from the rules of `Regs.apply`, the faults from the first tag check that fails. -/
theorem maskStackAndFormatFaults : Obligations.MaskStackAndFormatFaults := by
  refine ⟨fun s a f hf => ⟨fun hd => ?_, execMpush_full hf, fun hd => ⟨execMinv_ok hd, execMpop_ok hd⟩,
    fun hd => ⟨execMinv_empty hd, execMpop_empty hd⟩, fun t hk => ?_, fun t u ks hk => ⟨Regs.apply_minv hk, Regs.apply_mpop hk⟩⟩,
    fun s d a b t u c w => ⟨fun h => ?_, fun ha hb => ?_, fun h => ?_⟩⟩
  · refine ⟨_, execMpush_ok hf hd, fun i hi => ?_, fun i hi => ?_, rfl⟩
    · rw [getLsbD_nonzeroMask, decide_eq_true hi, Bool.true_and]
    · rw [getLsbD_nonzeroMask, decide_eq_false (Nat.not_lt.mpr hi), Bool.false_and]
  · refine ⟨(Regs.apply_minv hk).trans ?_, Regs.apply_mpop hk⟩
    rw [List.headD_nil, BitVec.allOnes_and]
  · exact ⟨deliver_tagCheck_fault h _, deliver_tagCheck_fault h _, deliver_tagCheck_fault h _, deliver_tagCheck_fault h _,
      deliver_tagCheck_fault h _, deliver_trans_fault h .exp2 c d⟩
  · exact ⟨deliver_tagCheck_second ha hb _, deliver_tagCheck_second ha hb _, deliver_tagCheck_second ha hb _⟩
  · exact ⟨deliver_tagCheck_fault h _, deliver_tagCheck_fault h _, deliver_tagCheck_fault h _⟩
end

-- ================================================================
-- Proofs, scope: Quantised groups and blocks
-- ================================================================

section
namespace Sys2Proof.Machine
open Sys2Proof

/-! ### Flags -/

theorem Flags.has_or (a b g : Flags) : (a ||| b).has g ↔ a.has g ∨ b.has g := by
  unfold Flags.has
  rw [show (a ||| b) &&& g = (a &&& g) ||| (b &&& g) by ext i; simp [Bool.and_or_distrib_right]]
  exact (not_congr BitVec.or_eq_zero_iff).trans not_and_or

theorem orAll_foldl (l : List Flags) (a : Flags) : l.foldl (· ||| ·) a = a ||| orAll l := by
  induction l generalizing a with
  | nil => simp [orAll]
  | cons x xs ih =>
    rw [orAll, List.foldl_cons, List.foldl_cons, ih, ih, BitVec.or_assoc]
    simp

theorem orAll_cons (x : Flags) (l : List Flags) : orAll (x :: l) = x ||| orAll l := by
  rw [orAll, List.foldl_cons, orAll_foldl]
  simp

theorem has_orAll (l : List Flags) (g : Flags) : (orAll l).has g ↔ ∃ x ∈ l, x.has g := by
  induction l with
  | nil => simp [orAll, Flags.has]
  | cons x xs ih => rw [orAll_cons, Flags.has_or, ih, List.exists_mem_cons_iff]

theorem getLsbD_orAll (l : List Flags) (n : Nat) : (orAll l).getLsbD n = true ↔ ∃ x ∈ l, x.getLsbD n = true := by
  induction l with
  | nil => simp [orAll]
  | cons x xs ih => rw [orAll_cons, BitVec.getLsbD_or, Bool.or_eq_true, ih, List.exists_mem_cons_iff]

/-! ### Least and greatest of a list -/

theorem minInt_eq_min : ∀ {l : List Int} (h : l ≠ []), minInt l = l.min h
  | [_], _ => rfl
  | x :: y :: l, h => by
    rw [show minInt (x :: y :: l) = min x (minInt (y :: l)) from rfl, minInt_eq_min (List.cons_ne_nil y l),
      List.min_cons (h := h), List.min?_eq_some_min (List.cons_ne_nil y l), Option.elim_some]

theorem maxInt_eq_max : ∀ {l : List Int} (h : l ≠ []), maxInt l = l.max h
  | [_], _ => rfl
  | x :: y :: l, h => by
    rw [show maxInt (x :: y :: l) = max x (maxInt (y :: l)) from rfl, maxInt_eq_max (List.cons_ne_nil y l),
      List.max_cons (h := h), List.max?_eq_some_max (List.cons_ne_nil y l), Option.elim_some]

theorem minInt_mem {l : List Int} (h : l ≠ []) : minInt l ∈ l :=
  minInt_eq_min h ▸ List.min_mem h

theorem minInt_le {l : List Int} {x : Int} (h : x ∈ l) : minInt l ≤ x :=
  minInt_eq_min (List.ne_nil_of_mem h) ▸ List.min_le_of_mem h

theorem maxInt_mem {l : List Int} (h : l ≠ []) : maxInt l ∈ l :=
  maxInt_eq_max h ▸ List.max_mem h

theorem le_maxInt {l : List Int} {x : Int} (h : x ∈ l) : x ≤ maxInt l :=
  maxInt_eq_max (List.ne_nil_of_mem h) ▸ List.le_max_of_mem h

/-! ### Values at a common exponent -/

/-- A finite value is exact at an exponent no larger than its own. -/
theorem Val.scaled_mul {v : Val} {k : Int} (hv : v.isFinite = true) (hk : k ≤ v.expo) : (v.scaled k : ℚ) * 2 ^ k = v.num := by
  cases v with
  | nan s => simp [Val.isFinite] at hv
  | inf n => simp [Val.isFinite] at hv
  | fin n m e =>
    by_cases hm : m = 0
    · simp [Val.scaled, Val.num, hm]
    · rw [Val.expo, if_neg hm] at hk
      have hp : (2 : ℚ) ^ (e - k).toNat * 2 ^ k = 2 ^ e := by
        rw [← zpow_natCast, ← zpow_add₀ two_ne_zero, Int.toNat_of_nonneg (by omega), sub_add_cancel]
      rw [Val.num_fin, Val.scaled]
      cases n <;> simp [mul_assoc, hp]

theorem fracDiv_spec {m1 m2 : Nat} (e1 e2 : Int) (h : m2 ≠ 0) :
    0 < (fracDiv m1 e1 m2 e2).2 ∧ ((fracDiv m1 e1 m2 e2).1 : ℚ) / (fracDiv m1 e1 m2 e2).2 = m1 * 2 ^ e1 / (m2 * 2 ^ e2) := by
  have hb := fracOf_den_pos m1 e1
  have ha := fracOf_num_pos e2 h
  refine ⟨Nat.mul_pos hb ha, ?_⟩
  rw [← fracOf_div, ← fracOf_div, div_div_div_eq]
  simp [fracDiv]

/-! ### Scales -/

/-- Rounding up does not lose magnitude (R39). -/
theorem le_mag_roundMag_rup (p : FpParams) {num den : Nat} (hd : 0 < den) :
    (num : ℚ) / den ≤ p.mag (roundMag p .rup false num den).1 := by
  cases h : neighbours p num den with | mk lo rd =>
  obtain ⟨r, d⟩ := rd
  obtain ⟨-, hhi, hz⟩ := neighbours_bounds p hd h
  by_cases hr : r = 0
  · rw [show roundMag p .rup false num den = (lo, false) by simp [roundMag, h, hr, roundsUp], hz.mp hr]
  · rw [show roundMag p .rup false num den = (lo + 1, true) by simp [roundMag, h, hr, roundsUp]]
    exact hhi.le

/-- The scale of a group or block: a magnitude rounded up, no larger than the greatest code. -/
def scaleCode (f : Fmt) (num den : Nat) : Nat :=
  let c := (roundFrac f .rup false num den).1
  if c = f.params.maxCode + 1 then f.params.maxCode else c

theorem scaleCode_range {f : Fmt} (hf : f.Ieee) {num den : Nat} (hn : 0 < num) (hd : 0 < den) :
    1 ≤ scaleCode f num den ∧ scaleCode f num den ≤ f.params.maxCode := by
  have hle := le_mag_roundMag_rup f.params (num := num) hd
  have hpos : (0 : ℚ) < num / den := div_pos (by exact_mod_cast hn) (by exact_mod_cast hd)
  have h1 : 0 < (roundMag f.params .rup false num den).1 := by
    rw [← f.params.mag_strictMono.lt_iff_lt, f.params.mag_zero]
    exact hpos.trans_le hle
  have hmax := hf.max_pos
  unfold scaleCode
  rw [roundFrac_eq]
  split
  case isTrue h =>
    rw [Fmt.signed, if_neg Bool.false_ne_true, if_neg (by omega)]
    exact ⟨h1, h⟩
  case isFalse => simp [overflowCode, hf.inf, Fmt.signed]; omega

/-- A code between the least and the greatest is a positive number. -/
theorem decodeFloat_pos {f : Fmt} (hf : f.Ieee) {c : Nat} (h1 : 1 ≤ c) (h : c ≤ f.params.maxCode) :
    ∃ m e, decodeFloat f c = .fin false m e ∧ m ≠ 0 := by
  obtain ⟨m, e, hd, hv⟩ := decodeFloat_signed false (Nat.lt_of_succ_lt hf.max_lt) h
  refine ⟨m, e, hd, ?_⟩
  rintro rfl
  have := f.params.mag_strictMono h1
  rw [f.params.mag_zero, ← hv] at this
  simp at this

theorem f16_ieee : Fmt.f16.Ieee := floatType_ieee 2
theorem e5m2_ieee : Fmt.e5m2.Ieee := ⟨rfl, rfl, by decide, rfl, by decide, by decide, by decide⟩

/-! ### A group of R51 -/

theorem least_scaled (k : Int) {l : List Int} (h : l ≠ []) :
    (minInt l : ℚ) * 2 ^ k ∈ l.map (fun i : Int => (i : ℚ) * 2 ^ k) ∧
      ∀ y ∈ l.map (fun i : Int => (i : ℚ) * 2 ^ k), (minInt l : ℚ) * 2 ^ k ≤ y := by
  refine ⟨List.mem_map_of_mem (minInt_mem h), List.forall_mem_map.mpr fun i hi => ?_⟩
  have : (minInt l : ℚ) ≤ i := by exact_mod_cast minInt_le hi
  gcongr

theorem greatest_scaled (k : Int) {l : List Int} (h : l ≠ []) :
    (maxInt l : ℚ) * 2 ^ k ∈ l.map (fun i : Int => (i : ℚ) * 2 ^ k) ∧
      ∀ y ∈ l.map (fun i : Int => (i : ℚ) * 2 ^ k), y ≤ (maxInt l : ℚ) * 2 ^ k := by
  refine ⟨List.mem_map_of_mem (maxInt_mem h), List.forall_mem_map.mpr fun i hi => ?_⟩
  have : (i : ℚ) ≤ maxInt l := by exact_mod_cast le_maxInt hi
  gcongr

/-- round_int of x × 2^k over a scale, as R51 divides. -/
def quotient (r : Rnd) (x k : Int) (v : Val) : Int :=
  (roundIntFrac r (decide (x < 0)) (fracDiv x.natAbs k v.mant v.expo).1 (fracDiv x.natAbs k v.mant v.expo).2).1

theorem rounds_quotient (r : Rnd) {x k : Int} {y : ℚ} (hy : (x : ℚ) * 2 ^ k = y) {v : Val} {m : Nat} {e : Int}
    (hv : v = .fin false m e) (hm : m ≠ 0) :
    ∃ nx, r.rounds (decide (y < 0)) (|y| / v.num) (quotient r x k v) nx := by
  subst hv hy
  obtain ⟨hd, hq⟩ := fracDiv_spec (m1 := x.natAbs) k e hm
  have hexpo : (Val.fin false m e).expo = e := if_neg hm
  have hpos : (0 : ℚ) < 2 ^ k := by positivity
  have hsign : decide ((x : ℚ) * 2 ^ k < 0) = decide (x < 0) := by
    simp [mul_neg_iff, hpos, hpos.le.not_gt]
  rw [quotient, hexpo, hsign]
  refine ⟨_, _, _, hd, ?_, rfl⟩
  rw [show (Val.fin false m e).mant = m from rfl, hq, Val.num_fin, abs_mul, abs_of_pos hpos]
  simp [Nat.cast_natAbs]

/-- A code's value is the element's, compared at the lower of the two exponents. -/
theorem sameValue_iff (c x k : Int) {v : Val} (hv : v.isFinite = true) :
    (c * v.scaled (min k v.expo) == x * (2 ^ (k - min k v.expo).toNat : Nat)) = true ↔ (c : ℚ) * v.num = x * 2 ^ k := by
  have hpos : (0 : ℚ) < 2 ^ min k v.expo := by positivity
  have hsplit : (2 : ℚ) ^ k = (2 ^ (k - min k v.expo).toNat : Nat) * 2 ^ min k v.expo := by
    rw [Nat.cast_pow, Nat.cast_ofNat, ← zpow_natCast, ← zpow_add₀ two_ne_zero, Int.toNat_of_nonneg (by omega), sub_add_cancel]
  rw [← Val.scaled_mul (v := v) hv (min_le_right k v.expo), hsplit, ← mul_assoc, ← mul_assoc,
    mul_left_inj' hpos.ne', beq_iff_eq]
  exact_mod_cast Iff.rfl

theorem quantQ_special {qmax rm : Nat} {draw : Nat → Nat} {xs : List Val} (h : ∃ x ∈ xs, x.isFinite = false) :
    quantQ qmax rm draw xs = ⟨xs.map (fun _ => 0), 0x7E00, 0, flIV ||| flagIf (!xs.all Val.isNaN) flNX⟩ := by
  unfold quantQ
  rw [if_pos (by simpa using h)]

/-- The flags of a group, each from its own cause (R50). -/
theorem quantQ_flags (b1 b2 b3 : Bool) :
    let fl := flagIf b1 (flOF ||| flNX) ||| flagIf b2 flSA ||| flagIf b3 flNX
    (fl.has flOF ↔ b1 = true) ∧ (fl.has flSA ↔ b2 = true) ∧ (fl.has flNX ↔ b1 = true ∨ b3 = true) ∧
      ¬ fl.has (flIV ||| flDZ ||| flUF) := by
  unfold Flags.has
  revert b1 b2 b3
  decide

theorem clamp_toNat (qmax : Nat) (z : Int) : ((min (qmax : Int) (max 0 z)).toNat : Int) = min (qmax : Int) (max 0 z) :=
  Int.toNat_of_nonneg (by omega)

/-- Some pair of two rows fails a test. -/
theorem not_all_zipWith {α β : Type} (t : α → β → Bool) (l : List α) (r : List β) :
    (!(List.zipWith t l r).all id) = true ↔ ∃ (i : Nat) (a : α) (b : β), l[i]? = some a ∧ r[i]? = some b ∧ t a b = false := by
  simp only [Bool.not_eq_true', List.all_eq_false, List.mem_iff_getElem?, List.getElem?_zipWith_eq_some, id]
  constructor
  · rintro ⟨_, ⟨i, a, b, ha, hb, rfl⟩, ht⟩
    exact ⟨i, a, b, ha, hb, by simpa using ht⟩
  · rintro ⟨i, a, b, ha, hb, ht⟩
    exact ⟨_, ⟨i, a, b, ha, hb, rfl⟩, by simp [ht]⟩

/-- The scale of a group before it is rounded up: 1, or the span over `qmax` (R51). -/
def groupSpan (qmax : Nat) (k lo hi : Int) : Nat × Nat :=
  if hi = lo then (1, 1) else ((fracOf (hi - lo).natAbs k).1, (fracOf (hi - lo).natAbs k).2 * qmax)

theorem groupSpan_spec {qmax : Nat} (k : Int) {lo hi : Int} (hq : 0 < qmax) (hle : lo ≤ hi) :
    0 < (groupSpan qmax k lo hi).1 ∧ 0 < (groupSpan qmax k lo hi).2 ∧
      ((groupSpan qmax k lo hi).1 : ℚ) / (groupSpan qmax k lo hi).2 =
        if (hi : ℚ) * 2 ^ k = lo * 2 ^ k then 1 else ((hi : ℚ) * 2 ^ k - lo * 2 ^ k) / qmax := by
  have hpow : (2 : ℚ) ^ k ≠ 0 := by positivity
  unfold groupSpan
  by_cases h : hi = lo
  · simp [h]
  · have hne : ¬ (hi : ℚ) * 2 ^ k = lo * 2 ^ k := fun he => h (by exact_mod_cast mul_right_cancel₀ hpow he)
    have hnat : ((hi - lo).natAbs : ℚ) = hi - lo := by
      rw [Nat.cast_natAbs, abs_of_nonneg (by omega)]
      push_cast
      rfl
    rw [if_neg hne, if_neg h]
    refine ⟨fracOf_num_pos k (by omega), Nat.mul_pos (fracOf_den_pos _ k) hq, ?_⟩
    rw [Nat.cast_mul, ← div_div, fracOf_div, hnat, sub_mul]

/-- The zero point divides the least element's magnitude (R51). -/
theorem rounds_zeroPoint {lo k : Int} (hlo : lo ≤ 0) {v : Val} {m : Nat} {e : Int} (hv : v = .fin false m e) (hm : m ≠ 0) :
    ∃ nx, Rnd.rne.rounds false (-((lo : ℚ) * 2 ^ k) / v.num) (quotient .rne (-lo) k v) nx := by
  have hneg : (lo : ℚ) * 2 ^ k ≤ 0 := mul_nonpos_of_nonpos_of_nonneg (by exact_mod_cast hlo) (by positivity)
  have hcast : ((-lo : Int) : ℚ) * 2 ^ k = -(lo * 2 ^ k) := by
    push_cast
    ring
  have h := rounds_quotient .rne hcast hv hm
  rwa [abs_of_nonneg (neg_nonneg.mpr hneg), decide_eq_false (neg_nonneg.mpr hneg).not_gt] at h

/-- Some element's code stands for another value than the element's. -/
theorem not_all_sameValue {k zp : Int} {v : Val} {code : Int → Int} {xs : List Val} (hv : v.isFinite = true)
    (hs : ∀ x ∈ xs, (x.scaled k : ℚ) * 2 ^ k = x.num) (hzp : (zp.toNat : Int) = zp) (hcode : ∀ c, ((code c).toNat : Int) = code c)
    (cs : List Int) :
    (!(List.zipWith (fun x c => (code c - zp) * v.scaled (min k v.expo) == x * (2 ^ (k - min k v.expo).toNat : Nat))
        (xs.map (fun x => x.scaled k)) cs).all id) = true ↔
      ∃ (i : Nat) (x : Val) (y : Nat), xs[i]? = some x ∧ (cs.map (fun c => (code c).toNat))[i]? = some y ∧
        ((y : ℚ) - zp.toNat) * v.num ≠ x.num := by
  have hsame {i : Nat} {x : Val} (c : Int) (hx : xs[i]? = some x) :
      ((code c - zp) * v.scaled (min k v.expo) == x.scaled k * (2 ^ (k - min k v.expo).toNat : Nat)) = false ↔
        (((code c).toNat : ℚ) - zp.toNat) * v.num ≠ x.num := by
    have hdiff : ((code c).toNat : ℚ) - zp.toNat = ((code c - zp : Int) : ℚ) := by
      rw [← hcode c, ← hzp]
      push_cast
      rfl
    rw [← Bool.not_eq_true, hdiff, ← hs x (List.mem_of_getElem? hx)]
    exact not_congr (sameValue_iff _ _ k hv)
  rw [not_all_zipWith]
  constructor
  · rintro ⟨i, a, c, ha, hc, h⟩
    obtain ⟨x, hx, rfl⟩ : ∃ x, xs[i]? = some x ∧ x.scaled k = a := by simpa using ha
    exact ⟨i, x, _, hx, by simp [hc], (hsame c hx).mp h⟩
  · rintro ⟨i, x, y, hx, hy, h⟩
    obtain ⟨c, hc, rfl⟩ : ∃ c, cs[i]? = some c ∧ (code c).toNat = y := by simpa using hy
    exact ⟨i, _, c, by simp [hx], hc, (hsame c hx).mpr h⟩

/-- A group with an element that is not finite (R51). -/
theorem quantQ_isQGroup_special {qmax rm : Nat} (draw : Nat → Nat) {xs : List Val} (h : ∃ x ∈ xs, x.isFinite = false) :
    IsQGroup qmax (fun i => (Rnd.ofCode rm (draw i)).getD .rne) xs (quantQ qmax rm draw xs) := by
  rw [quantQ_special h]
  refine ⟨by simp, fun _ => ⟨by simp, rfl, rfl, ?_⟩, fun hfin => ?_⟩
  · rw [Flags.has_or]
    exact .inl (show flIV &&& flIV ≠ 0 by decide)
  · obtain ⟨x, hx, hbad⟩ := h
    exact absurd (hfin x hx) (by simp [hbad])

theorem quantQ_isQGroup {qmax rm : Nat} (draw : Nat → Nat) {xs : List Val} (hq : 0 < qmax) :
    IsQGroup qmax (fun i => (Rnd.ofCode rm (draw i)).getD .rne) xs (quantQ qmax rm draw xs) := by
  by_cases hfin : ∀ x ∈ xs, x.isFinite = true
  swap
  · exact quantQ_isQGroup_special draw (by simpa using hfin)
  unfold quantQ
  rw [if_neg (by simpa using hfin)]
  extract_lets k is lo hi a sf sc0 sc sv div zp cs code q same
  have hscaled : ∀ x ∈ xs, (x.scaled k : ℚ) * 2 ^ k = x.num := fun x hx =>
    Val.scaled_mul (hfin x hx) (minInt_le (List.mem_map_of_mem hx))
  have hnums : (0 : ℚ) :: xs.map Val.num = (0 :: is).map (fun i : Int => (i : ℚ) * 2 ^ k) := by
    simpa [is] using fun x hx => (hscaled x hx).symm
  have hlohi : lo ≤ hi := minInt_le (maxInt_mem (List.cons_ne_nil _ _))
  obtain ⟨hnum, hden, hspan⟩ := groupSpan_spec k hq hlohi
  obtain ⟨hs1, hs2⟩ := scaleCode_range f16_ieee hnum hden
  obtain ⟨m, e, hdec, hm⟩ := decodeFloat_pos f16_ieee hs1 hs2
  have hsv : sv = .fin false m e := hdec
  obtain ⟨hOF, hSA, hNX, hno⟩ := quantQ_flags (sc0 == 31744) (cs.any fun c => code c != c) (!(List.zipWith same is cs).all id)
  obtain ⟨nx, hnx⟩ := rounds_zeroPoint (k := k) (lo := lo) (minInt_le List.mem_cons_self) hsv hm
  refine ⟨by simp [cs, is], fun ⟨x, hx, h⟩ => absurd h (by simp [hfin x hx]), fun _ =>
    ⟨lo * 2 ^ k, hi * 2 ^ k, roundFrac .f16 .rup false sf.1 sf.2, _, nx, cs, ?_, ?_, ⟨_, _, hden, hspan, rfl⟩, rfl, hnx,
      clamp_toNat _ _, by simp [cs, is], ?_, ?_, hOF.trans beq_iff_eq, ?_, ?_, hno⟩⟩
  · rw [hnums]
    exact least_scaled k (List.cons_ne_nil _ _)
  · rw [hnums]
    exact greatest_scaled k (List.cons_ne_nil _ _)
  · intro i x c hx hc
    have hquot : div (x.scaled k) ((Rnd.ofCode rm (draw i)).getD .rne) + zp = c := by
      simpa [cs, is, hx] using hc
    rw [← hquot, clamp_toNat, add_sub_cancel_right]
    exact rounds_quotient _ (hscaled x (List.mem_of_getElem? hx)) hsv hm
  · intro i c y hc hy
    obtain rfl : (code c).toNat = y := by simpa [hc] using hy
    exact clamp_toNat qmax c
  · rw [hSA, List.any_eq_true]
    refine exists_congr fun c => and_congr_right fun _ => ?_
    rw [bne_iff_ne, show code c = min (qmax : Int) (max 0 c) from rfl]
    omega
  · rw [hNX, beq_iff_eq]
    exact or_congr_right (not_all_sameValue (by rw [hsv]; rfl) hscaled (clamp_toNat _ _) (clamp_toNat qmax) cs)

/-- The codes of a group are at most `qmax`. -/
theorem IsQGroup.code_le {qmax : Nat} {mode : Nat → Rnd} {xs : List Val} {q : QGroup} (h : IsQGroup qmax mode xs q) :
    ∀ y ∈ q.codes, y ≤ qmax := by
  intro y hy
  obtain ⟨hlen, hbad, hgood⟩ := h
  by_cases hfin : ∃ x ∈ xs, x.isFinite = false
  · rw [(hbad hfin).1 y hy]
    exact Nat.zero_le _
  · obtain ⟨_, _, _, _, _, cs, -, -, -, -, -, -, hcs, -, hcode, -⟩ := hgood (by simpa using hfin)
    obtain ⟨i, hi, hget⟩ := List.mem_iff_getElem.mp hy
    have := hcode i cs[i] y (List.getElem?_eq_getElem (by omega)) (List.getElem?_eq_some_iff.mpr ⟨hi, hget⟩)
    omega

/-! ### A block of R52 -/

theorem has_orAll_snd (l : List (Nat × Flags)) (g : Flags) : (orAll (l.map Prod.snd)).has g ↔ ∃ x ∈ l, x.2.has g := by
  simp only [has_orAll, List.mem_map, exists_exists_and_eq_and]

theorem getLsbD_orAll_snd (l : List (Nat × Flags)) (n : Nat) :
    (orAll (l.map Prod.snd)).getLsbD n = true ↔ ∃ x ∈ l, x.2.getLsbD n = true := by
  simp only [getLsbD_orAll, List.mem_map, exists_exists_and_eq_and]

theorem Val.exists_of_finite {v : Val} (h : v.isFinite = true) : ∃ n m e, v = .fin n m e := by
  cases v with
  | nan s => simp [Val.isFinite] at h
  | inf n => simp [Val.isFinite] at h
  | fin n m e => exact ⟨n, m, e, rfl⟩

theorem Val.abs_num {v : Val} (h : v.isFinite = true) : |v.num| = v.mant * 2 ^ v.expo := by
  obtain ⟨n, m, e, rfl⟩ := Val.exists_of_finite h
  rw [Val.abs_num_fin]
  by_cases hm : m = 0
  · simp [Val.mant, hm]
  · simp [Val.mant, Val.expo, hm]

theorem Val.mant_ne_zero {v : Val} (h : v.isFinite = true) (h0 : v.isZero = false) : v.mant ≠ 0 := by
  obtain ⟨n, m, e, rfl⟩ := Val.exists_of_finite h
  simpa [Val.isZero, Val.mant] using h0

/-- The flags of a block: its scale's overflow, and NX and UF of its elements (R50). -/
theorem quantE2m1_flags (b : Bool) (o : Flags) :
    let fl := flagIf b (flOF ||| flNX) ||| (o &&& (flNX ||| flUF))
    (fl.has flOF ↔ b = true) ∧ (fl.has flNX ↔ b = true ∨ o.has flNX) ∧ (fl.has flUF ↔ o.has flUF) ∧
      ¬ fl.has (flIV ||| flDZ ||| flSA) := by
  unfold Flags.has
  revert b o
  decide

theorem quantE2m1_special {ts rm : Nat} {draw : Nat → Nat} {xs : List Val}
    (h : (tensorScale ts).isFinite = false ∨ (tensorScale ts).isZero = true ∨ ∃ x ∈ xs, x.isFinite = false) :
    quantE2m1 ts rm draw xs = ⟨xs.map (fun _ => 0), 0x7E, 0, flIV⟩ := by
  unfold quantE2m1
  rw [if_pos (by simpa [or_assoc] using h)]

/-- The greatest magnitude of a list, at a common exponent. -/
theorem greatest_abs {k : Int} {t : ℚ} (ht : 0 < t) {xs : List Val} (hxs : xs ≠ [])
    (hs : ∀ x ∈ xs, (x.scaled k : ℚ) * 2 ^ k = x.num) {a : Int} (ha : a = maxInt (xs.map (fun x => ((x.scaled k).natAbs : Int)))) :
    (a : ℚ) * 2 ^ k / t ∈ xs.map (fun x => |x.num| / t) ∧ ∀ x ∈ xs, |x.num| / t ≤ (a : ℚ) * 2 ^ k / t := by
  have hpow : (0 : ℚ) < 2 ^ k := by positivity
  have habs : ∀ x ∈ xs, |x.num| = ((x.scaled k).natAbs : Int) * 2 ^ k := fun x hx => by
    rw [← hs x hx, abs_mul, abs_of_pos hpow, Int.natCast_natAbs, Int.cast_abs]
  obtain ⟨h1, h2⟩ := greatest_scaled k (l := xs.map (fun x => ((x.scaled k).natAbs : Int))) (by simpa using hxs)
  rw [← ha] at h1 h2
  obtain ⟨x, hx, hxa⟩ : ∃ x ∈ xs, ((x.scaled k).natAbs : Int) * (2 : ℚ) ^ k = a * 2 ^ k := by simpa using h1
  refine ⟨List.mem_map.mpr ⟨x, hx, by rw [habs x hx, hxa]⟩, fun y hy => ?_⟩
  rw [habs y hy]
  exact div_le_div_of_nonneg_right (h2 _ (List.mem_map_of_mem (List.mem_map_of_mem hy))) ht.le

/-- The scale of a block is a positive number, 1 for a block of zeros (R52). -/
theorem blockScale_range {a : Int} {sf : Nat × Nat} (hnum : a ≠ 0 → 0 < sf.1) (hden : 0 < sf.2) {bs0 : Nat}
    (hbs0 : bs0 = if a = 0 then 0x3C else (roundFrac .e5m2 .rup false sf.1 sf.2).1) :
    1 ≤ (if bs0 = 0x7C then 0x7B else bs0) ∧ (if bs0 = 0x7C then 0x7B else bs0) ≤ Fmt.e5m2.params.maxCode := by
  by_cases h : a = 0
  · simp [hbs0, h, Fmt.params]
  · rw [hbs0, if_neg h]
    exact scaleCode_range e5m2_ieee (hnum h) hden

/-- The magnitude of an element over the tensor's scale and the block's. -/
theorem fracDiv_element {x t v : Val} (hx : x.isFinite = true) (ht : t.isFinite = true) (htm : t.mant ≠ 0) {m : Nat} {e : Int}
    (hv : v = .fin false m e) (hm : m ≠ 0) :
    0 < (fracDiv x.mant x.expo (t.mant * v.mant) (t.expo + v.expo)).2 ∧
      ((fracDiv x.mant x.expo (t.mant * v.mant) (t.expo + v.expo)).1 : ℚ) /
        (fracDiv x.mant x.expo (t.mant * v.mant) (t.expo + v.expo)).2 = |x.num / t.num| / v.num := by
  have hvm : v.mant ≠ 0 := by rwa [hv]
  have hvnum : v.num = v.mant * 2 ^ v.expo := by
    rw [← Val.abs_num (by rw [hv]; rfl), hv, Val.num_fin, if_neg Bool.false_ne_true, one_mul, abs_of_nonneg (by positivity)]
  obtain ⟨hd, hq⟩ := fracDiv_spec (m1 := x.mant) x.expo (t.expo + v.expo) (Nat.mul_ne_zero htm hvm)
  refine ⟨hd, ?_⟩
  rw [hq, hvnum, abs_div, Val.abs_num hx, Val.abs_num ht, zpow_add₀ two_ne_zero]
  push_cast
  field_simp

/-- A block with a scale that is zero, or with a value that is not finite (R52). -/
theorem quantE2m1_isBlock_special {ts rm : Nat} (draw : Nat → Nat) {xs : List Val}
    (h : (tensorScale ts).isFinite = false ∨ (tensorScale ts).isZero = true ∨ ∃ x ∈ xs, x.isFinite = false) :
    IsE2m1Block ts (fun i => (Rnd.ofCode rm (draw i)).getD .rne) xs (quantE2m1 ts rm draw xs) := by
  rw [quantE2m1_special h]
  exact ⟨by simp, fun _ => ⟨by simp, rfl, rfl⟩, fun hnot => absurd h hnot⟩

theorem quantE2m1_isBlock {ts rm : Nat} (draw : Nat → Nat) {xs : List Val} (hxs : xs ≠ []) :
    IsE2m1Block ts (fun i => (Rnd.ofCode rm (draw i)).getD .rne) xs (quantE2m1 ts rm draw xs) := by
  by_cases hbad : (tensorScale ts).isFinite = false ∨ (tensorScale ts).isZero = true ∨ ∃ x ∈ xs, x.isFinite = false
  · exact quantE2m1_isBlock_special draw hbad
  obtain ⟨htfin, htz, hfin⟩ : (tensorScale ts).isFinite = true ∧ (tensorScale ts).isZero = false ∧
      ∀ x ∈ xs, x.isFinite = true := by simpa [not_or] using hbad
  unfold quantE2m1
  extract_lets t k a sf bs0 bs sv cs
  rw [if_neg (by simpa [or_assoc] using hbad)]
  have htm : t.mant ≠ 0 := Val.mant_ne_zero htfin htz
  have ht : |t.num| = t.mant * 2 ^ t.expo := Val.abs_num htfin
  have htpos : (0 : ℚ) < |t.num| := by rw [ht]; positivity
  have hscaled : ∀ x ∈ xs, (x.scaled k : ℚ) * 2 ^ k = x.num := fun x hx =>
    Val.scaled_mul (hfin x hx) (minInt_le (List.mem_map_of_mem hx))
  obtain ⟨hmem, hmax⟩ := greatest_abs htpos hxs hscaled (a := a) rfl
  have ha0 : 0 ≤ a := by
    obtain ⟨x, -, hx⟩ := List.mem_map.mp (maxInt_mem (l := xs.map (fun x => ((x.scaled k).natAbs : Int))) (by simpa using hxs))
    exact (Int.natCast_nonneg _).trans hx.le
  have hzero : (a : ℚ) * 2 ^ k / |t.num| = 0 ↔ a = 0 := by
    simp [htpos.ne', zpow_ne_zero]
  obtain ⟨hsd, hsv⟩ := fracDiv_spec (m1 := a.natAbs) k t.expo (m2 := 6 * t.mant) (by omega)
  have hnum : a ≠ 0 → 0 < sf.1 := fun h => Nat.mul_pos (fracOf_num_pos k (Int.natAbs_ne_zero.mpr h)) (fracOf_den_pos _ _)
  have hrange : 1 ≤ bs ∧ bs ≤ Fmt.e5m2.params.maxCode := blockScale_range hnum hsd rfl
  obtain ⟨m, e, hdec, hm⟩ := decodeFloat_pos e5m2_ieee hrange.1 hrange.2
  obtain ⟨hOF, hNX, hUF, hno⟩ := quantE2m1_flags (bs0 == 124) (orAll (cs.map Prod.snd))
  have hsixth : (sf.1 : ℚ) / sf.2 = (a : ℚ) * 2 ^ k / |t.num| / 6 := by
    rw [hsv, ht, Nat.cast_natAbs, abs_of_nonneg ha0]
    push_cast
    field_simp
  have hsc : (if a = 0 then (0x3C, 0) else roundFrac .e5m2 .rup false sf.1 sf.2).1 = bs0 := by
    simp only [bs0, apply_ite Prod.fst]
  refine ⟨by simp [cs], fun h => absurd h hbad, fun _ => ⟨(a : ℚ) * 2 ^ k / |t.num|,
    if a = 0 then (0x3C, 0) else roundFrac .e5m2 .rup false sf.1 sf.2, cs, ?_, ?_, ?_, ?_, by simp [cs], rfl, ?_, ?_, ?_, ?_, hno⟩⟩
  · simp only [abs_div]
    exact ⟨List.mem_cons_of_mem _ hmem, hmax⟩
  · exact fun h => by rw [if_pos (hzero.mp h)]
  · exact fun h => ⟨sf.1, sf.2, hsd, hsixth, if_neg (mt hzero.mpr h)⟩
  · rw [hsc]
  · intro i x l hx hl
    obtain ⟨hd, hv⟩ := fracDiv_element (hfin x (List.mem_of_getElem? hx)) htfin htm hdec hm
    exact ⟨_, _, hd, hv, by simpa [cs, hx] using hl.symm⟩
  · rw [hOF, beq_iff_eq, hsc]
  · rw [hNX, beq_iff_eq, has_orAll_snd, hsc]
  · rw [hUF, has_orAll_snd]

end Sys2Proof.Machine
end

-- ================================================================
-- Proofs, scope: Conversions
-- ================================================================

section
namespace Sys2Proof.Machine
open Sys2Proof

/-! ### Converted elements (R49) -/

/-- The codes of a float format fit its width. -/
structure Fmt.Fits (f : Fmt) : Prop where
  width : f.params.width = f.width
  max : f.params.maxCode < 2 ^ (f.width - 1)
  inf : ∀ i, f.params.inf = some i → i < 2 ^ (f.width - 1)
  nan : ∀ c, f.params.nan = some c → c < 2 ^ (f.width - 1)

theorem Fmt.fits_of_isFloat {f : Fmt} (h : f.isFloat = true) : f.Fits := by
  rcases Fmt.isFloat_cases h with rfl | rfl | rfl | rfl | rfl <;>
    exact ⟨rfl, by decide, by simp [Fmt.params, Fmt.width], by simp [Fmt.params, Fmt.width]⟩

theorem Fmt.fits_e2m1 : Fmt.e2m1.Fits := ⟨rfl, by decide, by simp [Fmt.params], by simp [Fmt.params]⟩

theorem Fmt.Fits.signed_lt {f : Fmt} (hf : f.Fits) (n : Bool) {c : Nat} (h : c < 2 ^ (f.width - 1)) : f.signed n c < 2 ^ f.width := by
  have hw : 2 ^ f.width = 2 ^ (f.width - 1) + 2 ^ (f.width - 1) := by
    rw [← mul_two, ← pow_succ, Nat.sub_add_cancel f.width_pos]
  rw [Fmt.signed, hf.width]
  split <;> omega

theorem overflowCode_lt {f : Fmt} (hf : f.Fits) (rm : Rnd) (neg : Bool) : overflowCode f.params rm neg < 2 ^ (f.width - 1) := by
  have hor : overflowCode f.params rm neg = f.params.maxCode ∨ f.params.inf = some (overflowCode f.params rm neg) := by
    unfold overflowCode
    split
    case h_1 => exact .inl rfl
    case h_2 i hi =>
      rw [hi]
      cases rm <;> cases neg <;> simp
  rcases hor with h | h
  · rw [h]
    exact hf.max
  · exact hf.inf _ h

theorem roundFrac_lt {f : Fmt} (hf : f.Fits) (rm : Rnd) (neg : Bool) (num den : Nat) : (roundFrac f rm neg num den).1 < 2 ^ f.width := by
  rw [roundFrac_eq]
  split
  case isTrue h => exact hf.signed_lt neg (h.trans_lt hf.max)
  case isFalse => exact hf.signed_lt neg (overflowCode_lt hf rm neg)

theorem roundVal_infinity {f : Fmt} (h : f.isFloat = true) (rm : Rnd) (n : Bool) :
    roundVal f rm (.inf n) = (f.infinity n, flagIf (f == .e4m3) flIV) := by
  rcases Fmt.isFloat_cases h with rfl | rfl | rfl | rfl | rfl <;> cases n <;> rfl

theorem roundVal_lt {f : Fmt} (h : f.isFloat = true) (rm : Rnd) (v : Val) : (roundVal f rm v).1 < 2 ^ f.width := by
  have hf := Fmt.fits_of_isFloat h
  cases v with
  | nan sig =>
    rw [roundVal_nan h]
    cases hn : f.params.nan with
    | none => simp [Fmt.nanLane, Fmt.nanCode, hn]
    | some c =>
      rw [Fmt.nanLane, Fmt.nanCode, hn]
      exact (hf.nan c hn).trans_le (Nat.pow_le_pow_right two_pos (Nat.sub_le _ _))
  | inf n =>
    rw [roundVal_infinity h]
    refine hf.signed_lt n ?_
    cases hi : f.params.inf with
    | none => exact hf.max
    | some i => exact hf.inf i hi
  | fin n m e => exact roundFrac_lt hf rm n _ _

theorem wrapCode_lt (n : Nat) (x : Int) : wrapCode n x < 2 ^ n := by
  have hp : (0 : Int) < (2 ^ n : Nat) := by positivity
  have h := Int.emod_lt_of_pos x hp
  have h' := Int.emod_nonneg x hp.ne'
  unfold wrapCode
  omega

theorem wrapCode_eq (n : Nat) (x : Int) : wrapCode n x = (x % 2 ^ n).toNat := by
  simp [wrapCode]

theorem intMin_le_intMax (f : Fmt) : intMin f ≤ intMax f := by
  cases f <;> decide

/-- Saturation clamps to the format's range, and says so (R49). -/
theorem satCode_eq (f : Fmt) (x : Int) :
    satCode f x = (wrapCode f.width (max (intMin f) (min (intMax f) x)), flagIf (max (intMin f) (min (intMax f) x) != x) flSA) := by
  have hle := intMin_le_intMax f
  unfold satCode
  by_cases h1 : x < intMin f
  · rw [if_pos h1, show max (intMin f) (min (intMax f) x) = intMin f by omega]
    simp [flagIf, h1.ne']
  · rw [if_neg h1]
    by_cases h2 : intMax f < x
    · rw [if_pos h2, show max (intMin f) (min (intMax f) x) = intMax f by omega]
      simp [flagIf, h2.ne]
    · rw [if_neg h2, show max (intMin f) (min (intMax f) x) = x by omega]
      simp [flagIf]

theorem convertVal_isConverted {f : Fmt} (h : f.isInt = true ∨ f.isFloat = true) (rm : Rnd) (srcInt sat : Bool) (v : Val) :
    IsConverted f rm srcInt sat v (convertVal f rm srcInt sat v) := by
  unfold IsConverted convertVal
  by_cases hi : f.isInt = true
  · simp only [hi, if_true]
    cases v with
    | nan sig => rfl
    | inf n => simp only [wrapCode_eq]
    | fin n m e =>
      refine ⟨(roundIntFrac rm n _ _).1, (roundIntFrac rm n _ _).2, ⟨_, _, fracOf_den_pos m e, fracOf_div m e, rfl⟩, ?_⟩
      simp only
      split
      · rw [wrapCode_eq]
      · rw [satCode_eq, wrapCode_eq]
  · have hf := h.resolve_left hi
    simp only [hi]
    cases v with
    | nan sig => exact roundVal_nan hf rm sig
    | inf n => exact roundVal_infinity hf rm n
    | fin n m e => exact ⟨_, _, fracOf_den_pos m e, fracOf_div m e, rfl⟩

theorem convertVal_of_not_isInt {f : Fmt} (h : f.isInt = false) (rm : Rnd) (srcInt sat : Bool) (v : Val) :
    convertVal f rm srcInt sat v = roundVal f rm v := by
  unfold convertVal
  rw [if_neg (by rw [h]; exact Bool.false_ne_true)]

theorem convertVal_lt {f : Fmt} (h : f.isInt = true ∨ f.isFloat = true) (rm : Rnd) (srcInt sat : Bool) (v : Val) :
    (convertVal f rm srcInt sat v).1 < 2 ^ f.width := by
  unfold convertVal
  split
  case isTrue =>
    cases v with
    | nan sig => exact Nat.pow_pos two_pos
    | inf n => exact wrapCode_lt _ _
    | fin n m e =>
      simp only
      split
      · exact wrapCode_lt _ _
      · rw [satCode_eq]
        exact wrapCode_lt _ _
  case isFalse hi => exact roundVal_lt (h.resolve_left hi) rm v

/-! ### The control word and the slice (R231–R233) -/

theorem tagIn_ok {s : State} {a : BitVec 5} {ok : Fmt → Bool} {f : Fmt} (h : s.tagIn a ok = .ok f) :
    tagFmt (s.rv a).tag = some f ∧ ok f = true := by
  unfold State.tagIn at h
  split at h
  case h_1 g hg =>
    split at h
    case isTrue hok =>
      cases h
      exact ⟨hg, hok⟩
    case isFalse => cases h
  case h_2 => cases h

/-- A control word that passes the checks of R233. -/
theorem conv_ok {s : State} {a b : BitVec 5} {wordOk : BitVec 32 → Bool} {srcOk : Fmt → Bool} {groups : Bool} {c : Conv}
    (h : s.conv a b wordOk srcOk groups = .ok c) :
    wordOk c.ctl = true ∧ tagFmt (s.rv a).tag = some c.src ∧ srcOk c.src = true ∧ Fmt.ofCode (ctlFmt c.ctl) = some c.dst ∧
      c.sl = sliceOf (2048 / c.src.width) (2048 / c.dst.width) (ctlPart c.ctl) ∧ ctlPart c.ctl < c.sl.pmax ∧
      (groups = true → c.sl.n % groupLen (ctlGs c.ctl) = 0) := by
  unfold State.conv at h
  simp only [bind, Except.bind, failWith] at h
  split at h
  all_goals
    split at h
    case isFalse => cases h
    case isTrue hword =>
    cases ht : s.tagIn a srcOk with
    | error e => simp [ht] at h
    | ok ty =>
      simp only [ht] at h
      split at h
      case h_1 => cases h
      case h_2 dt hdt =>
      split at h
      case isTrue => cases h
      case isFalse hpart =>
      split at h
      case isTrue => cases h
      case isFalse hgroup =>
      cases h
      obtain ⟨htag, hsrc⟩ := tagIn_ok ht
      exact ⟨hword, htag, hsrc, hdt, rfl, Nat.lt_of_not_le hpart, fun hg => by_contra fun hne => hgroup ⟨hg, hne⟩⟩

/-- The slice lies within the source and within the destination (R232). -/
theorem sliceOf_fits {ns nd part : Nat} (h : part < (sliceOf ns nd part).pmax) :
    (sliceOf ns nd part).sbase + (sliceOf ns nd part).n ≤ ns ∧ (sliceOf ns nd part).dbase + (sliceOf ns nd part).n ≤ nd := by
  unfold sliceOf at h ⊢
  split at h
  case isTrue hle =>
    rw [if_pos hle]
    have := Nat.mul_le_of_le_div nd (part + 1) ns h
    rw [Nat.succ_mul] at this
    exact ⟨this, by simp⟩
  case isFalse hgt =>
    rw [if_neg hgt]
    have := Nat.mul_le_of_le_div ns (part + 1) nd h
    rw [Nat.succ_mul] at this
    exact ⟨by simp, this⟩

theorem conv_fits {s : State} {a b : BitVec 5} {wordOk : BitVec 32 → Bool} {srcOk : Fmt → Bool} {groups : Bool} {c : Conv}
    (h : s.conv a b wordOk srcOk groups = .ok c) :
    c.sl.sbase + c.sl.n ≤ 2048 / c.src.width ∧ c.sl.dbase + c.sl.n ≤ 2048 / c.dst.width := by
  obtain ⟨-, -, -, -, hsl, hpart, -⟩ := conv_ok h
  rw [hsl] at hpart ⊢
  exact sliceOf_fits hpart

/-! ### The slice laid over what the destination keeps (R232) -/

theorem getElem?_layOver {old : List Nat} {dbase : Nat} {new : List (Nat × Flags)} {on : Nat → Bool} {i : Nat} (hi : i < old.length) :
    (layOver old dbase new on)[i]? =
      some (if dbase ≤ i ∧ on i = true then (new[i - dbase]?).getD (nthCode old i, 0) else (nthCode old i, 0)) := by
  simp [layOver, hi, nthCode]

/-- Each element of the result: its converted code in the slice where it is enabled, else the one kept. -/
theorem nthCode_layOver {f : Fmt} {old : List Nat} {dbase : Nat} {new : List (Nat × Flags)} {on : Nat → Bool} {i : Nat}
    (hold : old.length = 2048 / f.width) (hi : i < 2048 / f.width) :
    nthCode (vecCodes f (vecPay f.width ((layOver old dbase new on).map Prod.fst))) i =
      (if dbase ≤ i ∧ on i = true then (new[i - dbase]?).getD (nthCode old i, 0) else (nthCode old i, 0)).1 % 2 ^ f.width := by
  rw [nthCode_vecPay (by simp [layOver, hold]) hi, nthCode, List.getElem?_map, getElem?_layOver (hold ▸ hi)]
  rfl

/-- What O36 says of a slice of `n` converted elements. -/
def IsLaid (f : Fmt) (dbase n : Nat) (old : Nat → Nat) (pay : BitVec 2048) (on : Nat → Bool) (r : List (Nat × Flags)) : Prop :=
  r.length = n ∧ ∀ i < 2048 / f.width,
    (¬ ((dbase ≤ i ∧ i < dbase + n) ∧ on i = true) → nthCode (vecCodes f pay) i = old i) ∧
    (∀ x, (dbase ≤ i ∧ i < dbase + n) → on i = true → r[i - dbase]? = some x → nthCode (vecCodes f pay) i = x.1)

theorem isLaid_layOver {f : Fmt} {old : List Nat} {dbase n : Nat} {new : List (Nat × Flags)} (on : Nat → Bool)
    (hold : old.length = 2048 / f.width) (hlt : ∀ i, nthCode old i < 2 ^ f.width) (hnew : new.length = n)
    (hcodes : ∀ x ∈ new, x.1 < 2 ^ f.width) :
    IsLaid f dbase n (nthCode old) (vecPay f.width ((layOver old dbase new on).map Prod.fst)) on new := by
  refine ⟨hnew, fun i hi => ⟨fun hout => ?_, fun x hin hon hx => ?_⟩⟩
  · rw [nthCode_layOver hold hi]
    split
    case isTrue h =>
      have hend : new[i - dbase]? = none := List.getElem?_eq_none <| by
        rw [hnew]
        by_contra hlt
        exact hout ⟨⟨h.1, by omega⟩, h.2⟩
      rw [hend, Option.getD_none, Nat.mod_eq_of_lt (hlt i)]
    case isFalse => exact Nat.mod_eq_of_lt (hlt i)
  · rw [nthCode_layOver hold hi, if_pos ⟨hin.1, hon⟩, hx, Option.getD_some, Nat.mod_eq_of_lt (hcodes x (List.mem_of_getElem? hx))]

/-- The flags are those of the elements converted (R46). -/
theorem getLsbD_layOver {old : List Nat} {dbase : Nat} {new : List (Nat × Flags)} {on : Nat → Bool}
    (hfit : dbase + new.length ≤ old.length) (n : Nat) :
    (orAll ((layOver old dbase new on).map Prod.snd)).getLsbD n = true ↔
      ∃ (j : Nat) (x : Nat × Flags), new[j]? = some x ∧ on (dbase + j) = true ∧ x.2.getLsbD n = true := by
  simp only [getLsbD_orAll_snd, List.mem_iff_getElem?]
  constructor
  · rintro ⟨y, ⟨i, hi⟩, hy⟩
    have hlen : i < old.length := by
      obtain ⟨h, -⟩ := List.getElem?_eq_some_iff.mp hi
      simpa [layOver] using h
    rw [getElem?_layOver hlen, Option.some_inj] at hi
    subst hi
    split at hy
    case isTrue h =>
      obtain ⟨hle, hon⟩ := h
      cases hx : new[i - dbase]? with
      | none => simp [hx] at hy
      | some x => exact ⟨i - dbase, x, hx, by rwa [Nat.add_sub_cancel' hle], by simpa [hx] using hy⟩
    case isFalse => simp at hy
  · rintro ⟨j, x, hj, hon, hx⟩
    obtain ⟨hlt, -⟩ := List.getElem?_eq_some_iff.mp hj
    refine ⟨x, ⟨dbase + j, ?_⟩, hx⟩
    rw [getElem?_layOver (by omega), if_pos ⟨Nat.le_add_right _ _, hon⟩, Nat.add_sub_cancel_left, hj, Option.getD_some]

/-! ### Tags of control words -/

theorem ofCode_eq_some {n : Nat} {f : Fmt} (h : Fmt.ofCode n = some f) : n = f.code := by
  unfold Fmt.ofCode at h
  split at h <;> cases h <;> rfl

/-- The masked comparison of tags takes in the format (R218). -/
theorem bits_fmt_of_tagSame {t u : BitVec 32} (h : tagSame t u = true) : bits t 4 0 = bits u 4 0 := by
  have hlow (v : BitVec 32) : bits v 4 0 = (v &&& 0xFFFF00FF).toNat % 2 ^ 5 := by
    rw [bits, BitVec.toNat_and, Nat.and_mod_two_pow, pow_zero, Nat.div_one,
      show (0xFFFF00FF : BitVec 32).toNat % 2 ^ 5 = 2 ^ 5 - 1 from rfl, Nat.and_two_pow_sub_one_eq_mod, Nat.mod_mod]
  rw [hlow t, hlow u, beq_iff_eq.mp h]

theorem bits_fmt_ctlTag (x : BitVec 32) : bits (ctlTag x) 4 0 = ctlFmt x := by
  have hfmt : ctlFmt x < 32 := Nat.mod_lt _ (by decide)
  rw [bits, ctlTag, BitVec.toNat_ofNat, pow_zero, Nat.div_one]
  split <;> omega

/-- A source that carries the destination's tag has its format (R48). -/
theorem src_eq_dst {t x : BitVec 32} {f g : Fmt} (h : tagSame t (ctlTag x) = true) (hf : tagFmt t = some f)
    (hg : Fmt.ofCode (ctlFmt x) = some g) : f = g := by
  unfold tagFmt at hf
  split at hf
  case isTrue => rwa [bits_fmt_of_tagSame h, bits_fmt_ctlTag, hg, Option.some_inj, eq_comm] at hf
  case isFalse => cases hf

theorem cvtWordOk_dst {x : BitVec 32} {f : Fmt} (h : cvtWordOk x = true) (hf : Fmt.ofCode (ctlFmt x) = some f) :
    f.isInt = true ∨ f.isFloat = true := by
  simp only [cvtWordOk, ofCode_eq_some hf, Bool.and_eq_true] at h
  cases f <;> simp [Fmt.code, Fmt.isInt, Fmt.isFloat, Fmt.isSigned, Fmt.isNat] at h ⊢

theorem dqntWordOk_dst {x : BitVec 32} {f : Fmt} (h : dqntWordOk x = true) (hf : Fmt.ofCode (ctlFmt x) = some f) :
    f.isInt = false ∧ f.isFloat = true := by
  simp only [dqntWordOk, ofCode_eq_some hf, Bool.and_eq_true] at h
  cases f <;> simp [Fmt.code, Fmt.isInt, Fmt.isFloat, Fmt.isSigned, Fmt.isNat] at h ⊢

theorem qntWordOk_dst {x : BitVec 32} {f : Fmt} (h : qntWordOk x = true) (hf : Fmt.ofCode (ctlFmt x) = some f) :
    f = .e2m1 ∨ f = .q8 ∨ f = .q4 := by
  simp only [qntWordOk, ofCode_eq_some hf, Bool.and_eq_true] at h
  cases f <;> simp [Fmt.code] at h ⊢

/-! ### CVT and DQNT (R234, R236) -/

/-- The elements that an instruction leaves outside its slice, of a register of tag `t` or zeros (R218, R232). -/
def State.keptCode (s : State) (d : BitVec 5) (f : Fmt) (t : BitVec 32) (i : Nat) : Nat :=
  if tagSame (s.rv d).tag t then nthCode (vecCodes f (s.rv d).pay) i else 0

theorem State.keptCode_lt (s : State) (d : BitVec 5) (f : Fmt) (t : BitVec 32) (i : Nat) : s.keptCode d f t i < 2 ^ f.width := by
  unfold State.keptCode
  split
  · exact nthCode_vecCodes_lt _ _ _
  · exact Nat.pow_pos two_pos

/-- The list form of what is kept. -/
theorem nthCode_kept (s : State) (d : BitVec 5) (f : Fmt) (t : BitVec 32) :
    nthCode (if tagSame (s.rv d).tag t then vecCodes f (s.rv d).pay else List.replicate (2048 / f.width) 0) = s.keptCode d f t := by
  funext i
  unfold State.keptCode
  split
  · rfl
  · rw [nthCode, List.getElem?_replicate]
    split <;> rfl

theorem length_kept (s : State) (d : BitVec 5) (f : Fmt) (t : BitVec 32) :
    (if tagSame (s.rv d).tag t then vecCodes f (s.rv d).pay else List.replicate (2048 / f.width) 0).length = 2048 / f.width := by
  split <;> simp

theorem getElem?_slice {α : Type} (l : List α) (b n j : Nat) (h : j < n) : ((l.drop b).take n)[j]? = l[b + j]? := by
  rw [List.getElem?_take_of_lt h, List.getElem?_drop]

/-- The rounding mode of element `j` of a conversion, with its draw (R44, R233). -/
def State.convMode (s : State) (c : Conv) (j : Nat) : Rnd :=
  (Rnd.ofCode (ctlRm c.ctl) (srDraw s.ctx.csr.srseed (c.idx + c.sl.dbase + j))).getD .rne

/-- The register and the flags of a conversion whose slice is `new`. -/
def State.convReg (s : State) (d : BitVec 5) (c : Conv) (on : Nat → Bool) (new : List (Nat × Flags)) : VReg × Flags :=
  let r := layOver (s.kept d c.dst) c.sl.dbase new on
  (⟨vecPay c.dst.width (r.map Prod.fst), 0, tagOf c.dst⟩, orAll (r.map Prod.snd))

def State.cvtLanes (s : State) (a : BitVec 5) (c : Conv) : List (Nat × Flags) :=
  let src := ((vecCodes c.src (s.rv a).pay).drop c.sl.sbase).take c.sl.n
  if tagSame (s.rv a).tag (ctlTag c.ctl) then src.map (fun x => (x, 0))
  else src.zipIdx.map (fun p => convertVal c.dst (s.convMode c p.2) c.src.isInt (c.ctl.getLsbD 15) (decodeElem c.src p.1))

def State.dqntLanes (s : State) (a : BitVec 5) (c : Conv) : List (Nat × Flags) :=
  ((((s.rv a).vals c.src).drop c.sl.sbase).take c.sl.n).zipIdx.map (fun p => roundVal c.dst (s.convMode c p.2) p.1)

theorem exec_cvt {s : State} {a b : BitVec 5} {c : Conv} (h : s.conv a b cvtWordOk unscaled false = .ok c) (d : BitVec 5) :
    exec (.cvt d a b) s = .next (s.putV d 4 (s.convReg d c s.ctx.regs.top.getLsbD (s.cvtLanes a c)).1
      (s.convReg d c s.ctx.regs.top.getLsbD (s.cvtLanes a c)).2) := by
  change execCvt d a b s = _
  rw [execCvt, h]
  rfl

theorem exec_dqnt {s : State} {a b : BitVec 5} {c : Conv} (h : s.conv a b dqntWordOk Fmt.isScaled false = .ok c) (d : BitVec 5) :
    exec (.dqnt d a b) s = .next (s.putV d 4 (s.convReg d c (fun _ => true) (s.dqntLanes a c)).1
      (s.convReg d c (fun _ => true) (s.dqntLanes a c)).2) := by
  change execDqnt d a b s = _
  rw [execDqnt, h]
  rfl

/-- The flags that O36 gives a conversion: those of its elements. -/
def HasFlagsOf (fl : Flags) (dbase : Nat) (on : Nat → Bool) (r : List (Nat × Flags)) : Prop :=
  ∀ n < 6, (fl.getLsbD n = true ↔ ∃ (j : Nat) (x : Nat × Flags), r[j]? = some x ∧ on (dbase + j) = true ∧ x.2.getLsbD n = true)

theorem convReg_spec (s : State) (d : BitVec 5) {c : Conv} (on : Nat → Bool) {new : List (Nat × Flags)} (hnew : new.length = c.sl.n)
    (hfit : c.sl.dbase + c.sl.n ≤ 2048 / c.dst.width) (hcodes : ∀ x ∈ new, x.1 < 2 ^ c.dst.width) :
    IsLaid c.dst c.sl.dbase c.sl.n (s.keptCode d c.dst (tagOf c.dst)) (s.convReg d c on new).1.pay on new ∧
      HasFlagsOf (s.convReg d c on new).2 c.sl.dbase on new := by
  have hlen : (s.kept d c.dst).length = 2048 / c.dst.width := length_kept s d c.dst (tagOf c.dst)
  have hkept : nthCode (s.kept d c.dst) = s.keptCode d c.dst (tagOf c.dst) := nthCode_kept s d c.dst (tagOf c.dst)
  refine ⟨?_, fun n _ => getLsbD_layOver (by omega) n⟩
  rw [← hkept]
  exact isLaid_layOver on hlen (fun i => hkept ▸ s.keptCode_lt d c.dst _ i) hnew hcodes

theorem length_cvtLanes {s : State} {a : BitVec 5} {c : Conv} (hfit : c.sl.sbase + c.sl.n ≤ 2048 / c.src.width) :
    (s.cvtLanes a c).length = c.sl.n := by
  unfold State.cvtLanes
  simp only
  split <;> simp <;> omega

/-- Element `j` of a CVT: copied, or converted by R49. -/
theorem getElem?_cvtLanes {s : State} {a : BitVec 5} {c : Conv} (hfit : c.sl.sbase + c.sl.n ≤ 2048 / c.src.width) {j : Nat}
    {x : Nat × Flags} (h : (s.cvtLanes a c)[j]? = some x) :
    x = if tagSame (s.rv a).tag (ctlTag c.ctl) then (nthCode (vecCodes c.src (s.rv a).pay) (c.sl.sbase + j), 0)
      else convertVal c.dst (s.convMode c j) c.src.isInt (c.ctl.getLsbD 15)
        (decodeElem c.src (nthCode (vecCodes c.src (s.rv a).pay) (c.sl.sbase + j))) := by
  have hj : j < c.sl.n := by
    obtain ⟨hj, -⟩ := List.getElem?_eq_some_iff.mp h
    rwa [length_cvtLanes hfit] at hj
  obtain ⟨y, hy⟩ : ∃ y, (vecCodes c.src (s.rv a).pay)[c.sl.sbase + j]? = some y :=
    ⟨_, List.getElem?_eq_getElem (by simpa using by omega)⟩
  unfold State.cvtLanes at h
  simp only at h
  rw [nthCode, hy]
  split at h
  case isTrue hs =>
    rw [if_pos hs]
    simpa [getElem?_slice _ _ _ _ hj, hy] using h.symm
  case isFalse hs =>
    rw [if_neg hs]
    simpa [getElem?_slice _ _ _ _ hj, hy] using h.symm

theorem length_vals (v : VReg) (f : Fmt) : (v.vals f).length = 2048 / f.width := by
  simp [VReg.vals]

theorem length_dqntLanes {s : State} {a : BitVec 5} {c : Conv} (hfit : c.sl.sbase + c.sl.n ≤ 2048 / c.src.width) :
    (s.dqntLanes a c).length = c.sl.n := by
  simp [State.dqntLanes, length_vals]
  omega

/-- Element `j` of a DQNT: its value rounded. -/
theorem getElem?_dqntLanes {s : State} {a : BitVec 5} {c : Conv} (hfit : c.sl.sbase + c.sl.n ≤ 2048 / c.src.width) {j : Nat}
    {x : Nat × Flags} (h : (s.dqntLanes a c)[j]? = some x) :
    x = roundVal c.dst (s.convMode c j) ((((s.rv a).vals c.src)[c.sl.sbase + j]?).getD Val.zero) := by
  have hj : j < c.sl.n := by
    obtain ⟨hj, -⟩ := List.getElem?_eq_some_iff.mp h
    rwa [length_dqntLanes hfit] at hj
  obtain ⟨y, hy⟩ : ∃ y, ((s.rv a).vals c.src)[c.sl.sbase + j]? = some y :=
    ⟨_, List.getElem?_eq_getElem (by rw [length_vals]; omega)⟩
  unfold State.dqntLanes at h
  rw [hy]
  simpa [getElem?_slice _ _ _ _ hj, hy] using h.symm

/-! ### QNT (R235) -/

theorem groupLen_pos (gs : Nat) : 0 < groupLen gs := by
  unfold groupLen
  split <;> decide

/-- Whole chunks: the one with number `k` starts at k × n. -/
theorem getElem?_chunksOf {α : Type} {n : Nat} (hn : 0 < n) (fuel : Nat) (xs : List α) (h : xs.length ≤ fuel) (k : Nat) :
    (chunksOf n fuel xs)[k]? = if k * n < xs.length then some ((xs.drop (k * n)).take n) else none := by
  induction fuel generalizing xs k with
  | zero => simp [chunksOf, List.length_eq_zero_iff.mp (Nat.le_zero.mp h)]
  | succ fuel ih =>
    cases xs with
    | nil => simp [chunksOf]
    | cons x xs =>
      rw [chunksOf]
      · cases k with
        | zero => simp
        | succ k =>
          rw [List.getElem?_cons_succ, ih _ (by simp at h ⊢; omega), List.drop_drop, List.length_drop, Nat.succ_mul,
            Nat.add_comm n]
          refine if_congr ?_ rfl rfl
          omega
      · simp

theorem length_chunksOf {α : Type} {n : Nat} (hn : 0 < n) (fuel : Nat) (xs : List α) (h : xs.length ≤ fuel) (hdvd : xs.length % n = 0) :
    (chunksOf n fuel xs).length = xs.length / n := by
  obtain ⟨q, hq⟩ := Nat.dvd_of_mod_eq_zero hdvd
  have hget := getElem?_chunksOf hn fuel xs h
  rw [hq, Nat.mul_div_cancel_left _ hn]
  refine le_antisymm ?_ ?_
  · have := hget q
    rw [if_neg (by rw [hq, Nat.mul_comm]; exact lt_irrefl _)] at this
    exact List.getElem?_eq_none_iff.mp this
  · by_contra hlt
    have := hget (chunksOf n fuel xs).length
    rw [List.getElem?_eq_none le_rfl, if_pos (by rw [hq, Nat.mul_comm]; exact Nat.mul_lt_mul_of_pos_left (by omega) hn)] at this
    cases this

/-- The groups or blocks of a quantisation, in order. -/
def State.qntGroups (s : State) (a : BitVec 5) (c : Conv) : List QGroup :=
  let g := groupLen (ctlGs c.ctl)
  let xs := (((s.rv a).vals c.src).drop c.sl.sbase).take c.sl.n
  (chunksOf g xs.length xs).zipIdx.map (fun p =>
    let draw (i : Nat) : Nat := srDraw s.ctx.csr.srseed (c.idx + c.sl.dbase + p.2 * g + i)
    if c.dst = .e2m1 then quantE2m1 (ctlTs c.ctl) (ctlRm c.ctl) draw p.1
    else quantQ (if c.dst = .q8 then 255 else 15) (ctlRm c.ctl) draw p.1)

/-- The value of element `j` of the source slice (R30). -/
def State.sliceVal (s : State) (a : BitVec 5) (c : Conv) (j : Nat) : Val :=
  (((s.rv a).vals c.src)[c.sl.sbase + j]?).getD Val.zero

/-- The codes that the groups have, as a slice. -/
def groupLanes (gs : List QGroup) : List (Nat × Flags) := (gs.flatMap QGroup.codes).map (fun x => (x, 0))

/-- What a quantisation lays over the register it goes to. -/
def State.qntReg (s : State) (d : BitVec 5) (c : Conv) (gs : List QGroup) : VReg :=
  let tag := ctlTag c.ctl
  let keep := tagSame (s.rv d).tag tag
  let codes := if keep then vecCodes c.dst (s.rv d).pay else List.replicate (2048 / c.dst.width) 0
  ⟨vecPay c.dst.width ((layOver codes c.sl.dbase (groupLanes gs) (fun _ => true)).map Prod.fst),
    sideOf c.dst (2048 / c.dst.width / groupLen (ctlGs c.ctl)) (c.sl.dbase / groupLen (ctlGs c.ctl))
      (if keep then (s.rv d).side else 0) gs, tag⟩

theorem exec_qnt {s : State} {a b : BitVec 5} {c : Conv} (h : s.conv a b qntWordOk (fun _ => true) true = .ok c) (d : BitVec 5) :
    exec (.qnt d a b) s = .next (if tagSame (s.rv a).tag (ctlTag c.ctl) then s.putV d 8 (s.rv a)
      else s.putV d 8 (s.qntReg d c (s.qntGroups a c)) (orAll ((s.qntGroups a c).map QGroup.flags))) := by
  change execQnt d a b s = _
  rw [execQnt, h]
  refine Eq.trans ?_ (deliver_ok s _)
  refine congrArg (deliver s) ?_
  by_cases hs : tagSame (s.rv a).tag (ctlTag c.ctl)
  · rw [if_pos hs]
    exact if_pos hs
  · rw [if_neg hs]
    exact if_neg hs

theorem length_qntGroups {s : State} {a : BitVec 5} {c : Conv} (hfit : c.sl.sbase + c.sl.n ≤ 2048 / c.src.width)
    (hdvd : c.sl.n % groupLen (ctlGs c.ctl) = 0) : (s.qntGroups a c).length = c.sl.n / groupLen (ctlGs c.ctl) := by
  have hlen : ((((s.rv a).vals c.src).drop c.sl.sbase).take c.sl.n).length = c.sl.n := by
    simp [length_vals]
    omega
  unfold State.qntGroups
  simp only [List.length_map, List.length_zipIdx]
  rw [length_chunksOf (groupLen_pos _) _ _ le_rfl (hlen.symm ▸ hdvd), hlen]

/-- The elements of group `k` are those of the slice from k × g on. -/
theorem chunk_eq_range {s : State} {a : BitVec 5} {c : Conv} {g k : Nat} (hfit : c.sl.sbase + c.sl.n ≤ 2048 / c.src.width)
    (hk : k * g + g ≤ c.sl.n) :
    (((((s.rv a).vals c.src).drop c.sl.sbase).take c.sl.n).drop (k * g)).take g =
      (List.range g).map (fun i => s.sliceVal a c (k * g + i)) := by
  refine List.ext_getElem? fun i => ?_
  rcases Nat.lt_or_ge i g with hi | hi
  · obtain ⟨y, hy⟩ : ∃ y, ((s.rv a).vals c.src)[c.sl.sbase + (k * g + i)]? = some y :=
      ⟨_, List.getElem?_eq_getElem (by rw [length_vals]; omega)⟩
    rw [List.getElem?_take_of_lt hi, List.getElem?_drop, getElem?_slice _ _ _ _ (by omega), hy, List.getElem?_map,
      List.getElem?_range hi, Option.map_some, State.sliceVal, hy, Option.getD_some]
  · rw [List.getElem?_eq_none (by simp; omega), List.getElem?_eq_none (by simpa using hi)]

/-- Group `k`, from its elements and their modes. -/
theorem getElem?_qntGroups {s : State} {a : BitVec 5} {c : Conv} (hfit : c.sl.sbase + c.sl.n ≤ 2048 / c.src.width)
    (hdvd : c.sl.n % groupLen (ctlGs c.ctl) = 0) {k : Nat} {q : QGroup} (h : (s.qntGroups a c)[k]? = some q) :
    ∃ draw : Nat → Nat, (∀ i, (Rnd.ofCode (ctlRm c.ctl) (draw i)).getD .rne = s.convMode c (k * groupLen (ctlGs c.ctl) + i)) ∧
      q = if c.dst = .e2m1 then quantE2m1 (ctlTs c.ctl) (ctlRm c.ctl) draw
          ((List.range (groupLen (ctlGs c.ctl))).map (fun i => s.sliceVal a c (k * groupLen (ctlGs c.ctl) + i)))
        else quantQ (if c.dst = .q8 then 255 else 15) (ctlRm c.ctl) draw
          ((List.range (groupLen (ctlGs c.ctl))).map (fun i => s.sliceVal a c (k * groupLen (ctlGs c.ctl) + i))) := by
  have hk : k < c.sl.n / groupLen (ctlGs c.ctl) := by
    obtain ⟨hk, -⟩ := List.getElem?_eq_some_iff.mp h
    rwa [length_qntGroups hfit hdvd] at hk
  have hend : k * groupLen (ctlGs c.ctl) + groupLen (ctlGs c.ctl) ≤ c.sl.n := by
    rw [← Nat.succ_mul]
    exact Nat.mul_le_of_le_div _ _ _ hk
  have hpos := groupLen_pos (ctlGs c.ctl)
  have hlen : ((((s.rv a).vals c.src).drop c.sl.sbase).take c.sl.n).length = c.sl.n := by
    simp [length_vals]
    omega
  have hchunk := getElem?_chunksOf hpos c.sl.n _ hlen.le k
  rw [if_pos (by omega), chunk_eq_range hfit hend] at hchunk
  unfold State.qntGroups at h
  simp only [List.getElem?_map, List.getElem?_zipIdx, hlen, hchunk, Option.map_some, Option.some_inj, Nat.zero_add] at h
  exact ⟨fun i => srDraw s.ctx.csr.srseed (c.idx + c.sl.dbase + k * groupLen (ctlGs c.ctl) + i),
    fun i => by rw [State.convMode, ← Nat.add_assoc], h.symm⟩

theorem IsE2m1Block.code_lt {ts : Nat} {mode : Nat → Rnd} {xs : List Val} {q : QGroup} (h : IsE2m1Block ts mode xs q) :
    ∀ y ∈ q.codes, y < 2 ^ Fmt.e2m1.width := by
  intro y hy
  obtain ⟨hlen, hbad, hgood⟩ := h
  by_cases hb : (tensorScale ts).isFinite = false ∨ (tensorScale ts).isZero = true ∨ ∃ x ∈ xs, x.isFinite = false
  · rw [(hbad hb).1 y hy]
    decide
  · obtain ⟨_, _, ls, -, -, -, -, hls, hcodes, hround, -⟩ := hgood hb
    rw [hcodes] at hy
    obtain ⟨l, hl, rfl⟩ := List.mem_map.mp hy
    obtain ⟨i, hi, hget⟩ := List.mem_iff_getElem.mp hl
    obtain ⟨num, den, -, -, hr⟩ := hround i xs[i] l (List.getElem?_eq_getElem (by omega)) (List.getElem?_eq_some_iff.mpr ⟨hi, hget⟩)
    rw [hr]
    exact roundFrac_lt Fmt.fits_e2m1 _ _ _ _

/-- What R51 and R52 make of one group: its rule, its length and the width of its codes. -/
theorem qntGroup_spec {s : State} {a : BitVec 5} {c : Conv} (hfit : c.sl.sbase + c.sl.n ≤ 2048 / c.src.width)
    (hdvd : c.sl.n % groupLen (ctlGs c.ctl) = 0) {k : Nat} {q : QGroup}
    (h : (s.qntGroups a c)[k]? = some q) :
    let g := groupLen (ctlGs c.ctl)
    let xs := (List.range g).map (fun i => s.sliceVal a c (k * g + i))
    let mode (i : Nat) : Rnd := s.convMode c (k * g + i)
    (c.dst = .e2m1 → IsE2m1Block (ctlTs c.ctl) mode xs q) ∧ (c.dst = .q8 → IsQGroup 255 mode xs q) ∧
      (c.dst = .q4 → IsQGroup 15 mode xs q) := by
  intro g xs mode
  obtain ⟨draw, hdraw, hq⟩ := getElem?_qntGroups hfit hdvd h
  have hmode : (fun i => (Rnd.ofCode (ctlRm c.ctl) (draw i)).getD .rne) = mode := funext hdraw
  have hxs : xs ≠ [] := by
    simpa [xs] using (groupLen_pos (ctlGs c.ctl)).ne'
  refine ⟨fun hd => ?_, fun hd => ?_, fun hd => ?_⟩
  · rw [hq, if_pos hd, ← hmode]
    exact quantE2m1_isBlock draw hxs
  · rw [hq, if_neg (by rw [hd]; decide), if_pos hd, ← hmode]
    exact quantQ_isQGroup draw (by decide)
  · rw [hq, if_neg (by rw [hd]; decide), if_neg (by rw [hd]; decide), ← hmode]
    exact quantQ_isQGroup draw (by decide)

theorem qntGroup_codes {s : State} {a : BitVec 5} {c : Conv} (hfit : c.sl.sbase + c.sl.n ≤ 2048 / c.src.width)
    (hdvd : c.sl.n % groupLen (ctlGs c.ctl) = 0) (hdst : c.dst = .e2m1 ∨ c.dst = .q8 ∨ c.dst = .q4) {q : QGroup}
    (h : q ∈ s.qntGroups a c) : q.codes.length = groupLen (ctlGs c.ctl) ∧ ∀ y ∈ q.codes, y < 2 ^ c.dst.width := by
  obtain ⟨k, hk⟩ := List.mem_iff_getElem?.mp h
  obtain ⟨hblock, hq8, hq4⟩ := qntGroup_spec hfit hdvd hk
  rcases hdst with hd | hd | hd <;> rw [hd]
  · exact ⟨by simpa using (hblock hd).1, (hblock hd).code_lt⟩
  · exact ⟨by simpa using (hq8 hd).1, fun y hy => Nat.lt_succ_of_le ((hq8 hd).code_le y hy)⟩
  · exact ⟨by simpa using (hq4 hd).1, fun y hy => Nat.lt_succ_of_le ((hq4 hd).code_le y hy)⟩

theorem length_groupLanes {gs : List QGroup} {g : Nat} (h : ∀ q ∈ gs, q.codes.length = g) : (groupLanes gs).length = gs.length * g := by
  rw [groupLanes, List.length_map, List.length_flatMap, List.map_congr_left h]
  simp

/-- The groups laid over the register, and their flags. -/
theorem qntReg_spec {s : State} {a : BitVec 5} (d : BitVec 5) {c : Conv} (hsrc : c.sl.sbase + c.sl.n ≤ 2048 / c.src.width)
    (hdvd : c.sl.n % groupLen (ctlGs c.ctl) = 0) (hdst : c.dst = .e2m1 ∨ c.dst = .q8 ∨ c.dst = .q4) :
    IsLaid c.dst c.sl.dbase c.sl.n (s.keptCode d c.dst (ctlTag c.ctl)) (s.qntReg d c (s.qntGroups a c)).pay (fun _ => true)
      (groupLanes (s.qntGroups a c)) := by
  have hlen : (groupLanes (s.qntGroups a c)).length = c.sl.n := by
    rw [length_groupLanes (fun q hq => (qntGroup_codes hsrc hdvd hdst hq).1), length_qntGroups hsrc hdvd,
      Nat.div_mul_cancel (Nat.dvd_of_mod_eq_zero hdvd)]
  rw [← nthCode_kept]
  refine isLaid_layOver _ (length_kept s d c.dst _) (fun i => ?_) hlen fun x hx => ?_
  · rw [nthCode_kept]
    exact s.keptCode_lt d c.dst _ i
  · obtain ⟨y, hy, rfl⟩ := List.mem_map.mp hx
    obtain ⟨q, hq, hyq⟩ := List.mem_flatMap.mp hy
    exact (qntGroup_codes hsrc hdvd hdst hq).2 y hyq

/-! ### Conversions as O36 states them -/

/-- CVT: the register, its flags and its elements (R234). -/
theorem cvt_spec {s : State} {a b : BitVec 5} {c : Conv} (h : s.conv a b cvtWordOk unscaled false = .ok c) (d : BitVec 5) :
    ∃ v fl r, exec (.cvt d a b) s = .next (s.putV d 4 v fl) ∧ v.tag = tagOf c.dst ∧ v.side = 0 ∧
      IsLaid c.dst c.sl.dbase c.sl.n (s.keptCode d c.dst (tagOf c.dst)) v.pay s.ctx.regs.top.getLsbD r ∧
      HasFlagsOf fl c.sl.dbase s.ctx.regs.top.getLsbD r ∧
      ∀ j x, r[j]? = some x →
        (tagSame (s.rv a).tag (ctlTag c.ctl) = true → x = (nthCode (vecCodes c.src (s.rv a).pay) (c.sl.sbase + j), 0)) ∧
        (tagSame (s.rv a).tag (ctlTag c.ctl) = false → IsConverted c.dst (s.convMode c j) c.src.isInt (c.ctl.getLsbD 15)
          (decodeElem c.src (nthCode (vecCodes c.src (s.rv a).pay) (c.sl.sbase + j))) x) := by
  obtain ⟨hword, htag, -, hcode, -⟩ := conv_ok h
  obtain ⟨hsrc, hdst⟩ := conv_fits h
  have hfmt := cvtWordOk_dst hword hcode
  have hcodes : ∀ x ∈ s.cvtLanes a c, x.1 < 2 ^ c.dst.width := fun x hx => by
    obtain ⟨j, hj⟩ := List.mem_iff_getElem?.mp hx
    rw [getElem?_cvtLanes hsrc hj]
    split
    case isTrue hs =>
      rw [← src_eq_dst hs htag hcode]
      exact nthCode_vecCodes_lt _ _ _
    case isFalse => exact convertVal_lt hfmt _ _ _ _
  obtain ⟨hlaid, hflags⟩ := convReg_spec s d s.ctx.regs.top.getLsbD (length_cvtLanes hsrc) hdst hcodes
  refine ⟨_, _, _, exec_cvt h d, rfl, rfl, hlaid, hflags, fun j x hj => ⟨fun hs => ?_, fun hs => ?_⟩⟩
  · rw [getElem?_cvtLanes hsrc hj, if_pos hs]
  · rw [getElem?_cvtLanes hsrc hj, if_neg (by rw [hs]; exact Bool.false_ne_true)]
    exact convertVal_isConverted hfmt _ _ _ _

/-- DQNT: every element of the slice is rounded (R236). -/
theorem dqnt_spec {s : State} {a b : BitVec 5} {c : Conv} (h : s.conv a b dqntWordOk Fmt.isScaled false = .ok c) (d : BitVec 5) :
    ∃ v fl r, exec (.dqnt d a b) s = .next (s.putV d 4 v fl) ∧ v.tag = tagOf c.dst ∧ v.side = 0 ∧
      IsLaid c.dst c.sl.dbase c.sl.n (s.keptCode d c.dst (tagOf c.dst)) v.pay (fun _ => true) r ∧
      HasFlagsOf fl c.sl.dbase (fun _ => true) r ∧
      ∀ j x, r[j]? = some x → IsConverted c.dst (s.convMode c j) false false (s.sliceVal a c j) x := by
  obtain ⟨hword, -, -, hcode, -⟩ := conv_ok h
  obtain ⟨hsrc, hdst⟩ := conv_fits h
  obtain ⟨hint, hfloat⟩ := dqntWordOk_dst hword hcode
  have hcodes : ∀ x ∈ s.dqntLanes a c, x.1 < 2 ^ c.dst.width := fun x hx => by
    obtain ⟨j, hj⟩ := List.mem_iff_getElem?.mp hx
    rw [getElem?_dqntLanes hsrc hj]
    exact roundVal_lt hfloat _ _
  obtain ⟨hlaid, hflags⟩ := convReg_spec s d (fun _ => true) (length_dqntLanes hsrc) hdst hcodes
  refine ⟨_, _, _, exec_dqnt h d, rfl, rfl, hlaid, hflags, fun j x hj => ?_⟩
  have hconv := convertVal_isConverted (.inr hfloat) (s.convMode c j) false false (s.sliceVal a c j)
  rwa [convertVal_of_not_isInt hint, State.sliceVal, ← getElem?_dqntLanes hsrc hj] at hconv

/-- QNT: a copy, or its groups laid over the register (R53, R235). -/
theorem qnt_spec {s : State} {a b : BitVec 5} {c : Conv} (h : s.conv a b qntWordOk (fun _ => true) true = .ok c) (d : BitVec 5) :
    (tagSame (s.rv a).tag (ctlTag c.ctl) = true → exec (.qnt d a b) s = .next (s.putV d 8 (s.rv a))) ∧
    (tagSame (s.rv a).tag (ctlTag c.ctl) = false →
      let g := groupLen (ctlGs c.ctl)
      ∃ v fl gs, exec (.qnt d a b) s = .next (s.putV d 8 v fl) ∧ v.tag = ctlTag c.ctl ∧ gs.length = c.sl.n / g ∧
        IsLaid c.dst c.sl.dbase c.sl.n (s.keptCode d c.dst (ctlTag c.ctl)) v.pay (fun _ => true) (groupLanes gs) ∧
        v.side = sideOf c.dst (2048 / c.dst.width / g) (c.sl.dbase / g)
          (if tagSame (s.rv d).tag (ctlTag c.ctl) then (s.rv d).side else 0) gs ∧
        (∀ n < 6, (fl.getLsbD n = true ↔ ∃ q ∈ gs, q.flags.getLsbD n = true)) ∧
        ∀ k q, gs[k]? = some q →
          let xs := (List.range g).map (fun i => s.sliceVal a c (k * g + i))
          let draw (i : Nat) : Rnd := s.convMode c (k * g + i)
          (c.dst = .e2m1 → IsE2m1Block (ctlTs c.ctl) draw xs q) ∧
          (c.dst = .q8 → IsQGroup 255 draw xs q) ∧ (c.dst = .q4 → IsQGroup 15 draw xs q)) := by
  obtain ⟨hword, -, -, hcode, -, -, hgroups⟩ := conv_ok h
  obtain ⟨hsrc, -⟩ := conv_fits h
  have hdvd := hgroups rfl
  have hdst := qntWordOk_dst hword hcode
  refine ⟨fun hs => ?_, fun hs => ⟨s.qntReg d c (s.qntGroups a c), orAll ((s.qntGroups a c).map QGroup.flags), s.qntGroups a c, ?_, rfl,
    length_qntGroups hsrc hdvd, qntReg_spec d hsrc hdvd hdst, rfl, fun n _ => ?_, fun k q hk => qntGroup_spec hsrc hdvd hk⟩⟩
  · rw [exec_qnt h, if_pos hs]
  · rw [exec_qnt h, if_neg (by rw [hs]; exact Bool.false_ne_true)]
  · simp only [getLsbD_orAll, List.mem_map, exists_exists_and_eq_and]

end Sys2Proof.Machine
end

-- ================================================================
-- Proofs, scope: Transcendental instructions
-- ================================================================

section
namespace Sys2Proof.Machine
open Sys2Proof

/-! ### The instructions (R241) -/

theorem deliver_trans_ok {s : State} {a : BitVec 5} {t : BitVec 2} (h : tagFmt (s.rv a).tag = some (floatType t)) (fn : Fn)
    (c : BitVec 1) (d : BitVec 5) :
    deliver s (s.trans fn c d a t) = .next (if c = 1
      then s.putLanes d (floatType t) 16 ((vecCodes (floatType t) (s.rv a).pay).map (fnC (floatType t) fn))
      else s.putLanes d (floatType t) 8 ((vecCodes (floatType t) (s.rv a).pay).map (fnA (floatType t) fn))) := by
  unfold State.trans State.funary
  split <;> exact congrArg (deliver s) (tagCheck_bind h _)

/-! ### The special rows of R241 -/

/-- Both forms give `r`. -/
def BothForms (f : Fmt) (fn : Fn) (c : Nat) (r : Nat × Flags) : Prop := fnC f fn c = r ∧ fnA f fn c = r

theorem bothForms_of_special {f : Fmt} {fn : Fn} {p c : Nat} {v w : Val} {fl : Flags} (hd : decodeFloat f p = v)
    (hs : fnSpecial fn v = some (w, fl)) (hw : roundVal f .rne w = (c, 0)) : BothForms f fn p (c, fl) := by
  have h := fn_of_special hd hs hw
  rwa [show fl ||| 0 = fl from BitVec.or_zero] at h

theorem bothForms_nan {f : Fmt} (hf : f.Ieee) (fn : Fn) {p : Nat} {sig : Bool} (h : decodeFloat f p = .nan sig) :
    BothForms f fn p (f.nanLane sig) := by
  have hrow := fn_of_special (fn := fn) (fl := 0) h rfl (roundVal_nan hf.isFloat .rne sig)
  rwa [show 0 ||| flagIf sig flIV = flagIf sig flIV from BitVec.zero_or] at hrow

theorem fnSpecial_log2_one {m : Nat} {e : Int} (h : (m : ℚ) * 2 ^ e = 1) : fnSpecial .log2 (.fin false m e) = some (.zero, 0) := by
  have hm : m ≠ 0 := by
    rintro rfl
    simp at h
  have hfrac : (fracOf m e).1 = (fracOf m e).2 := by
    have hb : ((fracOf m e).2 : ℚ) ≠ 0 := by exact_mod_cast (fracOf_den_pos m e).ne'
    rw [← fracOf_div, div_eq_one_iff_eq hb] at h
    exact_mod_cast h
  simp [fnSpecial, hm, hfrac]

/-- A negative number has no logarithm and no root. -/
theorem bothForms_negative {f : Fmt} (hf : f.Ieee) {p m : Nat} {e : Int} (hd : decodeFloat f p = .fin true m e) (hm : m ≠ 0) :
    BothForms f .log2 p (f.nanLane true) ∧ BothForms f .rsq p (f.nanLane true) ∧ BothForms f .sqrt p (f.nanLane true) :=
  ⟨bothForms_of_special hd (by simp [fnSpecial, hm, flagIf]) (roundVal_nan hf.isFloat .rne false),
    bothForms_of_special hd (by simp [fnSpecial, hm, flagIf]) (roundVal_nan hf.isFloat .rne false),
    bothForms_of_special hd (by simp [fnSpecial, hm, flagIf]) (roundVal_nan hf.isFloat .rne false)⟩

/-- The rows of the infinities. -/
theorem bothForms_infinity {f : Fmt} (hf : f.Ieee) :
    BothForms f .exp2 (f.infinity true) (f.signed false 0, 0) ∧ BothForms f .exp2 (f.infinity false) (f.infinity false, 0) ∧
    BothForms f .log2 (f.infinity true) (f.nanLane true) ∧ BothForms f .log2 (f.infinity false) (f.infinity false, 0) ∧
    BothForms f .rcp (f.infinity true) (f.signed true 0, 0) ∧ BothForms f .rcp (f.infinity false) (f.signed false 0, 0) ∧
    BothForms f .rsq (f.infinity true) (f.nanLane true) ∧ BothForms f .rsq (f.infinity false) (f.signed false 0, 0) ∧
    BothForms f .sqrt (f.infinity true) (f.nanLane true) ∧ BothForms f .sqrt (f.infinity false) (f.infinity false, 0) := by
  have hneg := decodeFloat_infinity hf true
  have hpos := decodeFloat_infinity hf false
  have hzero (n : Bool) := roundVal_zero f .rne n 0
  have hinf := roundVal_inf hf .rne false
  have hnan := roundVal_nan hf.isFloat .rne false
  exact ⟨bothForms_of_special hneg rfl (hzero false), bothForms_of_special hpos rfl hinf, bothForms_of_special hneg rfl hnan,
    bothForms_of_special hpos rfl hinf, bothForms_of_special hneg rfl (hzero true), bothForms_of_special hpos rfl (hzero false),
    bothForms_of_special hneg rfl hnan, bothForms_of_special hpos rfl (hzero false), bothForms_of_special hneg rfl hnan,
    bothForms_of_special hpos rfl hinf⟩

/-- The rows of the zeros, and of 1 for the logarithm. -/
theorem bothForms_zero {f : Fmt} (hf : f.Ieee) (n : Bool) :
    BothForms f .exp2 (f.signed n 0) (f.signed false (f.params.bias * 2 ^ f.params.man), 0) ∧
    BothForms f .log2 (f.signed n 0) (f.infinity true, flDZ) ∧ BothForms f .rcp (f.signed n 0) (f.infinity n, flDZ) ∧
    BothForms f .rsq (f.signed n 0) (f.infinity n, flDZ) ∧ BothForms f .sqrt (f.signed n 0) (f.signed n 0, 0) := by
  obtain ⟨e, hd⟩ := decodeFloat_zero hf n
  have hinf (n : Bool) := roundVal_inf hf .rne n
  exact ⟨bothForms_of_special hd rfl (roundVal_one hf .rne false), bothForms_of_special hd rfl (hinf true),
    bothForms_of_special hd rfl (hinf n), bothForms_of_special hd rfl (hinf n),
    bothForms_of_special hd rfl (roundVal_zero f .rne n 0)⟩

theorem bothForms_log2_one {f : Fmt} (hf : f.Ieee) :
    BothForms f .log2 (f.signed false (f.params.bias * 2 ^ f.params.man)) (f.signed false 0, 0) := by
  obtain ⟨m, e, hd, hv⟩ := decodeFloat_signed false (Nat.lt_of_succ_lt hf.max_lt) hf.one_le_max
  exact bothForms_of_special hd (fnSpecial_log2_one (hv.trans (FpParams.mag_one hf.bias))) (roundVal_zero f .rne false 0)

/-- The rows of SIN, COS and TANH. -/
theorem bothForms_trigonometric {f : Fmt} (hf : f.Ieee) (n : Bool) :
    BothForms f .sin (f.infinity n) (f.nanLane true) ∧ BothForms f .sin (f.signed n 0) (f.signed n 0, 0) ∧
    BothForms f .cos (f.infinity n) (f.nanLane true) ∧
    BothForms f .cos (f.signed n 0) (f.signed false (f.params.bias * 2 ^ f.params.man), 0) ∧
    BothForms f .tanh (f.infinity n) (f.signed n (f.params.bias * 2 ^ f.params.man), 0) ∧
    BothForms f .tanh (f.signed n 0) (f.signed n 0, 0) := by
  obtain ⟨e, hd⟩ := decodeFloat_zero hf n
  have hinf := decodeFloat_infinity hf n
  have hnan := roundVal_nan hf.isFloat .rne false
  have hzero := roundVal_zero f .rne n 0
  refine ⟨bothForms_of_special hinf ?_ hnan, bothForms_of_special hd rfl hzero, bothForms_of_special hinf ?_ hnan,
    bothForms_of_special hd rfl (roundVal_one hf .rne false), bothForms_of_special hinf ?_ (roundVal_one hf .rne n),
    bothForms_of_special hd rfl hzero⟩ <;> cases n <;> rfl

/-- The table of R241 in the order of O36. -/
theorem bothForms_table {f : Fmt} (hf : f.Ieee) :
    let z (n : Bool) : Nat := f.signed n 0
    let inf (n : Bool) : Nat := f.infinity n
    let one (n : Bool) : Nat := f.signed n (f.params.bias * 2 ^ f.params.man)
    let nan : Nat × Flags := f.nanLane true
    let is := BothForms f
    is .exp2 (inf true) (z false, 0) ∧ is .exp2 (inf false) (inf false, 0) ∧ is .exp2 (z true) (one false, 0) ∧ is .exp2 (z false) (one false, 0) ∧
    is .log2 (inf true) nan ∧ is .log2 (inf false) (inf false, 0) ∧ is .log2 (z true) (inf true, flDZ) ∧ is .log2 (z false) (inf true, flDZ) ∧
    is .log2 (one false) (z false, 0) ∧
    is .rcp (inf true) (z true, 0) ∧ is .rcp (inf false) (z false, 0) ∧ is .rcp (z true) (inf true, flDZ) ∧ is .rcp (z false) (inf false, flDZ) ∧
    is .rsq (inf true) nan ∧ is .rsq (inf false) (z false, 0) ∧ is .rsq (z true) (inf true, flDZ) ∧ is .rsq (z false) (inf false, flDZ) ∧
    is .sqrt (inf true) nan ∧ is .sqrt (inf false) (inf false, 0) ∧ is .sqrt (z true) (z true, 0) ∧ is .sqrt (z false) (z false, 0) ∧
    (∀ n, is .sin (inf n) nan ∧ is .sin (z n) (z n, 0) ∧ is .cos (inf n) nan ∧ is .cos (z n) (one false, 0) ∧
      is .tanh (inf n) (one n, 0) ∧ is .tanh (z n) (z n, 0)) := by
  obtain ⟨expNeg, expPos, logNeg, logPos, rcpNeg, rcpPos, rsqNeg, rsqPos, sqrtNeg, sqrtPos⟩ := bothForms_infinity hf
  obtain ⟨expZ, logZ, rcpZ, rsqZ, sqrtZ⟩ := bothForms_zero hf true
  obtain ⟨expZ', logZ', rcpZ', rsqZ', sqrtZ'⟩ := bothForms_zero hf false
  exact ⟨expNeg, expPos, expZ, expZ', logNeg, logPos, logZ, logZ', bothForms_log2_one hf, rcpNeg, rcpPos, rcpZ, rcpZ', rsqNeg, rsqPos,
    rsqZ, rsqZ', sqrtNeg, sqrtPos, sqrtZ, sqrtZ', bothForms_trigonometric hf⟩

end Sys2Proof.Machine

open Sys2Proof Sys2Proof.Machine

/-- Settles O36: R241's table row by row, the exact and rounded values by the magnitudes on either side, the conversions by what lies in
their slice. -/
theorem transcendentalsAndConversions : Obligations.TranscendentalsAndConversions := by
  unfold Obligations.TranscendentalsAndConversions
  refine ⟨?_, ?_, ?_⟩
  · intro s d a t c ty h lanes
    exact ⟨deliver_trans_ok h .exp2 c d, deliver_trans_ok h .log2 c d, deliver_trans_ok h .rcp c d, deliver_trans_ok h .rsq c d,
      deliver_trans_ok h .sqrt c d, deliver_trans_ok h .sin c d, deliver_trans_ok h .cos c d, deliver_trans_ok h .tanh c d⟩
  · intro t p ty z inf one nan is hp
    have hf : ty.Ieee := floatType_ieee t
    have hr : ty.RootsNormal := floatType_rootsNormal t
    refine ⟨fun fn sig h => bothForms_nan hf fn h, bothForms_table hf, fun m e h hm => bothForms_negative hf h hm, ?_⟩
    intro n m e hd hm x val mid c a
    refine ⟨rounds_rcp hd hm, fun k hlo hhi hk => rounds_exp2 hd hm hlo hhi hk, fun hn => ?_, fun fn hs => fnA_flags hs,
      fun hof k hk hk' => rcpA_near hf hd hm rfl hof hk hk'⟩
    subst hn
    exact ⟨fun l hx hl => rounds_log2 hd hm hx hl, sqrt_nearest hf hr hd hm rfl rfl, rsq_nearest hf hr hd hm rfl rfl⟩
  · intro s d a b c src elem mode old inSlice laid on same flagsOf
    exact ⟨fun h => cvt_spec h d, fun h => dqnt_spec h d, fun h => qnt_spec h d⟩
end

-- ================================================================
-- Proofs, scope: Handles, their checks and the cells they name
-- ================================================================

section
namespace Sys2Proof.Machine
open Sys2Proof

/-! ### Cells of the two windows (R66–R69) -/

/-- The field of `n` bits that stands on `l` bits. -/
theorem field_eq {x l n : Nat} (lo f hi : Nat) (h : x = lo + 2 ^ l * (f + 2 ^ n * hi)) (hlo : lo < 2 ^ l) (hf : f < 2 ^ n) :
    x / 2 ^ l % 2 ^ n = f := by
  rw [h, Nat.add_mul_div_left _ _ (Nat.two_pow_pos l), Nat.div_eq_of_lt hlo, Nat.zero_add, Nat.add_mul_mod_self_left, Nat.mod_eq_of_lt hf]

/-- The fields that R69 permutes, put together in the order of the bank-linear window. -/
def bankFields (a b c d e : Nat) : Nat := a + 2 ^ 7 * (b + 2 ^ 3 * (c + 2 ^ 13 * (d + 2 ^ 4 * e)))
/-- And in the order of the interleaved one. -/
def interFields (a b c d e : Nat) : Nat := a + 2 ^ 7 * (d + 2 ^ 4 * (e + 2 ^ 4 * (b + 2 ^ 3 * c)))

/-- Every address of 31 bits has its fields. -/
theorem exists_bankFields {x : Nat} (h : x < 2 ^ 31) :
    ∃ a b c d e, a < 2 ^ 7 ∧ b < 2 ^ 3 ∧ c < 2 ^ 13 ∧ d < 2 ^ 4 ∧ e < 2 ^ 4 ∧ x = bankFields a b c d e :=
  ⟨x % 2 ^ 7, x / 2 ^ 7 % 2 ^ 3, x / 2 ^ 10 % 2 ^ 13, x / 2 ^ 23 % 2 ^ 4, x / 2 ^ 27, by unfold bankFields; omega⟩

section
variable {a b c d e : Nat} (ha : a < 2 ^ 7) (hb : b < 2 ^ 3) (hc : c < 2 ^ 13) (hd : d < 2 ^ 4) (he : e < 2 ^ 4)
include ha hb hc hd he

theorem interFields_lt : interFields a b c d e < 2 ^ 31 := by
  unfold interFields
  omega

theorem fields_of_bankFields : bankFields a b c d e / 2 ^ 0 % 2 ^ 7 = a ∧ bankFields a b c d e / 2 ^ 7 % 2 ^ 3 = b ∧
    bankFields a b c d e / 2 ^ 10 % 2 ^ 13 = c ∧ bankFields a b c d e / 2 ^ 23 % 2 ^ 4 = d ∧ bankFields a b c d e / 2 ^ 27 % 2 ^ 4 = e := by
  unfold bankFields
  refine ⟨field_eq 0 a (b + 2 ^ 3 * (c + 2 ^ 13 * (d + 2 ^ 4 * e))) ?_ ?_ ha, field_eq a b (c + 2 ^ 13 * (d + 2 ^ 4 * e)) ?_ ?_ hb,
    field_eq (a + 2 ^ 7 * b) c (d + 2 ^ 4 * e) ?_ ?_ hc, field_eq (a + 2 ^ 7 * (b + 2 ^ 3 * c)) d e ?_ ?_ hd,
    field_eq (a + 2 ^ 7 * (b + 2 ^ 3 * (c + 2 ^ 13 * d))) e 0 ?_ ?_ he⟩ <;> omega

theorem fields_of_interFields : interFields a b c d e / 2 ^ 0 % 2 ^ 7 = a ∧ interFields a b c d e / 2 ^ 15 % 2 ^ 3 = b ∧
    interFields a b c d e / 2 ^ 18 % 2 ^ 13 = c ∧ interFields a b c d e / 2 ^ 7 % 2 ^ 4 = d ∧ interFields a b c d e / 2 ^ 11 % 2 ^ 4 = e := by
  unfold interFields
  refine ⟨field_eq 0 a (d + 2 ^ 4 * (e + 2 ^ 4 * (b + 2 ^ 3 * c))) ?_ ?_ ha, field_eq (a + 2 ^ 7 * (d + 2 ^ 4 * e)) b c ?_ ?_ hb,
    field_eq (a + 2 ^ 7 * (d + 2 ^ 4 * (e + 2 ^ 4 * b))) c 0 ?_ ?_ hc, field_eq a d (e + 2 ^ 4 * (b + 2 ^ 3 * c)) ?_ ?_ hd,
    field_eq (a + 2 ^ 7 * d) e (b + 2 ^ 3 * c) ?_ ?_ he⟩ <;> omega

theorem bankToInter_bankFields : bankToInter (bankFields a b c d e) = interFields a b c d e := by
  obtain ⟨h0, hb', hc', hd', he'⟩ := fields_of_bankFields ha hb hc hd he
  rw [Nat.pow_zero, Nat.div_one] at h0
  rw [bankToInter, h0, hb', hc', hd', he', interFields]
  ring

theorem interToBank_interFields : interToBank (interFields a b c d e) = bankFields a b c d e := by
  obtain ⟨h0, hb', hc', hd', he'⟩ := fields_of_interFields ha hb hc hd he
  rw [Nat.pow_zero, Nat.div_one] at h0
  rw [interToBank, h0, hb', hc', hd', he', bankFields]
  ring

end

theorem bankToInter_lt {x : Nat} (h : x < 2 ^ 31) : bankToInter x < 2 ^ 31 := by
  obtain ⟨a, b, c, d, e, ha, hb, hc, hd, he, rfl⟩ := exists_bankFields h
  rw [bankToInter_bankFields ha hb hc hd he]
  exact interFields_lt ha hb hc hd he

theorem interToBank_bankToInter {x : Nat} (h : x < 2 ^ 31) : interToBank (bankToInter x) = x := by
  obtain ⟨a, b, c, d, e, ha, hb, hc, hd, he, rfl⟩ := exists_bankFields h
  rw [bankToInter_bankFields ha hb hc hd he, interToBank_interFields ha hb hc hd he]

theorem cellOf_bank {x : Nat} (h : x < 2 ^ 31) (ch : Nat) : cellOf 1 ch x = ch % 256 * 2 ^ 31 + bankToInter x := by
  rw [cellOf, if_pos rfl, Nat.mod_eq_of_lt h]

theorem cellOf_interleaved {x ch : Nat} (hc : ch < 256) (h : x < 2 ^ 31) : cellOf 0 ch x = ch * 2 ^ 31 + x := by
  rw [cellOf, if_neg (by decide), Nat.mod_eq_of_lt h, Nat.mod_eq_of_lt hc]

/-- One byte lies in one piece. -/
theorem cellPieces_one (e : BufEntry) (fuel o : Nat) : cellPieces e (fuel + 2) o 1 =
    [⟨.dram, cellOf e.win (e.cgb + o / e.granule % 2 ^ e.cgn) (e.base + o / e.granule / 2 ^ e.cgn * e.granule + o % e.granule), 1⟩] := by
  have hm : min 1 (128 - o % 128) = 1 := by omega
  simp [cellPieces, hm]

/-- The fields of a bank-linear address, each in its place of the interleaved one. -/
theorem bits_bankToInter {x : Nat} (h : x < 2 ^ 31) :
    bits (BitVec.ofNat 31 (bankToInter x)) 6 0 = bits (BitVec.ofNat 31 x) 6 0 ∧
    bits (BitVec.ofNat 31 (bankToInter x)) 10 7 = bits (BitVec.ofNat 31 x) 26 23 ∧
    bits (BitVec.ofNat 31 (bankToInter x)) 14 11 = bits (BitVec.ofNat 31 x) 30 27 ∧
    bits (BitVec.ofNat 31 (bankToInter x)) 17 15 = bits (BitVec.ofNat 31 x) 9 7 ∧
    bits (BitVec.ofNat 31 (bankToInter x)) 30 18 = bits (BitVec.ofNat 31 x) 22 10 := by
  simp only [bits, BitVec.toNat_ofNat, Nat.mod_eq_of_lt h, Nat.mod_eq_of_lt (bankToInter_lt h)]
  obtain ⟨a, b, c, d, e, ha, hb, hc, hd, he, rfl⟩ := exists_bankFields h
  rw [bankToInter_bankFields ha hb hc hd he]
  obtain ⟨a1, b1, c1, d1, e1⟩ := fields_of_bankFields ha hb hc hd he
  obtain ⟨a2, b2, c2, d2, e2⟩ := fields_of_interFields ha hb hc hd he
  exact ⟨a2.trans a1.symm, d2.trans d1.symm, e2.trans e1.symm, b2.trans b1.symm, c2.trans c1.symm⟩

/-! ### The checks of R64 in their order -/

section
variable {k : Pack} {btab : Word} {own idx : Nat} {o : Int} {n need : Nat} {copy : Bool}

/-- The buffer service holds the entry for MIGRATE (R75). -/
def Pack.migrates (k : Pack) (table idx : Nat) : Bool := k.sched.service.any (fun b => b.migrate && b.idx == idx && b.table == table)
theorem Pack.migrates_iff {k : Pack} {table idx : Nat} : k.migrates table idx = true ↔
    ∃ b, k.sched.service = some b ∧ b.migrate = true ∧ b.idx = idx ∧ b.table = table := by
  simp [Pack.migrates, Option.any_eq_true, and_assoc]

/-- The checks that follow those of the index. -/
theorem Pack.handleBad_known {e : BufEntry} (he : k.entryAt (bits btab 47 0) idx = e) (h0 : 0 < idx) (hi : idx ≤ bits btab 63 48) :
    k.handleBad btab own idx o n need copy =
      if e.tier = 0 then some 3
      else if k.entryOk e = false then some 4
      else if e.owner ≠ 0xFFFF ∧ e.owner ≠ own then some 5
      else if e.res = false ∨ k.migrates (bits btab 47 0) idx = true then some 6
      else if e.tier = 3 ∧ copy = false then some 7
      else if e.rights &&& need ≠ need then some 8
      else if o < 0 ∨ o + n > e.limit then some 9
      else none := by
  subst he
  unfold Pack.handleBad Pack.migrates hasRights
  rw [if_neg (by omega), if_neg (by omega)]
  cases k.sched.service <;> simp

end


/-- R64: the checks pass where no cause is found. -/
theorem State.passesChecks_iff (s : State) (idx : Nat) (o : Int) (n need : Nat) (copy : Bool) : s.passesChecks idx o n need copy ↔
    s.pk.handleBad s.ctx.csr.btab s.ownId.toNat idx o n need copy = none := by
  refine ⟨s.handleBad_none idx o n need copy, fun h => ?_⟩
  by_cases h0 : idx = 0
  · simp [Pack.handleBad, h0] at h
  by_cases hi : bits s.ctx.csr.btab 63 48 < idx
  · simp [Pack.handleBad, h0, hi] at h
  have hi : idx ≤ bits s.ctx.csr.btab 63 48 := Nat.le_of_not_lt hi
  rw [Pack.handleBad_known rfl (Nat.pos_of_ne_zero h0) hi] at h
  have hite {p : Prop} [Decidable p] {x : Nat} {e : Option Nat} : (if p then some x else e) = none ↔ ¬ p ∧ e = none := by
    split <;> simp [*]
  simp only [hite, and_true] at h
  obtain ⟨ht, hok, hown, hres, htier, hrights, hb⟩ := h
  rw [not_or] at hres
  refine ⟨h0, hi, ht, by simpa using hok, by tauto, by simpa using hres.1, fun b hs hb => hres.2 ?_, fun h3 => ?_, not_not.mp hrights, by omega, by omega⟩
  · exact Pack.migrates_iff.mpr ⟨b, hs, hb⟩
  · simpa [h3] using htier

/-! ### Handles (R55, R189–R191) -/

section
variable {s : State} (d a b : BitVec 5) (i : BitVec 7) (c : BitVec 2)

theorem hIdx_mkHandle {x y : Nat} (hx : x < 2 ^ 16) (hy : y < 2 ^ 56) : hIdx (mkHandle x y) = x := by
  rw [hIdx, mkHandle, bits, BitVec.toNat_ofNat, Nat.mod_eq_of_lt (b := 65536) hx, Nat.mod_eq_of_lt hy]
  omega
theorem hOff_mkHandle {x y : Nat} (hx : x < 2 ^ 16) (hy : y < 2 ^ 56) : hOff (mkHandle x y) = y := by
  rw [hOff, mkHandle, bits, BitVec.toNat_ofNat, Nat.mod_eq_of_lt (b := 65536) hx, Nat.mod_eq_of_lt hy]
  omega
theorem hIdx_eq (h : Handle) : hIdx h = h.toNat / 2 ^ 56 := by
  have := h.isLt
  rw [hIdx, bits, Nat.mod_eq_of_lt (by omega)]
theorem hOff_eq (h : Handle) : hOff h = h.toNat % 2 ^ 56 := by
  rw [hOff, bits, Nat.pow_zero, Nat.div_one]

/-- The handle-range fault of a bundle (R190, R474). -/
def State.rangeFault (s : State) (reg : Nat) (v off : Word) (idx : Nat) : State := s.takeFault (s.faultRec 0x09 0 reg v off idx)

theorem exec_hmk : exec (.hmk d a b) s = .next (
    if 2 ^ 16 ≤ (s.rs a).toNat then s.rangeFault a.toNat (s.rs a) 0 0
    else if 2 ^ 56 ≤ (s.rs b).toNat then s.rangeFault b.toNat (s.rs b) 0 0
    else s.putA d (mkHandle (s.rs a).toNat (s.rs b).toNat)) := by
  show deliver s (ite _ _ (ite _ _ _)) = _
  split
  · rfl
  split <;> rfl
/-- A new offset inside its range, or the fault with the exact one. -/
def State.movedTo (s : State) (d a : BitVec 5) (o : Int) : State :=
  if 0 ≤ o ∧ o < 2 ^ 56 then s.putA d (mkHandle (hIdx (s.ra a)) o.toNat)
  else s.rangeFault a.toNat (BitVec.ofInt 64 o) (BitVec.ofNat 64 (hOff (s.ra a))) (hIdx (s.ra a))
theorem deliver_moveOffset (o : Int) : deliver s (moveOffset d a o s) = .next (s.movedTo d a o) := by
  unfold moveOffset State.movedTo
  split <;> rfl
theorem exec_hadd : exec (.hadd d a b) s = .next (s.movedTo d a (hOff (s.ra a) + (s.rs b).toInt)) := deliver_moveOffset ..
theorem exec_haddi : exec (.haddi d a i) s = .next (s.movedTo d a (hOff (s.ra a) + (s.imm i).toInt)) := deliver_moveOffset ..
theorem State.movedTo_inside {o : Int} (h0 : 0 ≤ o) (h : o < 2 ^ 56) : s.movedTo d a o = s.putA d (mkHandle (hIdx (s.ra a)) o.toNat) :=
  if_pos ⟨h0, h⟩
theorem State.movedTo_outside {o : Int} (h : o < 0 ∨ 2 ^ 56 ≤ o) : s.movedTo d a o =
    s.rangeFault a.toNat (BitVec.ofInt 64 o) (BitVec.ofNat 64 (hOff (s.ra a))) (hIdx (s.ra a)) :=
  if_neg (by omega)
theorem exec_hseto : exec (.hseto d a b) s = .next (
    if 2 ^ 56 ≤ (s.rs b).toNat then s.rangeFault b.toNat (s.rs b) (BitVec.ofNat 64 (hOff (s.ra a))) (hIdx (s.ra a))
    else s.putA d (mkHandle (hIdx (s.ra a)) (s.rs b).toNat)) := by
  show deliver s (ite _ _ _) = _
  split <;> rfl

/-- What HCHK asks about (R191). -/
theorem State.chkPasses_iff : s.chkPasses a b c = true ↔ s.passesChecks (hIdx (s.ra a)) (hOff (s.ra a)) (s.rs b).toNat
    (if c = 0 then rRD else if c = 1 then rWR else if c = 2 then rAT + rRD else rCS) (c = 3) := by
  rw [State.chkPasses, State.passesChecks_iff, Option.isNone_iff_eq_none]
  rfl
theorem State.hasEntry_iff (i : Nat) : s.hasEntry i = true ↔ i ≠ 0 ∧ i ≤ bits s.ctx.csr.btab 63 48 := by
  simp [State.hasEntry]

theorem exec_hchk_ready (h : s.hasEntry (hIdx (s.ra a)) = true → s.entryReady (hIdx (s.ra a))) :
    exec (.hchk d a b c) s = .next (s.putP d (s.chkPasses a b c)) := by
  have he : (if s.hasEntry (hIdx (s.ra a)) then s.pk.readError (entryPiece s.ctx.table (hIdx (s.ra a))) else none) = none := by
    split
    next hh => exact (h hh).2
    · rfl
  have hw : ¬ (s.hasEntry (hIdx (s.ra a)) = true ∧ (!s.portHolds (hIdx (s.ra a))) = true) := by
    rintro ⟨hh, hp⟩
    simp [(h hh).1] at hp
  show execHchk d a b c s = _
  simp only [execHchk, if_neg hw, he, deliver_ok]
theorem exec_hchk_met (hh : s.hasEntry (hIdx (s.ra a)) = true) (hp : s.portHolds (hIdx (s.ra a)) = true) {x : Nat × Nat}
    (he : s.pk.readError (entryPiece s.ctx.table (hIdx (s.ra a))) = some x) :
    exec (.hchk d a b c) s = .next
      ((s.logMet (s.faultRec 0x1E 0 d.toNat (BitVec.ofNat 64 x.2) (BitVec.ofNat 64 x.1))).takeFault
        (s.faultRec 0x1E 0 d.toNat (BitVec.ofNat 64 x.2) (BitVec.ofNat 64 x.1))) := by
  have hw : ¬ (s.hasEntry (hIdx (s.ra a)) = true ∧ (!s.portHolds (hIdx (s.ra a))) = true) := by simp [hp]
  show execHchk d a b c s = _
  simp only [execHchk, if_neg hw, if_pos hh, he, deliver_met]
/-- The port asks for the entry, as for a load, and nothing else of the machine changes but the result in flight (R146). -/
theorem exec_hchk_waits (hh : s.hasEntry (hIdx (s.ra a)) = true) (hp : s.portHolds (hIdx (s.ra a)) = false) :
    ∃ t, exec (.hchk d a b c) s = .next t ∧ s.keeps t ∧ t.ctx.pend = s.ctx.pend ++
      [{ due := s.core.cyc + 1, wr := .p d.toNat (s.chkPasses a b c), land := s.pk.opCtr, ready := false }] := by
  obtain ⟨-, hk, hc, -⟩ := (s.fetchEntry (hIdx (s.ra a)) 0).issueOp_facts
    { id := 0, ctx := 0, kind := .load .none .scalar ⟨[entryPiece s.ctx.table (hIdx (s.ra a))], { cp := 2 }, 0⟩ none, cls := 0
      lat := s.homeLat ⟨[entryPiece s.ctx.table (hIdx (s.ra a))], {}, 0⟩ }
  refine ⟨_, if_pos ⟨hh, by simp [hp]⟩, hk, ?_⟩
  rw [State.updCtx_ctx, hc]
  rfl

end

end Sys2Proof.Machine

open Sys2Proof Sys2Proof.Machine

/-- Settles O47: the pieces of one byte, and the permutation of R69 with its inverse. -/
theorem translation : Obligations.Translation := by
  refine ⟨fun e o => cellPieces_one e 1 o, fun ch x y hx hy h => ?_, fun ch x hc hx => ⟨cellOf_interleaved hc hx, ?_⟩,
    fun x hx => bits_bankToInter hx⟩
  · rw [cellOf_bank hx, cellOf_bank hy] at h
    rw [← interToBank_bankToInter hx, Nat.add_left_cancel h, interToBank_bankToInter hy]
  · have hb := bankToInter_lt hx
    rw [cellOf_bank hx, cellCh]
    omega

/-- Settles O46: the causes in the order of `Pack.handleBad_known`. -/
theorem handleChecks : Obligations.HandleChecks := by
  intro k btab own idx o n need copy e r known formed owned held
  have hheld : held ↔ k.migrates (bits btab 47 0) idx = true := Pack.migrates_iff.symm
  have hr (hk : known) := Pack.handleBad_known (own := own) (o := o) (n := n) (need := need) (copy := copy) (e := e) rfl hk.1 hk.2
  refine ⟨fun h => ?_, fun h => ?_, fun hk h => ?_, fun hk ht h => ?_, fun hf h h' => ?_, fun ho h => ?_, fun ho hh hres => ?_⟩
  · simp [r, Pack.handleBad, h]
  · have h0 : idx ≠ 0 := Nat.ne_of_gt (Nat.zero_lt_of_lt h)
    simp [r, Pack.handleBad, h, h0]
  · rw [show r = _ from hr hk, if_pos h]
  · rw [show r = _ from hr hk, if_neg ht, if_pos h]
  · obtain ⟨hk, ht, hok⟩ := hf
    rw [show r = _ from hr hk, if_neg ht, if_neg (by simp [hok]), if_pos ⟨h, h'⟩]
  · obtain ⟨⟨hk, ht, hok⟩, hown⟩ := ho
    rw [show r = _ from hr hk, if_neg ht, if_neg (by simp [hok]), if_neg (by tauto), if_pos (h.imp_right hheld.mp)]
  · obtain ⟨⟨hk, ht, hok⟩, hown⟩ := ho
    have hh' : ¬ (e.res = false ∨ k.migrates (bits btab 47 0) idx = true) := by simpa [hres] using mt hheld.mpr hh
    have hcheck := hr hk
    rw [if_neg ht, if_neg (by simp [hok]), if_neg (by tauto), if_neg hh'] at hcheck
    have h7 (h : e.tier ≠ 3 ∨ copy = true) : ¬ (e.tier = 3 ∧ copy = false) := by
      rintro ⟨h3, hc⟩
      simp [h3, hc] at h
    refine ⟨fun h3 hc => ?_, fun h hne => ?_, fun h heq hb => ?_, fun h heq h0 hl => ?_⟩
    · rw [show r = _ from hcheck, if_pos ⟨h3, hc⟩]
    · rw [show r = _ from hcheck, if_neg (h7 h), if_pos hne]
    · rw [show r = _ from hcheck, if_neg (h7 h), if_neg (not_not.mpr heq), if_pos hb]
    · rw [show r = _ from hcheck, if_neg (h7 h), if_neg (not_not.mpr heq), if_neg (by omega)]

/-- Settles O22: each handle instruction inside and outside its range, and HCHK by where the port and the entry stand. -/
theorem handleArithmetic : Obligations.HandleArithmetic := by
  refine ⟨fun s d a b i => ⟨fun ha hb => ?_, fun h0 h => ?_, fun h0 h => ?_, fun hb => ?_, ?_, ?_, rfl,
    fun x y hx hy => ⟨hIdx_mkHandle hx hy, hOff_mkHandle hx hy⟩, fun c => ?_⟩, fun s d a b i => ⟨fun ha => ?_, fun ha hb => ?_,
    fun o ho h => ?_, fun o ho h => ?_, fun hb => ?_⟩⟩
  · rw [exec_hmk, if_neg (Nat.not_le.mpr ha), if_neg (Nat.not_le.mpr hb)]
  · rw [exec_hadd, State.movedTo_inside d a h0 h]
  · rw [exec_haddi, State.movedTo_inside d a h0 h]
  · rw [exec_hseto, if_neg (Nat.not_le.mpr hb)]
  · rw [← hIdx_eq]
    rfl
  · rw [← hOff_eq]
    rfl
  · intro i has e passes
    have hhas : s.hasEntry i = true ↔ has := State.hasEntry_iff i
    refine ⟨fun h => ⟨s.chkPasses a b c, exec_hchk_ready d a b c fun hh => h (hhas.mp hh), State.chkPasses_iff a b c⟩, fun h hp => ?_,
      fun h hp k x he => exec_hchk_met d a b c (hhas.mpr h) hp (x := (k, x)) he⟩
    obtain ⟨t, ht, hk, hpend⟩ := exec_hchk_waits d a b c (hhas.mpr h) hp
    exact ⟨s.chkPasses a b c, t, ht, State.chkPasses_iff a b c, hpend, hk⟩
  · rw [exec_hmk, if_pos ha]
    rfl
  · rw [exec_hmk, if_neg (Nat.not_le.mpr ha), if_pos hb]
    rfl
  · rw [exec_hadd, ← ho, State.movedTo_outside d a h]
    rfl
  · rw [exec_haddi, ← ho, State.movedTo_outside d a h]
    rfl
  · rw [exec_hseto, if_pos hb]
    rfl
end

-- ================================================================
-- Proofs, scope: Command streams, interrupts and ramps
-- ================================================================

section
namespace Sys2Proof.Machine
open Sys2Proof

section
variable {s : State}

/-! ### Command streams (R78, R79, R85) -/

theorem execCstail_appends (hl : (s.pk.csCtl s.pk.arg.n).getLsbD 62 = false) (h1 : s.pk.csTail s.pk.arg.n ≤ s.pk.arg.v.toNat)
    (h2 : s.pk.arg.v.toNat ≤ s.pk.csHead s.pk.arg.n + s.pk.ringLen s.pk.arg.n) :
    execCstail s = .next (s.updPk fun k => k.appendTo s.pk.arg.n s.pk.arg.v.toNat) := by
  have hb : ¬ (s.pk.arg.v.toNat < s.pk.csTail s.pk.arg.n ∨ s.pk.csHead s.pk.arg.n + s.pk.ringLen s.pk.arg.n < s.pk.arg.v.toNat) := by omega
  simp only [execCstail, done, hl, hb, Bool.false_eq_true, if_false]
theorem execCstail_refused (hl : (s.pk.csCtl s.pk.arg.n).getLsbD 62 = false)
    (h : s.pk.arg.v.toNat < s.pk.csTail s.pk.arg.n ∨ s.pk.csHead s.pk.arg.n + s.pk.ringLen s.pk.arg.n < s.pk.arg.v.toNat) :
    execCstail s = .next (s.updPk fun k => k.ioWr (csOff s.pk.arg.n 0x28) (setBits (s.pk.csStat s.pk.arg.n) 58 58 1)) := by
  simp only [execCstail, done, hl, h, Bool.false_eq_true, if_false, if_true, State.updPk]
theorem execCstail_launching (hl : (s.pk.csCtl s.pk.arg.n).getLsbD 62 = true) : execCstail s = .next s := by
  simp only [execCstail, done, hl, if_true]
theorem execCsctlEn_enables (he : s.pk.csEn s.pk.arg.n = false) (h1 : 4 ≤ bits (s.pk.csBase s.pk.arg.n) 55 48)
    (h2 : bits (s.pk.csBase s.pk.arg.n) 55 48 ≤ 16) (hv : s.pk.arg.v.getLsbD 63 = true) : execCsctlEn s =
      .next (s.updPk fun k => k.ioWr (csOff s.pk.arg.n 8) (setBits (s.pk.arg.v &&& 0x7000_0000_0000_FFFF) 63 63 1)) := by
  simp only [execCsctlEn, done, he, h1, h2, hv, decide_true, Bool.or_true, Bool.and_true, Bool.false_eq_true, if_false,
    Bool.toNat_true]

/-! ### Interrupts and ramps (R105, R174) -/

theorem execCoalesceExpiry_sends {v n : Nat} (hp : s.pk.sched.pendIrq = [(v, n)]) (hn : s.pk.arg.n = v)
    (h : ((s.pk.sched.lastIrq.find? (fun x => x.1 == v)).map Prod.snd).getD 0 + bits (s.pk.ioRd 0x20010) 31 0 ≤ s.tstamp) :
    execCoalesceExpiry s = .next (s.updPk fun k => k.sendIrq v n) := by
  simp only [execCoalesceExpiry, done, hp, hn, List.find?_cons_of_pos, beq_self_eq_true, Nat.not_lt.mpr h, if_false]

section
variable {r : Ramp} (hr : s.pk.sched.ramps = [r]) (hn : s.pk.arg.n = r.cluster)
include hr hn
theorem execRampDwell_eq : execRampDwell s = .next (if (if r.up then decide (7 ≤ r.step) else decide (r.step ≤ 1)) = true
    then s.updPk fun k => k.updSched fun d => { d with ramps := [] }
    else s.updPk fun k => (k.updSched fun d => { d with
      ramps := [{ r with step := if r.up then r.step + 1 else r.step - 1 }] }).schedule r.dwell .rampDwell { n := r.cluster }) := by
  simp [execRampDwell, done, hr, hn, Pack.updSched, State.updPk]
/-- The ramp of a kernel end goes up to step 7, that of a start down from it. -/
theorem execRampDwell_up (hup : r.up = true) : execRampDwell s = .next (if r.step < 7
    then s.updPk fun k => (k.updSched fun d => { d with ramps := [{ r with step := r.step + 1 }] }).schedule r.dwell .rampDwell { n := r.cluster }
    else s.updPk fun k => k.updSched fun d => { d with ramps := [] }) := by
  rw [execRampDwell_eq hr hn]
  by_cases h : r.step < 7
  · rw [if_pos h, if_neg (by simp [hup, h]), if_pos hup]
  · rw [if_neg h, if_pos (by simp [hup]; omega)]
theorem execRampDwell_down (hup : r.up = false) : execRampDwell s = .next (if 1 < r.step
    then s.updPk fun k => (k.updSched fun d => { d with ramps := [{ r with step := r.step - 1 }] }).schedule r.dwell .rampDwell { n := r.cluster }
    else s.updPk fun k => k.updSched fun d => { d with ramps := [] }) := by
  rw [execRampDwell_eq hr hn]
  by_cases h : 1 < r.step
  · rw [if_pos h, if_neg (by simp [hup, h]), if_neg (by simp [hup])]
  · rw [if_neg h, if_pos (by simp [hup]; omega)]
end

section
variable {k : Pack} {p : Nat} (st : Nat → Nat) (hr : k.sched.ramps = []) (h0 : bits (k.ioRd 0x30008) 15 0 ≠ 0)
include hr h0
theorem Pack.takeRamps_one (up : Bool) (he : k.sched.ends = if up then [p] else []) (hs : k.sched.starts = if up then [] else [p]) :
    k.takeRamps st = (k.updSched fun d => { d with starts := [], ends := [], ramps := [⟨p, up, if up then st p else 7, k.dwell 1⟩] }).schedule
      (k.dwell 1) .rampDwell { n := p } := by
  have hio : bits ((k.updSched fun d => { d with starts := [], ends := [] }).ioRd 0x30008) 15 0 ≠ 0 := h0
  unfold Pack.takeRamps
  simp only [if_neg hio, he, hs]
  cases up <;> simp [Pack.updSched, hr] <;> rfl
omit hr in
theorem Pack.takeRamps_cancel (he : k.sched.ends = [p]) (hs : k.sched.starts = [p]) :
    k.takeRamps st = k.updSched fun d => { d with starts := [], ends := [] } := by
  have hio : bits ((k.updSched fun d => { d with starts := [], ends := [] }).ioRd 0x30008) 15 0 ≠ 0 := h0
  unfold Pack.takeRamps
  simp only [if_neg hio, he, hs]
  simp
end

end

end Sys2Proof.Machine
end

-- ================================================================
-- Proofs, scope: UNMAP and MIGRATE admitted and refused
-- ================================================================

section
namespace Sys2Proof.Machine
open Sys2Proof

@[simp] theorem Pack.updSched_sched (k : Pack) (f : Sched → Sched) : (k.updSched f).sched = f k.sched := by rfl
@[simp] theorem Pack.ioWr_sched (k : Pack) (off : Nat) (v : Word) : (k.ioWr off v).sched = k.sched := by rfl

/-! ### UNMAP and MIGRATE admitted and refused (R72, R73) -/

section
variable {s : State} {table idx : Nat} (hb : s.pk.bsBusy = false) (ht : bits (s.pk.ioRd 0x20800) 47 0 = table)
  (hi : bits (s.pk.ioRd 0x20800) 63 48 = idx)
include hb ht hi

omit hb ht hi in
theorem Pack.tableUsed_begun (k : Pack) (w : Option BufService) (t : Nat) :
    (k.bsBegin.updSched fun d => { d with service := w }).tableUsed t = k.tableUsed t := by
  simp only [Pack.tableUsed, Pack.updSched_sched, Pack.bsBegin, Pack.ioWr_sched]
theorem execUnmap_refused {c : Nat} (h : s.pk.serviceBad table idx = some c) : execUnmap s = .next (s.updPk fun k => k.setBsstat c) := by
  simp only [execUnmap, done, hb, ht, hi, h, Bool.false_eq_true, if_false]
theorem execUnmap_begins (h : s.pk.serviceBad table idx = none) : execUnmap s = .next { s with
    pk := if s.pk.tableUsed table then s.pk.bsBegin.updSched fun d => { d with service := some ⟨table, idx, false, 0, 0, [], 0, []⟩ }
      else (s.pk.bsBegin.updSched fun d => { d with service := some ⟨table, idx, false, 0, 0, [], 0, []⟩ }).schedule 0 .bufferServiceResume {} } := by
  simp only [execUnmap, done, hb, ht, hi, h, Bool.false_eq_true, if_false, Pack.tableUsed_begun]

/-- The entry with the new placement that MIGRATE is given. -/
def Pack.movedEntry (k : Pack) (table idx : Nat) (v : Word) : BufEntry := { k.entryAt table idx with cgb := bits v 55 48, base := bits v 30 0 }
/-- Another entry of the table shares a cell with `new` (R75, log 65). -/
def Pack.clashes (k : Pack) (table idx : Nat) (new : BufEntry) : Prop :=
  ∃ i, 1 ≤ i ∧ i ≤ 65535 ∧ i ≠ idx ∧ (k.entryAt table i).tier = 2 ∧ k.entryOk (k.entryAt table i) = true ∧
    ((k.entryAt table i).devn = 0xFF ∨ (k.entryAt table i).devn = k.own) ∧ sameCells (k.entryAt table i) new = true
omit hb ht hi in
theorem Pack.clashes_iff {k : Pack} {new : BufEntry} : ((List.range 65535).any fun i =>
    i + 1 != idx && (k.entryAt table (i + 1)).tier == 2 && k.entryOk (k.entryAt table (i + 1)) &&
      ((k.entryAt table (i + 1)).devn == 0xFF || (k.entryAt table (i + 1)).devn == k.own) && sameCells (k.entryAt table (i + 1)) new) = true ↔
    k.clashes table idx new := by
  simp only [List.any_eq_true, List.mem_range, Bool.and_eq_true, Bool.or_eq_true, bne_iff_ne, beq_iff_eq]
  constructor
  · rintro ⟨i, hlt, ⟨⟨⟨hne, htier⟩, hok⟩, hdev⟩, hcells⟩
    exact ⟨i + 1, by omega, by omega, hne, htier, hok, hdev, hcells⟩
  · rintro ⟨i, h1, hle, hne, htier, hok, hdev, hcells⟩
    obtain ⟨j, rfl⟩ : ∃ j, i = j + 1 := ⟨i - 1, by omega⟩
    exact ⟨j, by omega, ⟨⟨⟨hne, htier⟩, hok⟩, hdev⟩, hcells⟩

omit hi in
theorem execMigrate_used (h : s.pk.tableUsed table = true) : execMigrate s = .next (s.updPk fun k => k.setBsstat 1) := by
  simp only [execMigrate, done, hb, ht, h, Bool.false_eq_true, if_false, if_true]

section
variable (hu : s.pk.tableUsed table = false)
include hu
theorem execMigrate_bad {c : Nat} (h : s.pk.serviceBad table idx = some c) : execMigrate s = .next (s.updPk fun k => k.setBsstat c) := by
  simp only [execMigrate, done, hb, ht, hi, hu, h, Bool.false_eq_true, if_false]
variable (hg : s.pk.serviceBad table idx = none)
include hg
theorem execMigrate_clashing (h : s.pk.entryOk (s.pk.movedEntry table idx s.pk.arg.v) = false ∨
    s.pk.clashes table idx (s.pk.movedEntry table idx s.pk.arg.v)) : execMigrate s = .next (s.updPk fun k => k.setBsstat 4) := by
  simp only [execMigrate, done, hb, ht, hi, hu, hg, Bool.false_eq_true, if_false]
  refine congrArg Host.Outcome.next (if_pos ?_)
  simpa only [← Pack.clashes_iff, Pack.movedEntry, Bool.not_eq_true'] using h
theorem execMigrate_begins (hok : s.pk.entryOk (s.pk.movedEntry table idx s.pk.arg.v) = true)
    (hfree : ¬ s.pk.clashes table idx (s.pk.movedEntry table idx s.pk.arg.v)) : execMigrate s = .next { s with
      pk := (s.pk.bsBegin.updSched fun d => { d with
        service := some ⟨table, idx, true, bits s.pk.arg.v 55 48, bits s.pk.arg.v 30 0, [], 0, []⟩ }).schedule 0 .bufferServiceResume {} } := by
  have h : ¬ (s.pk.entryOk (s.pk.movedEntry table idx s.pk.arg.v) = false ∨ s.pk.clashes table idx (s.pk.movedEntry table idx s.pk.arg.v)) := by
    simp [hok, hfree]
  simp only [execMigrate, done, hb, ht, hi, hu, hg, Bool.false_eq_true, if_false]
  refine congrArg Host.Outcome.next (if_neg ?_)
  simpa only [← Pack.clashes_iff, Pack.movedEntry, Bool.not_eq_true'] using h
end
end

end Sys2Proof.Machine
end

-- ================================================================
-- Proofs, scope: The buffer service at work
-- ================================================================

section
namespace Sys2Proof.Machine
open Sys2Proof

/-! ### An empty MSC -/

theorem Pack.mscLine_nil {k : Pack} (h : k.msc = []) (l : Nat) : k.mscLine l = none := by
  rw [Pack.mscLine, h]
  rfl
theorem Pack.writeBack_nil {k : Pack} (h : k.msc = []) (l : Nat) : k.writeBack l = k := by
  rw [Pack.writeBack, Pack.mscLine_nil h]
theorem Pack.dropLine_nil {k : Pack} (h : k.msc = []) (l : Nat) : k.dropLine l = k := by
  cases k
  simp_all [Pack.dropLine]
theorem Pack.vacate_nil {k : Pack} (h : k.msc = []) (hp : k.pins = []) (ls : List Nat) : k.vacate ls = k := by
  unfold Pack.vacate
  extract_lets k1 k2
  have h1 : k1 = k := List.foldl_fixed' (fun l => by simp only [Pack.writeBack_nil h, Pack.mscLine_nil h]; rfl) ls
  have h2 : k2 = k := by
    simp only [k2, h1, hp]
    rfl
  rw [h2]
  exact List.foldl_fixed' (fun l => Pack.dropLine_nil h l) ls

/-! ### The buffer service at work (R74, R75) -/

section
variable {s : State} {b : BufService} (hs : s.pk.sched.service = some b) (hu : s.pk.tableUsed b.table = false) (hm : s.pk.msc = [])
  (hp : s.pk.pins = [])

/-- The service has ended. -/
def State.served (s : State) (k : Pack) : State := { s with pk := (k.setBsstat 0).updSched fun d => { d with service := none } }
/-- What a migration has moved when it has gone as far as its channels serve it now. -/
def Pack.moved (k : Pack) (b : BufService) : Pack × BufService :=
  let e := k.entryAt b.table b.idx
  k.moveOn b (entryRange e 0 e.limit) (entryRange { e with cgb := b.newcgb, base := b.newbase } 0 e.limit)

include hs hu hm hp
theorem execBufferServiceResume_eq : execBufferServiceResume s = .next (
    if b.migrate then
      if (s.pk.moved b).2.put < (s.pk.entryAt b.table b.idx).limit
      then { s with pk := ((s.pk.moved b).1.updSched fun d => { d with service := some (s.pk.moved b).2 }).scheduleCc 1 .bufferServiceResume {} }
      else s.served (((s.pk.moved b).1.dpaWrite (b.table + 32 * b.idx) (leBytes 8 b.newbase)).dpaWrite (b.table + 32 * b.idx + 22)
        (leBytes 1 b.newcgb))
    else s.served (s.pk.dpaWrite (b.table + 32 * b.idx + 20)
      (leBytes 1 ((s.pk.dpaRead (b.table + 32 * b.idx + 20) 1).headD 0 &&& 0xFE).toNat))) := by
  have hw (ls : List Nat) : ls.foldl (fun (k : Pack) l => if k.banksOpen (cellCh l) then k.writeBack l else k) s.pk = s.pk :=
    List.foldl_fixed' (fun l => by rw [Pack.writeBack_nil hm, ite_self]) ls
  unfold execBufferServiceResume
  have ha (ls : List Nat) : (ls.any fun l => (s.pk.mscLine l).any fun x => x.owes && x.bad.isEmpty) = false := by
    simp [Pack.mscLine_nil hm]
  simp only [hs, hu, hw, ha, Pack.vacate_nil hm hp, done, ite_self, Bool.false_eq_true, if_false, and_false]
  rfl
end

end Sys2Proof.Machine
end

-- ================================================================
-- Proofs, scope: One line read and written at its home
-- ================================================================

section
namespace Sys2Proof.Machine
open Sys2Proof

/-! ### Reading one line at the home -/

theorem dpaCell_low {d : Nat} (h : d < 2 ^ 31) : dpaCell d = d := by
  have h0 : d / 2 ^ 40 = 0 := Nat.div_eq_of_lt (by omega)
  have h1 : d / 2 ^ 31 = 0 := Nat.div_eq_of_lt h
  rw [dpaCell, h0, h1, Nat.zero_mod, cellOf_interleaved (by decide) h]
  omega
/-- A read that stays in one line is one part. -/
theorem Pack.homeRead_line (k : Pack) {c n : Nat} (h0 : n ≠ 0) (h : c % 128 + n ≤ 128) : k.homeRead c n = k.chunkRead c n := by
  have hm : min n (128 - c % 128) = n := by omega
  rw [Pack.homeRead, Pack.homeReadGo, if_neg h0]
  simp only [hm, Nat.sub_self]
  have hz (fuel a : Nat) : k.homeReadGo fuel a 0 = [] := by cases fuel <;> rfl
  rw [hz, List.append_nil]
theorem padTo_of_length {n : Nat} {l : List Byte} (h : l.length = n) : padTo n l = l := by
  simp [padTo, h]
/-- Outside a state window, with the MSC empty, DRAM gives the bytes. -/
theorem Pack.chunkRead_dram {k : Pack} {c : Nat} (n : Nat) (hw : k.windowAt c = none) (hm : k.mscLine (c / 128 * 128) = none) :
    k.chunkRead c n = k.mem.dram.read c n := by
  rw [Pack.chunkRead, hw, hm]
/-- And with its line in the MSC, the line does. -/
theorem Pack.chunkRead_line {k : Pack} {c n : Nat} {x : MscLine} (hw : k.windowAt c = none) (hm : k.mscLine (c / 128 * 128) = some x)
    (hs : x.spent = false) (hl : x.bytes.length = 128) (hn : c % 128 + n ≤ 128) : k.chunkRead c n = (x.bytes.drop (c % 128)).take n := by
  rw [Pack.chunkRead, hw, hm]
  simp only [hs, Bool.false_eq_true, if_false]
  exact padTo_of_length (by simp [hl]; omega)

/-! ### One part written to an empty MSC -/

section
variable {k : Pack} (hm : k.msc = []) (hp : k.pins = [])

theorem Pack.protected_none {k : Pack} (h : ∀ g, (k.slot g).regions = []) (c : Nat) : k.protected_ c = none := by
  simp [Pack.protected_, h]

include hp in
theorem Pack.refreshPin_nil (l : Nat) : k.refreshPin l = k := by
  cases k
  simp_all [Pack.refreshPin]

/-- A line as it is taken from DRAM where no window pins it. -/
def Pack.takenLine (k : Pack) (line : Nat) : MscLine where
  line := line
  bytes := k.mem.read ⟨.dram, line, 128⟩
  pinned := false
  lost := (List.range 4).filter (fun i => (k.badUnit ⟨.dram, line + 32 * i, 32⟩).isSome)
/-- `k` with one line in its MSC. -/
def Pack.onlyLine (k : Pack) (x : MscLine) : Pack := { k with msc := [x] }
theorem Pack.mscLine_onlyLine (k : Pack) (x : MscLine) (l : Nat) : (k.onlyLine x).mscLine l = if x.line = l then some x else none := by
  simp only [Pack.mscLine, Pack.onlyLine, List.find?_cons, List.find?_nil, beq_eq_decide]
  split <;> simp_all
theorem Pack.setLine_onlyLine (k : Pack) {x y : MscLine} (h : x.line = y.line) : (k.onlyLine x).setLine y = k.onlyLine y := by
  simp [Pack.setLine, Pack.onlyLine, h]
include hm hp in
theorem Pack.fill_empty (l : Nat) : k.fill l = k.onlyLine (k.takenLine l) := by
  have hr : k.makeRoom l = some k := by simp [Pack.makeRoom, Pack.setLines, hm]
  have hin : k.inPin l = false := by simp [Pack.inPin, hp]
  unfold Pack.fill
  rw [Pack.dropLine_nil hm, hr]
  simp only [Pack.setLine, hm, hin, List.any_nil, Bool.false_eq_true, if_false]
  rfl
include hm in
theorem Pack.allHit_empty {p : Piece} (hs : p.space = .dram) (hl : p.len ≠ 0) : k.allHit [p] = false := by
  simp [Pack.allHit, linesOf, hs, hl, Pack.mscLine_nil hm]

include hm hp in
/-- A write by the part itself takes the line and lays the bytes over it (R61). -/
theorem Pack.lineWrite_empty {c : Nat} (hw : k.windowAt c = none) (bs : List Byte) : k.lineWrite {} c bs 0 =
    (k.reachBank 1 (c / 128 * 128)).onlyLine { (k.takenLine (c / 128 * 128)).lay (c % 128) bs with dirty := true, rc := 0 } := by
  have ht : (k.reachBank 1 (c / 128 * 128)).takenLine (c / 128 * 128) = k.takenLine (c / 128 * 128) := by rfl
  have hfound : ((k.reachBank 1 (c / 128 * 128)).onlyLine (k.takenLine (c / 128 * 128))).mscLine (c / 128 * 128) =
      some (k.takenLine (c / 128 * 128)) := by
    rw [Pack.mscLine_onlyLine]
    exact if_pos rfl
  unfold Pack.lineWrite
  simp only [Pack.refreshPin_nil hp, hw, Pack.allHit_empty hm (p := ⟨.dram, c / 128 * 128, 1⟩) rfl Nat.one_ne_zero, Bool.false_eq_true, if_false,
    ne_eq, not_true_eq_false, and_false]
  rw [Pack.fill_empty (k := k.reachBank 1 (c / 128 * 128)) hm hp, ht]
  simp only [Pack.absent, hfound]
  exact Pack.setLine_onlyLine _ rfl

include hm hp in
/-- One byte written at a DPA where no region is protected and no state window lies. -/
theorem Pack.dpaWrite_one (hr : ∀ g, (k.slot g).regions = []) {d : Nat} (hd : d < 2 ^ 31) (hw : k.windowAt d = none) (x : Byte) :
    k.dpaWrite d [x] =
      (k.reachBank 1 (d / 128 * 128)).onlyLine { (k.takenLine (d / 128 * 128)).lay (d % 128) [x] with dirty := true, rc := 0 } := by
  have hparts : k.partsOf (linePieces ([x].length / 128 + 2) (dpaCell d) [x].length) [x] = [(⟨.dram, d, 1⟩, [x])] := by
    have hmin : min 1 (128 - d % 128) = 1 := by omega
    simp [Pack.partsOf, linePieces, splitPieces, dpaCell_low hd, hmin, Pack.protected_none hr]
  rw [Pack.dpaWrite, Pack.piecesWrite, hparts]
  simp only [Pack.partsWrite, Pack.partWrite, if_true, Pack.protected_none hr, Bool.false_eq_true, if_false, Written.pack,
    Pack.lineWrite_empty hm hp hw]
  rfl

end

/-! ### The RES bit of an entry -/

section
variable {k : Pack} (hm : k.msc = []) (hp : k.pins = []) (hr : ∀ g, (k.slot g).regions = []) (hw : ∀ x, k.windowAt x = none)
  (hwf : k.mem.wf = true)

include hm hw hwf in
theorem Pack.homeRead_bytes {d n : Nat} (h0 : n ≠ 0) (h : d % 128 + n ≤ 128) :
    k.homeRead d n = (List.range n).map fun i => k.mem.dram.get (d + i) := by
  rw [Pack.homeRead_line k h0 h, Pack.chunkRead_dram n (hw d) (Pack.mscLine_nil hm _), Memory.read_eq _ _ _ ((Stores.wf_iff _).mp hwf).1]

include hm hp hr hw hwf in
/-- Bytes of one line after a byte has been written at `x`. -/
theorem Pack.homeRead_dpaWrite_one {x d n : Nat} (hx : x < 2 ^ 31) (y : Byte) (h0 : n ≠ 0) (h : d % 128 + n ≤ 128) :
    (k.dpaWrite x [y]).homeRead d n = (List.range n).map fun i => if d + i = x then y else k.mem.dram.get (d + i) := by
  have hdram := ((Stores.wf_iff _).mp hwf).1
  rw [Pack.homeRead_line _ h0 h, Pack.dpaWrite_one hm hp hr hx (hw x) y]
  generalize hz : ({ (k.takenLine (x / 128 * 128)).lay (x % 128) [y] with dirty := true, rc := 0 } : MscLine) = z
  have hwz : ((k.reachBank 1 (x / 128 * 128)).onlyLine z).windowAt d = none := hw d
  have hzline : z.line = x / 128 * 128 := by rw [← hz]; rfl
  by_cases hl : x / 128 * 128 = d / 128 * 128
  · have hlen : (k.takenLine (x / 128 * 128)).bytes = (List.range 128).map fun i => k.mem.dram.get (x / 128 * 128 + i) :=
      Memory.read_eq _ _ _ hdram
    have hbytes : z.bytes = ((List.range 128).map fun i => k.mem.dram.get (x / 128 * 128 + i)).set (x % 128) y := by
      rw [← hz, ← hlen, List.set_eq_take_append_cons_drop, if_pos (by simp [hlen]; omega)]
      simp [MscLine.lay]
    rw [Pack.chunkRead_line hwz (x := z) (by rw [Pack.mscLine_onlyLine, if_pos (hzline.trans hl)]) (by rw [← hz]; rfl) (by simp [hbytes]) h]
    refine List.ext_getElem (by simp [hbytes]; omega) fun i hi hi' => ?_
    simp only [List.length_map, List.length_range] at hi'
    simp only [List.getElem_take, List.getElem_drop, hbytes, List.getElem_set, List.getElem_map, List.getElem_range]
    have hidx : x / 128 * 128 + (d % 128 + i) = d + i := by omega
    rw [hidx]
    exact if_congr (by omega) rfl rfl
  · rw [Pack.chunkRead_dram n hwz (by rw [Pack.mscLine_onlyLine, if_neg (hzline ▸ hl)])]
    have hmem : ((k.reachBank 1 (x / 128 * 128)).onlyLine z).mem.dram = k.mem.dram := by rfl
    rw [hmem, Memory.read_eq _ _ _ hdram]
    refine List.map_congr_left fun i hi => ?_
    rw [if_neg (by have := List.mem_range.mp hi; omega)]

end

end Sys2Proof.Machine
end

-- ================================================================
-- Proofs, scope: What UNMAP leaves in the entry
-- ================================================================

section
namespace Sys2Proof.Machine
open Sys2Proof

/-! ### The RES bit of an entry (R58) -/

theorem leNat_append (l m : List Byte) : leNat (l ++ m) = leNat l + 256 ^ l.length * leNat m := by
  induction l with
  | nil => simp [leNat]
  | cons b l ih =>
    simp only [List.cons_append, leNat, ih, List.length_cons, Nat.pow_succ]
    ring
/-- Bits 0 to 159 and 161 up are those of an entry, bit 160 is 0. -/
theorem decodeEntry_clearRes {x y : Nat} (hlow : y % 2 ^ 160 = x % 2 ^ 160) (hbit : y / 2 ^ 160 % 2 = 0) (hhigh : y / 2 ^ 161 = x / 2 ^ 161) :
    decodeEntry y = { decodeEntry x with res := false } := by
  have high (m : Nat) : y / 2 ^ (161 + m) = x / 2 ^ (161 + m) := by
    rw [pow_add, ← Nat.div_div_eq_div_mul, hhigh, Nat.div_div_eq_div_mul]
  have low (l n : Nat) (h : n + l ≤ 160) : y / 2 ^ l % 2 ^ n = x / 2 ^ l % 2 ^ n := by
    rw [← bits_mod_two_pow y h, hlow, bits_mod_two_pow x h]
  have hbase : y % 2 ^ 64 = x % 2 ^ 64 := by simpa using low 0 64 (by decide)
  unfold decodeEntry
  rw [high 79, high 63, high 55, high 23, high 15, high 11, high 7, high 5, high 3, high 1, high 0, high 91, high 31, high 30, low 64 56 (by decide),
    low 120 40 (by decide), hbase, hbit]
  rfl
/-- The lowest bit of byte 20 is RES. -/
theorem decodeEntry_set_byte20 {bs : List Byte} {b : Byte} (h : bs[20]? = some b) :
    decodeEntry (leNat (bs.set 20 (b &&& 0xFE))) = { decodeEntry (leNat bs) with res := false } := by
  obtain ⟨hlt, rfl⟩ := List.getElem?_eq_some_iff.mp h
  have hl : (bs.take 20).length = 20 := by simp; omega
  have hlo : leNat (bs.take 20) < 2 ^ 160 := by
    have := leNat_lt (bs.take 20)
    rw [hl] at this
    exact this
  have hx : leNat bs = leNat (bs.take 20) + 2 ^ 160 * (bs[20].toNat + 256 * leNat (bs.drop 21)) := by
    conv_lhs => rw [← List.take_append_drop 20 bs, List.drop_eq_getElem_cons hlt, leNat_append, hl]
    rfl
  have hy : leNat (bs.set 20 (bs[20] &&& 0xFE)) = leNat (bs.take 20) + 2 ^ 160 * ((bs[20] &&& 0xFE).toNat + 256 * leNat (bs.drop 21)) := by
    rw [List.set_eq_take_append_cons_drop, if_pos hlt, leNat_append, hl]
    rfl
  have hb : (bs[20] &&& 0xFE).toNat % 2 = 0 ∧ (bs[20] &&& 0xFE).toNat / 2 = bs[20].toNat / 2 := by
    generalize bs[20] = b
    revert b
    decide
  rw [hx, hy]
  generalize leNat (bs.take 20) = lo at *
  generalize leNat (bs.drop 21) = hi at *
  generalize (bs[20] &&& 0xFE).toNat = p at *
  generalize bs[20].toNat = q at *
  refine decodeEntry_clearRes ?_ ?_ ?_
  · rw [Nat.add_mul_mod_self_left, Nat.add_mul_mod_self_left]
  · rw [Nat.add_mul_div_left _ _ (Nat.two_pow_pos 160), Nat.div_eq_of_lt hlo]
    omega
  · rw [show (2 : Nat) ^ 161 = 2 ^ 160 * 2 from pow_succ 2 160, ← Nat.div_div_eq_div_mul, ← Nat.div_div_eq_div_mul,
      Nat.add_mul_div_left _ _ (Nat.two_pow_pos 160), Nat.add_mul_div_left _ _ (Nat.two_pow_pos 160), Nat.div_eq_of_lt hlo]
    omega

/-! ### What UNMAP leaves (R74) -/

section
variable {k : Pack} (hm : k.msc = []) (hp : k.pins = []) (hr : ∀ g, (k.slot g).regions = []) (hw : ∀ x, k.windowAt x = none)
  (hwf : k.mem.wf = true)
include hm hp hr hw hwf

/-- The entry with RES cleared, as the service writes it. -/
theorem Pack.entryAt_unmapped {table idx : Nat} (ht : table % 32 = 0) (hlt : table + 32 * idx + 32 ≤ 2 ^ 31) (i : Nat)
    (hi : table + 32 * i + 32 ≤ 2 ^ 31) : (k.dpaWrite (table + 32 * idx + 20) (leBytes 1
      ((k.dpaRead (table + 32 * idx + 20) 1).headD 0 &&& 0xFE).toNat)).entryAt table i =
    if i = idx then { k.entryAt table i with res := false } else k.entryAt table i := by
  have hbyte : leBytes 1 ((k.dpaRead (table + 32 * idx + 20) 1).headD 0 &&& 0xFE).toNat = [k.mem.dram.get (table + 32 * idx + 20) &&& 0xFE] := by
    rw [Pack.dpaRead, dpaCell_low (by omega), Pack.homeRead_bytes hm hw hwf (by decide) (by omega)]
    simp [leBytes]
  rw [hbyte, Pack.entryAt, Pack.entryAt, Pack.dpaRead, Pack.dpaRead, dpaCell_low (by omega),
    Pack.homeRead_dpaWrite_one hm hp hr hw hwf (by omega) _ (by decide) (by omega), Pack.homeRead_bytes hm hw hwf (by decide) (by omega)]
  split
  next h =>
    subst h
    rw [← decodeEntry_set_byte20 (b := k.mem.dram.get (table + 32 * i + 20)) (by simp)]
    congr 2
    refine List.ext_getElem (by simp) fun n hn hn' => ?_
    simp only [List.getElem_map, List.getElem_range, List.getElem_set]
    exact if_congr (by omega) rfl rfl
  next h =>
    congr 2
    refine List.map_congr_left fun n hn => ?_
    rw [if_neg (by have := List.mem_range.mp hn; omega)]

omit hm hp hr hw hwf in
theorem State.served_entryAt (s : State) (k : Pack) (table i : Nat) : (s.served k).pk.entryAt table i = k.entryAt table i := by
  have h (j : Pack) (f : Sched → Sched) : (j.updSched f).entryAt table i = j.entryAt table i := by rfl
  have hio (j : Pack) (l : List (Nat × Word)) : ({ j with io := l } : Pack).entryAt table i = j.entryAt table i := by rfl
  rw [State.served, h, Pack.setBsstat, Pack.ioWr, hio]
omit hm hp hr hw hwf in
theorem State.served_frame (s : State) (k : Pack) : (s.served k).pk.ioRd 0x20810 = 0 ∧ (s.served k).pk.sched.service = none ∧
    (s.served k).ctx = s.ctx ∧ (s.served k).core = s.core := by
  refine ⟨?_, rfl, rfl, rfl⟩
  have h (j : Pack) (f : Sched → Sched) (x : Nat) : (j.updSched f).ioRd x = j.ioRd x := by rfl
  rw [State.served, h, Pack.setBsstat, Pack.ioRd_ioWr_same]
  simp

end

/-- What the service leaves when an UNMAP ends (R74). -/
theorem execBufferServiceResume_unmaps {s : State} {b : BufService} (hs : s.pk.sched.service = some b) (hu : s.pk.tableUsed b.table = false)
    (hm : s.pk.msc = []) (hp : s.pk.pins = []) (hmig : b.migrate = false) (hwf : s.pk.mem.wf = true) (hr : ∀ g, (s.pk.slot g).regions = [])
    (hw : ∀ x, s.pk.windowAt x = none) (ht : b.table % 32 = 0) (hlt : b.table + 32 * b.idx + 32 ≤ 2 ^ 31) :
    ∃ t, execBufferServiceResume s = .next t ∧ t.pk.entryAt b.table b.idx = { s.pk.entryAt b.table b.idx with res := false } ∧
      t.pk.ioRd 0x20810 = 0 ∧ t.pk.sched.service = none ∧ t.ctx = s.ctx ∧ t.core = s.core ∧
      ∀ i, i ≠ b.idx → b.table + 32 * i + 32 ≤ 2 ^ 31 → t.pk.entryAt b.table i = s.pk.entryAt b.table i := by
  obtain ⟨hst, hservice, hctx, hcore⟩ := s.served_frame (s.pk.dpaWrite (b.table + 32 * b.idx + 20)
    (leBytes 1 ((s.pk.dpaRead (b.table + 32 * b.idx + 20) 1).headD 0 &&& 0xFE).toNat))
  have hentry := Pack.entryAt_unmapped hm hp hr hw hwf ht hlt
  refine ⟨_, (execBufferServiceResume_eq hs hu hm hp).trans (by rw [if_neg (by simp [hmig])]), ?_, hst, hservice, hctx, hcore, fun i hi hle => ?_⟩
  · rw [State.served_entryAt, hentry _ hlt, if_pos rfl]
  · rw [State.served_entryAt, hentry _ hle, if_neg hi]

end Sys2Proof.Machine
end

-- ================================================================
-- Proofs, scope: What an access at the home leaves
-- ================================================================

section
namespace Sys2Proof.Machine
open Sys2Proof

/-! ### What an access at the home leaves (R61, R62, R453) -/

/-- The package but for what an access at a home may change: registers, errors, the MSC and its pins, DRAM with its rows, channels and
Veneer slots, the messages, the use of ports, free values and the agenda. -/
def Pack.outside (k : Pack) : Pack :=
  { k with io := [], bad := [], msc := [], pins := [], mem := { k.mem with dram := {} }, rows := [], gouge := [], ven := Vector.replicate 16 {},
           fab := { k.fab with sent := [] }, usage := [], freeCtr := 0, agenda := [] }
theorem Pack.sched_of_outside {j k : Pack} (h : j.outside = k.outside) : j.sched = k.sched :=
  (congrArg Pack.sched h : j.outside.sched = k.outside.sched)
theorem Pack.ws_of_outside {j k : Pack} (h : j.outside = k.outside) : j.mem.ws = k.mem.ws := congrArg (fun i => i.mem.ws) h

@[simp] theorem Pack.outside_ioWr (k : Pack) (off : Nat) (v : Word) : (k.ioWr off v).outside = k.outside := by rfl
@[simp] theorem Pack.outside_setLine (k : Pack) (l : MscLine) : (k.setLine l).outside = k.outside := by rfl
@[simp] theorem Pack.outside_dropLine (k : Pack) (l : Nat) : (k.dropLine l).outside = k.outside := by rfl
@[simp] theorem Pack.outside_reachBank (k : Pack) (cls cell : Nat) : (k.reachBank cls cell).outside = k.outside := by rfl
@[simp] theorem Pack.outside_refreshPin (k : Pack) (l : Nat) : (k.refreshPin l).outside = k.outside := by rfl
@[simp] theorem Pack.outside_overRead (k : Pack) (l : Nat) : (k.overRead l).outside = k.outside := by rfl
@[simp] theorem Pack.outside_windowWrite (k : Pack) (h d o : Nat) (bs : List Byte) : (k.windowWrite h d o bs).outside = k.outside := by rfl
@[simp] theorem Pack.outside_setSlot (k : Pack) (g : Nat) (f : VSlot → VSlot) : (k.setSlot g f).outside = k.outside := by rfl
@[simp] theorem Pack.outside_vsend (k : Pack) (g r : Nat) (m : VMsg) : (k.vsend g r m).outside = k.outside := by rfl
@[simp] theorem Pack.outside_send (k : Pack) (m : Msg) : (k.send m).outside = k.outside := by rfl
@[simp] theorem Pack.outside_charge (k : Pack) (off cls n : Nat) : (k.charge off cls n).outside = k.outside := by rfl
@[simp] theorem Pack.outside_scheduleCc (k : Pack) (cc : Nat) (ev : Instr) (arg : EventArg) : (k.scheduleCc cc ev arg).outside = k.outside := by rfl
@[simp] theorem Pack.outside_logError (k : Pack) (kind ctx addr : Nat) : (k.logError kind ctx addr).outside = k.outside := by
  simp [Pack.logError]
/-- Bytes stored in DRAM, with the errors they clear. -/
theorem Pack.outside_store (k : Pack) (p : Piece) (a : Nat) (bs : List Byte) :
    ({ k.clearBad p with mem := k.mem.write .dram a bs } : Pack).outside = k.outside := by rfl
@[simp] theorem Pack.outside_writeBack (k : Pack) (l : Nat) : (k.writeBack l).outside = k.outside := by
  unfold Pack.writeBack
  split
  · split
    · rw [Pack.outside_setLine, Pack.foldl_frame Pack.outside _ fun _ _ => Pack.outside_store .., Pack.outside_reachBank]
    · rfl
  · rfl
@[simp] theorem Pack.outside_flush (k : Pack) (l : Nat) : (k.flush l).outside = k.outside := by
  unfold Pack.flush
  extract_lets j
  have hj : j.outside = k.outside := k.outside_writeBack l
  clear_value j
  rw [← hj]
  split
  · split <;> rfl
  · rfl
theorem Pack.outside_makeRoom {k j : Pack} {l : Nat} (h : k.makeRoom l = some j) : j.outside = k.outside := by
  unfold Pack.makeRoom at h
  extract_lets set can at h
  split at h
  · cases h; rfl
  split at h
  · cases h; rfl
  · obtain ⟨x, -, rfl⟩ := Option.map_eq_some_iff.mp h
    rw [Pack.outside_flush]
    rfl
@[simp] theorem Pack.outside_fill (k : Pack) (l : Nat) : (k.fill l).outside = k.outside := by
  unfold Pack.fill
  split
  · rfl
  next j h => rw [Pack.outside_setLine, Pack.outside_makeRoom h, Pack.outside_dropLine]

/-! Reads. -/

@[simp] theorem Pack.outside_touch (k : Pack) (via : Via) (l : Nat) (err counts : Bool) : (k.touch via l err counts).outside = k.outside := by
  unfold Pack.touch
  extract_lets j miss
  have hmiss (i : Pack) : (miss i).outside = i.outside := by
    dsimp only [miss]
    split <;> simp
  have hj : j.outside = k.outside := k.outside_refreshPin l
  clear_value miss j
  rw [← hj]
  (repeat' split) <;> simp [hmiss]
@[simp] theorem Pack.outside_settle (k : Pack) (via : Via) (ps : List Piece) : (k.settle via ps).outside = k.outside := by
  unfold Pack.settle
  split
  · refine Pack.foldl_frame Pack.outside _ (fun j l => ?_) _ _
    split <;> simp
  · rfl
@[simp] theorem Pack.outside_touchAll (k : Pack) (via : Via) (ps : List Piece) (counts : Bool) :
    (k.touchAll via ps counts).outside = k.outside :=
  Pack.foldl_frame Pack.outside _ (fun _ _ => Pack.outside_touch ..) _ _
theorem Pack.outside_chargePorts (k : Pack) (via : Via) (cls : Nat) (ps : List Piece) : (k.chargePorts via cls ps).outside = k.outside := by
  unfold Pack.chargePorts
  split
  · exact Pack.foldl_frame Pack.outside _ (fun _ _ => Pack.outside_charge ..) _ _
  · rfl
@[simp] theorem Pack.outside_didRead (k : Pack) (r : Range) (counts : Bool) : (k.didRead r counts).outside = k.outside := by
  unfold Pack.didRead
  split
  · rw [Pack.outside_send, ← k.outside_chargePorts r.via r.via.cls r.pieces]
    rfl
  · simp
@[simp] theorem Pack.outside_logSectors (k : Pack) (l : List Nat) : (k.logSectors l).outside = k.outside := by
  refine Pack.foldl_frame Pack.outside _ (fun j x => ?_) _ _
  split <;> simp

/-! Writes. -/

@[simp] theorem Pack.outside_bankWrite (k : Pack) (cls cell : Nat) (bs : List Byte) : (k.bankWrite cls cell bs).outside = k.outside := by
  unfold Pack.bankWrite
  extract_lets line k1 cleared k2
  have h2 : k2.outside = k.outside := (k1.outside_store ..).trans ((Pack.outside_reachBank ..).trans (k.outside_flush line))
  clear_value k2
  rw [← h2]
  split
  · extract_lets x
    split
    · rfl
    split <;> rfl
  · rfl
@[simp] theorem Pack.outside_lineWrite (k : Pack) (via : Via) (cell : Nat) (bs : List Byte) (count : Nat) :
    (k.lineWrite via cell bs count).outside = k.outside := by
  unfold Pack.lineWrite
  extract_lets line into k1 j
  have hinto (j : Pack) (c : Nat) : (into j c).outside = j.outside := by
    dsimp only [into]
    split <;> rfl
  have h1 : k1.outside = k.outside := k.outside_refreshPin line
  have hj : j.outside = k1.outside := by rw [Pack.outside_fill, Pack.outside_reachBank]
  rw [← h1]
  clear_value into k1 j
  (repeat' split) <;> simp [hinto, hj]
theorem Pack.outside_deltaSector (k : Pack) (g off cell : Nat) (bs : List Byte) : (k.deltaSector g off cell bs).pack.outside = k.outside := by
  unfold Pack.deltaSector
  extract_lets v sec unheld j0 j1 old at_ new delta e j2 K n rows
  have h1 : j1.outside = k.outside := (j0.outside_flush _).trans (k.outside_refreshPin _)
  have h2 : j2.outside = k.outside := (j1.outside_bankWrite ..).trans h1
  clear_value j1 j2
  split
  · rfl
  split
  · rw [PartEnd.pack, Pack.outside_setSlot, Pack.outside_logError, h1]
  split
  · exact h1
  split
  rw [PartEnd.pack, Pack.foldl_frame Pack.outside _ fun _ _ => Pack.outside_vsend .., Pack.outside_setSlot, Pack.logWrite, Pack.rawWrite,
    Pack.outside_bankWrite, h2]
theorem Pack.outside_partWrite (k : Pack) (via : Via) (count : Nat) {p : Piece} (hp : p.space = .dram) (bs : List Byte) :
    (k.partWrite via count p bs).pack.outside = k.outside := by
  rw [Pack.partWrite, if_pos hp]
  split
  · exact Pack.outside_lineWrite ..
  · exact Pack.outside_deltaSector ..
theorem Pack.outside_countDrops (k : Pack) (gs : List Nat) : (k.countDrops gs).outside = k.outside :=
  Pack.foldl_frame Pack.outside _ (fun _ _ => Pack.outside_setSlot ..) _ _
theorem Pack.outside_partsWrite (via : Via) (count : Nat) (parts : List (Piece × List Byte)) (hd : ∀ p ∈ parts, p.1.space = .dram)
    (k : Pack) (n : Nat) (fail : Bool) (gs : List Nat) : (Pack.partsWrite via count parts k n fail gs).pack.outside = k.outside := by
  induction parts generalizing k n fail gs with
  | nil =>
    rw [Pack.partsWrite]
    split <;> exact Pack.outside_countDrops ..
  | cons p rest ih =>
    obtain ⟨hp, hrest⟩ := List.forall_mem_cons.mp hd
    have hone := k.outside_partWrite via count hp p.2
    rw [Pack.partsWrite]
    cases he : k.partWrite via count p.1 p.2 with
    | held j => rw [he] at hone; exact (Pack.outside_countDrops ..).trans hone
    | ok j | failed j | refused j g => rw [he] at hone; exact (ih hrest ..).trans hone
theorem splitPieces_fst {ps : List Piece} {bs : List Byte} {x : Piece × List Byte} (h : x ∈ splitPieces ps bs) : x.1 ∈ ps := by
  induction ps generalizing bs with
  | nil => simp [splitPieces] at h
  | cons p ps ih =>
    rcases List.mem_cons.mp h with rfl | h
    · exact List.mem_cons_self
    · exact List.mem_cons_of_mem _ (ih h)
theorem Pack.partsOf_dram (k : Pack) {ps : List Piece} (hd : ∀ p ∈ ps, p.space = .dram) (bs : List Byte) :
    ∀ x ∈ k.partsOf ps bs, x.1.space = .dram := by
  intro x hx
  obtain ⟨y, hy, hx⟩ := List.mem_flatMap.mp hx
  have hs := hd _ (splitPieces_fst hy)
  split at hx
  · obtain ⟨z, -, rfl⟩ := List.mem_map.mp hx
    rfl
  · rw [List.mem_singleton.mp hx]
    exact hs
theorem linePieces_dram (fuel a n : Nat) : ∀ p ∈ linePieces fuel a n, p.space = .dram := by
  induction fuel generalizing a n with
  | zero => simp [linePieces]
  | succ fuel ih =>
    rw [linePieces]
    split
    · simp
    · exact List.forall_mem_cons.mpr ⟨rfl, ih _ _⟩
theorem Pack.outside_linesWrite (k : Pack) (via : Via) (count fuel a n : Nat) (bs : List Byte) :
    (k.piecesWrite via count (linePieces fuel a n) bs).pack.outside = k.outside :=
  Pack.outside_partsWrite _ _ _ (k.partsOf_dram (linePieces_dram fuel a n) _) _ _ _ _
@[simp] theorem Pack.outside_dpaWrite (k : Pack) (d : Nat) (bs : List Byte) : (k.dpaWrite d bs).outside = k.outside := by
  have h := k.outside_linesWrite {} 0 (bs.length / 128 + 2) (dpaCell d) bs.length bs
  unfold Pack.dpaWrite
  split
  next j n f he =>
    rw [he] at h
    exact (Pack.outside_scheduleCc ..).trans h
  · exact h

/-! ### Records that end (R103, R104) -/

/-- What the end of a record leaves: the launches and the weight store. -/
def Pack.running (k : Pack) : List Launch × Memory := (k.sched.launches, k.mem.ws)
theorem Pack.running_of_outside {j k : Pack} (h : j.outside = k.outside) : j.running = k.running :=
  Prod.ext (congrArg Sched.launches (Pack.sched_of_outside h)) (Pack.ws_of_outside h)
@[simp] theorem Pack.running_schedule (k : Pack) (d : Nat) (ev : Instr) (arg : EventArg) : (k.schedule d ev arg).running = k.running := by rfl
@[simp] theorem Pack.running_roundNow (k : Pack) : k.roundNow.running = k.running := by rfl
@[simp] theorem Pack.running_updStream (k : Pack) (n : Nat) (f : StreamState → StreamState) : (k.updStream n f).running = k.running := by rfl
@[simp] theorem Pack.running_ioWr (k : Pack) (off : Nat) (v : Word) : (k.ioWr off v).running = k.running := by rfl
@[simp] theorem Pack.running_serviceAgain (k : Pack) : k.serviceAgain.running = k.running := by
  unfold Pack.serviceAgain
  split <;> rfl
@[simp] theorem Pack.running_sendIrq (k : Pack) (v n : Nat) : (k.sendIrq v n).running = k.running := by
  unfold Pack.sendIrq
  extract_lets e b j
  split <;> rfl
@[simp] theorem Pack.running_requestIrq (k : Pack) (v : Nat) : (k.requestIrq v).running = k.running := by
  have hpend (j : Pack) (f : Sched → List (Nat × Nat)) : (j.updSched fun d => { d with pendIrq := f d }).running = j.running := by rfl
  unfold Pack.requestIrq
  extract_lets win c
  split
  · split
    · rw [hpend]
      split <;> rfl
    · exact Pack.running_sendIrq ..
  · exact Pack.running_sendIrq ..
@[simp] theorem Pack.running_moveDone (k : Pack) (n fuel : Nat) : (k.moveDone n fuel).running = k.running := by
  induction fuel generalizing k with
  | zero => rfl
  | succ fuel ih =>
    rw [Pack.moveDone]
    split
    · rw [ih]
      split <;> simp
    · rfl
@[simp] theorem Pack.running_finishRecord (k : Pack) (n j : Nat) (x : Word) (bs : List Byte) (again : Bool) :
    (k.finishRecord n j x bs again).running = k.running := by
  have h := Pack.running_of_outside (k.outside_linesWrite {} 0 (bs.length / 128 + 2) (dpaCell (bits x 47 0)) bs.length bs)
  unfold Pack.finishRecord
  split
  next i m f he =>
    rw [he] at h
    exact h
  · extract_lets k1 k2 irq k3 k4
    have h2 : k2.running = k1.running := by
      dsimp only [k2]
      split <;> rfl
    have h4 : k4.running = k.running := by rw [Pack.running_moveDone, Pack.running_updStream, h2, h]
    split
    · exact h4
    · exact h4
@[simp] theorem Pack.running_endRecord (k : Pack) (n j : Nat) (w : List Word) (status code : Nat) (energy : Word) :
    (k.endRecord n j w status code energy).running = k.running := Pack.running_finishRecord ..

end Sys2Proof.Machine
end

-- ================================================================
-- Proofs, scope: Energy, context starts and WS loads
-- ================================================================

section
namespace Sys2Proof.Machine
open Sys2Proof

/-! ### The context in focus among others -/

theorem State.onCtx_ctx (s : State) (n : Nat) (f : Ctx → Ctx) : (s.onCtx n f).ctx = if s.ctx.num = n then f s.ctx else s.ctx := by
  unfold State.onCtx
  extract_lets g
  split
  · rfl
  · split <;> rfl
@[simp] theorem State.onCore_ctx (s : State) (n : Nat) (f : Core → Core) : (s.onCore n f).ctx = s.ctx := by
  unfold State.onCore
  extract_lets g
  split <;> rfl
/-- A fold over context numbers that does `g` to the context it names reaches the one in focus once. -/
theorem State.foldl_ctx {P : State → Prop} {f : State → Nat → State} {g : Ctx → Ctx} (hP : ∀ s n, P s → P (f s n))
    (hf : ∀ s n, P s → (f s n).ctx = if s.ctx.num = n then g s.ctx else s.ctx) (hnum : ∀ c, (g c).num = c.num) (hg : ∀ c, g (g c) = g c)
    (l : List Nat) (s : State) (h : P s) : (l.foldl f s).ctx = if s.ctx.num ∈ l then g s.ctx else s.ctx := by
  induction l generalizing s with
  | nil => rfl
  | cons n l ih =>
    rw [List.foldl_cons, ih _ (hP s n h), hf s n h]
    by_cases hn : s.ctx.num = n <;> by_cases hl : n ∈ l <;> simp_all

/-! ### Energy (R177) -/

/-- A counter never falls. -/
theorem le_counter (x e : Word) : x.toNat ≤ (if x.toNat ≤ e.toNat then e else x).toNat := by
  split
  · assumption
  · exact le_rfl
theorem execEnrgUpdate_next (s : State) : ∃ t, execEnrgUpdate s = .next t ∧ s.ctx.csr.enrg.toNat ≤ t.ctx.csr.enrg.toNat ∧
    t.ctx.regs = s.ctx.regs ∧ ((∀ l ∈ s.pk.sched.launches, l.imgs = []) → t.pk.mem = s.pk.mem) := by
  unfold execEnrgUpdate
  extract_lets up grow
  refine ⟨_, rfl, ?_, ?_, fun h => ?_⟩
  · change _ ≤ (grow s.ctx).csr.enrg.toNat
    dsimp only [grow]
    split
    · exact le_rfl
    · exact le_counter ..
  · change (grow s.ctx).regs = s.ctx.regs
    dsimp only [grow]
    split <;> rfl
  · rw [State.updPk_pk]
    extract_lets k1 k2 k3
    have hk2 : ∀ l ∈ k2.sched.launches, l.imgs = [] := by
      intro l hl
      obtain ⟨p, hp, rfl⟩ := List.mem_map.mp hl
      exact h p.1 (List.fst_mem_of_mem_zipIdx hp)
    have hnil : (k2.sched.launches.flatMap fun l => l.imgs.map fun i => (l, i)) = [] := by simpa using hk2
    have hk3 : k3 = k2 := by
      dsimp only [k3]
      rw [hnil]
      rfl
    rw [Pack.mem_schedule, hk3]
    rfl

/-! ### Contexts start (R91, R92) -/

section
variable {s : State} {l : Launch} (hl : s.pk.sched.launches = [l])
include hl
theorem Pack.launch_one {n : Nat} (hn : n = l.id) : s.pk.launch n = some l := by
  rw [Pack.launch, hl, hn]
  simp

/-- A context that waits for its start runs from now. -/
def Ctx.begun (h : Nat) (c : Ctx) : Ctx := if c.mode = .starting then { c.startFrame h with mode := .run } else c
omit hl in
theorem Ctx.begun_begun (h : Nat) (c : Ctx) : (c.begun h).begun h = c.begun h := by
  unfold Ctx.begun
  by_cases hc : c.mode = .starting <;> simp [hc]
omit hl in
theorem Ctx.begun_num (h : Nat) (c : Ctx) : (c.begun h).num = c.num := by
  unfold Ctx.begun
  split <;> rfl
theorem execContextStart_eq (hn : s.pk.arg.n = l.id) : execContextStart s =
    .next ((l.seats.flatMap Seat.ctxs).foldl (fun (s : State) n => s.onCtx n (Ctx.begun s.pk.halves)) s) := by
  unfold execContextStart
  rw [Pack.launch_one hl hn]
  rfl
theorem execContextStart_none (hn : s.pk.arg.n = l.id) (h : l.seats = []) : execContextStart s = .next s := by
  rw [execContextStart_eq hl hn, h]
  rfl
theorem execContextStart_one (hn : s.pk.arg.n = l.id) {t : Seat} (h : l.seats = [t]) : ∃ u, execContextStart s = .next u ∧ u.pk.mem = s.pk.mem ∧
    (s.ctx.mode = .starting → s.ctx.num ∈ t.ctxs → u.ctx.mode = .run) ∧ (s.ctx.num ∉ t.ctxs → u.ctx = s.ctx) := by
  have hctx : (t.ctxs.foldl (fun (s : State) n => s.onCtx n (Ctx.begun s.pk.halves)) s).ctx =
      if s.ctx.num ∈ t.ctxs then s.ctx.begun s.pk.halves else s.ctx :=
    State.foldl_ctx (P := fun u => u.pk.halves = s.pk.halves) (fun u n hu => by rw [State.onCtx_pk, hu])
      (fun u n hu => by rw [State.onCtx_ctx, hu]) (Ctx.begun_num _) (Ctx.begun_begun _) _ _ rfl
  rw [execContextStart_eq hl hn, h, List.flatMap_singleton]
  refine ⟨_, rfl, State.foldl_mem _ _ _ (fun _ _ => by rw [State.onCtx_pk]), fun hm hmem => ?_, fun hmem => ?_⟩
  · rw [hctx, if_pos hmem, Ctx.begun, if_pos hm]
  · rw [hctx, if_neg hmem]

/-! ### Launches end (R83, R498, R499) -/

theorem execWsLoadDone_one (hn : s.pk.arg.n = l.id) (hh : s.pk.wsLoadHeld l = false) : ∃ u, execWsLoadDone s = .next u ∧
    u.pk.sched.launches = [] ∧ u.ctx = s.ctx ∧ u.pk.mem.ws = (s.pk.mem.write .ws (bits (wordAt l.record 10) 29 0)
      ((if s.pk.isRemote l.src.via then s.pk else s.pk.settle l.src.via l.src.pieces).sourceBytes l.src)).ws := by
  unfold execWsLoadDone
  rw [Pack.launch_one hl hn]
  split
  next h => cases h
  next x hx =>
  obtain rfl : l = x := Option.some.inj hx
  rw [if_neg (by rw [hh]; decide)]
  extract_lets src base len k1 bs bad k2 k3 k4 k5 k6 k7
  have h1 : k1.outside = s.pk.outside := by
    dsimp only [k1]
    split
    · rfl
    · exact Pack.outside_settle ..
  have h2 : k2.outside = k1.outside := by
    dsimp only [k2]
    split
    · rfl
    · exact Pack.foldl_frame Pack.outside _ (fun _ _ => Pack.outside_logSectors ..) _ _
  have h3 : k3.outside = s.pk.outside := (Pack.outside_didRead ..).trans (h2.trans h1)
  have h7 : k7.running = ([], k3.mem.ws.write base bs) := by
    have hk : k7.running = (k3.sched.launches.filter (fun x => x.id != l.id), k3.mem.ws.write base bs) := by rfl
    rw [hk, Pack.sched_of_outside h3, hl]
    simp
  refine ⟨_, rfl, ?_⟩
  have hend : ((k7.endRecord l.stream l.j l.record 0 0 0).roundNow.serviceAgain).running = k7.running := by simp
  rw [h7, Pack.ws_of_outside h3] at hend
  obtain ⟨hlaunches, hws⟩ := Prod.ext_iff.mp hend
  exact ⟨hlaunches, rfl, hws⟩

end

end Sys2Proof.Machine
end

-- ================================================================
-- Proofs, scope: Retirement, saves and releases
-- ================================================================

section
namespace Sys2Proof.Machine
open Sys2Proof

/-- A fold of steps that leave a part of the state leaves it. -/
theorem State.foldl_frame {α β : Type} (part : State → β) (f : State → α → State) (hf : ∀ s a, part (f s a) = part s) (l : List α) (s : State) :
    part (l.foldl f s) = part s := by
  induction l generalizing s with
  | nil => rfl
  | cons a l ih => rw [List.foldl_cons, ih, hf]

/-! ### Retirement (R498, R499) -/

section
variable {s : State} {l : Launch} (hl : s.pk.sched.launches = [l])

theorem State.noteEnds_none (h : l.seats = []) : s.noteEnds l = s := by
  rw [State.noteEnds, h]
  rfl
include hl
omit hl in
/-- The rest of a completion record that was held for log space (R455). -/
theorem execLaunchRetire_record (hk : s.pk.arg.k = 1) : execLaunchRetire s =
    .next (s.updPk fun k => k.finishRecord s.pk.arg.n s.pk.arg.m s.pk.arg.v s.pk.arg.bytes true) := if_pos hk
/-- A launch that has given up its seats and whose drain set is complete retires. -/
theorem execLaunchRetire_one (hn : s.pk.arg.n = l.id) (hk : s.pk.arg.k ≠ 1) (hph : l.phase = .running)
    (hover : (s.boxes.all fun b => b.a.over l.id && b.b.over l.id) = true) (hseats : l.seats = []) (hd : s.pk.drained l = true) :
    ∃ u, execLaunchRetire s = .next u ∧ u.pk.sched.launches = [] ∧ u.ctx = s.ctx := by
  unfold execLaunchRetire
  rw [if_neg hk, Pack.launch_one hl hn]
  split
  next h => cases h
  next x hx =>
  obtain rfl : l = x := Option.some.inj hx
  rw [if_neg (by simp [hph]), State.noteEnds_none hseats, if_neg (by simp [hover])]
  extract_lets s1 go keep used s2 s3 e k
  have hgo : go = [] := by simp [go, hseats]
  have hkeep : keep = [] := by simp [keep, hseats]
  have h3 : s3 = s1 := by simp [s3, s2, hgo]
  have h1 : s1.ctx = s.ctx ∧ s1.pk.drained l = s.pk.drained l ∧ s1.pk.sched.launches.filter (fun x => x.id != l.id) = [] := by
    dsimp only [s1]
    split
    · simp [hl]
    · refine ⟨rfl, rfl, ?_⟩
      simp [Pack.updLaunch, Pack.roundNow, Pack.schedule, hl]
  obtain ⟨hctx, hdr, hfil⟩ := h1
  rw [if_pos (by simp [hkeep, h3, hdr, hd])]
  have hrun : (((k.endRecord l.stream l.j l.record l.status 0 e).roundNow).serviceAgain).running = k.running := by simp
  have hk : k.sched.launches = [] := by
    simp only [k, Pack.updSched_sched, h3]
    exact hfil
  exact ⟨_, rfl, (congrArg Prod.fst hrun).trans hk, by rw [h3]; exact hctx⟩
end

/-! ### Restoring (R102): nothing was saved -/

theorem Pack.renumber_none (k : Pack) {l : Launch} (h : l.imgs = []) : k.renumber l = k := by
  simp [Pack.renumber, h]
theorem execContextRestore_none {s : State} {l : Launch} (hl : s.pk.sched.launches = [l]) (hn : s.pk.arg.n = l.id) (hs : l.slots = [])
    (hi : l.imgs = []) : execContextRestore s = .next (s.updPk fun k => (k.updLaunch l.id fun l => { l with
      phase := .running, slots := [], imgs := [], marks := [] }).schedule 0 .launchRetire { n := l.id }) := by
  unfold execContextRestore
  rw [Pack.launch_one hl hn]
  simp only [Pack.renumber_none _ hi, hs, List.foldl_nil, State.updPk, done]

/-! ### A save ends (R99) -/

/-- A context of launch `id` given up. -/
def Ctx.left (id : Nat) (c : Ctx) : Ctx := if c.launch = id then Ctx.idle c.num else c
theorem Ctx.left_num (id : Nat) (c : Ctx) : (c.left id).num = c.num := by
  unfold Ctx.left
  split <;> rfl
theorem Ctx.left_left (id : Nat) (c : Ctx) : (c.left id).left id = c.left id := by
  unfold Ctx.left
  split
  · split <;> rfl
  · simp [*]
theorem State.leaveSeat_ctx (s : State) (id : Nat) (t : Seat) :
    (s.leaveSeat id t).ctx = if s.ctx.num ∈ t.ctxs then s.ctx.left id else s.ctx := by
  refine State.foldl_ctx (P := fun _ => True) (fun _ _ _ => trivial) (fun s n _ => ?_) (Ctx.left_num id) (Ctx.left_left id) _ _ trivial
  have hctx (u : State) (f : Pack → Pack) : (u.updPk f).ctx = u.ctx := by rfl
  rw [hctx, State.onCore_ctx, State.onCtx_ctx]
  split
  next h => rw [← h]; rfl
  · rfl
@[simp] theorem State.leaveSeat_sched (s : State) (id : Nat) (t : Seat) : (s.leaveSeat id t).pk.sched = s.pk.sched := by
  refine State.foldl_frame (fun u => u.pk.sched) _ (fun u n => ?_) _ _
  have hsched (u : State) (a b : Nat) : (u.updPk fun k => (k.forget a).forget b).pk.sched = u.pk.sched := by rfl
  rw [hsched, State.onCore_pk, State.onCtx_pk]

section
variable {s : State} {l : Launch} (hl : s.pk.sched.launches = [l]) {t : Seat} (hseats : l.seats = [t])
include hl hseats

theorem State.finishSave_launches : ∃ x, (s.finishSave l t).pk.sched.launches = [x] ∧ x.id = l.id ∧ x.phase = .saved ∧ x.seats = [] ∧
    x.slots = l.slots ∧ x.age = 0 ∧ x.imgs = l.imgs ++ (s.slotImage l t s.pk.freeCtr).2.map (fun y => (t.lcl, y.1, y.2)) := by
  unfold State.finishSave
  extract_lets ctr r slot k0 k1 k2 k3 k4 k5 s1
  have hr : s.slotImage l t s.pk.freeCtr = r := by rfl
  rw [hr]
  have h1 : k1.sched = s.pk.sched := by rfl
  have h2 : k2.sched = k1.sched := Pack.sched_of_outside (k1.outside_dpaWrite _ _)
  clear_value k1 k2 r slot
  have h3 : k3.sched = k2.sched := by rfl
  have h4 : k4.sched = k3.sched := Pack.foldl_frame Pack.sched _ (fun _ _ => Pack.foldl_frame Pack.sched _ (fun _ _ => by rfl) _ _) _ _
  have h5 : ∃ x, k5.sched.launches = [x] ∧ x.id = l.id ∧ x.phase = .saved ∧ x.seats = [] ∧ x.slots = l.slots ∧ x.age = 0 ∧
      x.imgs = l.imgs ++ r.2.map (fun y => (t.lcl, y.1, y.2)) := by
    have hk : k4.sched.launches = [l] := by rw [h4, h3, h2, h1, hl]
    clear_value k4
    simp [k5, Pack.updLaunch, Pack.endSides, hk, hseats]
  obtain ⟨x, hx, hrest⟩ := h5
  refine ⟨x, ?_, hrest⟩
  have hs1 : (s1.leaveSeat l.id t).pk.sched.launches = [x] := by rw [State.leaveSeat_sched]; exact hx
  rw [State.updPk_pk]
  split <;> exact hs1
omit hl hseats in
theorem State.finishSave_ctx : (s.finishSave l t).ctx = if s.ctx.num ∈ t.ctxs then s.ctx.left l.id else s.ctx :=
  State.leaveSeat_ctx _ _ _
theorem execContextSaveDone_ends (hph : l.phase = .saving) (hn : s.pk.arg.n ∈ t.ctxs) (hm : s.pk.arg.m = 1) :
    execContextSaveDone s = .next (s.finishSave l t) := by
  have hlaunch : s.pk.sched.launches.find? (fun l => l.phase == .saving && l.seats.any fun t => t.ctxs.contains s.pk.arg.n) = some l := by
    rw [hl]
    simp [hph, hseats, hn]
  have hseat : l.seats.find? (fun t => t.ctxs.contains s.pk.arg.n) = some t := by
    rw [hseats]
    simp [hn]
  unfold execContextSaveDone
  simp only [hlaunch, hseat, hm, if_true, done]
end

/-! ### Release (R486) -/

theorem execContextRelease_one {s : State} {l : Launch} (hl : s.pk.sched.launches = [l]) {z : Frozen} (hz : s.pk.sched.frozen = [z])
    (hn : z.stream = s.pk.arg.n) (hlaunch : z.launch = l.id) (hctx : z.ctx = s.ctx.num) (hid : s.ctx.launch = l.id)
    (hm : ∃ c, s.ctx.mode = .frozen c) : ∃ u, execContextRelease s = .next u ∧ u.ctx = { s.ctx with mode := .exited } ∧
      u.pk.sched.frozen = [] ∧ ∃ x, u.pk.sched.launches = [x] ∧ x.status = 2 ∧ x.id = l.id := by
  obtain ⟨c, hc⟩ := hm
  have hfind : s.pk.sched.frozen.find? (fun z => z.stream == s.pk.arg.n) = some z := by
    rw [hz]
    simp [hn]
  unfold execContextRelease
  simp only [hfind, Pack.launch_one hl hlaunch, done]
  refine ⟨_, rfl, ?_, ?_, ?_⟩
  · rw [show ∀ (u : State) f, (u.updPk f).ctx = u.ctx from fun _ _ => rfl, State.onCtx_ctx, if_pos hctx.symm]
    simp [hctx, hid, hlaunch, hc]
  · simp [Pack.schedule, hz, execContextRelease.removeFirst, Pack.updLaunch]
  · simp [Pack.schedule, Pack.updLaunch, hl]

end Sys2Proof.Machine
end

-- ================================================================
-- Proofs, scope: The order of candidates, and placement
-- ================================================================

section
namespace Sys2Proof.Machine
open Sys2Proof

/-! ### The order of candidates and of victims (R86, R98) -/

theorem Cand.before_iff (x y : Cand) : x.before y = true ↔ (y.prio < x.prio ∨
    (x.prio = y.prio ∧ (x.time < y.time ∨ (x.time = y.time ∧ x.stream ≤ y.stream)))) := by
  simp [Cand.before]
theorem victimOrder_iff (x y : Launch) : victimOrder x y = true ↔ (x.prio < y.prio ∨ (x.prio = y.prio ∧ y.admitted ≤ x.admitted)) := by
  simp [victimOrder]
theorem sortCand_eq (cs : List Cand) : sortCand cs = cs.insertionSort fun x y => x.before y = true := by
  have hins (c : Cand) (l : List Cand) : sortCand.ins c l = l.orderedInsert (fun x y => x.before y = true) c := by
    induction l with
    | nil => rfl
    | cons x xs ih => rw [sortCand.ins, ih, List.orderedInsert_cons]
  induction cs with
  | nil => rfl
  | cons c cs ih => rw [sortCand, ih, hins, List.insertionSort_cons]
theorem sortVictims_eq (vs : List Launch) : sortVictims vs = vs.insertionSort fun x y => victimOrder x y = true := by
  have hins (c : Launch) (l : List Launch) : sortVictims.ins c l = l.orderedInsert (fun x y => victimOrder x y = true) c := by
    induction l with
    | nil => rfl
    | cons x xs ih => rw [sortVictims.ins, ih, List.orderedInsert_cons]
  induction vs with
  | nil => rfl
  | cons c cs ih => rw [sortVictims, ih, hins, List.insertionSort_cons]
theorem sortCand_sorts (cs : List Cand) : (sortCand cs).Perm cs ∧ (sortCand cs).Pairwise fun x y => y.prio < x.prio ∨
    (x.prio = y.prio ∧ (x.time < y.time ∨ (x.time = y.time ∧ x.stream ≤ y.stream))) := by
  have ht : Std.Total fun x y : Cand => x.before y = true := ⟨fun x y => by simp only [Cand.before_iff]; omega⟩
  have htrans : IsTrans Cand fun x y => x.before y = true := ⟨fun x y z => by simp only [Cand.before_iff]; omega⟩
  rw [sortCand_eq]
  exact ⟨List.perm_insertionSort .., (List.pairwise_insertionSort _ cs).imp fun h => (Cand.before_iff ..).mp h⟩
theorem sortVictims_sorts (vs : List Launch) : (sortVictims vs).Perm vs ∧
    (sortVictims vs).Pairwise fun x y => x.prio < y.prio ∨ (x.prio = y.prio ∧ y.admitted ≤ x.admitted) := by
  have ht : Std.Total fun x y : Launch => victimOrder x y = true := ⟨fun x y => by simp only [victimOrder_iff]; omega⟩
  have htrans : IsTrans Launch fun x y => victimOrder x y = true := ⟨fun x y z => by simp only [victimOrder_iff]; omega⟩
  rw [sortVictims_eq]
  exact ⟨List.perm_insertionSort .., (List.pairwise_insertionSort _ vs).imp fun h => (victimOrder_iff ..).mp h⟩

/-! ### Sides and placement (R84, R90, R91) -/

/-- The cluster is one that the kernel object and the mode of service allow, and no WS load holds its die's window. -/
def Pack.mayTake (k : Pack) (ls : List Launch) (ko : List Word) (p : Nat) : Prop :=
  (koAff ko = 0 ∨ koAff ko = p / 16 + 1) ∧ (k.reduced = true → p % 16 = 0) ∧
    ((koWs ko).1 < (koWs ko).2 → wsLoading ls (p / 16) (koWs ko) = false)
/-- The side taken, by what is free; `apart` where the bank groups are. -/
theorem side_iff (two apart taken0 taken1 : Bool) (x : Nat) :
    (if two then (if !taken0 && !taken1 then some 2 else none) else if !apart then none else if !taken0 then some 0
      else if !taken1 then some 1 else none) = some x ↔
    if two then x = 2 ∧ taken0 = false ∧ taken1 = false
    else apart = true ∧ ((x = 0 ∧ taken0 = false) ∨ (x = 1 ∧ ¬ taken0 = false ∧ taken1 = false)) := by
  cases two
  · cases apart <;> cases taken0 <;> cases taken1 <;> simp [eq_comm]
  · cases taken0 <;> cases taken1 <;> simp [eq_comm]
theorem Pack.sideOn_iff (k : Pack) (ls : List Launch) (closed : List Seat) (ko : List Word) (p x : Nat) :
    k.sideOn ls closed ko p = some x ↔ k.mayTake ls ko p ∧
      (if koTwo ko then x = 2 ∧ seatTaken ls closed p 0 = false ∧ seatTaken ls closed p 1 = false
       else koBgm ko &&& bgmOn ls p = 0 ∧ ((x = 0 ∧ seatTaken ls closed p 0 = false) ∨
         (x = 1 ∧ ¬ seatTaken ls closed p 0 = false ∧ seatTaken ls closed p 1 = false))) := by
  have hallowed : ((koAff ko == 0 || koAff ko == p / 16 + 1) && (!k.reduced || p % 16 == 0) &&
      !(decide ((koWs ko).1 < (koWs ko).2) && wsLoading ls (p / 16) (koWs ko))) = true ↔ k.mayTake ls ko p := by
    simp only [Pack.mayTake, Bool.and_eq_true, Bool.or_eq_true, beq_iff_eq, Bool.not_eq_true', Bool.and_eq_false_iff, decide_eq_false_iff_not,
      and_assoc]
    simp only [imp_iff_not_or, Bool.not_eq_true]
  unfold Pack.sideOn
  extract_lets allowed free apart
  rw [← hallowed]
  change _ ↔ allowed = true ∧ _
  have hapart : koBgm ko &&& bgmOn ls p = 0 ↔ apart = true := by simp [apart]
  rw [hapart]
  by_cases ha : allowed = true
  · rw [if_neg (by simp [ha]), and_iff_right ha]
    exact side_iff ..
  · simp [ha]

section
variable {α : Type} (f : Nat → Option α) (l : List Nat)
/-- Each value with the number it stands for. -/
def numbered : List (Nat × α) := l.filterMap fun p => (f p).map fun x => (p, x)
theorem numbered_fst : (numbered f l).map Prod.fst = l.filter fun p => (f p).isSome := by
  rw [numbered]
  induction l with
  | nil => rfl
  | cons p l ih => cases hp : f p <;> simp [hp, ih]
theorem mem_numbered {y : Nat × α} (h : y ∈ numbered f l) : f y.1 = some y.2 := by
  obtain ⟨p, -, hy⟩ := List.mem_filterMap.mp h
  obtain ⟨x, hx, rfl⟩ := Option.map_eq_some_iff.mp hy
  exact hx
end

section
variable (k : Pack) (ls : List Launch) (closed : List Seat) (ko : List Word)
theorem Pack.placement_eq : k.placement ls closed ko =
    if ((numbered (k.sideOn ls closed ko) (List.range 32)).take (koNcl ko)).length < koNcl ko then none
    else some ((((numbered (k.sideOn ls closed ko) (List.range 32)).take (koNcl ko)).zipIdx).map fun x =>
      { lcl := x.2, pcl := x.1.1, side := x.1.2 }) := by rfl
/-- The clusters where the kernel may be placed, in ascending number. -/
def Pack.fitting : List Nat := (List.range 32).filter fun p => (k.sideOn ls closed ko p).isSome
theorem Pack.numbered_length : (numbered (k.sideOn ls closed ko) (List.range 32)).length = (k.fitting ls closed ko).length := by
  rw [Pack.fitting, ← numbered_fst, List.length_map]
theorem Pack.placement_none_iff : k.placement ls closed ko = none ↔ (k.fitting ls closed ko).length < koNcl ko := by
  rw [Pack.placement_eq, List.length_take, Pack.numbered_length]
  split <;> simp <;> omega
variable {k ls closed ko}
theorem Pack.placement_some {seats : List Seat} (h : k.placement ls closed ko = some seats) :
    seats.map Seat.lcl = List.range (koNcl ko) ∧ seats.map Seat.pcl = (k.fitting ls closed ko).take (koNcl ko) ∧
      ∀ t ∈ seats, k.sideOn ls closed ko t.pcl = some t.side ∧ t.ended = [] := by
  rw [Pack.placement_eq] at h
  split at h
  next => cases h
  next hlen =>
  obtain rfl := Option.some.inj h
  have hn : ((numbered (k.sideOn ls closed ko) (List.range 32)).take (koNcl ko)).length = koNcl ko := by
    rw [List.length_take] at hlen ⊢
    omega
  have hpcl : (((numbered (k.sideOn ls closed ko) (List.range 32)).take (koNcl ko)).zipIdx.map Prod.fst).map Prod.fst =
      (k.fitting ls closed ko).take (koNcl ko) := by
    rw [List.zipIdx_map_fst, List.map_take, numbered_fst, Pack.fitting]
  refine ⟨?_, ?_, fun t ht => ?_⟩
  · have hsnd := List.zipIdx_map_snd 0 ((numbered (k.sideOn ls closed ko) (List.range 32)).take (koNcl ko))
    rw [hn, ← List.range_eq_range'] at hsnd
    rw [List.map_map, ← hsnd]
    rfl
  · rw [← hpcl, List.map_map, List.map_map]
    rfl
  · obtain ⟨y, hy, rfl⟩ := List.mem_map.mp ht
    exact ⟨mem_numbered _ _ (List.mem_of_mem_take (List.fst_mem_of_mem_zipIdx hy)), rfl⟩
end

end Sys2Proof.Machine
end

-- ================================================================
-- Proofs, scope: Scheduling rounds and ageing
-- ================================================================

section
namespace Sys2Proof.Machine
open Sys2Proof

/-! ### Rounds (R86, R87) -/

/-- What a round does with its candidates in order. -/
def State.roundWalk (s : State) (cands : List Cand) : State :=
  s.walk cands (cands.filter fun c => !s.pk.svc.moving || c.launch != 0)
/-- The end of a round after the walk `t`: candidates age, and ramps begin. -/
def State.roundEnd (t : State) (before : Nat → Nat) (cands : List Cand) : State :=
  t.updPk fun k => (cands.foldl (fun (k : Pack) c => k.ageOne (max 1 (bits (t.pk.ioRd 0x20000) 15 0)) before c) k).takeRamps t.stepOf

section
variable {s : State} (hn : s.pk.arg.n ≠ 1) (hc : s.pk.sched.claims = [])
include hc
theorem Pack.filter_claims (f : Claim → Bool) : s.pk.updSched (fun d => { d with claims := d.claims.filter f }) = s.pk := by
  have hd : { s.pk.sched with claims := s.pk.sched.claims.filter f } = s.pk.sched := by
    rw [hc, List.filter_nil, ← hc]
  rw [Pack.updSched, hd]
include hn
theorem execSchedulingRound_eq {r : List Cand} (hh : s.pk.heads (List.range 64) = (s.pk, r)) : execSchedulingRound s =
    .next ((s.roundWalk (sortCand (r ++ s.pk.savedCands))).roundEnd s.pk.csHead (sortCand (r ++ s.pk.savedCands))) := by
  unfold execSchedulingRound
  extract_lets s1 alive s2 r' cands before t period
  have h1 : s1 = s := if_neg hn
  have h2 : s2 = s := by
    simp only [s2, h1, State.updPk, Pack.filter_claims hc]
  have hr : r' = (s.pk, r) := by simp only [r', h2, hh]
  have hcands : cands = sortCand (r ++ s.pk.savedCands) := by simp only [cands, hr]
  have ht : t = s.roundWalk cands := by simp only [t, hr, h2]; rfl
  have hbefore : before = s.pk.csHead := by simp only [before, hr]
  simp only [period, ht, hcands, hbefore]
  rfl
omit hn hc in
theorem savedCands_nil {k : Pack} (h : ∀ l ∈ k.sched.launches, l.phase ≠ .saved) : k.savedCands = [] := by
  simpa [Pack.savedCands, List.filter_eq_nil_iff] using h
/-- A round without candidates. -/
theorem execSchedulingRound_none (hh : s.pk.heads (List.range 64) = (s.pk, [])) (hsv : ∀ l ∈ s.pk.sched.launches, l.phase ≠ .saved) :
    execSchedulingRound s = .next (s.updPk fun k => k.takeRamps s.stepOf) := by
  rw [execSchedulingRound_eq hn hc hh, savedCands_nil hsv]
  rfl
variable (hm : s.pk.svc.moving = false)
include hm
/-- A round with one candidate. -/
theorem execSchedulingRound_one {c : Cand} (hh : s.pk.heads (List.range 64) = (s.pk, [c]))
    (hsv : ∀ l ∈ s.pk.sched.launches, l.phase ≠ .saved) :
    execSchedulingRound s = .next ((s.walk [c] [c]).roundEnd s.pk.csHead [c]) := by
  have hw : s.roundWalk [c] = s.walk [c] [c] := by simp [State.roundWalk, hm]
  rw [execSchedulingRound_eq hn hc hh, savedCands_nil hsv, List.append_nil, ← hw]
  rfl
end

section
variable {s : State} (hc : s.pk.sched.claims = []) (all : List Cand) {c : Cand} (cs : List Cand)
include hc
theorem State.walk_places {t : State} (h : s.place c = some t) : s.walk all (c :: cs) = t.walk all cs := by
  simp [State.walk, hc, h]
theorem State.walk_preempts {t : State} (h : s.place c = none) (hp : s.preempt c = some t) : s.walk all (c :: cs) = t.walk all cs := by
  simp [State.walk, hc, h, hp, State.savesBelow]
theorem State.walk_stops (h : s.place c = none) (hp : s.preempt c = none) : s.walk all (c :: cs) = s := by
  simp [State.walk, hc, h, hp, State.savesBelow]
end
theorem State.roundEnd_one (t : State) (before : Nat → Nat) (c : Cand) : t.roundEnd before [c] =
    t.updPk fun k => (k.ageOne (max 1 (bits (t.pk.ioRd 0x20000) 15 0)) before c).takeRamps t.stepOf := by rfl

/-! ### Ageing (R87) -/

theorem Pack.stream_updStream (k : Pack) {n : Nat} (h : n < 64) (f : StreamState → StreamState) : (k.updStream n f).stream n = f (k.stream n) := by
  simp [Pack.updStream, Pack.stream, h]
/-- What ageing does to the stream of a record that stayed unplaced. -/
theorem Pack.ageOne_stays (k : Pack) (period : Nat) {c : Cand} (h0 : c.launch = 0) (h : c.stream < 64) :
    (k.ageOne period k.csHead c).stream c.stream = if (k.stream c.stream).age + 1 < period then { k.stream c.stream with age := (k.stream c.stream).age + 1 }
      else { k.stream c.stream with age := 0, lift := if c.prio < 3 then (k.stream c.stream).lift + 1 else (k.stream c.stream).lift } := by
  rw [Pack.ageOne, if_neg (by simp [h0]), if_neg (by simp), Pack.stream_updStream _ h]
  by_cases hp : (k.stream c.stream).age + 1 < period
  · rw [if_pos hp, if_neg (by omega)]
  · rw [if_neg hp, if_pos (by omega)]
/-- A record that was admitted does not age. -/
theorem Pack.ageOne_passed (k : Pack) (period : Nat) {before : Nat → Nat} {c : Cand} (h0 : c.launch = 0)
    (h : k.csHead c.stream ≠ before c.stream) : k.ageOne period before c = k := by
  rw [Pack.ageOne, if_neg (by simp [h0]), if_pos h]

end Sys2Proof.Machine
end

-- ================================================================
-- Proofs, scope: Admission of a kernel
-- ================================================================

section
namespace Sys2Proof.Machine
open Sys2Proof

/-! ### Contexts set up (R92) -/

theorem State.foldl_onCtx_off {α : Type} (num : α → Nat) (g : α → Ctx) (l : List α) (s : State) (h : ∀ a ∈ l, s.ctx.num ≠ num a) :
    (l.foldl (fun (s : State) a => s.onCtx (num a) fun _ => g a) s).ctx = s.ctx := by
  induction l generalizing s with
  | nil => rfl
  | cons a l ih =>
    obtain ⟨ha, hl⟩ := List.forall_mem_cons.mp h
    have hone : (s.onCtx (num a) fun _ => g a).ctx = s.ctx := by rw [State.onCtx_ctx, if_neg ha]
    rw [List.foldl_cons, ih _ (by rw [hone]; exact hl), hone]
/-- Contexts with numbers of their own set up one after another: the one in focus is the one with its number. -/
theorem State.foldl_onCtx_at {α : Type} (num : α → Nat) (g : α → Ctx) (hg : ∀ a, (g a).num = num a) (l : List α)
    (hinj : ∀ a ∈ l, ∀ b ∈ l, num a = num b → a = b) (s : State) {a : α} (ha : a ∈ l) (hs : s.ctx.num = num a) :
    (l.foldl (fun (s : State) a => s.onCtx (num a) fun _ => g a) s).ctx = g a := by
  induction l generalizing s with
  | nil => cases ha
  | cons b l ih =>
    have hl : ∀ x ∈ l, ∀ y ∈ l, num x = num y → x = y := fun x hx y hy =>
      hinj x (List.mem_cons_of_mem _ hx) y (List.mem_cons_of_mem _ hy)
    have hone : (s.onCtx (num b) fun _ => g b).ctx = if num a = num b then g b else s.ctx := by rw [State.onCtx_ctx, hs]
    have hnum : (s.onCtx (num b) fun _ => g b).ctx.num = num a := by
      rw [hone]
      split
      next h => rw [hg, h]
      · exact hs
    rw [List.foldl_cons]
    by_cases hmem : a ∈ l
    · exact ih hl _ hmem hnum
    · obtain rfl : a = b := (List.mem_cons.mp ha).resolve_right hmem
      rw [State.foldl_onCtx_off num g l _ fun x hx => ?_, hone, if_pos rfl]
      rw [hnum]
      exact fun h => hmem (hinj _ List.mem_cons_self _ (List.mem_cons_of_mem _ hx) h ▸ hx)

/-- The core and role pairs of a seat. -/
def Seat.places (t : Seat) : List (Nat × Nat) := (List.range 8).flatMap fun i => t.roles.map fun k => (i, k)
theorem Seat.mem_places {t : Seat} {i k : Nat} : (i, k) ∈ t.places ↔ i < 8 ∧ k ∈ t.roles := by
  simp [Seat.places]
theorem Seat.ctxNum_inj {t : Seat} : ∀ a ∈ t.places, ∀ b ∈ t.places, t.ctxNum a.1 a.2 = t.ctxNum b.1 b.2 → a = b := by
  rintro ⟨i, k⟩ ha ⟨j, m⟩ hb h
  obtain ⟨-, hk⟩ := Seat.mem_places.mp ha
  obtain ⟨-, hm⟩ := Seat.mem_places.mp hb
  simp only [Seat.ctxNum, Seat.roles] at h hk hm
  split at hk
  next h2 =>
    simp only [h2, if_true, List.mem_cons, List.not_mem_nil, or_false] at h hk hm
    exact Prod.ext (by omega) (by omega)
  next h2 =>
    simp only [h2, if_false, List.mem_singleton] at h hk hm
    exact Prod.ext (by omega) (by omega)
/-- The context a launch puts at a place of its seat. -/
def Launch.seated (x : Launch) (t : Seat) (i k : Nat) : Ctx := if roleAct (x.role t.lcl i k) then x.newContext t i k else Ctx.idle (t.ctxNum i k)
theorem Launch.seated_num (x : Launch) (t : Seat) (i k : Nat) : (x.seated t i k).num = t.ctxNum i k := by
  unfold Launch.seated
  split <;> rfl
theorem State.seatContexts_eq (s : State) (x : Launch) (t : Seat) : s.seatContexts x t =
    t.places.foldl (fun (s : State) a => s.onCtx (t.ctxNum a.1 a.2) fun _ => x.seated t a.1 a.2) s := by
  unfold State.seatContexts Seat.places
  rw [List.foldl_flatMap]
  refine congrArg (fun f => (List.range 8).foldl f s) (funext₂ fun s i => ?_)
  rw [List.foldl_map]
  refine congrArg (fun f => t.roles.foldl f s) (funext₂ fun s k => ?_)
  by_cases h : roleAct (x.role t.lcl i k) <;> simp only [Launch.seated, h, if_true, Bool.false_eq_true, if_false]
theorem State.seatContexts_ctx (s : State) (x : Launch) (t : Seat) {i r : Nat} (hi : i < 8) (hr : r ∈ t.roles) (h : s.ctx.num = t.ctxNum i r) :
    (s.seatContexts x t).ctx = if roleAct (x.role t.lcl i r) then x.newContext t i r else Ctx.idle s.ctx.num := by
  have hat := State.foldl_onCtx_at (fun a : Nat × Nat => t.ctxNum a.1 a.2) (fun a => x.seated t a.1 a.2) (fun a => x.seated_num t a.1 a.2)
    t.places Seat.ctxNum_inj s (Seat.mem_places.mpr ⟨hi, hr⟩) h
  rw [State.seatContexts_eq, hat, h, Launch.seated]
@[simp] theorem State.seatContexts_pk (s : State) (x : Launch) (t : Seat) : (s.seatContexts x t).pk = s.pk := by
  rw [State.seatContexts_eq]
  exact State.foldl_frame State.pk _ (fun _ _ => State.onCtx_pk ..) _ _

/-! ### Bank groups zeroed (R91) -/

/-- What every step keeps under `Q`, and the step of `a` brings about, holds after a fold over a list with `a`. -/
theorem foldl_reaches {α β : Type} {P Q : β → Prop} {f : β → α → β} (hQ : ∀ b a, Q b → Q (f b a)) (hP : ∀ b a, Q b → P b → P (f b a)) {a : α}
    (ha : ∀ b, Q b → P (f b a)) {l : List α} (hmem : a ∈ l) {b : β} (hb : Q b) : P (l.foldl f b) := by
  have keeps (l : List α) (b : β) (hb : Q b) (hPb : P b) : P (l.foldl f b) := by
    induction l generalizing b with
    | nil => exact hPb
    | cons x l ih => exact ih _ (hQ b x hb) (hP b x hb hPb)
  induction l generalizing b with
  | nil => cases hmem
  | cons x l ih =>
    rcases List.mem_cons.mp hmem with rfl | hmem
    · exact keeps l (f b a) (hQ b a hb) (ha b hb)
    · exact ih hmem (hQ b x hb)
/-- Everything of a package but the errors and the bytes of its stores. -/
def Pack.form (k : Pack) : List (Nat × Word) × Sched × Nat × Nat := (k.io, k.sched, k.tick, k.period)
theorem Pack.zeroGroups_form (k : Pack) (bgm p : Nat) : (k.zeroGroups bgm p).form = k.form :=
  Pack.foldl_frame Pack.form _ (fun _ _ => by rfl) _ _
/-- The byte at `x` of the scratchpads is 0. -/
def Pack.zeroAt (x : Nat) (k : Pack) : Prop := k.mem.spad.get x = 0
/-- One group of a cluster zeroed. -/
def Pack.zeroGroup (k : Pack) (p g : Nat) : Pack :=
  { (k.clearBad ⟨.spad, p * 2 ^ 22 + g * 2 ^ 18, 2 ^ 18⟩) with
    mem := { k.mem with spad := k.mem.spad.clear (p * 2 ^ 22 + g * 2 ^ 18) (p * 2 ^ 22 + g * 2 ^ 18 + 2 ^ 18) } }
theorem Pack.zeroGroups_eq (k : Pack) (bgm p : Nat) :
    k.zeroGroups bgm p = ((List.range 16).filter (fun g => bgm.testBit g)).foldl (fun (k : Pack) g => k.zeroGroup p g) k := by rfl
theorem Pack.zeroGroup_wf {k : Pack} (p g : Nat) (h : k.mem.wf = true) : (k.zeroGroup p g).mem.wf = true := Stores.wf_clearSpad _ _ _ h
theorem Pack.zeroGroup_get {k : Pack} (p g x : Nat) (h : k.mem.wf = true) : (k.zeroGroup p g).mem.spad.get x =
    if p * 2 ^ 22 + g * 2 ^ 18 ≤ x ∧ x < p * 2 ^ 22 + g * 2 ^ 18 + 2 ^ 18 then 0 else k.mem.spad.get x :=
  Memory.get_clear _ _ _ _ ((Stores.wf_iff _).mp h).2.1
theorem Pack.zeroGroup_keeps {k : Pack} (p g : Nat) {x : Nat} (h : k.mem.wf = true) (hx : k.zeroAt x) : (k.zeroGroup p g).zeroAt x := by
  rw [Pack.zeroAt, Pack.zeroGroup_get p g x h]
  split
  · rfl
  · exact hx
theorem Pack.zeroGroups_keeps {k : Pack} (bgm p : Nat) {x : Nat} (h : k.mem.wf = true) (hx : k.zeroAt x) : (k.zeroGroups bgm p).zeroAt x := by
  rw [Pack.zeroGroups_eq]
  exact (List.foldlRecOn (motive := fun j : Pack => j.mem.wf = true ∧ j.zeroAt x) _ _ ⟨h, hx⟩ fun j hj g _ =>
    ⟨Pack.zeroGroup_wf p g hj.1, Pack.zeroGroup_keeps p g hj.1 hj.2⟩).2
theorem Pack.zeroGroups_zero {k : Pack} {bgm p g x : Nat} (h : k.mem.wf = true) (hg : g < 16) (hb : bgm.testBit g = true) (hx : x < 2 ^ 18) :
    (k.zeroGroups bgm p).zeroAt (p * 2 ^ 22 + g * 2 ^ 18 + x) := by
  rw [Pack.zeroGroups_eq]
  refine foldl_reaches (Q := fun k => k.mem.wf = true) (fun j g hj => Pack.zeroGroup_wf p g hj) (fun j g hj hz => Pack.zeroGroup_keeps p g hj hz)
    (fun j hj => ?_) (List.mem_filter.mpr ⟨List.mem_range.mpr hg, hb⟩) h
  rw [Pack.zeroAt, Pack.zeroGroup_get p g _ hj, if_pos (by omega)]

/-! ### Admission (R86, R91) -/

section
variable (s : State) (c : Cand) (ko roles : List Word) (seats : List Seat)
/-- The launch that an admission makes. -/
def State.admitted (s : State) (c : Cand) (ko roles : List Word) (seats : List Seat) : Launch :=
  { id := s.pk.sched.nextId, stream := c.stream, j := s.pk.csHead c.stream + 1, record := c.record,
    owner := BitVec.ofNat 16 (bits (s.pk.csCtl c.stream) 15 0), kobj := ko, roles := roles, seats := seats,
    prio := c.prio, appended := c.time, admitted := s.pk.sched.nextId }
/-- The package with the record passed and the launch entered. -/
def State.entered (s : State) (c : Cand) (l : Launch) : Pack :=
  (s.pk.passHead c.stream).updSched fun d => { d with
    nextId := d.nextId + 1, launches := d.launches ++ [l], starts := d.starts ++ l.seats.map Seat.pcl }
/-- A seat's contexts and bank groups. -/
def State.seat (l : Launch) (s : State) (t : Seat) : State := (s.seatContexts l t).updPk fun k => k.zeroGroups (koBgm l.kobj) t.pcl
theorem State.seat_form (l : Launch) (s : State) (t : Seat) : (s.seat l t).pk.form = s.pk.form := by
  rw [State.seat, State.updPk_pk, State.seatContexts_pk, Pack.zeroGroups_form]
/-- What begins the launch. -/
def Pack.launchBegins (k : Pack) (l : Launch) : Pack :=
  if l.roles.any roleAct then k.scheduleCc 512 .contextStart { n := l.id } else k.schedule 0 .launchRetire { n := l.id }
theorem Pack.launchBegins_form (k : Pack) (l : Launch) : (k.launchBegins l).sched = k.sched ∧ (k.launchBegins l).io = k.io ∧
    (k.launchBegins l).mem = k.mem := by
  unfold Pack.launchBegins
  split <;> exact ⟨rfl, rfl, rfl⟩
/-- The state with the launch's contexts and bank groups set up. -/
def State.seated (s : State) (c : Cand) (ko roles : List Word) (seats : List Seat) : State :=
  seats.foldl (State.seat (s.admitted c ko roles seats)) { s with pk := s.entered c (s.admitted c ko roles seats) }
theorem State.admitKernel_eq : s.admitKernel c ko roles seats =
    (s.seated c ko roles seats).updPk fun k => k.launchBegins (s.admitted c ko roles seats) := by rfl
theorem State.seated_form : (s.seated c ko roles seats).pk.form = (s.entered c (s.admitted c ko roles seats)).form :=
  State.foldl_frame (fun u => u.pk.form) _ (fun u t => State.seat_form _ u t) _ _
theorem State.admitKernel_frame : (s.admitKernel c ko roles seats).pk.sched = (s.entered c (s.admitted c ko roles seats)).sched ∧
    (s.admitKernel c ko roles seats).pk.io = (s.entered c (s.admitted c ko roles seats)).io := by
  obtain ⟨hsched, hio, -⟩ := Pack.launchBegins_form (s.seated c ko roles seats).pk (s.admitted c ko roles seats)
  have hform := s.seated_form c ko roles seats
  rw [State.admitKernel_eq]
  exact ⟨hsched.trans (congrArg (fun x => x.2.1) hform), hio.trans (congrArg Prod.fst hform)⟩
theorem State.admitKernel_launches (h : s.pk.sched.launches = []) :
    (s.admitKernel c ko roles seats).pk.sched.launches = [s.admitted c ko roles seats] := by
  rw [(s.admitKernel_frame c ko roles seats).1, State.entered, Pack.updSched_sched]
  have hp : (s.pk.passHead c.stream).sched.launches = s.pk.sched.launches := by rfl
  simp [hp, h]
theorem State.admitKernel_csHead (h : s.pk.csHead c.stream + 1 < 2 ^ 64) :
    (s.admitKernel c ko roles seats).pk.csHead c.stream = s.pk.csHead c.stream + 1 := by
  have hio : (s.entered c (s.admitted c ko roles seats)).io =
      (s.pk.ioWr (csOff c.stream 0x18) (BitVec.ofNat 64 (s.pk.csHead c.stream + 1))).io := by rfl
  rw [Pack.csHead, Pack.ioRd_congr ((s.admitKernel_frame c ko roles seats).2.trans hio), Pack.ioRd_ioWr_same, BitVec.toNat_ofNat,
    Nat.mod_eq_of_lt h]
theorem State.admitKernel_starts (h : roles.any roleAct = true) : ∃ d ∈ (s.admitKernel c ko roles seats).pk.agenda,
    d.ev = .contextStart ∧ d.arg.n = (s.admitted c ko roles seats).id ∧ d.at_ = s.pk.tick + 512 * s.pk.period := by
  have hform := s.seated_form c ko roles seats
  have htick : (s.seated c ko roles seats).pk.tick = s.pk.tick := congrArg (fun x => x.2.2.1) hform
  have hperiod : (s.seated c ko roles seats).pk.period = s.pk.period := congrArg (fun x => x.2.2.2) hform
  have hpk : (s.admitKernel c ko roles seats).pk = (s.seated c ko roles seats).pk.schedule (512 * s.pk.period) .contextStart
      { n := (s.admitted c ko roles seats).id } := by
    rw [State.admitKernel_eq, ← hperiod]
    exact if_pos h
  rw [hpk, ← htick]
  exact ⟨_, Pack.schedule_mem_agenda .., rfl, rfl, rfl⟩
theorem State.admitKernel_ctx {t : Seat} {i r : Nat} (hi : i < 8) (hr : r ∈ t.roles) (h : s.ctx.num = t.ctxNum i r) :
    (s.admitKernel c ko roles [t]).ctx = if roleAct ((s.admitted c ko roles [t]).role t.lcl i r)
      then (s.admitted c ko roles [t]).newContext t i r else Ctx.idle s.ctx.num :=
  State.seatContexts_ctx _ _ t hi hr h
theorem State.admitKernel_zeroed (hwf : s.pk.mem.wf = true) {t : Seat} (ht : t ∈ seats) {g x : Nat} (hg : g < 16)
    (hb : (koBgm ko).testBit g = true) (hx : x < 2 ^ 18) :
    (s.admitKernel c ko roles seats).pk.mem.read ⟨.spad, t.pcl * 2 ^ 22 + g * 2 ^ 18 + x, 1⟩ = [0] := by
  have hmem : (s.admitKernel c ko roles seats).pk.mem = (s.seated c ko roles seats).pk.mem :=
    (Pack.launchBegins_form (s.seated c ko roles seats).pk (s.admitted c ko roles seats)).2.2
  have hseat (u : State) (y : Seat) : (u.seat (s.admitted c ko roles seats) y).pk = u.pk.zeroGroups (koBgm ko) y.pcl := by
    rw [State.seat, State.updPk_pk, State.seatContexts_pk]
    rfl
  have hwf' : (s.entered c (s.admitted c ko roles seats)).mem.wf = true := hwf
  have hz : (s.seated c ko roles seats).pk.zeroAt (t.pcl * 2 ^ 22 + g * 2 ^ 18 + x) := by
    refine foldl_reaches (P := fun u : State => u.pk.zeroAt (t.pcl * 2 ^ 22 + g * 2 ^ 18 + x)) (Q := fun u : State => u.pk.mem.wf = true)
      (fun u y hu => ?_) (fun u y hu hzero => ?_) (fun u hu => ?_) ht hwf'
    · rw [hseat]
      exact Pack.zeroGroups_wf _ _ _ hu
    · rw [hseat]
      exact Pack.zeroGroups_keeps _ _ hu hzero
    · rw [hseat]
      exact Pack.zeroGroups_zero hu hg hb hx
  have hspad : (s.admitKernel c ko roles seats).pk.mem.spad.wf = true := ((Stores.wf_iff _).mp (s.admitKernel_wf c ko roles seats hwf)).2.1
  exact (Memory.read_one _ _ hspad).trans (by rw [hmem]; exact congrArg (fun b => [b]) hz)
end

end Sys2Proof.Machine
end

-- ================================================================
-- Proofs, scope: New contexts, pre-emption, resumption
-- ================================================================

section
namespace Sys2Proof.Machine
open Sys2Proof

/-! ### The registers of a new context (R92) -/

theorem Launch.newContext_rs (l : Launch) (t : Seat) (i r : Nat) {j : Nat} (hj : j < 32) : (l.newContext t i r).regs.rs j = if j = 0 then 0 else
    if 1 ≤ j ∧ j ≤ 8 then wordAt l.record (j + 7) else if j = 9 then BitVec.ofNat 64 t.lcl
    else if j = 10 then BitVec.ofNat 64 (2 * i + r) else 0 := by
  simp only [Launch.newContext, Regs.rs]
  split
  · rfl
  · rw [Vector.getElem?_ofFn]
    simp [hj]
theorem Launch.newContext_spec (l : Launch) (t : Seat) (i r : Nat) :
    let c := l.newContext t i r
    c.mode = .starting ∧ c.pc = BitVec.ofNat 48 (bits (wordAt l.kobj 1) 47 0 + bits (l.role t.lcl i r) 31 0) ∧ c.launch = l.id ∧
    (∀ j, 1 ≤ j → j ≤ 8 → c.regs.rs j = wordAt l.record (j + 7)) ∧ c.regs.rs 9 = BitVec.ofNat 64 t.lcl ∧ c.regs.rs 10 = BitVec.ofNat 64 (2 * i + r) ∧
    (∀ j, 11 ≤ j → j < 32 → c.regs.rs j = 0) ∧ c.csr.srseed = wordAt l.record 4 ∧ c.csr.npdef = BitVec.ofNat 64 (recNp l.record) ∧
    c.csr.btab = wordAt l.record 1 ∧ c.csr.ownid = l.owner.zeroExtend 64 ∧ c.csr.lease = BitVec.ofNat 64 (bits (l.role t.lcl i r) 63 48) ∧
    c.csr.issctl = (if koDet l.kobj then 1 else 0) ∧ c.regs.v = Regs.zero.v ∧ c.regs.a = Regs.zero.a ∧ c.regs.d = Regs.zero.d := by
  refine ⟨rfl, rfl, rfl, fun j h1 h8 => ?_, ?_, ?_, fun j h11 h32 => ?_, rfl, rfl, rfl, rfl, rfl, rfl, rfl, rfl, rfl⟩
  · rw [l.newContext_rs t i r (by omega), if_neg (by omega), if_pos ⟨h1, h8⟩]
  · rw [l.newContext_rs t i r (by decide)]
    rfl
  · rw [l.newContext_rs t i r (by decide)]
    rfl
  · rw [l.newContext_rs t i r h32, if_neg (by omega), if_neg (by omega), if_neg (by omega), if_neg (by omega)]

/-! ### Pre-emption (R97–R99) -/

theorem State.onCtx_cores (s : State) (n : Nat) (f : Ctx → Ctx) : (s.onCtx n f).boxes.map CoreBox.core = s.boxes.map CoreBox.core := by
  unfold State.onCtx
  extract_lets g
  split
  · rfl
  · split
    · rfl
    · simp [State.boxes, Function.comp_def]
theorem State.onCtx_getCore (s : State) (n m : Nat) (f : Ctx → Ctx) : (s.onCtx n f).getCore m = s.getCore m := by
  rw [State.getCore, State.onCtx_cores, State.getCore]
theorem State.onCtx_ageOf (s : State) (n m : Nat) (f : Ctx → Ctx) : (s.onCtx n f).ageOf m = s.ageOf m := by
  rw [State.ageOf, State.onCtx_getCore, State.ageOf]

/-- A context of launch `id` asked to yield, at the latest `by_` (R99). -/
def Ctx.asked (id by_ : Nat) (c : Ctx) : Ctx := if c.launch = id then { c with yield_ := some by_ } else c
/-- The latest age of its core at which context `n` yields. -/
def State.yieldBy (s : State) (n : Nat) : Nat := s.ageOf n + bits (s.pk.ioRd 0x20008) 31 0
/-- Context `n` of launch `id` asked to yield. -/
def State.askYield (id : Nat) (s : State) (n : Nat) : State := s.onCtx n (Ctx.asked id (s.yieldBy n))
/-- The contexts of a seat asked to yield. -/
def State.askSeat (id : Nat) (s : State) (t : Seat) : State :=
  (t.ctxs.foldl (State.askYield id) s).updPk fun k => k.scheduleCc 1 .contextSaveDone { n := t.ctxs.headD 0, m := 2 }
theorem State.requestYield_eq (s : State) (l : Launch) : s.requestYield l = l.seats.foldl (State.askSeat l.id) s := by rfl
theorem State.askYield_yieldBy (id : Nat) (s : State) (n m : Nat) : (s.askYield id n).yieldBy m = s.yieldBy m := by
  simp only [State.askYield, State.yieldBy, State.onCtx_ageOf, State.onCtx_pk]
@[simp] theorem State.askYield_pk (id : Nat) (s : State) (n : Nat) : (s.askYield id n).pk = s.pk := State.onCtx_pk ..
theorem State.foldl_askYield_pk (id : Nat) (l : List Nat) (s : State) : (l.foldl (State.askYield id) s).pk = s.pk :=
  State.foldl_frame State.pk _ (fun _ _ => State.askYield_pk ..) _ _
theorem State.askSeat_frame (id : Nat) (s : State) (t : Seat) : (s.askSeat id t).pk.sched = s.pk.sched ∧ (s.askSeat id t).pk.io = s.pk.io := by
  have h := State.foldl_askYield_pk id t.ctxs s
  have hpk : (s.askSeat id t).pk = s.pk.scheduleCc 1 .contextSaveDone { n := t.ctxs.headD 0, m := 2 } := by
    rw [State.askSeat, State.updPk_pk, h]
  rw [hpk]
  exact ⟨rfl, rfl⟩
theorem State.requestYield_sched (s : State) (l : Launch) : (s.requestYield l).pk.sched = s.pk.sched := by
  rw [State.requestYield_eq]
  exact State.foldl_frame (fun u => u.pk.sched) _ (fun u t => (State.askSeat_frame _ u t).1) _ _
theorem State.requestYield_io (s : State) (l : Launch) : (s.requestYield l).pk.io = s.pk.io := by
  rw [State.requestYield_eq]
  exact State.foldl_frame (fun u => u.pk.io) _ (fun u t => (State.askSeat_frame _ u t).2) _ _
theorem State.askSeat_ctx (id : Nat) (s : State) (t : Seat) :
    (s.askSeat id t).ctx = if s.ctx.num ∈ t.ctxs then s.ctx.asked id (s.yieldBy s.ctx.num) else s.ctx := by
  have hctx (u : State) (f : Pack → Pack) : (u.updPk f).ctx = u.ctx := by rfl
  rw [State.askSeat, hctx]
  refine State.foldl_ctx (P := fun u => ∀ n, u.yieldBy n = s.yieldBy n) (g := fun c => c.asked id (s.yieldBy c.num))
    (fun u n hu m => (State.askYield_yieldBy ..).trans (hu m)) (fun u n hu => ?_) (fun c => ?_) (fun c => ?_) _ _ fun _ => rfl
  · rw [State.askYield, State.onCtx_ctx, hu]
    split
    next h => rw [h]
    · rfl
  · unfold Ctx.asked
    split <;> rfl
  · by_cases h : c.launch = id <;> simp [Ctx.asked, h]
theorem State.requestYield_ctx_one (s : State) {l : Launch} {t : Seat} (ht : l.seats = [t]) (hid : s.ctx.launch = l.id) (hn : s.ctx.num ∈ t.ctxs) :
    (s.requestYield l).ctx = { s.ctx with yield_ := some (s.yieldBy s.ctx.num) } := by
  rw [State.requestYield_eq, ht, List.foldl_cons, List.foldl_nil, State.askSeat_ctx, if_pos hn, Ctx.asked, if_pos hid]
theorem State.requestYield_ctx_other (s : State) {l : Launch} (hid : s.ctx.launch ≠ l.id) : (s.requestYield l).ctx = s.ctx := by
  rw [State.requestYield_eq]
  refine List.foldlRecOn (motive := fun u : State => u.ctx = s.ctx) _ _ rfl fun u hu t _ => ?_
  rw [State.askSeat_ctx, hu, Ctx.asked, if_neg hid, ite_self]

section
variable {s : State} {c : Cand} {ko roles : List Word} {v : Launch} {seats : List Seat} (hc : s.pk.sched.claims = [])
  (hl : s.pk.sched.launches = [v]) (hw : c.work = .kernel ko roles)

/-- The victim is saved to the lowest free slots, for the claim of the candidate. -/
def State.saving (s : State) (c : Cand) (v : Launch) (seats : List Seat) : State := { s with
  pk := (s.pk.updLaunch v.id fun l => { l with phase := .saving, slots := (v.seats.map Seat.lcl).zip s.pk.freeSlots }).updSched fun d =>
    { d with claims := d.claims ++ [⟨c.stream, c.launch, seats, [v.id]⟩] } }

include hw in
theorem State.place_full (h : s.pk.placement s.pk.sched.launches s.pk.closed ko = none) : s.place c = none := by
  simp only [State.place, hw, h, Option.map_none]
theorem Pack.closed_nil {k : Pack} (h : k.sched.claims = []) : k.closed = [] := by
  rw [Pack.closed, h]
  rfl
include hc hl hw
theorem State.preempt_one (hph : v.phase = .running) (hp : v.prio < c.prio) (hs : v.seats ≠ [])
    (hfit : s.pk.placement [] [] ko = some seats) (hfree : v.seats.length ≤ s.pk.freeSlots.length) :
    s.preempt c = some ((s.saving c v seats).requestYield v) := by
  have hvs : sortVictims (s.pk.sched.launches.filter fun l => l.phase == .running && !l.seats.isEmpty && decide (l.prio < c.prio)) = [v] := by
    rw [hl]
    simp [hph, hp, hs, sortVictims, sortVictims.ins]
  have hvict : s.pk.victims ko [] [v] = some ([v], seats) := by
    simp [Pack.victims, hl, Pack.closed_nil hc, hfit]
  have hneed : ¬ (([v].map fun l => l.seats.length).foldl (· + ·) 0 > s.pk.freeSlots.length) := by simpa using hfree
  unfold State.preempt
  rw [hw]
  simp only [hvs, hvict, if_neg hneed]
  rfl
omit hw in
theorem State.saving_frame : (s.saving c v seats).pk.sched.claims = [⟨c.stream, c.launch, seats, [v.id]⟩] ∧
    (s.saving c v seats).pk.sched.launches = [{ v with phase := .saving, slots := (v.seats.map Seat.lcl).zip s.pk.freeSlots }] := by
  simp [State.saving, Pack.updLaunch, hc, hl]
end

/-! ### A saved launch placed again (R102) -/

theorem State.place_resumes {s : State} {c : Cand} {ko roles : List Word} {l : Launch} {seats : List Seat} (hl : s.pk.sched.launches = [l])
    (hcl : c.launch = l.id) (h0 : l.id ≠ 0) (hw : c.work = .kernel ko roles)
    (hp : s.pk.placement s.pk.sched.launches s.pk.closed ko = some seats) :
    ∃ t, s.place c = some t ∧ t.pk.sched.launches = [{ l with seats := seats, phase := .restoring }] ∧
      (∃ d ∈ t.pk.agenda, d.ev = .contextRestore ∧ d.arg.n = l.id) ∧ t.ctx = s.ctx ∧ t.pk.mem = s.pk.mem := by
  have hplace : s.place c = some (s.resumeLaunch c.launch seats) := by
    simp only [State.place, hw, hp, Option.map_some, hcl, if_neg h0]
  refine ⟨_, hplace, ?_⟩
  rw [hcl, State.resumeLaunch, Pack.launch_one hl rfl]
  refine ⟨?_, ⟨_, Pack.schedule_mem_agenda .., rfl, rfl⟩, rfl, rfl⟩
  simp [Pack.scheduleCc, Pack.schedule, Pack.updLaunch, hl]

end Sys2Proof.Machine
end

-- ================================================================
-- Proofs, scope: Reads at the home, and scratchpads restored
-- ================================================================

section
namespace Sys2Proof.Machine
open Sys2Proof

/-! ### Reads at the home depend on the home alone -/

/-- What a read at the home depends on: the state windows, the MSC, DRAM and its errors. -/
def Pack.home (k : Pack) : List (Nat × Channel) × List MscLine × Memory × List (Space × Nat) :=
  (k.gouge, k.msc, k.mem.dram, k.bad.filter fun b => b.1 == .dram)
section
variable {j k : Pack} (h : j.home = k.home)
include h
theorem Pack.windowAt_congr (c : Nat) : j.windowAt c = k.windowAt c := by
  have hg : j.gouge = k.gouge := congrArg Prod.fst h
  unfold Pack.windowAt Pack.chan
  rw [hg]
theorem Pack.mscLine_congr (l : Nat) : j.mscLine l = k.mscLine l := by
  have hm : j.msc = k.msc := congrArg (fun x => x.2.1) h
  simp only [Pack.mscLine, hm]
theorem Pack.chunkRead_congr (c n : Nat) : j.chunkRead c n = k.chunkRead c n := by
  have hg : j.gouge = k.gouge := congrArg Prod.fst h
  have hd : j.mem.dram = k.mem.dram := congrArg (fun x => x.2.2.1) h
  simp only [Pack.chunkRead, Pack.windowAt_congr h, Pack.mscLine_congr h, hd, Pack.chan, hg]
theorem Pack.homeRead_congr (c n : Nat) : j.homeRead c n = k.homeRead c n := by
  have hgo (fuel c n : Nat) : j.homeReadGo fuel c n = k.homeReadGo fuel c n := by
    induction fuel generalizing c n with
    | zero => rfl
    | succ fuel ih => simp only [Pack.homeReadGo, Pack.chunkRead_congr h, ih]
  exact hgo ..
theorem Pack.dpaRead_congr (d n : Nat) : j.dpaRead d n = k.dpaRead d n := Pack.homeRead_congr h ..
theorem Pack.dpaWord_congr (d : Nat) : j.dpaWord d = k.dpaWord d := by
  rw [Pack.dpaWord, Pack.dpaRead_congr h, Pack.dpaWord]
omit h in
/-- The errors that a place in DRAM meets are among those of DRAM. -/
theorem Pack.badUnit_dram (k : Pack) {p : Piece} (hp : p.space = .dram) : k.badUnit p = ((((k.bad.filter fun b => b.1 == .dram).filter
    fun b => decide (p.addr < b.2 + 32) && decide (b.2 < p.addr + p.len)).map Prod.snd).min?) := by
  rw [Pack.badUnit, List.filter_filter]
  refine congrArg (fun l : List (Space × Nat) => (l.map Prod.snd).min?) (List.filter_congr fun b _ => ?_)
  rw [hp]
  exact (Bool.and_assoc ..).trans (Bool.and_comm ..)
theorem Pack.readError_congr {p : Piece} (hp : p.space = .dram) : j.readError p = k.readError p := by
  have hb : j.bad.filter (fun b => b.1 == .dram) = k.bad.filter (fun b => b.1 == .dram) := congrArg (fun x => x.2.2.2) h
  simp only [Pack.readError, Pack.badUnit_dram _ hp, hb, Pack.windowAt_congr h, Pack.mscLine_congr h]
theorem Pack.dpaBad_congr (d n : Nat) : j.dpaBad d n = k.dpaBad d n := by
  have hb : j.bad.filter (fun b => b.1 == .dram) = k.bad.filter (fun b => b.1 == .dram) := congrArg (fun x => x.2.2.2) h
  have hm : j.msc = k.msc := congrArg (fun x => x.2.1) h
  have he (x : Nat) : j.readError ⟨.dram, x, 32⟩ = k.readError ⟨.dram, x, 32⟩ := Pack.readError_congr h rfl
  simp only [Pack.dpaBad, Pack.badSectors, hb, hm, he]
end
section
variable {k : Pack} (hm : k.msc = []) (hwf : k.mem.wf = true)
include hm hwf
theorem Pack.chunkRead_length (c n : Nat) : (k.chunkRead c n).length = n := by
  rw [Pack.chunkRead, Pack.mscLine_nil hm]
  split
  · simp [padTo]
  · simp [Memory.read_eq _ _ _ ((Stores.wf_iff _).mp hwf).1]
theorem Pack.homeReadGo_length (fuel c n : Nat) (h : n = 0 ∨ c % 128 + n ≤ 128 * fuel) : (k.homeReadGo fuel c n).length = n := by
  induction fuel generalizing c n with
  | zero => simp [Pack.homeReadGo]; omega
  | succ fuel ih =>
    rw [Pack.homeReadGo]
    split
    next h0 => simp [h0]
    next h0 =>
      rw [List.length_append, Pack.chunkRead_length hm hwf, ih _ _ (by omega)]
      omega
theorem Pack.dpaRead_length (d n : Nat) : (k.dpaRead d n).length = n :=
  Pack.homeReadGo_length hm hwf _ _ _ (by right; omega)
end

/-! ### What a restore does to the package (R102, R494) -/

/-- What the restoring of scratchpads leaves: the home and the scheduler. -/
def Pack.kept (k : Pack) : (List (Nat × Channel) × List MscLine × Memory × List (Space × Nat)) × Sched := (k.home, k.sched)
theorem Pack.kept_logError (k : Pack) (kind ctx addr : Nat) : (k.logError kind ctx addr).kept = k.kept := by
  have h (j : Pack) (off : Nat) (v : Word) : (j.ioWr off v).kept = j.kept := by rfl
  rw [Pack.logError, h, h, h]
theorem Pack.kept_logSectors (k : Pack) (l : List Nat) : (k.logSectors l).kept = k.kept := by
  refine Pack.foldl_frame Pack.kept _ (fun j x => ?_) _ _
  split
  · exact Pack.kept_logError ..
  · rfl
/-- Errors of scratchpads change nothing at the home. -/
theorem filter_dram_append {l m : List (Space × Nat)} (h : ∀ b ∈ m, b.1 = .spad) :
    (l ++ m).filter (fun b => b.1 == .dram) = l.filter (fun b => b.1 == .dram) := by
  have hm : m.filter (fun b => b.1 == .dram) = [] := List.filter_eq_nil_iff.mpr fun b hb => by rw [h b hb]; decide
  rw [List.filter_append, hm, List.append_nil]
theorem filter_dram_filter {l : List (Space × Nat)} (q : Space × Nat → Bool) :
    (l.filter fun b => !(b.1 == .spad && q b)).filter (fun b => b.1 == .dram) = l.filter (fun b => b.1 == .dram) := by
  rw [List.filter_filter]
  refine List.filter_congr fun b _ => ?_
  obtain ⟨sp, a⟩ := b
  cases sp <;> simp
theorem Pack.kept_restoreRange (k : Pack) (a d n : Nat) : (k.restoreRange a d n).kept = k.kept := by
  unfold Pack.restoreRange
  extract_lets c bs bad j
  have hj : j.kept = k.kept := by
    rw [← Pack.kept_logSectors k (k.dpaBad d n)]
    refine Prod.ext (Prod.ext rfl (Prod.ext rfl (Prod.ext rfl ?_))) rfl
    have hand (b : Space × Nat) : (!(b.1 == Space.spad && decide (a ≤ b.2) && decide (b.2 + unitOf .spad ≤ a + n))) =
        !(b.1 == Space.spad && (decide (a ≤ b.2) && decide (b.2 + unitOf .spad ≤ a + n))) := by rw [Bool.and_assoc]
    change (List.filter _ (List.filter _ _)) = _
    simp only [hand]
    exact filter_dram_filter _
  rw [← hj]
  refine Prod.ext (Prod.ext rfl (Prod.ext rfl (Prod.ext rfl (filter_dram_append fun b hb => ?_)))) rfl
  obtain ⟨x, -, hx⟩ := List.mem_flatMap.mp (List.mem_of_mem_filter hb)
  obtain ⟨i, -, hi⟩ := List.mem_filterMap.mp hx
  dsimp only at hi
  split at hi
  · rw [← Option.some.inj hi]
  · cases hi
/-- Bytes of the bank groups that were not saved are free. -/
def Pack.freeGroups (k : Pack) (slot bgm p : Nat) : Pack :=
  ((List.range 16).filter fun g => bgm.testBit g && !(k.slotRanges slot).any fun r => r.1 == g * 2 ^ 18 && r.2.1 == 2 ^ 18).foldl (fun (k : Pack) g =>
    { k with freeCtr := k.freeCtr + 1
             mem := k.mem.write .spad (p * 2 ^ 22 + g * 2 ^ 18) (leBytes (2 ^ 18) (Config.freeBits k.freeCtr (2 ^ 18))) }) k
theorem Pack.restoreSpad_eq (k : Pack) (slot bgm p : Nat) : k.restoreSpad slot bgm p =
    (k.slotRanges slot).foldl (fun (k : Pack) r => k.restoreRange (p * 2 ^ 22 + r.1) r.2.2 r.2.1) (k.freeGroups slot bgm p) := by rfl
theorem Pack.kept_freeGroups (k : Pack) (slot bgm p : Nat) : (k.freeGroups slot bgm p).kept = k.kept :=
  Pack.foldl_frame Pack.kept _ (fun _ _ => by rfl) _ _
theorem Pack.freeGroups_wf {k : Pack} (slot bgm p : Nat) (h : k.mem.wf = true) : (k.freeGroups slot bgm p).mem.wf = true :=
  Pack.foldl_wf _ (fun _ _ hj => Stores.wf_write _ _ _ _ hj) _ _ h
theorem Pack.kept_restoreSpad (k : Pack) (slot bgm p : Nat) : (k.restoreSpad slot bgm p).kept = k.kept := by
  rw [Pack.restoreSpad_eq, Pack.foldl_frame Pack.kept _ (fun _ _ => Pack.kept_restoreRange ..), Pack.kept_freeGroups]
theorem Pack.kept_dropSpad (k : Pack) (slot : Nat) : (k.dropSpad slot).kept = k.kept := by
  refine Prod.ext (Prod.ext rfl (Prod.ext rfl (Prod.ext rfl ?_))) rfl
  have hand (b : Space × Nat) : (!(b.1 == Space.spad && decide (slotCluster slot * 2 ^ 22 ≤ b.2) &&
      decide (b.2 < slotCluster slot * 2 ^ 22 + 2 ^ 22))) = !(b.1 == Space.spad && (decide (slotCluster slot * 2 ^ 22 ≤ b.2) &&
      decide (b.2 < slotCluster slot * 2 ^ 22 + 2 ^ 22))) := by rw [Bool.and_assoc]
  change (List.filter _ (List.filter _ _)) = _
  simp only [hand]
  exact filter_dram_filter _

end Sys2Proof.Machine
end

-- ================================================================
-- Proofs, scope: A saved launch restored
-- ================================================================

section
namespace Sys2Proof.Machine
open Sys2Proof

/-! ### A saved context in its new slot (R93, R495) -/

section
variable {s : State} {x : Launch} {t : Seat} {base r : Nat} {c : Ctx}
/-- Where the image of a role's context stands, and its DPA. -/
def Pack.imagePlace (k : Pack) (base r : Nat) : Word := k.dpaWord (base + 0x80 + 8 * r)
def Pack.imageBase (k : Pack) (base r : Nat) : Nat := base + 64 * bits (k.imagePlace base r) 63 32
/-- The errors met by reading it. -/
def Pack.imageBad (k : Pack) (base r : Nat) : List Nat :=
  k.dpaBad base 0x100 ++ k.dpaBad (k.imageBase base r) (64 * bits (k.imagePlace base r) 31 0)
/-- The saved context with the registers of its image. -/
def Pack.imageCtx (k : Pack) (base r : Nat) (c : Ctx) : Ctx := c.loadCsrs fun i => k.dpaWord (k.imageBase base r + 0x400 + 8 * i)
/-- The context of a seat as it waits for its points, `y` its image. -/
def Seat.resumed (s : State) (x : Launch) (t : Seat) (r : Nat) (c y : Ctx) : Ctx := { y with
  num := s.ctx.num, mode := .waiting, notBefore := ((s.getCore (s.ctx.num / 2)).map Core.cyc).getD 0 + c.notBefore, yield_ := none
  live := none, drainAt := none, framed := y.csr.det
  csr := { y.csr with place := placeWord (koBgm x.kobj) t.lcl t.pcl (r / 2) (r % 2) (if t.side = 2 then r % 2 else t.side) } }
theorem State.placeContext_ctx (hn : t.ctxNum (r / 2) (r % 2) = s.ctx.num) (hm : c.mode = .saving) (hbad : s.pk.imageBad base r = []) :
    (s.placeContext x t base r c).ctx = Seat.resumed s x t r c (s.pk.imageCtx base r c) := by
  unfold State.placeContext
  extract_lets k n side place img bad s1 cyc c1 csr c2 s2 s3
  have hb : bad = [] := hbad
  have hnum : n = s.ctx.num := hn
  have h1 : s1 = s := by simp only [s1, hb]; rfl
  have hmode : c.mode ≠ .exited := by rw [hm]; decide
  have hc1 : c1 = s.pk.imageCtx base r c := by
    simp only [c1, if_neg hmode, h1]
    rfl
  have h2 : s2.ctx = c2 := by
    simp only [s2]
    rw [State.onCtx_ctx, if_pos (by rw [h1]; exact hn.symm)]
  have h3 : s3.ctx = s2.ctx := by
    refine State.foldl_frame State.ctx _ (fun u q => ?_) _ _
    dsimp only
    split <;> rfl
  have hc2 : c2 = Seat.resumed s x t r c (s.pk.imageCtx base r c) := by
    have hmd : (s.pk.imageCtx base r c).mode = .saving := hm
    simp only [c2, csr, hc1, hb, hmd, if_true, List.isEmpty_nil, Bool.not_true, Bool.false_and, Bool.or_false, cyc, h1, hnum]
    rfl
  exact (h3.trans h2).trans hc2
theorem State.placeContext_launches : (s.placeContext x t base r c).pk.sched.launches = s.pk.sched.launches := by
  unfold State.placeContext
  extract_lets k n side place img bad s1 cyc c1 csr c2 s2 s3
  have h1 : s1.pk.sched = s.pk.sched := congrArg Prod.snd (Pack.kept_logSectors s.pk bad)
  have h2 : s2.pk.sched = s1.pk.sched := by simp only [s2]; rw [State.onCtx_pk]
  have h3 : s3.pk.sched = s2.pk.sched := by
    refine State.foldl_frame (fun u => u.pk.sched) _ (fun u q => ?_) _ _
    dsimp only
    split <;> rfl
  rw [State.updPk_pk, Pack.updSched_sched]
  exact (congrArg Sched.launches (h3.trans (h2.trans h1)) : s3.pk.sched.launches = s.pk.sched.launches)
end

/-! ### A saved launch restored (R102, R495) -/

section
variable {k : Pack} {l : Launch} {t : Seat} {slot : Nat}
/-- The package with the scratchpad of a save slot back in the seat's cluster. -/
def Pack.restored (k : Pack) (l : Launch) (t : Seat) (slot : Nat) : Pack :=
  (((k.restoreSpad slot (koBgm l.kobj) t.pcl).remark l t.lcl slot t.pcl).rehome l.id (slotCluster slot) t.pcl).dropSpad slot
theorem Pack.kept_restored (hmarks : l.marks = []) : (k.restored l t slot).kept = k.kept := by
  have hrehome (j : Pack) (a b : Nat) : (j.rehome l.id a b).kept = j.kept := by rfl
  have hremark (j : Pack) : (j.remark l t.lcl slot t.pcl).kept = j.kept := by
    rw [Pack.remark, hmarks]
    exact Prod.ext (Prod.ext rfl (Prod.ext rfl (Prod.ext rfl (filter_dram_append (by simp))))) rfl
  rw [Pack.restored, Pack.kept_dropSpad, hrehome, hremark, Pack.kept_restoreSpad]
theorem Pack.restoreRange_eq_mem (k : Pack) (a d n : Nat) : (k.restoreRange a d n).mem = k.mem.write .spad a (k.dpaRead d n) := by
  have h (j : Pack) (p : Piece) (m : Stores) (b : List (Space × Nat)) : ({ j.clearBad p with mem := m, bad := b } : Pack).mem = m := by rfl
  have hlog : ((k.logSectors (k.dpaBad d n)).clearBad ⟨.spad, a, n⟩).mem = k.mem := Pack.logSectors_mem ..
  rw [Pack.restoreRange, h, hlog]
/-- A saved range stands in the cluster again. -/
theorem Pack.restored_read (hm : k.msc = []) (hwf : k.mem.wf = true) (hp : t.pcl < 32) {y : Nat × Nat × Nat} (hy : k.slotRanges slot = [y])
    (hle : y.1 + y.2.1 ≤ 2 ^ 22) : (k.restored l t slot).mem.read ⟨.spad, t.pcl * 2 ^ 22 + y.1, y.2.1⟩ = k.dpaRead y.2.2 y.2.1 := by
  have hhome : (k.freeGroups slot (koBgm l.kobj) t.pcl).home = k.home := congrArg Prod.fst (Pack.kept_freeGroups k slot (koBgm l.kobj) t.pcl)
  have hfree := ((Stores.wf_iff _).mp (Pack.freeGroups_wf slot (koBgm l.kobj) t.pcl hwf)).2.1
  have hlen := Pack.dpaRead_length hm hwf y.2.2 y.2.1
  have hspad : (k.restored l t slot).mem.spad = ((k.freeGroups slot (koBgm l.kobj) t.pcl).mem.spad.write (t.pcl * 2 ^ 22 + y.1)
      (k.dpaRead y.2.2 y.2.1)).clear (slotCluster slot * 2 ^ 22) (slotCluster slot * 2 ^ 22 + 2 ^ 22) := by
    have hdrop (j : Pack) : (j.dropSpad slot).mem.spad = j.mem.spad.clear (slotCluster slot * 2 ^ 22) (slotCluster slot * 2 ^ 22 + 2 ^ 22) := by rfl
    have hwrite (m : Stores) (a : Nat) (bs : List Byte) : (m.write .spad a bs).spad = m.spad.write a bs := by rfl
    rw [Pack.restored, hdrop, Pack.rehome_mem, Pack.remark_mem, Pack.restoreSpad_eq, hy, List.foldl_cons, List.foldl_nil, Pack.restoreRange_eq_mem,
      hwrite, Pack.dpaRead_congr hhome]
  have hwrite := Memory.wf_write _ (t.pcl * 2 ^ 22 + y.1) (k.dpaRead y.2.2 y.2.1) hfree
  have hread := Memory.read_write _ (t.pcl * 2 ^ 22 + y.1) (k.dpaRead y.2.2 y.2.1) hfree
  rw [hlen, Memory.read_eq _ _ _ hwrite] at hread
  change (k.restored l t slot).mem.spad.read _ _ = _
  rw [hspad, Memory.read_eq _ _ _ (Memory.wf_clear _ _ _ hwrite)]
  refine Eq.trans (List.map_congr_left fun i hi => ?_) hread
  have hlt : i < y.2.1 := List.mem_range.mp hi
  rw [Memory.get_clear _ _ _ _ hwrite, if_neg (by simp only [slotCluster]; omega)]
end

section
variable {s : State} {l : Launch} {t : Seat} {slot r : Nat} {c : Ctx} (hl : s.pk.sched.launches = [l]) (hn : s.pk.arg.n = l.id)
  (hslots : l.slots = [(t.lcl, slot)]) (hseats : l.seats = [t]) (himgs : l.imgs = [(t.lcl, r, c)]) (ho : s.pk.ops = []) (hb : s.pk.board = [])
include ho hb
omit hl hn hslots hseats himgs in
theorem Pack.renumber_idle : s.pk.renumber l = s.pk := by
  obtain ⟨ctx, sib, core, todo, past, pk⟩ := s
  cases pk
  simp_all [Pack.renumber]
include hl hn hslots hseats himgs
theorem execContextRestore_one : execContextRestore s = .next (
    ({ s with pk := s.pk.restored l t slot }.placeContext l t (s.pk.slotBase slot) r c).updPk fun k =>
      (k.updLaunch l.id fun l => { l with phase := .running, slots := [], imgs := [], marks := [] }).schedule 0 .launchRetire { n := l.id }) := by
  have hfind : l.seats.find? (fun t' => t'.lcl == t.lcl) = some t := by
    rw [hseats]
    simp
  have hi : l.imgs.filter (fun i => i.1 == t.lcl) = [(t.lcl, r, c)] := by
    rw [himgs]
    simp
  unfold execContextRestore
  rw [Pack.launch_one hl hn]
  simp only [Pack.renumber_idle ho hb, hslots, List.foldl_cons, List.foldl_nil, hfind, hi, State.updPk, ho, List.filter_nil, done, Pack.restored]
omit ho hb hn hslots hseats himgs in
theorem State.restored_frame (hmarks : l.marks = []) (hm : c.mode = .saving) (hnum : t.ctxNum (r / 2) (r % 2) = s.ctx.num)
    (hbad : s.pk.imageBad (s.pk.slotBase slot) r = []) :
    let u := { s with pk := s.pk.restored l t slot }.placeContext l t (s.pk.slotBase slot) r c
    u.ctx = Seat.resumed s l t r c (s.pk.imageCtx (s.pk.slotBase slot) r c) ∧ u.pk.sched.launches = [l] ∧
      u.pk.mem = (s.pk.restored l t slot).mem := by
  have hkept := Pack.kept_restored (k := s.pk) (t := t) (slot := slot) hmarks
  have hhome : (s.pk.restored l t slot).home = s.pk.home := congrArg Prod.fst hkept
  have hsched : (s.pk.restored l t slot).sched = s.pk.sched := congrArg Prod.snd hkept
  generalize s.pk.slotBase slot = base at *
  generalize s.pk.restored l t slot = j at *
  have himage : j.imageBase base r = s.pk.imageBase base r := by
    simp only [Pack.imageBase, Pack.imagePlace, Pack.dpaWord_congr hhome]
  have hread : j.imageCtx base r c = s.pk.imageCtx base r c := by
    simp only [Pack.imageCtx, himage, Pack.dpaWord_congr hhome]
  have hbad' : j.imageBad base r = [] := by
    rw [← hbad, Pack.imageBad, himage, Pack.dpaBad_congr hhome, Pack.dpaBad_congr hhome, Pack.imagePlace, Pack.dpaWord_congr hhome]
    rfl
  refine ⟨?_, ?_, State.placeContext_mem ..⟩
  · rw [State.placeContext_ctx (s := { s with pk := j }) hnum hm hbad', ← hread]
    rfl
  · rw [State.placeContext_launches]
    exact (congrArg Sched.launches hsched).trans hl
theorem execContextRestore_resumes (hmarks : l.marks = []) (hmsc : s.pk.msc = []) (hm : c.mode = .saving)
    (hnum : t.ctxNum (r / 2) (r % 2) = s.ctx.num) (hp : t.pcl < 32) (hwf : s.pk.mem.wf = true) (hbad : s.pk.imageBad (s.pk.slotBase slot) r = []) :
    ∃ u, execContextRestore s = .next u ∧ u.ctx = Seat.resumed s l t r c (s.pk.imageCtx (s.pk.slotBase slot) r c) ∧
      u.pk.sched.launches = [{ l with phase := .running, slots := [], imgs := [], marks := [] }] ∧
      (∀ y, s.pk.slotRanges slot = [y] → y.1 + y.2.1 ≤ 2 ^ 22 →
        u.pk.mem.read ⟨.spad, t.pcl * 2 ^ 22 + y.1, y.2.1⟩ = s.pk.dpaRead y.2.2 y.2.1) := by
  obtain ⟨hctx, hlaunches, hmem⟩ := State.restored_frame (slot := slot) hl hmarks hm hnum hbad
  refine ⟨_, execContextRestore_one hl hn hslots hseats himgs ho hb, hctx, ?_, fun y hy hle => ?_⟩
  · rw [State.updPk_pk]
    simp [Pack.schedule, Pack.updLaunch, hlaunches]
  · rw [State.updPk_pk, Pack.mem_schedule]
    refine Eq.trans ?_ (Pack.restored_read (l := l) hmsc hwf hp hy hle)
    exact congrArg (fun m : Stores => m.read _) hmem
end

end Sys2Proof.Machine
end

-- ================================================================
-- Proofs, scope: The scheduler's steps settled
-- ================================================================

section
namespace Sys2Proof.Machine
open Sys2Proof

/-! ### A kernel of higher priority than the running launch (R98) -/

section
variable {s : State} {c : Cand} {ko roles : List Word} {v : Launch} {seats : List Seat} (hc : s.pk.sched.claims = [])
  (hl : s.pk.sched.launches = [v])
include hc hl
/-- What the launch given up for a candidate is left as, and the context in focus. -/
theorem State.preempted_frame : ((s.saving c v seats).requestYield v).pk.ioRd 0x20000 = s.pk.ioRd 0x20000 ∧
    ((s.saving c v seats).requestYield v).pk.sched.claims = [⟨c.stream, c.launch, seats, [v.id]⟩] ∧
    ((s.saving c v seats).requestYield v).pk.sched.launches =
      [{ v with phase := .saving, slots := (v.seats.map Seat.lcl).zip s.pk.freeSlots }] ∧
    (∀ x, v.seats = [x] → s.ctx.launch = v.id → s.ctx.num ∈ x.ctxs → ((s.saving c v seats).requestYield v).ctx =
      { s.ctx with yield_ := some (s.ageOf s.ctx.num + bits (s.pk.ioRd 0x20008) 31 0) }) ∧
    (s.ctx.launch ≠ v.id → ((s.saving c v seats).requestYield v).ctx = s.ctx) := by
  obtain ⟨hclaims, hlaunches⟩ := State.saving_frame (c := c) (seats := seats) hc hl
  have hio : ((s.saving c v seats).requestYield v).pk.io = s.pk.io := State.requestYield_io ..
  refine ⟨Pack.ioRd_congr hio _, ?_, ?_, fun x hx hid hn => ?_, fun hid => ?_⟩
  · rw [State.requestYield_sched]
    exact hclaims
  · rw [State.requestYield_sched]
    exact hlaunches
  · exact State.requestYield_ctx_one (s.saving c v seats) hx hid hn
  · exact State.requestYield_ctx_other (s.saving c v seats) hid
end

/-! ### Rounds with one candidate (R86) -/

section
variable {s : State} (hn : s.pk.arg.n ≠ 1) (hc : s.pk.sched.claims = []) (hm : s.pk.svc.moving = false) {c : Cand}
  (hh : s.pk.heads (List.range 64) = (s.pk, [c]))
include hn hc hm hh
/-- A kernel that fits is admitted, and its stream's next record does not age. -/
theorem execSchedulingRound_admits {ko roles : List Word} {seats : List Seat} (hl : s.pk.sched.launches = []) (h0 : c.launch = 0)
    (hw : c.work = .kernel ko roles) (hp : s.pk.placement s.pk.sched.launches s.pk.closed ko = some seats) (hlt : s.pk.csHead c.stream + 1 < 2 ^ 64) :
    execSchedulingRound s = .next ((s.admitKernel c ko roles seats).updPk fun k => k.takeRamps (s.admitKernel c ko roles seats).stepOf) := by
  have hplace : s.place c = some (s.admitKernel c ko roles seats) := by
    simp only [State.place, hw, hp, Option.map_some, h0, if_true]
  have hage (period : Nat) : (s.admitKernel c ko roles seats).pk.ageOne period s.pk.csHead c = (s.admitKernel c ko roles seats).pk :=
    Pack.ageOne_passed _ _ h0 (by rw [State.admitKernel_csHead _ _ _ _ _ hlt]; omega)
  rw [execSchedulingRound_one hn hc hm hh (by simp [hl]), State.walk_places hc _ _ hplace, State.walk, State.roundEnd_one]
  simp only [State.updPk, hage]
/-- Where it fits in place of the running launch alone, that one is saved for it. -/
theorem execSchedulingRound_preempts {t : State} (hsv : ∀ l ∈ s.pk.sched.launches, l.phase ≠ .saved) (hplace : s.place c = none)
    (hp : s.preempt c = some t) (hio : t.pk.ioRd 0x20000 = s.pk.ioRd 0x20000) : execSchedulingRound s =
      .next (t.updPk fun j => (j.ageOne (max 1 (bits (s.pk.ioRd 0x20000) 15 0)) s.pk.csHead c).takeRamps t.stepOf) := by
  rw [execSchedulingRound_one hn hc hm hh hsv, State.walk_preempts hc _ _ hplace hp, State.walk, State.roundEnd_one, hio]
/-- One that can be neither placed nor served by a pre-emption waits. -/
theorem execSchedulingRound_waits (hsv : ∀ l ∈ s.pk.sched.launches, l.phase ≠ .saved) (hplace : s.place c = none) (hp : s.preempt c = none) :
    execSchedulingRound s =
      .next (s.updPk fun j => (j.ageOne (max 1 (bits (s.pk.ioRd 0x20000) 15 0)) s.pk.csHead c).takeRamps s.stepOf) := by
  rw [execSchedulingRound_one hn hc hm hh hsv, State.walk_stops hc _ _ hplace hp, State.roundEnd_one]
end

end Sys2Proof.Machine

open Sys2Proof Sys2Proof.Machine

/-- Settles O56: a rule per step, first those of the command streams, the buffer service and the launches' ends, then those of a
scheduling round and of what it begins. -/
theorem schedulerSteps : Obligations.SchedulerSteps := by
  unfold Obligations.SchedulerSteps
  refine ⟨fun s => ?_, fun s => ?_⟩
  · refine ⟨fun hl => ⟨execCstail_appends hl, execCstail_refused hl⟩, execCstail_launching, execCsctlEn_enables, rfl,
      fun v n hp hn => execCoalesceExpiry_sends hp hn, fun r hr hn => ⟨execRampDwell_up hr hn, execRampDwell_down hr hn⟩,
      fun hb => ?buffer, fun b hs hu hm hp => ?service, execEnrgUpdate_next s, execSchedulingRound_none, fun p st hr h0 => ?ramps,
      fun l hl hn => ?launch, execLaunchRetire_record, fun l t hl hph hseats hn hm => ?save,
      fun l z hl hz hn hlaunch hctx hid hm => execContextRelease_one hl hz hn hlaunch hctx hid hm⟩
    case buffer =>
      exact ⟨fun c h => execUnmap_refused hb rfl rfl h, fun h => execUnmap_begins hb rfl rfl h, fun h => execMigrate_used hb rfl h,
        fun hu => ⟨fun c h => execMigrate_bad hb rfl rfl hu h, fun hg h => execMigrate_clashing hb rfl rfl hu hg h,
          fun hg hok hfree => execMigrate_begins hb rfl rfl hu hg hok fun ⟨i, hi⟩ => hfree i hi⟩⟩
    case service =>
      have hstep := execBufferServiceResume_eq hs hu hm hp
      refine ⟨fun hmig => hstep.trans ?_, fun hmig hend => hstep.trans ?_, fun hmig hgo => hstep.trans ?_,
        execBufferServiceResume_unmaps hs hu hm hp⟩
      · rw [if_neg (by simp [hmig])]
        rfl
      · rw [if_pos hmig]
        exact congrArg Host.Outcome.next (if_neg (Nat.not_lt.mpr hend))
      · rw [if_pos hmig]
        exact congrArg Host.Outcome.next (if_pos hgo)
    case ramps => exact ⟨Pack.takeRamps_one st hr h0 true, Pack.takeRamps_one st hr h0 false, Pack.takeRamps_cancel st h0⟩
    case launch =>
      exact ⟨execContextStart_none hl hn, fun t => execContextStart_one hl hn, execWsLoadDone_one hl hn, execLaunchRetire_one hl hn,
        execContextRestore_none hl hn⟩
    case save =>
      have hctx := State.finishSave_ctx (s := s) (l := l) (t := t)
      refine ⟨_, execContextSaveDone_ends hl hseats hph hn hm, rfl, fun hmem hid => ?_, fun hmem => ?_, State.finishSave_launches hl hseats⟩
      · rw [hctx, if_pos hmem, Ctx.left, if_pos hid]
      · rw [hctx, if_neg hmem]
  · refine ⟨sortCand_sorts, sortVictims_sorts, fun closed ko p x => ?side,
      fun closed ko => ⟨Pack.placement_none_iff .., fun seats => Pack.placement_some⟩,
      fun c ko roles seats hround hl hh h0 hw hp hlt => ?admission, Launch.newContext_spec,
      fun c ko roles v seats hround hl hh hw hph hprio hs hnone hfit hfree => ?preempt, fun c hround hh hsv hplace hpre => ?wait,
      fun all c cs hc hplace hpre => State.walk_stops hc all cs hplace hpre, fun c h0 hlt => Pack.ageOne_stays _ _ h0 hlt,
      fun c ko roles l seats hl hcl h0 hw hp => State.place_resumes hl hcl h0 hw hp,
      fun l slot t r c hl hn hslots hseats himgs hmarks ho hb hmsc hm hnum hp hwf hbad =>
        execContextRestore_resumes hl hn hslots hseats himgs ho hb hmarks hmsc hm hnum hp hwf hbad⟩
    case side => simpa only [Pack.mayTake, and_assoc] using s.pk.sideOn_iff s.pk.sched.launches closed ko p x
    case admission =>
      obtain ⟨hn, hc, hm⟩ := hround
      refine ⟨execSchedulingRound_admits hn hc hm hh hl h0 hw hp hlt, State.admitKernel_launches s c ko roles seats hl,
        State.admitKernel_csHead s c ko roles seats hlt, State.admitKernel_starts s c ko roles seats, fun t ht i hi r hr hnum => ?_,
        fun hwf t ht g hg hb x hx => State.admitKernel_zeroed s c ko roles seats hwf ht hg hb hx⟩
      subst ht
      exact State.admitKernel_ctx s c ko roles hi hr hnum
    case preempt =>
      obtain ⟨hn, hc, hm⟩ := hround
      have hplace : s.place c = none := State.place_full hw (by rw [hl, Pack.closed_nil hc]; exact hnone)
      have hpre := State.preempt_one hc hl hw hph hprio hs hfit hfree
      obtain ⟨hio, hrest⟩ := State.preempted_frame (c := c) (seats := seats) hc hl
      exact ⟨_, hpre, execSchedulingRound_preempts hn hc hm hh (by simp [hl, hph]) hplace hpre hio, hrest⟩
    case wait =>
      obtain ⟨hn, hc, hm⟩ := hround
      exact execSchedulingRound_waits hn hc hm hh hsv hplace hpre
end

-- ================================================================
-- Proofs, scope: Prefetch, MSC control and LAUNCH
-- ================================================================

section
namespace Sys2Proof.Machine
open Sys2Proof

/-! ### What issuing leaves beside the operations -/

@[simp] theorem Pack.ask_pins (who : Nat) (k : Pack) (w : Word) : (Pack.ask who k w).pins = k.pins := by
  unfold Pack.ask
  split <;> rfl
@[simp] theorem Pack.watchDead_pins (k : Pack) (o : Op) : (k.watchDead o).pins = k.pins := by
  unfold Pack.watchDead
  split <;> rfl
@[simp] theorem State.begin_pins (s : State) (o : Op) : (s.begin_ o).pk.pins = s.pk.pins := by
  unfold State.begin_
  simp only
  split <;> rfl
@[simp] theorem State.poll_pins (s : State) (o : Op) : (s.poll o).pk.pins = s.pk.pins := by rfl
theorem State.issueOp_pins (s : State) (o : Op) : (s.issueOp o).pk.pins = s.pk.pins := by
  unfold State.issueOp
  simp only
  split <;> simp [State.updPk, Pack.foldl_frame Pack.pins _ fun k w => Pack.ask_pins _ k w]

/-- A numbered operation whose witness is returned at latency 2 (R138, R394, R397). -/
theorem State.hasWitnessed_putWitness (s : State) (tl : Nat) (d : BitVec 5) (o : Op) :
    s.hasWitnessed ((s.issueNumbered tl o).2.putWitness d (s.issueNumbered tl o).1) tl d o.kind o.cls o.lat o.lat2 o.waits ∧
    ((s.issueNumbered tl o).2.putWitness d (s.issueNumbered tl o).1).core = s.core := by
  obtain ⟨hw, hissued, hkeeps, hctx, hcore, hnum, -⟩ := s.issueNumbered_facts tl o
  refine ⟨⟨hissued, hnum, hkeeps, ?_⟩, hcore⟩
  rw [State.putWitness, State.put_ctx_pend, hctx, hcore, hw]

/-! ### PREF, MSCWB and MSCINV (R349, R350) -/

section
variable {s : State} {a b d : BitVec 5} {f : BitVec 1}

/-- The operation of a prefetch: at most 2^24 bytes, without a number. -/
def State.prefOp (s : State) (a b : BitVec 5) : Op :=
  let r := s.reach a s.dispG (min (s.rs b).toNat (2 ^ 24))
  { id := 0, ctx := 0, kind := .pref r, cls := 0, lat := s.homeLat r }
theorem exec_pref_issues (h : s.mayAccess a s.dispG (min (s.rs b).toNat (2 ^ 24)) rCS) :
    exec (.pref a b f) s = .next (s.issueOp (s.prefOp a b)) := by
  show execPref a b f s = _
  rw [execPref, s.accessReg_ok _ _ _ _ _ h]
  rfl
theorem exec_prefFd_fault {e : FaultRec} (h : s.accessReg a s.dispG (min (s.rs b).toNat (2 ^ 24)) rCS = .error (.fault e)) :
    exec (.pref a b 1) s = .next s := by
  show execPref a b 1 s = _
  rw [execPref, h]
  rfl
theorem exec_prefFd_met {e : FaultRec} (h : s.accessReg a s.dispG (min (s.rs b).toNat (2 ^ 24)) rCS = .error (.met e)) :
    exec (.pref a b 1) s = .next (s.logMet e) := by
  show execPref a b 1 s = _
  rw [execPref, h]
  rfl

theorem State.mscRange_witnesses (h : s.mayAccess a 0 (s.rs b).toNat rRD) (drop : Bool) : ∃ t, deliver s (s.mscRange drop d a b) = .next t ∧
    s.hasWitnessed t s.tlG d (.writeback (s.reach a 0 (s.rs b).toNat) drop) 0x10 (s.homeLat (s.reach a 0 (s.rs b).toNat)) 0 [] ∧
    t.core = s.core := by
  rw [State.mscRange, s.accessReg_ok _ _ _ _ _ h]
  exact ⟨_, rfl, s.hasWitnessed_putWitness ..⟩

/-! ### LAUNCH (R95, R213) -/

/-- Stream `n` is enabled, takes launches and is of the context's owner. -/
def State.mayLaunch (s : State) (n : Nat) : Prop :=
  n < 64 ∧ s.pk.csEn n = true ∧ (s.pk.csCtl n).getLsbD 62 = true ∧ bits (s.pk.csCtl n) 15 0 = s.ownId.toNat
/-- The operation of LAUNCH: its image of 128 bytes, to be appended to stream `n` with the points of the context's timelines. -/
def State.launchOp (s : State) (d b : BitVec 5) (n : Nat) : Op :=
  { id := 0, ctx := 0, kind := .append n (s.reach b 0 128) s.headWits, cls := 0x20, lat := 4, reg := d.setWidth 8 }
theorem exec_launch_issues (hn : s.mayLaunch (s.rs a).toNat) (h : s.mayAccess b 0 128 rRD) :
    exec (.launch d a b) s = .next ((s.issueNumbered s.tlG (s.launchOp d b (s.rs a).toNat)).2.updCtx fun c => { c with
      pend := c.pend ++ [{ due := s.core.cyc + 4, wr := .s d.toNat 0, land := s.pk.opCtr, ready := false }] }) := by
  obtain ⟨hlt, hen, hlaunch, hown⟩ := hn
  show execLaunch d a b s = _
  rw [execLaunch, if_neg (by simp [hlt, hen, hlaunch, hown]), s.accessReg_ok _ _ _ _ _ h]
  rfl
end

/-! ### A line asked for ahead (R349) -/

section
variable {k : Pack} {via : Via} {l : Nat}

theorem Pack.dropLine_msc : (k.dropLine l).msc = k.msc.filter (fun x => x.line != l) := by rfl
/-- A line set where no entry of it stands comes last. -/
theorem Pack.setLine_dropLine_msc (x : MscLine) :
    ((k.dropLine x.line).setLine x).msc = k.msc.filter (fun y => y.line != x.line) ++ [x] := by
  rw [Pack.setLine_msc, Pack.dropLine_msc, replaceOrAdd, if_neg (by simp)]
theorem Pack.makeRoom_of_length_lt (h : k.msc.length < 16) : k.makeRoom l = some k :=
  if_pos (Nat.lt_of_le_of_lt (List.length_filter_le ..) h)
/-- A line as a fill takes it: clean, uncounted, with the home's bytes, pinned where a window that is ACTIVE holds it (R354). -/
def Pack.filledLine (k : Pack) (l : Nat) : MscLine := { k.takenLine l with pinned := k.inPin l }
/-- With fewer than 16 lines in all, every set has room: none goes but an entry of the line itself. -/
theorem Pack.fill_of_length_lt (h : k.msc.length < 16) : k.fill l = (k.dropLine l).setLine (k.filledLine l) := by
  rw [Pack.fill, Pack.makeRoom_of_length_lt (Nat.lt_of_le_of_lt (List.length_filter_le ..) h)]
  rfl
theorem Pack.fill_frame (h : k.msc.length < 16) : (k.fill l).mem = k.mem ∧ (k.fill l).pins = k.pins := by
  rw [Pack.fill_of_length_lt h]
  exact ⟨rfl, rfl⟩
theorem Pack.mem_fill_msc (h : k.msc.length < 16) (x : MscLine) :
    x ∈ (k.fill l).msc ↔ x ∈ k.msc ∧ x.line ≠ l ∨ x = k.filledLine l := by
  have hmsc : (k.fill l).msc = k.msc.filter (fun y => y.line != l) ++ [k.filledLine l] := by
    rw [Pack.fill_of_length_lt h]
    exact Pack.setLine_dropLine_msc (k.filledLine l)
  simp [hmsc]

/-- A prefetch leaves the package, or the bank is reached and the line taken, which neither MS = 1 nor CP 0b10 lets happen. -/
theorem Pack.prefetchLine_cases (via : Via) (k : Pack) (l : Nat) : Pack.prefetchLine via k l = k ∨
    ¬ (via.ms = true ∨ via.cp = 2) ∧ Pack.prefetchLine via k l = (k.reachBank via.cls l).fill l := by
  unfold Pack.prefetchLine
  split
  next => exact .inl rfl
  next h => exact .inr ⟨by rintro (h' | h') <;> simp [h'] at h, rfl⟩
end

end Sys2Proof.Machine

open Sys2Proof Sys2Proof.Machine

/-- Settles O50: PREF by the three ends of its access, MSCWB and MSCINV as one numbered write-back, LAUNCH on a stream that takes it,
and a line asked for ahead by whether it is taken, where the MSC holds fewer than 16 lines. The four cycles of LAUNCH's image, however
far its home, are the model's (log 5). -/
theorem cacheControlAndLaunch : Obligations.CacheControlAndLaunch := by
  refine ⟨fun s d a b f => ⟨fun h => ?pref, fun e => exec_prefFd_fault, fun e => exec_prefFd_met,
    fun h => ⟨State.mscRange_witnesses h false, State.mscRange_witnesses h true⟩, fun n hn hlt hen hl ho h => ?launch⟩,
    fun k via l h => ?line⟩
  case pref =>
    obtain ⟨hissued, hkeeps, hctx, hcore, htls, hboard, -⟩ := s.issueOp_facts (s.prefOp a b)
    exact ⟨_, exec_pref_issues h, hissued, hkeeps, hcore, congrArg Ctx.pend hctx, htls, hboard, s.issueOp_pins _⟩
  case launch =>
    subst hn
    obtain ⟨-, hissued, hkeeps, hctx, -, hnum, -⟩ := s.issueNumbered_facts s.tlG (s.launchOp d b (s.rs a).toNat)
    exact ⟨_, exec_launch_issues ⟨hlt, hen, hl, ho⟩ h, hissued, hnum, hkeeps, by rw [State.updCtx_ctx, hctx]⟩
  case line =>
    obtain hsame | ⟨halloc, htaken⟩ := Pack.prefetchLine_cases via k l
    · rw [hsame]
      exact ⟨rfl, rfl, fun x hx _ => hx, fun _ => rfl, fun x hx hnew => absurd hx hnew⟩
    · have hlen : (k.reachBank via.cls l).msc.length < 16 := h
      obtain ⟨hmem, hpins⟩ := Pack.fill_frame (l := l) hlen
      rw [htaken]
      refine ⟨hmem, hpins, fun x hx hl => (Pack.mem_fill_msc hlen x).mpr (.inl ⟨hx, hl⟩), fun hms => absurd hms halloc, fun x hx hnew => ?_⟩
      obtain ⟨hold, -⟩ | rfl := (Pack.mem_fill_msc hlen x).mp hx
      · exact absurd hold hnew
      · exact ⟨rfl, rfl, rfl, rfl⟩
end

-- ================================================================
-- Proofs, scope: Words read back: fields, opcodes and rows
-- ================================================================

section
namespace Sys2Proof

/-- The makers of the five classes under one name. -/
def makeOf : SlotClass → Nat → Nat → Except DecodeError Instr
  | .S => makeS
  | .V => makeV
  | .M => makeM
  | .L => makeL
  | .G => makeG
theorem decodeNat_eq_makeOf (c : SlotClass) (w : Nat) : decodeNat c w = makeOf c (w / 131072 % 256) w := by cases c <;> rfl

theorem ofNat_eq_of_mod {n m : Nat} {x : BitVec n} (h : m % 2 ^ n = x.toNat) : BitVec.ofNat n m = x :=
  BitVec.eq_of_toNat_eq (by rw [BitVec.toNat_ofNat, h])
theorem ite_ok {α ε : Type} {P : Prop} {_ : Decidable P} {x y : α} {e : ε} (hP : P) (h : x = y) :
    (if P then Except.ok x else .error e) = .ok y := by
  rw [if_pos hP, h]

/-! ### Fields in the low 17 bits (R113)

Most rows hold D, A and B at bits 12, 7 and 2, or some of them, below them a modifier `m`, an immediate `m` in the place of B and M, or two
modifiers `v` and `z`; in an opcode pair a bit `u` stands above. `low_…_lt` says that such fields fit, `fields_…` that a word with these low
bits gives them back. -/

section
variable {α : Type} {w n : Nat} {d a b : BitVec 5}
theorem low_da_lt : d.toNat * 4096 + a.toNat * 128 < 131072 := by omega
theorem low_dab_lt : d.toNat * 4096 + a.toNat * 128 + b.toNat * 4 < 131072 := by omega
theorem low_dabm_lt {m : BitVec n} (hn : n = 1 ∨ n = 2 := by decide) : d.toNat * 4096 + a.toNat * 128 + b.toNat * 4 + m.toNat < 131072 := by
  obtain rfl | rfl := hn <;> omega
theorem low_dai_lt {m : BitVec n} (hn : n = 2 ∨ n = 7 := by decide) : d.toNat * 4096 + a.toNat * 128 + m.toNat < 131072 := by
  obtain rfl | rfl := hn <;> omega
theorem low_dabwz_lt {v z : BitVec 1} : d.toNat * 4096 + a.toNat * 128 + b.toNat * 4 + v.toNat * 2 + z.toNat < 131072 := by omega

theorem fields_da {f : BitVec 5 → BitVec 5 → α} (hw : w % 131072 = d.toNat * 4096 + a.toNat * 128) :
    f (BitVec.ofNat 5 (w / 4096)) (BitVec.ofNat 5 (w / 128)) = f d a := by
  congr 1 <;> exact ofNat_eq_of_mod (by omega)
theorem fields_dab {f : BitVec 5 → BitVec 5 → BitVec 5 → α} (hw : w % 131072 = d.toNat * 4096 + a.toNat * 128 + b.toNat * 4) :
    f (BitVec.ofNat 5 (w / 4096)) (BitVec.ofNat 5 (w / 128)) (BitVec.ofNat 5 (w / 4)) = f d a b := by
  congr 1 <;> exact ofNat_eq_of_mod (by omega)
theorem fields_dabm {m : BitVec n} {f : BitVec 5 → BitVec 5 → BitVec 5 → BitVec n → α}
    (hw : w % 131072 = d.toNat * 4096 + a.toNat * 128 + b.toNat * 4 + m.toNat) (hn : n = 1 ∨ n = 2 := by decide) :
    f (BitVec.ofNat 5 (w / 4096)) (BitVec.ofNat 5 (w / 128)) (BitVec.ofNat 5 (w / 4)) (BitVec.ofNat n (w / 1)) = f d a b m := by
  obtain rfl | rfl := hn <;> congr 1 <;> exact ofNat_eq_of_mod (by omega)
theorem fields_dai {m : BitVec n} {f : BitVec 5 → BitVec 5 → BitVec n → α}
    (hw : w % 131072 = d.toNat * 4096 + a.toNat * 128 + m.toNat) (hn : n = 2 ∨ n = 7 := by decide) :
    f (BitVec.ofNat 5 (w / 4096)) (BitVec.ofNat 5 (w / 128)) (BitVec.ofNat n (w / 1)) = f d a m := by
  obtain rfl | rfl := hn <;> congr 1 <;> exact ofNat_eq_of_mod (by omega)
theorem fields_dabwz {v z : BitVec 1} {f : BitVec 5 → BitVec 5 → BitVec 5 → BitVec 1 → BitVec 1 → α}
    (hw : w % 131072 = d.toNat * 4096 + a.toNat * 128 + b.toNat * 4 + v.toNat * 2 + z.toNat) :
    f (BitVec.ofNat 5 (w / 4096)) (BitVec.ofNat 5 (w / 128)) (BitVec.ofNat 5 (w / 4)) (BitVec.ofNat 1 (w / 2)) (BitVec.ofNat 1 (w / 1)) =
      f d a b v z := by
  congr 1 <;> exact ofNat_eq_of_mod (by omega)
theorem fields_udabw {u : BitVec 1} {m : BitVec 2} {f : BitVec 1 → BitVec 5 → BitVec 5 → BitVec 5 → BitVec 2 → α}
    (hw : w % 262144 = u.toNat * 131072 + d.toNat * 4096 + a.toNat * 128 + b.toNat * 4 + m.toNat) :
    f (BitVec.ofNat 1 (w / 131072)) (BitVec.ofNat 5 (w / 4096)) (BitVec.ofNat 5 (w / 128)) (BitVec.ofNat 5 (w / 4)) (BitVec.ofNat 2 (w / 1)) =
      f u d a b m := by
  congr 1 <;> exact ofNat_eq_of_mod (by omega)
theorem fields_udaw {u : BitVec 1} {m : BitVec 2} {f : BitVec 1 → BitVec 5 → BitVec 5 → BitVec 2 → α}
    (hw : w % 262144 = u.toNat * 131072 + d.toNat * 4096 + a.toNat * 128 + m.toNat) :
    f (BitVec.ofNat 1 (w / 131072)) (BitVec.ofNat 5 (w / 4096)) (BitVec.ofNat 5 (w / 128)) (BitVec.ofNat 2 (w / 1)) = f u d a m := by
  congr 1 <;> exact ofNat_eq_of_mod (by omega)
end

/-! ### Guard and opcode -/

section
variable {gd : Guard} {op low : Nat}
theorem slotWord_lt (hop : op < 256) (hlow : low < 131072) : slotWord gd op low < 2 ^ 32 := by
  unfold slotWord; omega
theorem slotWord_opcode (hop : op < 256) (hlow : low < 131072) : slotWord gd op low / 131072 % 256 = op := by
  unfold slotWord; omega
theorem slotWord_low (hlow : low < 131072) : slotWord gd op low % 131072 = low := by
  unfold slotWord; omega
theorem guardOf_slotWord (hop : op < 256) (hlow : low < 131072) : guardOf (slotWord gd op low) = gd := by
  unfold guardOf slotWord
  congr 1 <;> exact ofNat_eq_of_mod (by omega)
end

/-! ### Rows: an opcode and what its words hold -/

variable {c : SlotClass} {gd : Guard} {e : EngineOps} {i : Instr} {op low : Nat}
theorem decodeSlot_encode {x : SlotInstr} (hop : op < 256) (hlow : low < 131072) (henc : encodeNat x = slotWord x.gd op low)
    (hi : makeOf c op (slotWord x.gd op low) = .ok x.i)
    (hops : (if isEngine x.i then engineOpsOf (slotWord x.gd op low) else ⟨0, 0, 0⟩) = x.ops) :
    decodeSlot c (encode x) = .ok x := by
  have hword : (encode x).toNat = slotWord x.gd op low := by
    rw [encode, henc, BitVec.toNat_ofNat, Nat.mod_eq_of_lt (slotWord_lt hop hlow)]
  rw [decodeSlot, hword, decodeWord, decodeNat_eq_makeOf, slotWord_opcode hop hlow, hi]
  simp only [guardOf_slotWord hop hlow, hops]

/-- A row of one opcode: it is enough that every word with the low bits of the encoding holds the instruction. -/
theorem decodeSlot_encode_row (hi : isEngine i = false) (he : e = ⟨0, 0, 0⟩) (hop : op < 256) (hlow : low < 131072)
    (henc : encodeNat ⟨gd, e, i⟩ = slotWord gd op low) (hread : ∀ w, w % 131072 = low → makeOf c op w = .ok i) :
    decodeSlot c (encode ⟨gd, e, i⟩) = .ok ⟨gd, e, i⟩ :=
  decodeSlot_encode hop hlow henc (hread _ (slotWord_low hlow)) (by simp [hi, he])

/-- A row of two opcodes, `op` and `op + 1`, which read alike: the low bit of the opcode is a field and stands in bit 17 of `low`. -/
theorem decodeSlot_encode_pair (hi : isEngine i = false) (he : e = ⟨0, 0, 0⟩) (hop : op < 256) (heven : op % 2 = 0)
    (hlow : low < 262144) (henc : encodeNat ⟨gd, e, i⟩ = slotWord gd op low) (hmk : makeOf c (op + 1) = makeOf c op)
    (hread : ∀ w, w % 262144 = low → makeOf c op w = .ok i) : decodeSlot c (encode ⟨gd, e, i⟩) = .ok ⟨gd, e, i⟩ := by
  have hsplit : slotWord gd op low = slotWord gd (op + low / 131072) (low % 131072) := by
    unfold slotWord; omega
  have hw : slotWord gd op low % 262144 = low := by
    unfold slotWord; omega
  have hmk' : makeOf c (op + low / 131072) = makeOf c op := by
    obtain h | h : low / 131072 = 0 ∨ low / 131072 = 1 := by omega
    · rw [h, Nat.add_zero]
    · rw [h, hmk]
  exact decodeSlot_encode (by omega) (Nat.mod_lt _ (by decide)) (henc.trans hsplit) (by rw [hmk', ← hsplit, hread _ hw])
    (by simp [hi, he])
/-- A row of an engine command, whose D, A and B are not in the instruction. -/
theorem decodeSlot_encode_engine (hi : isEngine i = true) (hop : op < 256)
    (henc : encodeNat ⟨gd, e, i⟩ = slotWord gd op (e.d.toNat * 4096 + e.a.toNat * 128 + e.b.toNat * 4))
    (hread : ∀ w, w % 131072 = e.d.toNat * 4096 + e.a.toNat * 128 + e.b.toNat * 4 → makeOf c op w = .ok i) :
    decodeSlot c (encode ⟨gd, e, i⟩) = .ok ⟨gd, e, i⟩ := by
  have hw := slotWord_low (gd := gd) (op := op) (low_dab_lt (d := e.d) (a := e.a) (b := e.b))
  exact decodeSlot_encode hop low_dab_lt henc (hread _ hw) ((if_pos hi).trans (fields_dab (f := EngineOps.mk) hw))

end Sys2Proof
end

-- ================================================================
-- Proofs, scope: Round trip of the encoder, by class
-- ================================================================

section
namespace Sys2Proof

/-! ### The rows of each class (R123–R128)

In every class the rows without a check come first, then those whose only check is of reserved bits, then those that also check register
kinds or modifiers, which `instrOk` asks of the instruction; within each kind the rows stand by the fields they hold. -/

theorem decodeSlot_encode_classS (gd : Guard) (e : EngineOps) (i : Instr) (hc : classOf i = some .S) (hok : instrOk i = true)
    (hops : opsOk i e = true) : decodeSlot .S (encode ⟨gd, e, i⟩) = .ok ⟨gd, e, i⟩ := by
  cases i with
  | addi d a i | muli d a i | andi d a i | ori d a i | xori d a i | slli d a i | srli d a i | srai d a i | mini d a i | maxi d a i
  | lih d a i | csrw d a c | csrs d a c | csrc d a c =>
    exact decodeSlot_encode_row rfl (of_decide_eq_true hops) (by decide) low_dai_lt rfl fun w hw =>
      congrArg Except.ok (fields_dai hw)
  | b o | call o | bempty o w | ppt r =>
    exact decodeSlot_encode_row rfl (of_decide_eq_true hops) (by decide) (by omega) rfl fun w hw =>
      congrArg Except.ok (by congr 1 <;> exact ofNat_eq_of_mod (by omega))
  | add d a b | sub d a b | mul d a b | mulh d a b | mulhn d a b | div d a b | divn d a b | rem d a b | remn d a b | and d a b
  | or d a b | xor d a b | andn d a b | sll d a b | srl d a b | sra d a b | min d a b | max d a b | minn d a b | maxn d a b | bfi d a b =>
    exact decodeSlot_encode_row rfl (of_decide_eq_true hops) (by decide) low_dab_lt rfl fun w hw =>
      ite_ok (by omega) (fields_dab hw)
  | adds d a b t | subs d a b t | bfx d a b x | wmrg d a b x =>
    exact decodeSlot_encode_row rfl (of_decide_eq_true hops) (by decide) low_dabm_lt rfl fun w hw =>
      ite_ok (by omega) (fields_dabm hw)
  | tlread d a m =>
    exact decodeSlot_encode_row rfl (of_decide_eq_true hops) (by decide) low_dai_lt rfl fun w hw =>
      ite_ok (by omega) (fields_dai hw)
  | clz d a | ctz d a | popc d a | mov d a =>
    exact decodeSlot_encode_row rfl (of_decide_eq_true hops) (by decide) low_da_lt rfl fun w hw =>
      ite_ok (by omega) (fields_da hw)
  | li d i | ptos d | spred a b | bx a | callx a | frame a b m | wwait a | fence p s | csrr d c | rdts d | trap a n | tend d =>
    exact decodeSlot_encode_row rfl (of_decide_eq_true hops) (by decide) (by omega) rfl fun w hw =>
      ite_ok (by omega) (by congr 1 <;> exact ofNat_eq_of_mod (by omega))
  | cmpeq d a b | cmpne d a b | cmplt d a b | cmple d a b | cmpltn d a b | cmplen d a b | pand d a b | por d a b | pxor d a b
  | pandn d a b | hmk d a b | hadd d a b | hseto d a b | launch d a b =>
    simp only [instrOk, inKind, Bool.and_eq_true, decide_eq_true_eq] at hok
    exact decodeSlot_encode_row rfl (of_decide_eq_true hops) (by decide) low_dab_lt rfl fun w hw =>
      ite_ok (by omega) (fields_dab hw)
  | hchk d a b c =>
    simp only [instrOk, inKind, Bool.and_eq_true, decide_eq_true_eq] at hok
    exact decodeSlot_encode_row rfl (of_decide_eq_true hops) (by decide) low_dabm_lt rfl fun w hw =>
      ite_ok (by omega) (fields_dabm hw)
  | sext d a w | zext d a w | cmpeqi d a i | cmpnei d a i | cmplti d a i | cmplei d a i | cmpgti d a i | cmpgei d a i | haddi d a i =>
    simp only [instrOk, inKind, Bool.and_eq_true, decide_eq_true_eq] at hok
    exact decodeSlot_encode_row rfl (of_decide_eq_true hops) (by decide) low_dai_lt rfl fun w hw =>
      ite_ok (by omega) (fields_dai hw)
  | pnot d a | pmov d a | hidx d a | hoff d a | hmov d a | wtest d a =>
    simp only [instrOk, inKind, Bool.and_eq_true, decide_eq_true_eq] at hok
    exact decodeSlot_encode_row rfl (of_decide_eq_true hops) (by decide) low_da_lt rfl fun w hw =>
      ite_ok (by omega) (fields_da hw)
  | pset d v | loop l a n | lstrd l a b | lbrk l | whzn d m | tbegin a b | trec t r k | trecp t r | trev a b | tpop t r k | tpopp t r =>
    simp only [instrOk, inKind, Bool.and_eq_true, decide_eq_true_eq] at hok
    exact decodeSlot_encode_row rfl (of_decide_eq_true hops) (by decide) (by omega) rfl fun w hw =>
      ite_ok (by omega) (by congr 1 <;> exact ofNat_eq_of_mod (by omega))
  | ret | exit | nop | rett =>
    exact decodeSlot_encode_row rfl (of_decide_eq_true hops) (by decide) (by decide) rfl fun w hw =>
      ite_ok hw rfl
  | _ => cases hc

theorem decodeSlot_encode_classV (gd : Guard) (e : EngineOps) (i : Instr) (hc : classOf i = some .V) (hok : instrOk i = true)
    (hops : opsOk i e = true) : decodeSlot .V (encode ⟨gd, e, i⟩) = .ok ⟨gd, e, i⟩ := by
  cases i with
  | vdot d a b s =>
    exact decodeSlot_encode_row rfl (of_decide_eq_true hops) (by decide) low_dabm_lt rfl fun w hw =>
      congrArg Except.ok (fields_dabm hw)
  | cvt d a b | qnt d a b | dqnt d a b | vbcastl d a b | vperm d a b | vrot d a b | vsel d a b | vext d a b | vins d a b =>
    exact decodeSlot_encode_row rfl (of_decide_eq_true hops) (by decide) low_dab_lt rfl fun w hw =>
      ite_ok (by omega) (fields_dab hw)
  | vzip d a b h | vunzip d a b o =>
    exact decodeSlot_encode_row rfl (of_decide_eq_true hops) (by decide) low_dabm_lt rfl fun w hw =>
      ite_ok (by omega) (fields_dabm hw)
  | vabsI d a w | vnegI d a w =>
    exact decodeSlot_encode_row rfl (of_decide_eq_true hops) (by decide) low_dai_lt rfl fun w hw =>
      ite_ok (by omega) (fields_dai hw)
  | vmov d a | vrsum d a | vrmax d a | vrmin d a =>
    exact decodeSlot_encode_row rfl (of_decide_eq_true hops) (by decide) low_da_lt rfl fun w hw =>
      ite_ok (by omega) (fields_da hw)
  | mpush a =>
    exact decodeSlot_encode_row rfl (of_decide_eq_true hops) (by decide) (by omega) rfl fun w hw =>
      ite_ok (by omega) (congrArg Instr.mpush (ofNat_eq_of_mod (by omega)))
  | vaddF d a b t | vsubF d a b t | vmulF d a b t | vfma d a b t | vfms d a b t | vfnma d a b t | vdiv d a b t | vminF d a b t
  | vmaxF d a b t | vcmpeqF d a b t | vcmpltF d a b t | vcmpleF d a b t | vcmpun d a b t | vscalb d a b t =>
    simp only [instrOk, inKind, decide_eq_true_eq] at hok
    exact decodeSlot_encode_row rfl (of_decide_eq_true hops) (by decide) low_dabm_lt rfl fun w hw =>
      ite_ok (by omega) (fields_dabm hw)
  | vabsF d a t | vnegF d a t =>
    simp only [instrOk, inKind, decide_eq_true_eq] at hok
    exact decodeSlot_encode_row rfl (of_decide_eq_true hops) (by decide) low_dai_lt rfl fun w hw =>
      ite_ok (by omega) (fields_dai hw)
  | vrint d a r t =>
    simp only [instrOk, inKind, Bool.and_eq_true, decide_eq_true_eq] at hok
    exact decodeSlot_encode_row rfl (of_decide_eq_true hops) (by decide) (by omega) rfl fun w hw =>
      ite_ok (by omega) (by congr 1 <;> exact ofNat_eq_of_mod (by omega))
  | vbcast d a f =>
    refine decodeSlot_encode_row rfl (of_decide_eq_true hops) (by decide) low_dab_lt rfl fun w hw => ?_
    have hf : BitVec.ofNat 5 (w / 4) = f := ofNat_eq_of_mod (by omega)
    exact ite_ok ⟨by omega, by rw [hf]; exact hok⟩ (fields_dab hw)
  | minv | mpop =>
    exact decodeSlot_encode_row rfl (of_decide_eq_true hops) (by decide) (by decide) rfl fun w hw =>
      ite_ok hw rfl
  | vaddI u d a b w | vsubI u d a b w | vadds u d a b w | vsubs u d a b w | vmulI u d a b w | vmulh u d a b w | vminI u d a b w
  | vmaxI u d a b w | vcmpeqI u d a b w | vcmpltI u d a b w | vcmpleI u d a b w | vand u d a b w | vor u d a b w | vxor u d a b w
  | vsll u d a b w | vsrl u d a b w | vsra u d a b w =>
    exact decodeSlot_encode_pair rfl (of_decide_eq_true hops) (by decide) rfl (by omega) rfl (funext fun _ => rfl) fun w hw =>
      congrArg Except.ok (fields_udabw hw)
  | vnot u d a w =>
    exact decodeSlot_encode_pair rfl (of_decide_eq_true hops) (by decide) rfl (by omega) rfl (funext fun _ => rfl) fun w hw =>
      ite_ok (by omega) (fields_udaw hw)
  | exp2 c d a t | log2 c d a t | rcp c d a t | rsq c d a t | sqrt c d a t | sin c d a t | cos c d a t | tanh c d a t =>
    simp only [instrOk, inKind, decide_eq_true_eq] at hok
    exact decodeSlot_encode_pair rfl (of_decide_eq_true hops) (by decide) rfl (by omega) rfl (funext fun _ => rfl) fun w hw =>
      ite_ok (by omega) (fields_udaw hw)
  | _ => cases hc

theorem decodeSlot_encode_classM (gd : Guard) (e : EngineOps) (i : Instr) (hc : classOf i = some .M) (hok : instrOk i = true)
    (hops : opsOk i e = true) : decodeSlot .M (encode ⟨gd, e, i⟩) = .ok ⟨gd, e, i⟩ := by
  cases i with
  | mmaE2m1 d a b | mmaQ8 d a b | mmaQ4 d a b | mmazE2m1 d a b | mmazQ8 d a b | mmazQ4 d a b | mst d a b | mrowv d a b | mvrow d a b
  | mrec d a b =>
    simp only [instrOk, inKind, Bool.and_eq_true, decide_eq_true_eq] at hok
    exact decodeSlot_encode_row rfl (of_decide_eq_true hops) (by decide) low_dab_lt rfl fun w hw =>
      ite_ok (by omega) (fields_dab hw)
  | mmaBf16 d a b t | mmazBf16 d a b t | mrecr d a b m =>
    simp only [instrOk, inKind, Bool.and_eq_true, decide_eq_true_eq] at hok
    exact decodeSlot_encode_row rfl (of_decide_eq_true hops) (by decide) low_dabm_lt rfl fun w hw =>
      ite_ok (by omega) (fields_dabm hw)
  | mmaFp8 d a b v u | mmaInt8 d a b s t | mmazFp8 d a b v u | mmazInt8 d a b s t =>
    simp only [instrOk, inKind, Bool.and_eq_true, decide_eq_true_eq] at hok
    exact decodeSlot_encode_row rfl (of_decide_eq_true hops) (by decide) low_dabwz_lt rfl fun w hw =>
      ite_ok (by omega) (fields_dabwz hw)
  | mld d a | mmov d a =>
    simp only [instrOk, inKind, Bool.and_eq_true, decide_eq_true_eq] at hok
    exact decodeSlot_encode_row rfl (of_decide_eq_true hops) (by decide) low_da_lt rfl fun w hw =>
      ite_ok (by omega) (fields_da hw)
  | mzero d t | mcvt d a s r t =>
    simp only [instrOk, inKind, Bool.and_eq_true, decide_eq_true_eq] at hok
    exact decodeSlot_encode_row rfl (of_decide_eq_true hops) (by decide) (by omega) rfl fun w hw =>
      ite_ok (by omega) (by congr 1 <;> exact ofNat_eq_of_mod (by omega))
  | _ => cases hc

theorem decodeSlot_encode_classL (gd : Guard) (e : EngineOps) (i : Instr) (hc : classOf i = some .L) (hok : instrOk i = true)
    (hops : opsOk i e = true) : decodeSlot .L (encode ⟨gd, e, i⟩) = .ok ⟨gd, e, i⟩ := by
  cases i with
  | ldl d a l z | stl d a b z | ldlw d a b z | wldx d a l z =>
    exact decodeSlot_encode_row rfl (of_decide_eq_true hops) (by decide) low_dabm_lt rfl fun w hw =>
      congrArg Except.ok (fields_dabm hw)
  | laadd d a b w z | lamin d a b w z | lamax d a b w z | laand d a b w z | laor d a b w z | laxor d a b w z | laswp d a b w z
  | lacas d a b w z =>
    exact decodeSlot_encode_row rfl (of_decide_eq_true hops) (by decide) low_dabwz_lt rfl fun w hw =>
      congrArg Except.ok (fields_dabwz hw)
  | ldlx d a b | stlx d a b | wlds d a b | wsnext d a l =>
    exact decodeSlot_encode_row rfl (of_decide_eq_true hops) (by decide) low_dab_lt rfl fun w hw =>
      ite_ok (by omega) (fields_dab hw)
  | ldlv d a b v | stlv d a b v | ldlvw d a b v | wld d a b v =>
    exact decodeSlot_encode_row rfl (of_decide_eq_true hops) (by decide) low_dabm_lt rfl fun w hw =>
      ite_ok (by omega) (fields_dabm hw)
  | lafadd d a b w | lafmin d a b w | lafmax d a b w =>
    exact decodeSlot_encode_row rfl (of_decide_eq_true hops) (by decide) (by omega) rfl fun w hw =>
      ite_ok (by omega) (by congr 1 <;> exact ofNat_eq_of_mod (by omega))
  | qpop d a l | qpops d a l | qstat d a l =>
    simp only [instrOk, inKind, decide_eq_true_eq] at hok
    exact decodeSlot_encode_row rfl (of_decide_eq_true hops) (by decide) low_dab_lt rfl fun w hw =>
      ite_ok (by omega) (fields_dab hw)
  | ldc d a l z | ldcw d a b z =>
    simp only [instrOk, inKind, decide_eq_true_eq] at hok
    exact decodeSlot_encode_row rfl (of_decide_eq_true hops) (by decide) low_dabm_lt rfl fun w hw =>
      ite_ok (by omega) (fields_dabm hw)
  | spat d a =>
    simp only [instrOk, inKind, decide_eq_true_eq] at hok
    exact decodeSlot_encode_row rfl (of_decide_eq_true hops) (by decide) low_da_lt rfl fun w hw =>
      ite_ok (by omega) (fields_da hw)
  | sgo d | sstop d | sinv a b =>
    simp only [instrOk, inKind, decide_eq_true_eq] at hok
    exact decodeSlot_encode_row rfl (of_decide_eq_true hops) (by decide) (by omega) rfl fun w hw =>
      ite_ok (by omega) (by congr 1 <;> exact ofNat_eq_of_mod (by omega))
  | sinva =>
    exact decodeSlot_encode_row rfl (of_decide_eq_true hops) (by decide) (by decide) rfl fun w hw =>
      ite_ok hw rfl
  | _ => cases hc

theorem decodeSlot_encode_classG (gd : Guard) (e : EngineOps) (i : Instr) (hc : classOf i = some .G) (hok : instrOk i = true)
    (hops : opsOk i e = true) : decodeSlot .G (encode ⟨gd, e, i⟩) = .ok ⟨gd, e, i⟩ := by
  cases i with
  | vround d a l o =>
    exact decodeSlot_encode_row rfl (of_decide_eq_true hops) (by decide) low_dabm_lt rfl fun w hw =>
      ite_ok (by omega) (fields_dabm hw)
  | ldgx d a b | mscwb d a b | mscinv d a b =>
    simp only [instrOk, inKind, decide_eq_true_eq] at hok
    exact decodeSlot_encode_row rfl (of_decide_eq_true hops) (by decide) low_dab_lt rfl fun w hw =>
      ite_ok (by omega) (fields_dab hw)
  | ldg d a l z | stg d a b z | ldgv d a b v | stgv d a b v | ldgw d a b z | ldgvw d a b v | ldgxw d a b m | strc d a b z
  | strcv d a b v | stred d a b t =>
    simp only [instrOk, inKind, Bool.and_eq_true, decide_eq_true_eq] at hok
    exact decodeSlot_encode_row rfl (of_decide_eq_true hops) (by decide) low_dabm_lt rfl fun w hw =>
      ite_ok (by omega) (fields_dabm hw)
  | gaadd d a b w z | gamin d a b w z | gamax d a b w z | gaand d a b w z | gaor d a b w z | gaxor d a b w z | gaswp d a b w z
  | gacas d a b w z =>
    simp only [instrOk, inKind, decide_eq_true_eq] at hok
    exact decodeSlot_encode_row rfl (of_decide_eq_true hops) (by decide) low_dabwz_lt rfl fun w hw =>
      ite_ok (by omega) (fields_dabwz hw)
  | stgx d a b | pref a b f | gafadd d a b w | gafmin d a b w | gafmax d a b w =>
    simp only [instrOk, inKind, decide_eq_true_eq] at hok
    exact decodeSlot_encode_row rfl (of_decide_eq_true hops) (by decide) (by omega) rfl fun w hw =>
      ite_ok (by omega) (by congr 1 <;> exact ofNat_eq_of_mod (by omega))
  | copy | copyl | copyg | skrd | skpat | gtt | ggo | gsave | grestore | gstat | coll | embr | vprep | vstat =>
    simp only [opsOk, Bool.and_eq_true, decide_eq_true_eq] at hops
    exact decodeSlot_encode_engine rfl (by decide) rfl fun w hw => ite_ok (by omega) rfl
  | _ => cases hc

end Sys2Proof

open Sys2Proof Sys2Proof.Machine

/-- Settles O1, class by class: the word of a row gives back its guard, its opcode and the fields of the row. -/
theorem encodedWordsDecode : Obligations.EncodedWordsDecode := by
  rintro ⟨gd, e, i⟩ c hwf hc
  obtain ⟨hok, hops⟩ := Bool.and_eq_true_iff.mp hwf
  cases c with
  | S => exact decodeSlot_encode_classS gd e i hc hok hops
  | V => exact decodeSlot_encode_classV gd e i hc hok hops
  | M => exact decodeSlot_encode_classM gd e i hc hok hops
  | L => exact decodeSlot_encode_classL gd e i hc hok hops
  | G => exact decodeSlot_encode_classG gd e i hc hok hops
end

-- ================================================================
-- Proofs, scope: Guards, iteration qualifiers, slots passed over
-- ================================================================

section
namespace Sys2Proof.Machine

/-! ### Guards and iteration qualifiers (R114, R115) -/

theorem Ctx.guardTrue_iff (c : Ctx) (g : Guard) : c.guardTrue g = true ↔ (c.regs.rp g.g.toNat = true ↔ g.n = 0) := by
  rw [Ctx.guardTrue]
  obtain hn | hn := BitVec.eq_zero_or_eq_one g.n <;> simp [hn]

theorem Ctx.iqTrue_of_inactive {c : Ctx} {lql : Nat} (h : c.lnu.level lql = none) (q : BitVec 2) : c.iqTrue lql q = true := by
  rw [Ctx.iqTrue, h]
theorem Ctx.iqTrue_of_active {c : Ctx} {lql : Nat} {l : Level} (h : c.lnu.level lql = some l) (q : BitVec 2) :
    c.iqTrue lql q = true ↔ (q = 1 → l.iter = 1) ∧ (q = 2 → l.iter = l.trip) ∧ (q = 3 → l.iter = 1 ∨ l.iter = l.trip) := by
  rw [Ctx.iqTrue, h]
  have hq : q = 0 ∨ q = 1 ∨ q = 2 ∨ q = 3 := by
    revert q; decide
  obtain rfl | rfl | rfl | rfl := hq <;> simp
theorem Ctx.iqTrue_zero (c : Ctx) (lql : Nat) : c.iqTrue lql 0 = true := by
  cases h : c.lnu.level lql with
  | none => exact c.iqTrue_of_inactive h 0
  | some l => simp [c.iqTrue_of_active h]

theorem Ctx.executes_iff (c : Ctx) (lql : Nat) (x : SlotInstr) :
    c.executes lql x = true ↔ c.guardTrue x.gd = true ∧ c.iqTrue lql x.gd.q = true := by
  rw [Ctx.executes, Bool.and_eq_true]

theorem runSlots_skip {b : Bundle} {s0 : State} {p : Slot × BitVec 32 × SlotInstr} (h : s0.ctx.executes b.hdr.lql.toNat p.2.2 = false)
    (t : State) (flt : Option State) (first : Bool) (ps : List (Slot × BitVec 32 × SlotInstr)) :
    runSlots b s0 t flt first (p :: ps) = runSlots b s0 t flt first ps := by
  simp [runSlots, h]

end Sys2Proof.Machine

open Sys2Proof Sys2Proof.Machine

/-- Settles O9: the guard by the two values of N, the qualifier by whether the level is active. -/
theorem guardsAndQualifiers : Obligations.GuardsAndQualifiers := by
  refine fun c lql x => ⟨?_, fun hg hn hq => ?_, fun hg hn => ?_, fun b s0 t flt first sl w ps h => runSlots_skip h t flt first ps⟩
  · rw [Ctx.executes_iff, Ctx.guardTrue_iff]
    refine and_congr_right fun _ => ?_
    cases h : c.lnu.level lql with
    | none =>
      have hfind : c.lnu.act.find? (fun v => v.lvl == lql) = none := h
      simp [Ctx.iqTrue_of_inactive h, hfind]
    | some l =>
      have hfind : c.lnu.act.find? (fun v => v.lvl == lql) = some l := h
      simp [Ctx.iqTrue_of_active h, hfind]
  · rw [Ctx.executes_iff, Ctx.guardTrue_iff, hq, hg, hn]
    exact ⟨iff_of_true rfl rfl, c.iqTrue_zero lql⟩
  · have hguard : c.guardTrue x.gd = false := by
      simp [Ctx.guardTrue, Regs.rp, hg, hn]
    rw [Ctx.executes, hguard, Bool.false_and]
end

-- ================================================================
-- Proofs, scope: Register files with one register written
-- ================================================================

section
namespace Sys2Proof.Machine

/-! ### A register file with one register written (R107) -/

theorem getD_setIfInBounds {α : Type} {n : Nat} (xs : Vector α n) (r q : Nat) (x z : α) :
    ((xs.setIfInBounds r x)[q]?).getD z = if q = r ∧ q < n then x else (xs[q]?).getD z := by
  rw [Vector.getElem?_setIfInBounds]
  by_cases h : q = r
  · subst h
    by_cases hq : q < n <;> simp [hq]
  · simp [h, Ne.symm h]

theorem Regs.apply_s (g : Regs) (r : Nat) (x : Word) :
    g.apply (.s r x) = if r = 0 then g else { g with s := g.s.setIfInBounds r x } := rfl
theorem Regs.apply_p (g : Regs) (r : Nat) (x : Bool) :
    g.apply (.p r x) = if r = 0 then g else { g with p := g.p.setIfInBounds r x } := rfl
@[simp] theorem Regs.rs_zero (g : Regs) : g.rs 0 = 0 := rfl
@[simp] theorem Regs.rp_zero (g : Regs) : g.rp 0 = true := rfl

section
variable (g : Regs) (r q : Nat)
theorem Regs.rs_apply_s (x : Word) : (g.apply (.s r x)).rs q = if q = r ∧ q ≠ 0 ∧ q < 32 then x else g.rs q := by
  by_cases hq : q = 0
  · simp [hq]
  · by_cases hr : r = 0
    · simp [Regs.apply_s, hr, hq]
    · simp [Regs.apply_s, Regs.rs, hr, hq, getD_setIfInBounds]
theorem Regs.rp_apply_p (x : Bool) : (g.apply (.p r x)).rp q = if q = r ∧ q ≠ 0 ∧ q < 16 then x else g.rp q := by
  by_cases hq : q = 0
  · simp [hq]
  · by_cases hr : r = 0
    · simp [Regs.apply_p, hr, hq]
    · simp [Regs.apply_p, Regs.rp, hr, hq, getD_setIfInBounds]
theorem Regs.ra_apply_a (x : Handle) : (g.apply (.a r x)).ra q = if q = r ∧ q < 16 then x else g.ra q :=
  getD_setIfInBounds g.a r q x 0
theorem Regs.rv_apply_v (x : VReg) : (g.apply (.v r x)).rv q = if q = r ∧ q < 32 then x else g.rv q :=
  getD_setIfInBounds g.v r q x {}
theorem Regs.rd_apply_d (x : BitVec 128) : (g.apply (.d r x)).rd q = if q = r ∧ q < 8 then x else g.rd q :=
  getD_setIfInBounds g.d r q x 0
theorem Regs.apply_s_frame (x : Word) : g.apply (.s r x) = { g with s := (g.apply (.s r x)).s } := by
  rw [Regs.apply_s]
  split <;> rfl
theorem Regs.apply_p_frame (x : Bool) : g.apply (.p r x) = { g with p := (g.apply (.p r x)).p } := by
  rw [Regs.apply_p]
  split <;> rfl
end

@[simp] theorem Regs.apply_fstat (g : Regs) (w : Wr) : (g.apply w).fstat = g.fstat := by
  cases w with
  | s r x => rw [Regs.apply_s]; split <;> rfl
  | p r x => rw [Regs.apply_p]; split <;> rfl
  | minv =>
    simp only [Regs.apply]
    split <;> rfl
  | _ => rfl

end Sys2Proof.Machine

open Sys2Proof Sys2Proof.Machine

/-- Settles O10: a written file is the old one but at the register named; s0 and p0 are not read from their files. -/
theorem registerWrites : Obligations.RegisterWrites := fun g r q =>
  ⟨fun x => ⟨g.rs_apply_s r q x, g.apply_s_frame r x⟩, fun x => ⟨g.rp_apply_p r q x, g.apply_p_frame r x⟩,
    fun x => ⟨g.ra_apply_a r q x, rfl⟩, fun x => ⟨g.rv_apply_v r q x, rfl⟩, fun x => ⟨g.rd_apply_d r q x, rfl⟩,
    fun w => ⟨Regs.rs_zero _, Regs.rp_zero _, g.apply_fstat w⟩, fun _ _ => ⟨BitVec.getLsbD_or, rfl⟩⟩
end

-- ================================================================
-- Proofs, scope: Words by the numbers they stand for, the immediate
-- ================================================================

section
namespace Sys2Proof.Machine
open Sys2Proof

/-! ### Words by the numbers they stand for (R183) -/

section
variable (x y : Word)
theorem bits_shiftCount : bits y 5 0 = y.toNat % 64 := by
  simp [bits]
theorem add_eq_ofInt : x + y = BitVec.ofInt 64 (x.toInt + y.toInt) := by
  rw [BitVec.ofInt_add, BitVec.ofInt_toInt, BitVec.ofInt_toInt]
theorem mul_eq_ofInt : x * y = BitVec.ofInt 64 (x.toInt * y.toInt) := by
  rw [BitVec.ofInt_mul, BitVec.ofInt_toInt, BitVec.ofInt_toInt]
theorem shiftLeft_bits : x <<< bits y 5 0 = BitVec.ofNat 64 (x.toNat * 2 ^ (y.toNat % 64)) := by
  rw [bits_shiftCount]
  exact BitVec.eq_of_toNat_eq (by rw [BitVec.toNat_shiftLeft, BitVec.toNat_ofNat, Nat.shiftLeft_eq])
theorem ushiftRight_bits : x >>> bits y 5 0 = BitVec.ofNat 64 (x.toNat / 2 ^ (y.toNat % 64)) := by
  rw [bits_shiftCount]
  refine BitVec.eq_of_toNat_eq ?_
  rw [BitVec.toNat_ushiftRight, BitVec.toNat_ofNat, Nat.shiftRight_eq_div_pow,
    Nat.mod_eq_of_lt ((Nat.div_le_self _ _).trans_lt x.isLt)]
theorem sshiftRight_bits : x.sshiftRight (bits y 5 0) = BitVec.ofInt 64 (x.toInt / 2 ^ (y.toNat % 64)) := by
  rw [bits_shiftCount, BitVec.sshiftRight_eq, Int.shiftRight_eq_div_pow]
  norm_cast
theorem ite_slt_eq_min : (if x.slt y then x else y) = BitVec.ofInt 64 (min x.toInt y.toInt) := by
  by_cases h : x.toInt < y.toInt
  · rw [if_pos (BitVec.slt_iff_toInt_lt.mpr h), min_eq_left h.le, BitVec.ofInt_toInt]
  · rw [if_neg (mt BitVec.slt_iff_toInt_lt.mp h), min_eq_right (not_lt.mp h), BitVec.ofInt_toInt]
theorem ite_slt_eq_max : (if x.slt y then y else x) = BitVec.ofInt 64 (max x.toInt y.toInt) := by
  by_cases h : x.toInt < y.toInt
  · rw [if_pos (BitVec.slt_iff_toInt_lt.mpr h), max_eq_right h.le, BitVec.ofInt_toInt]
  · rw [if_neg (mt BitVec.slt_iff_toInt_lt.mp h), max_eq_left (not_lt.mp h), BitVec.ofInt_toInt]
theorem append_low_eq_ofNat (h : BitVec 32) :
    (h ++ x.setWidth 32 : Word) = BitVec.ofNat 64 (h.toNat * 2 ^ 32 + x.toNat % 2 ^ 32) := by
  refine BitVec.eq_of_toNat_eq ?_
  have hx : x.toNat % 2 ^ 32 < 2 ^ 32 := Nat.mod_lt _ (by decide)
  rw [BitVec.toNat_append, BitVec.toNat_setWidth, ← Nat.shiftLeft_add_eq_or_of_lt hx, Nat.shiftLeft_eq, BitVec.toNat_ofNat]
  exact (Nat.mod_eq_of_lt (by omega)).symm
theorem setWidth_signExtend_word {n : Nat} (z : BitVec n) : (z.signExtend 64).setWidth 32 = z.signExtend 32 := by
  refine BitVec.eq_of_getLsbD_eq fun k hk => ?_
  have hk64 : k < 64 := by omega
  rw [BitVec.getLsbD_setWidth, BitVec.getLsbD_signExtend, BitVec.getLsbD_signExtend]
  simp [hk, hk64]
end

/-! ### The immediate (R117, R186) -/

section
variable {s : State} {i : BitVec 7} {v : Word}
theorem State.imm_eq (hx : ∀ x, s.ctx.iss.x = some x → v = BitVec.ofInt 64 x.toInt) (hi : s.ctx.iss.x = none → v = BitVec.ofInt 64 i.toInt) :
    s.imm i = v := by
  unfold State.imm
  cases h : s.ctx.iss.x with
  | none => exact (hi h).symm
  | some x => exact (hx x h).symm
theorem State.imm32_eq_imm (s : State) (i : BitVec 7) : s.imm32 i = (s.imm i).setWidth 32 := by
  unfold State.imm32 State.imm
  cases s.ctx.iss.x with
  | none => exact (setWidth_signExtend_word i).symm
  | some x => exact (x.signExtend_eq.symm.trans (setWidth_signExtend_word x).symm)
end
end Sys2Proof.Machine

open Sys2Proof Sys2Proof.Machine

/-- Settles O20: the immediate is `v` either way, and each result is its register form's with `v` as the second operand. -/
theorem scalarImmediates : Obligations.ScalarImmediates := by
  intro s d a i v hx hi
  have himm : s.imm i = v := State.imm_eq hx hi
  have hlow : (s.imm32 i).toNat = v.toNat % 2 ^ 32 := by
    rw [s.imm32_eq_imm i, himm, BitVec.toNat_setWidth]
  have next (lat : Nat) {x y : Word} (h : x = y) : done (s.putS d lat x) = .next (s.putS d lat y) := by rw [h, done_eq]
  subst himm
  exact ⟨next 1 (add_eq_ofInt _ _), next 3 (mul_eq_ofInt _ _), rfl, rfl, rfl, next 1 (shiftLeft_bits _ _), next 1 (ushiftRight_bits _ _),
    next 1 (sshiftRight_bits _ _), next 1 (ite_slt_eq_min _ _), next 1 (ite_slt_eq_max _ _), rfl,
    next 1 ((append_low_eq_ofNat _ _).trans (by rw [hlow]))⟩
end

-- ================================================================
-- Proofs, scope: Words the spec prints
-- ================================================================

section
open Sys2Proof Sys2Proof.Machine

/-- Settles O2: closed words, evaluated. -/
theorem specWordsDecode : Obligations.SpecWordsDecode :=
  ⟨rfl, rfl, rfl, rfl, rfl, rfl, rfl, rfl, rfl, rfl, rfl, rfl, rfl, rfl, rfl, rfl, rfl, rfl, rfl, rfl, rfl, rfl, rfl⟩
end

-- ================================================================
-- Proofs, scope: From a step to the bundle at the pc
-- ================================================================

section
namespace Sys2Proof.Machine
open Sys2Proof

/-! ### From a step to the bundle at the pc -/

section
variable {s : State}

theorem step_eq_coreStep (hfatal : s.pk.svc.fatal = false) (hdue : ∀ d ∈ s.pk.agenda.head?, s.pk.tick < d.at_) : step s = s.coreStep := by
  rw [step, hfatal, if_neg Bool.false_ne_true, State.advance]
  cases h : s.pk.agenda with
  | nil => rfl
  | cons d ds => exact if_neg (not_le.mpr (hdue d (by simp [h])))
theorem State.coreStep_eq_contextTurn (h : s.core.turn = 1 ∨ s.core.turn = 2) : s.coreStep = s.contextTurn := by
  unfold State.coreStep
  obtain h | h := h <;> simp only [h]
theorem State.contextTurn_eq_bundleTurn (hue : s.ctx.ue = false) (hmode : s.ctx.mode = .run) (hfaults : s.ctx.faults = [])
    (howe : s.ctx.owe = 0) (hnot : s.ctx.notBefore ≤ s.core.cyc) (hyield : s.ctx.yield_ = none) (hframed : s.ctx.framed = false)
    (hppt : s.ctx.pptRec = none) : s.contextTurn = s.bundleTurn := by
  simp [State.contextTurn, Ctx.pptYields, Ctx.windowOver, hue, hmode, hfaults, howe, hnot, hyield, hframed, hppt]
/-- What becomes of a turn, where nothing replays. -/
def Turn.outcome : Turn → Host.Outcome State Fault Refusal
  | .waits t => .next t.passTurn
  | .faults _ t => .next t.passTurn
  | .goes o => o
theorem State.bundleTurn_of_not_replaying (hreplay : s.ctx.replay = false) (hresume : s.ctx.resume = false) :
    s.bundleTurn = s.turnOf.outcome := by
  rw [State.bundleTurn, Ctx.replaysNow, hreplay, hresume]
  rfl

theorem Ctx.knownIdle_of_executes {c : Ctx} {lql : Nat} {x : SlotInstr} (h : c.executes lql x = true) : c.knownIdle lql x = false := by
  obtain ⟨hguard, hiq⟩ := Bool.and_eq_true_iff.mp h
  simp [Ctx.knownIdle, hguard, hiq]
theorem State.turnOf_eq_tryBundle {b : Bundle} (hfetch : s.fetchFault = none)
    (hb : decodeBundle s.pk.reduced s.headerWord ((s.bundleWords (1 + (decodeHeader s.headerWord).slotWords)).drop 1) = .ok b)
    (hpm : (decodeHeader s.headerWord).pm ≠ 0) (hfree : s.stampOf s.ctx (decodeHeader s.headerWord) = .free)
    (hexec : ∃ p ∈ b.slots, s.ctx.executes (decodeHeader s.headerWord).lql.toNat p.2.2 = true) : s.turnOf = s.tryBundle b .free := by
  obtain ⟨p, hp, hx⟩ := hexec
  have hidle : b.slots.all (fun p => s.ctx.knownIdle (decodeHeader s.headerWord).lql.toNat p.2.2) = false :=
    List.all_eq_false.mpr ⟨p, hp, by simp [Ctx.knownIdle_of_executes hx]⟩
  simp only [State.turnOf, hfetch, hb, hfree, hpm, hidle, reduceCtorEq, if_false, Bool.false_eq_true]

theorem State.clashes_of_none_taken (h : s.core.taken = []) (mine : List Slot) : s.clashes mine = false := by
  simp [State.clashes, h]
theorem runSlots_single {b : Bundle} {p : Slot × BitVec 32 × SlotInstr} {u : State} (hx : s.ctx.executes b.hdr.lql.toNat p.2.2 = true)
    (hu : exec p.2.2.i (s.openSlot b p) = .next u) :
    runSlots b s s none true [p] = .next (if u.ctx.iss.stalled then s.asStalled u else u) := by
  simp only [runSlots, hx, hu, if_true]
  split
  · rfl
  · cases u.ctx.iss.fault <;> rfl
theorem State.asStalled_stalled (t : State) : (s.asStalled t).ctx.iss.stalled = true := rfl

/-- The end of a bundle that has issued: its branches, loop nest and pc, the slots that it takes, and the turn's. -/
def State.issued (s t : State) (b : Bundle) : State :=
  ((t.endBundle s.ctx.flying b.slots).updCore (fun c => { c with
    taken := c.taken ++ (b.slots.map Prod.fst ++ (if b.xw.isSome then [Slot.X] else []))
    bdefer := if s.ctx.num % 2 = 1 then 0 else c.bdefer })).passTurn
theorem State.tryBundle_outcome {b : Bundle} {t : State} (hblocked : s.core.blocked = false) (htaken : s.core.taken = [])
    (ht : runSlots b (s.openBundle s.headerWord) (s.openBundle s.headerWord) none true b.slots = .next t) :
    (s.tryBundle b .free).outcome = .next (if t.ctx.iss.stalled then t.passTurn else if t.ctx.iss.fault.isSome then t.passTurn
      else s.issued t b) := by
  simp only [State.tryBundle, hblocked, State.clashes_of_none_taken htaken, ht, Bool.false_and, if_false, Bool.false_eq_true, reduceCtorEq]
  split
  · rfl
  · split
    · rfl
    · have hstamp : (Stamp.free == Stamp.now) = false := rfl
      simp only [Turn.outcome, State.issued, hstamp, Bool.or_false]
end

theorem decodeBundle_hdr {reduced : Bool} {hw : BitVec 32} {rest : List (BitVec 32)} {b : Bundle}
    (h : decodeBundle reduced hw rest = .ok b) : b.hdr = decodeHeader hw := by
  unfold decodeBundle at h
  simp only at h
  repeat' split at h
  all_goals cases h
  all_goals rfl

end Sys2Proof.Machine

open Sys2Proof Sys2Proof.Machine

/-- Settles O8: the step is the bundle's turn, the turn is an attempt of the bundle, and the attempt ends as `runSlots` does. -/
theorem stepRunsDecodedInstruction : Obligations.StepRunsDecodedInstruction := by
  intro s b hd s1 mine ended hfatal hdue hturn hue hmode hfaults howe hnot hyield hframed hppt hfetch hb hpm hfree hreplay hresume
    hblocked htaken hexec
  have hstep (t : State) (ht : runSlots b s1 s1 none true b.slots = .next t) : step s = .next (
      if t.ctx.iss.stalled then t.passTurn else if t.ctx.iss.fault.isSome then t.passTurn else ended t) := by
    rw [step_eq_coreStep hfatal hdue, State.coreStep_eq_contextTurn hturn,
      State.contextTurn_eq_bundleTurn hue hmode hfaults howe hnot hyield hframed hppt, State.bundleTurn_of_not_replaying hreplay hresume,
      State.turnOf_eq_tryBundle hfetch hb hpm hfree hexec, State.tryBundle_outcome hblocked htaken ht]
    rfl
  refine ⟨hstep, fun p u hp hu => ?_⟩
  have hx : s1.ctx.executes b.hdr.lql.toNat p.2.2 = true := by
    obtain ⟨q, hq, hx⟩ := hexec
    rw [hp, List.mem_singleton] at hq
    rw [decodeBundle_hdr hb, ← hq]
    exact hx
  rw [hstep _ (by rw [hp]; exact runSlots_single hx hu)]
  cases hstall : u.ctx.iss.stalled with
  | true => simp only [if_true, State.asStalled_stalled]
  | false => simp only [hstall, if_false, Bool.false_eq_true]
end

-- ================================================================
-- Proofs, scope: Due writes, bundles without a slot, replay
-- ================================================================

section
namespace Sys2Proof.Machine
open Sys2Proof

/-! ### Due writes (R137, R139, R210, R480) -/

section
variable {c : Ctx} {cyc : Nat} {p : Pend}

theorem removeFirst_cons {α : Type} {f : α → Bool} {x : α} {xs : List α} (h : f x = true) : removeFirst f (x :: xs) = xs := by
  rw [removeFirst, h, if_pos rfl]
theorem Ctx.dueEntry_cons {ps : List Pend} (hresume : c.resume = false) (hpend : c.pend = p :: ps) (hdue : p.due ≤ cyc) :
    c.dueEntry cyc = some p := by
  simp [Ctx.dueEntry, hresume, hpend, hdue]

/-- What `writeDue` leaves where no stride is written: the results due later, the results landed, and the register or the fault. -/
def Ctx.wrote (c : Ctx) (cyc : Nat) (p : Pend) : Ctx :=
  { c with undo := some (c.undo.getD c.regs), pend := removeFirst (fun q => decide (q.due ≤ cyc)) c.pend, landed := c.landed ++ [p] }
theorem Ctx.writeDue_of_ok (herr : p.err = none) (hwr : ∀ r x, p.wr ≠ .stride r x) :
    c.writeDue cyc p = { c.wrote cyc p with regs := (c.regs.apply p.wr).orFlags p.flags } := by
  unfold Ctx.writeDue
  simp only [herr]
  rfl
theorem Ctx.writeDue_of_err {e : FaultRec} (herr : p.err = some e) :
    c.writeDue cyc p = { c.wrote cyc p with faults := c.faults ++ [e] } := by
  simp only [Ctx.writeDue, herr, Ctx.wrote]

/-- A due write changes the registers, what is in flight and what has landed, and may add a fault. -/
theorem Ctx.writeDue_frame (c : Ctx) (cyc : Nat) (p : Pend) : ∃ g f, c.writeDue cyc p = { c.wrote cyc p with regs := g, faults := f } := by
  cases herr : p.err with
  | some e => exact ⟨_, _, Ctx.writeDue_of_err herr⟩
  | none =>
    unfold Ctx.writeDue
    simp only [herr]
    split
    · next r x h =>
      unfold Ctx.applyStride
      simp only
      split
      · exact ⟨_, _, rfl⟩
      · split <;> exact ⟨_, _, rfl⟩
    · exact ⟨_, _, rfl⟩

/-- A part of the context that a due write leaves is left by a list of them. -/
theorem Ctx.foldl_writeDue {α : Type} (part : Ctx → α)
    (hpart : ∀ (c : Ctx) (p : Pend) g f, part { c.wrote cyc p with regs := g, faults := f } = part c) (l : List Pend) (c : Ctx) :
    part (l.foldl (fun c p => c.writeDue cyc p) c) = part c := by
  induction l generalizing c with
  | nil => rfl
  | cons p l ih =>
    obtain ⟨g, f, h⟩ := c.writeDue_frame cyc p
    rw [List.foldl_cons, ih, h, hpart]
theorem Ctx.foldl_writeDue_pend {l ps : List Pend} (hdue : ∀ p ∈ l, p.due ≤ cyc) (hpend : c.pend = l ++ ps) :
    (l.foldl (fun c p => c.writeDue cyc p) c).pend = ps := by
  induction l generalizing c with
  | nil => exact hpend
  | cons p l ih =>
    obtain ⟨hp, hl⟩ := List.forall_mem_cons.mp hdue
    obtain ⟨g, f, h⟩ := c.writeDue_frame cyc p
    refine ih hl ((congrArg Ctx.pend h).trans ?_)
    exact (congrArg _ hpend).trans (removeFirst_cons (by simpa using hp))
theorem Ctx.foldl_writeDue_regs {l : List Pend} (hl : ∀ p ∈ l, p.err = none ∧ ∀ r x, p.wr ≠ .stride r x) (c : Ctx) :
    (l.foldl (fun c p => c.writeDue cyc p) c).regs = l.foldl (fun g (p : Pend) => (g.apply p.wr).orFlags p.flags) c.regs := by
  induction l generalizing c with
  | nil => rfl
  | cons p l ih =>
    obtain ⟨⟨herr, hwr⟩, hl⟩ := List.forall_mem_cons.mp hl
    rw [List.foldl_cons, ih hl, Ctx.writeDue_of_ok herr hwr, List.foldl_cons]

/-- A stride within its range that nothing else of its cycle meets (R210). -/
theorem Ctx.applyStride_alone {r : Nat} {b : Word} (hlanded : c.landed = []) (hpend : c.pend = [])
    (h0 : 0 ≤ (hOff (c.regs.ra r) : Int) + b.toInt) (h1 : (hOff (c.regs.ra r) : Int) + b.toInt < 2 ^ 56) :
    c.applyStride cyc r b = { c with regs := c.regs.apply (.stride r b) } := by
  have hfree : ∀ f g h : Pend → Bool, ¬ (c.landed.any f = true ∨ (c.pend.filter h).any f = true ∨ (c.pend.filter h).any g = true) := by
    simp [hlanded, hpend]
  rw [Ctx.applyStride, if_neg (hfree _ _ _)]
  exact if_pos ⟨h0, h1⟩
theorem Ctx.writeDue_stride {r : Nat} {b : Word} (herr : p.err = none) (hwr : p.wr = .stride r b) (hpend : c.pend = [p]) (hdue : p.due ≤ cyc)
    (hlanded : c.landed = []) (h0 : 0 ≤ (hOff (c.regs.ra r) : Int) + b.toInt) (h1 : (hOff (c.regs.ra r) : Int) + b.toInt < 2 ^ 56) :
    (c.writeDue cyc p).regs = c.regs.apply (.stride r b) := by
  have hrest : removeFirst (fun q : Pend => decide (q.due ≤ cyc)) c.pend = [] := by
    rw [hpend, removeFirst_cons (by simpa using hdue)]
  simp only [Ctx.writeDue, herr, hwr]
  refine congrArg Ctx.regs (Ctx.applyStride_alone ?_ ?_ ?_ ?_)
  exacts [hlanded, hrest, h0, h1]
end

section
variable {s : State} {p : Pend} {ps : List Pend}

/-- The step of a due result that is no stride. -/
def State.wroteFirst (s : State) (p : Pend) (ps : List Pend) : State :=
  let one : Ctx := { s.ctx with undo := some (s.ctx.undo.getD s.ctx.regs), pend := ps, landed := s.ctx.landed ++ [p] }
  s.updCtx (fun c => match p.err with
    | none => { one with regs := (c.regs.apply p.wr).orFlags p.flags }
    | some e => { one with faults := c.faults ++ [e] })
theorem State.writeFirst_eq (hresume : s.ctx.resume = false) (hpend : s.ctx.pend = p :: ps) (hdue : p.due ≤ s.core.cyc)
    (hwr : ∀ r x, p.wr ≠ .stride r x) : s.writeFirst = s.wroteFirst p ps := by
  have hrest : removeFirst (fun q : Pend => decide (q.due ≤ s.core.cyc)) s.ctx.pend = ps := by
    rw [hpend, removeFirst_cons (by simpa using hdue)]
  rw [State.writeFirst, Ctx.dueEntry_cons hresume hpend hdue]
  cases herr : p.err with
  | none => simp only [State.updCtx, Ctx.writeDue_of_ok herr hwr, Ctx.wrote, hrest, State.wroteFirst, herr]
  | some e => simp only [State.updCtx, Ctx.writeDue_of_err herr, Ctx.wrote, hrest, State.wroteFirst, herr]
end


/-! ### Bundles that present no slot (R118, R149, R153) -/

section
variable {s : State}

/-- What the end of a bundle without an executing slot leaves: the loop nest decides the next bundle and the strides due. -/
theorem State.endBundle_opened {s u : State} {hw : BitVec 32} {fly : List Pend} {slots : List (Slot × BitVec 32 × SlotInstr)}
    (hu : u = (s.openBundle hw).endBundle fly slots) {next : Dpa × Lnu × List (Nat × Word)}
    (hnext : next = s.ctx.goOn {} s.ctx.pc (s.openBundle hw).followPc) :
    u.pk = s.pk ∧ u.ctx.m = s.ctx.m ∧ u.ctx.regs = s.ctx.regs ∧ u.ctx.landed = s.ctx.landed ∧ u.ctx.nulls = s.ctx.nulls ∧
    u.ctx.pc = next.1 ∧ u.ctx.pend = s.ctx.pend ++ next.2.2.map (fun p => { due := s.core.cyc + 1, wr := .stride p.1 p.2 }) := by
  subst hu hnext
  have hmark (c : Ctx) : (c.markFrame s.pk.halves).m = c.m ∧ (c.markFrame s.pk.halves).regs = c.regs ∧
      (c.markFrame s.pk.halves).landed = c.landed ∧ (c.markFrame s.pk.halves).nulls = c.nulls ∧
      (c.markFrame s.pk.halves).pend = c.pend := by
    unfold Ctx.markFrame
    split <;> exact ⟨rfl, rfl, rfl, rfl, rfl⟩
  obtain ⟨hm, hregs, hlanded, hnulls, hpend⟩ := hmark (s.openBundle hw).ctx
  exact ⟨rfl, hm, hregs, hlanded, hnulls, rfl, congrArg (· ++ _) hpend⟩

/-- A nullified bundle that costs no cycle finds nothing in flight. -/
theorem Ctx.flying_of_nullCosts_false (c : Ctx) (h : c.nullCosts = false) : c.pend = [] ∧ c.landed = [] := by
  simp only [Ctx.nullCosts, Bool.or_eq_false_iff, Bool.not_eq_false', List.isEmpty_iff, Ctx.flying, List.append_eq_nil_iff] at h
  obtain ⟨⟨-, ⟨-, hpend⟩, hlanded⟩, -⟩ := h
  exact ⟨hpend, hlanded⟩
/-- What a nullified bundle does to the context `c` that its end leaves, `c0` being that at its fetch. -/
def Ctx.passed (c0 : Ctx) (cyc : Nat) (c : Ctx) : Ctx :=
  let c := { c with nulls := c.nulls + 1 }
  if c0.nullCosts then c
  else
    let c : Ctx := { c with pend := c.pend.map (fun (p : Pend) => { p with due := cyc }), csr := { c.csr with frpos := c0.csr.frpos } }
    c.pend.foldl (fun c p => c.writeDue cyc p) c
theorem exec_nullifiedBundle (s : State) : ∃ slots u, u = (s.openBundle s.headerWord).endBundle s.ctx.flying slots ∧
    exec .nullifiedBundle s = .next (u.updCtx (s.ctx.passed s.core.cyc)) := ⟨_, _, rfl, rfl⟩

section
variable {c0 c : Ctx} {cyc : Nat}
theorem Ctx.passed_frame : (c0.passed cyc c).m = c.m ∧ (c0.passed cyc c).pc = c.pc ∧ (c0.passed cyc c).nulls = c.nulls + 1 := by
  unfold Ctx.passed
  simp only
  split
  · exact ⟨rfl, rfl, rfl⟩
  · exact ⟨Ctx.foldl_writeDue Ctx.m (fun _ _ _ _ => rfl) _ _, Ctx.foldl_writeDue Ctx.pc (fun _ _ _ _ => rfl) _ _,
      Ctx.foldl_writeDue Ctx.nulls (fun _ _ _ _ => rfl) _ _⟩
theorem Ctx.passed_regs_of_nullCosts (h : c0.nullCosts = true) : (c0.passed cyc c).regs = c.regs := by
  simp only [Ctx.passed, h, if_true]
theorem Ctx.passed_regs_of_pend_nil (h : c.pend = []) : (c0.passed cyc c).regs = c.regs := by
  simp only [Ctx.passed, h, List.map_nil, List.foldl_nil]
  split <;> rfl
theorem Ctx.passed_frpos_pend (h : c0.nullCosts = false) : (c0.passed cyc c).csr.frpos = c0.csr.frpos ∧ (c0.passed cyc c).pend = [] := by
  simp only [Ctx.passed, h, if_false, Bool.false_eq_true]
  refine ⟨Ctx.foldl_writeDue (fun c => c.csr.frpos) (fun _ _ _ _ => rfl) _ _, Ctx.foldl_writeDue_pend ?_ (List.append_nil _).symm⟩
  intro p hp
  obtain ⟨q, -, rfl⟩ := List.mem_map.mp hp
  exact le_rfl
theorem Ctx.passed_regs_stride {r due : Nat} {b : Word} (h : c0.nullCosts = false) (hpend : c.pend = [{ due := due, wr := .stride r b }])
    (hlanded : c.landed = []) (h0 : 0 ≤ (hOff (c.regs.ra r) : Int) + b.toInt) (h1 : (hOff (c.regs.ra r) : Int) + b.toInt < 2 ^ 56) :
    (c0.passed cyc c).regs = c.regs.apply (.stride r b) := by
  simp only [Ctx.passed, h, if_false, Bool.false_eq_true, hpend, List.map_cons, List.map_nil, List.foldl_cons, List.foldl_nil]
  refine Ctx.writeDue_stride (r := r) (b := b) ?_ ?_ ?_ ?_ ?_ ?_ ?_
  exacts [rfl, rfl, rfl, le_rfl, hlanded, h0, h1]
end
end

/-! ### Replay (R489, R490) -/

section
variable {c : Ctx} {cyc : Nat}

/-- Held results of which none falls due with the bundle that replays them. -/
theorem Ctx.replayNow_later {p : Pend} (hresume : c.resume = false) (hreplay : c.replay = true) (hheld : c.held = [p]) (hpend : c.pend = [])
    (hfaults : c.faults = []) (hdue : 0 < p.due) (hlanded : c.landed = []) (hundo : c.undo = none) :
    c.replayNow cyc = { c with replay := false, held := [], pend := [{ p with due := p.due + cyc }] } := by
  have hlate : ¬ p.due + cyc ≤ cyc := by omega
  simp [Ctx.replayNow, Ctx.before, Ctx.faultsKept, dueFrom, hresume, hreplay, hheld, hpend, hfaults, hlanded, hundo, hlate]

/-- What replays with a bundle: the held results with their counts from the present cycle, what this cycle has written, and what is
in flight. -/
def Ctx.replayed (c : Ctx) (cyc : Nat) : List Pend := dueFrom cyc c.held ++ c.landed ++ c.pend
theorem Ctx.replayNow_due (hresume : c.resume = false) (hreplay : c.replay = true)
    (hdue : ∀ p ∈ c.replayed cyc, p.due ≤ cyc ∧ p.ready = true) :
    c.replayNow cyc = (c.replayed cyc).foldl (fun c p => c.writeDue cyc p) { c with
      resume := false, replay := false, held := [], regs := c.before, landed := [], faults := c.faultsKept, pend := c.replayed cyc } := by
  have hnow : (c.replayed cyc).filter (fun p => decide (p.due ≤ cyc) && p.ready) = c.replayed cyc :=
    List.filter_eq_self.mpr fun p hp => by simpa using hdue p hp
  have hrest : (c.replayed cyc).filter (fun p => !(decide (p.due ≤ cyc) && p.ready)) = [] :=
    List.filter_eq_nil_iff.mpr fun p hp => by simpa using hdue p hp
  rw [Ctx.replayed] at hnow hrest
  simp only [Ctx.replayNow, hresume, hreplay, if_true, if_false, Bool.false_eq_true, hnow, hrest, List.append_nil, Ctx.replayed]
theorem Ctx.replayNow_due_leaves (hresume : c.resume = false) (hreplay : c.replay = true)
    (hdue : ∀ p ∈ c.replayed cyc, p.due ≤ cyc ∧ p.ready = true)
    (hwr : ∀ p ∈ c.replayed cyc, p.err = none ∧ ∀ r x, p.wr ≠ .stride r x) :
    (c.replayNow cyc).pend = [] ∧ (c.replayNow cyc).held = [] ∧ (c.replayNow cyc).replay = false ∧
    (c.replayNow cyc).regs = (c.replayed cyc).foldl (fun g (p : Pend) => (g.apply p.wr).orFlags p.flags) c.before := by
  rw [Ctx.replayNow_due hresume hreplay hdue]
  exact ⟨Ctx.foldl_writeDue_pend (fun p hp => (hdue p hp).1) (List.append_nil _).symm, Ctx.foldl_writeDue Ctx.held (fun _ _ _ _ => rfl) _ _,
    Ctx.foldl_writeDue Ctx.replay (fun _ _ _ _ => rfl) _ _, Ctx.foldl_writeDue_regs hwr _⟩
end

end Sys2Proof.Machine

open Sys2Proof Sys2Proof.Machine

/-- Settles O53, step by step: due writes by `writeDue`, a nullified bundle by what its end leaves in flight, a replay by whether the
held result falls due with its bundle. That data which comes with a period's start is late in it, the order of deferred faults and when
a replay freezes are the model's (logs 20, 47, 58). -/
theorem coreCycleSteps : Obligations.CoreCycleSteps := by
  intro s c hd opened ending
  refine ⟨fun p ps hresume hpend hdue hwr => ?writes, fun hlate => congrArg Host.Outcome.next (if_pos hlate), rfl, rfl, ?nullified,
    fun hcore => ⟨fun hon hbelow => ?trips, fun hoff => ?holds⟩, fun htrip hphase => ⟨_, rfl, ?stretchPhase, rfl, ?stretched, rfl⟩,
    fun htrip hphase => ⟨_, rfl, ?halfPhase, rfl, ?unstretched⟩, fun htrip hphase => ⟨_, rfl, ?droopPhase⟩, rfl,
    fun hm hn hk => ?limit, rfl, fun r rs hfaults hcode => ?deferred, fun hfetch => ?handler, fun r hfetch hcode => ?double,
    fun p hresume hreplay hheld hpend hfaults hwr herr => ⟨fun hdue hlanded hundo => ?later, fun hdue hready ls hlanded hls => ?replays⟩,
    ⟨_, rfl, rfl, rfl, rfl, rfl, rfl, rfl, rfl, fun h => if_pos h, fun h => if_neg h⟩⟩
  case writes =>
    have hfirst := State.writeFirst_eq hresume hpend hdue hwr
    refine ⟨congrArg Host.Outcome.next hfirst, fun hthaw hlate hsib => ?_⟩
    have hpresent : ¬ (s.core.thaw = true ∨ s.ctx.lateEntry s.core.cyc = true ∨ s.sib.lateEntry s.core.cyc = true) := by
      simp [hthaw, hsib, show s.ctx.lateEntry s.core.cyc = false from hlate]
    exact congrArg Host.Outcome.next ((if_neg hpresent).trans hfirst)
  case nullified =>
    obtain ⟨slots, u, hu, hexec⟩ := exec_nullifiedBundle s
    obtain ⟨hpk, hm, hregs, hlanded, hnulls, hpc, hpend⟩ := State.endBundle_opened hu (next := ending) rfl
    obtain ⟨hpm, hppc, hpnulls⟩ := Ctx.passed_frame (c0 := s.ctx) (cyc := s.core.cyc) (c := u.ctx)
    refine ⟨_, hexec, hpm.trans hm, congrArg Pack.mem hpk, hppc.trans hpc, hpnulls.trans (congrArg (· + 1) hnulls), fun h => ?_, fun hfree => ?_⟩
    · refine Eq.trans ?_ hregs
      cases hcosts : s.ctx.nullCosts with
      | true => exact Ctx.passed_regs_of_nullCosts hcosts
      | false =>
        obtain ⟨hflying, -⟩ := s.ctx.flying_of_nullCosts_false hcosts
        have hnone : ending.2.2 = [] := h.resolve_left fun hc => Bool.false_ne_true (hcosts.symm.trans hc)
        exact Ctx.passed_regs_of_pend_nil (by rw [hpend, hflying, hnone]; rfl)
    · obtain ⟨hflying, hclear⟩ := s.ctx.flying_of_nullCosts_false hfree
      obtain ⟨hfrpos, hnone⟩ := Ctx.passed_frpos_pend (cyc := s.core.cyc) (c := u.ctx) hfree
      refine ⟨hfrpos, hnone, fun r b hstride h0 h1 => ?_⟩
      have hone : u.ctx.pend = [{ due := s.core.cyc + 1, wr := .stride r b }] := by
        rw [hpend, hflying, hstride]
        rfl
      refine (Ctx.passed_regs_stride hfree hone (hlanded.trans hclear) ?_ ?_).trans (congrArg (Regs.apply · _) hregs)
      · rw [hregs]
        exact h0
      · rw [hregs]
        exact h1
  case trips =>
    refine congrArg Host.Outcome.next ?_
    rw [hcore, State.onCore_self, if_pos ⟨hon, hbelow⟩]
    rfl
  case holds =>
    refine congrArg Host.Outcome.next ?_
    have hno : ¬ (s.core.ddthr.getLsbD 15 = true ∧ s.pk.arg.m < bits s.core.ddthr 9 0) := fun h =>
      hoff.elim (fun hclear => Bool.false_ne_true (hclear.symm.trans h.1)) (fun hle => absurd h.2 (not_lt.mpr hle))
    rw [hcore, State.onCore_self, if_neg hno]
  case stretchPhase => simp [State.endCycle, htrip]
  case stretched => simp [State.endCycle, hphase]
  case halfPhase => simp [State.endCycle, htrip]
  case unstretched => simp [State.endCycle, hphase]
  case droopPhase => simp [State.endCycle, htrip, hphase]
  case limit =>
    refine congrArg Host.Outcome.next ?_
    simp only [hm, if_true, hn, State.onCore_self, Nat.mod_eq_of_lt hk]
    rfl
  case deferred =>
    show execDeferredFault s = _
    simp only [execDeferredFault, show s.ctx.faults = r :: rs from hfaults, hcode, false_and, if_false, done_eq]
  case handler =>
    show execHandlerStart s = _
    simp only [execHandlerStart, hfetch, done_eq]
  case double =>
    show execHandlerStart s = _
    simp only [execHandlerStart, hfetch, State.logFetch, hcode, if_false, done_eq]
    rfl
  case later =>
    exact congrArg (fun c => Host.Outcome.next (s.updCtx fun _ => c))
      (Ctx.replayNow_later (cyc := s.core.cyc) hresume hreplay hheld hpend hfaults hdue hlanded hundo)
  case replays =>
    have hall : s.ctx.replayed s.core.cyc = { p with due := p.due + s.core.cyc } :: ls := by
      rw [Ctx.replayed, show s.ctx.held = [p] from hheld, show s.ctx.landed = ls from hlanded, show s.ctx.pend = [] from hpend, List.append_nil]
      rfl
    have hmem : ∀ q ∈ s.ctx.replayed s.core.cyc,
        (q.due ≤ s.core.cyc ∧ q.ready = true) ∧ q.err = none ∧ ∀ r x, q.wr ≠ .stride r x := by
      rw [hall]
      refine List.forall_mem_cons.mpr ⟨⟨⟨by simp [hdue], hready⟩, herr, hwr⟩, fun q hq => ?_⟩
      obtain ⟨hq1, hq2, hq3⟩ := hls q hq
      exact ⟨⟨hq1, hq2⟩, hq3⟩
    obtain ⟨hp, hh, hr, hregs⟩ := Ctx.replayNow_due_leaves hresume hreplay (fun q hq => (hmem q hq).1) (fun q hq => (hmem q hq).2)
    refine ⟨s.updCtx (fun c => c.replayNow s.core.cyc), rfl, hp, hh, hr, hregs.trans ?_⟩
    rw [hall]
    rfl
end

-- ================================================================
-- Proofs, scope: Sums, quotients and clamped sums
-- ================================================================

section
namespace Sys2Proof.Machine
open Sys2Proof

/-! ### Sums, quotients and clamped sums (R183, R184) -/

theorem done_putS_of_eq {s : State} {d : BitVec 5} {x y : Word} (lat : Nat) (h : x = y) : done (s.putS d lat x) = .next (s.putS d lat y) := by
  rw [h, done_eq]
theorem ofInt_sub_word (i j : Int) : BitVec.ofInt 64 (i - j) = BitVec.ofInt 64 i - BitVec.ofInt 64 j := by
  rw [sub_eq_add_neg, BitVec.ofInt_add, BitVec.ofInt_neg, ← sub_eq_add_neg]

section
variable (x y : Word)
theorem add_eq_ofNat : x + y = BitVec.ofNat 64 (x.toNat + y.toNat) := by
  rw [BitVec.ofNat_add, BitVec.ofNat_toNat, BitVec.ofNat_toNat, BitVec.setWidth_eq, BitVec.setWidth_eq]
theorem sub_eq_ofInt : x - y = BitVec.ofInt 64 (x.toInt - y.toInt) := by
  rw [ofInt_sub_word, BitVec.ofInt_toInt, BitVec.ofInt_toInt]
/-- What the quotient towards zero leaves of the dividend is the remainder. -/
theorem remTrunc_eq : remTrunc x y = if y = 0 then x else BitVec.ofInt 64 (x.toInt.tmod y.toInt) := by
  unfold remTrunc divTrunc
  split
  next h => rw [h, zero_mul, sub_zero]
  next => rw [Int.tmod_def, ofInt_sub_word, BitVec.ofInt_mul, BitVec.ofInt_toInt, BitVec.ofInt_toInt]
variable {x y}
theorem ne_zero_of_toInt_neg_one (hy : y.toInt = -1) : y ≠ 0 := by
  rintro rfl
  exact absurd hy (by decide)
/-- The quotient that does not fit wraps to the dividend (R183). -/
theorem divTrunc_least_neg_one (hx : x.toInt = -2 ^ 63) (hy : y.toInt = -1) : divTrunc x y = BitVec.ofInt 64 (-2 ^ 63) := by
  rw [divTrunc, if_neg (ne_zero_of_toInt_neg_one hy), hx, hy]
  rfl
theorem remTrunc_neg_one (hy : y.toInt = -1) : remTrunc x y = 0 := by
  rw [remTrunc_eq, if_neg (ne_zero_of_toInt_neg_one hy), hy, Int.tmod_neg, Int.tmod_one]
  rfl
end

/-- A result clamped to the range of a 64-bit format, and whether it was (R184). -/
theorem satWord_eq {f : Fmt} (hw : f.width = 64) (z : Int) :
    satWord f z = (BitVec.ofInt 64 (max (intMin f) (min (intMax f) z)), if z = max (intMin f) (min (intMax f) z) then 0 else flSA) := by
  have hcode (c : Int) : BitVec.ofNat 64 (wrapCode f.width c) = BitVec.ofInt 64 c := by
    have hlt : c % 18446744073709551616 < 18446744073709551616 := Int.emod_lt_of_pos _ (by decide)
    rw [wrapCode_eq, hw]
    exact BitVec.eq_of_toNat_eq (by simp [hlt])
  simp only [satWord, satCode_eq, hcode, flagIf, bne_iff_ne, ne_eq, ite_not, eq_comm (a := z)]

end Sys2Proof.Machine

open Sys2Proof Sys2Proof.Machine

/-- Settles O18: sums and products by the numbers their operands stand for, quotients by the divisor, clamped sums by `satWord_eq`. -/
theorem scalarSumsAndDivisions : Obligations.ScalarSumsAndDivisions := by
  refine ⟨fun s d a b => ⟨?add, ?sub, ?mul, rfl, rfl, ?and, ?or, ?xor, ?andn, rfl⟩,
    fun s d a b => ⟨rfl, rfl, ?rem, rfl, fun hx hy => ⟨?divLeast, ?remLeast⟩⟩,
    fun s d a b => ?saturating⟩
  case add => exact done_putS_of_eq 1 (add_eq_ofNat _ _)
  case sub => exact done_putS_of_eq 1 (sub_eq_ofInt _ _)
  case mul => exact done_putS_of_eq 3 (mul_eq_ofInt _ _)
  case and => exact ⟨_, rfl, fun k _ => BitVec.getLsbD_and⟩
  case or => exact ⟨_, rfl, fun k _ => BitVec.getLsbD_or⟩
  case xor => exact ⟨_, rfl, fun k _ => BitVec.getLsbD_xor⟩
  case andn => exact ⟨_, rfl, fun k hk => by rw [BitVec.getLsbD_and, BitVec.getLsbD_not, decide_eq_true hk, Bool.true_and]⟩
  case rem => exact done_putS_of_eq 20 (remTrunc_eq _ _)
  case divLeast => exact done_putS_of_eq 20 (divTrunc_least_neg_one hx hy)
  case remLeast => exact done_putS_of_eq 20 (remTrunc_neg_one hy)
  case saturating =>
    intro signed natural put x y ux uy
    have clamped (f : Fmt) (hw : f.width = 64) (z c : Int) (hc : max (intMin f) (min (intMax f) z) = c) :
        done (s.put 1 (.s d.toNat (satWord f z).1) (satWord f z).2) = .next (put z c) := by
      rw [satWord_eq hw, hc, done_eq]
    exact ⟨clamped .i64 rfl (x + y) _ rfl, clamped .i64 rfl (x - y) _ rfl, clamped .n64 rfl (ux + uy) _ rfl, clamped .n64 rfl (ux - uy) _ rfl⟩
end

-- ================================================================
-- Proofs, scope: Extremes of naturals, counts and bit fields
-- ================================================================

section
namespace Sys2Proof.Machine
open Sys2Proof

/-! ### Naturals compared, and bits counted (R183) -/

section
variable (x y : Word)
theorem ite_ult_eq_min : (if x.ult y then x else y) = BitVec.ofNat 64 (min x.toNat y.toNat) := by
  by_cases h : x.toNat < y.toNat
  · rw [if_pos (BitVec.ult_iff_toNat_lt.mpr h), min_eq_left h.le, BitVec.ofNat_toNat, BitVec.setWidth_eq]
  · rw [if_neg (mt BitVec.ult_iff_toNat_lt.mp h), min_eq_right (not_lt.mp h), BitVec.ofNat_toNat, BitVec.setWidth_eq]
theorem ite_ult_eq_max : (if x.ult y then y else x) = BitVec.ofNat 64 (max x.toNat y.toNat) := by
  by_cases h : x.toNat < y.toNat
  · rw [if_pos (BitVec.ult_iff_toNat_lt.mpr h), max_eq_right h.le, BitVec.ofNat_toNat, BitVec.setWidth_eq]
  · rw [if_neg (mt BitVec.ult_iff_toNat_lt.mp h), max_eq_left (not_lt.mp h), BitVec.ofNat_toNat, BitVec.setWidth_eq]

/-- The zeros below bit `n`, and the 1 that ends them. -/
theorem clzFrom_spec (n : Nat) : clzFrom x n ≤ n ∧ (∀ k, n - clzFrom x n ≤ k → k < n → x.getLsbD k = false) ∧
    (clzFrom x n < n → x.getLsbD (n - 1 - clzFrom x n) = true) := by
  induction n with
  | zero => exact ⟨le_rfl, fun k _ hk => absurd hk (Nat.not_lt_zero k), fun h => absurd h (Nat.lt_irrefl 0)⟩
  | succ n ih =>
    obtain ⟨hle, hzero, hone⟩ := ih
    by_cases hn : x.getLsbD n = true
    · rw [clzFrom, if_pos hn]
      exact ⟨Nat.zero_le _, fun k h1 h2 => absurd h2 (Nat.not_lt.mpr h1), fun _ => hn⟩
    · rw [clzFrom, if_neg hn]
      refine ⟨by omega, fun k h1 h2 => ?_, fun h => ?_⟩
      · rcases Nat.lt_succ_iff_lt_or_eq.mp h2 with hk | rfl
        · exact hzero k (by omega) hk
        · exact Bool.eq_false_iff.mpr hn
      · rw [show n + 1 - 1 - (1 + clzFrom x n) = n - 1 - clzFrom x n by omega]
        exact hone (by omega)
/-- The zeros from bit `i` up, and the 1 that ends them. -/
theorem ctzFrom_spec (i n : Nat) : ctzFrom x i n ≤ n ∧ (∀ k, i ≤ k → k < i + ctzFrom x i n → x.getLsbD k = false) ∧
    (ctzFrom x i n < n → x.getLsbD (i + ctzFrom x i n) = true) := by
  induction n generalizing i with
  | zero => exact ⟨le_rfl, fun k h1 h2 => absurd h2 (Nat.not_lt.mpr h1), fun h => absurd h (Nat.lt_irrefl 0)⟩
  | succ n ih =>
    obtain ⟨hle, hzero, hone⟩ := ih (i + 1)
    by_cases hi : x.getLsbD i = true
    · rw [ctzFrom, if_pos hi]
      exact ⟨Nat.zero_le _, fun k h1 h2 => absurd h2 (Nat.not_lt.mpr h1), fun _ => hi⟩
    · rw [ctzFrom, if_neg hi]
      refine ⟨by omega, fun k h1 h2 => ?_, fun h => ?_⟩
      · rcases Nat.eq_or_lt_of_le h1 with rfl | hk
        · exact Bool.eq_false_iff.mpr hi
        · exact hzero k hk (by omega)
      · rw [← Nat.add_assoc]
        exact hone (by omega)
theorem popcount_eq (n : Nat) : popcount x n = ((List.range n).filter x.getLsbD).length := by
  induction n with
  | zero => rfl
  | succ n ih =>
    rw [popcount, ih, List.range_succ, List.filter_append, List.length_append, Nat.add_comm]
    cases h : x.getLsbD n <;> simp [h]
end

/-! ### Fields of a word (R183, R185) -/

section
variable (x : Word) {w k : Nat}
/-- The low bits read as a signed number are that field's own value. -/
theorem signedOf_toNat (hw : w ≠ 0) : signedOf w x.toNat = (x.setWidth w).toInt := by
  have hpow : 2 ^ w = 2 * 2 ^ (w - 1) := by rw [← Nat.pow_succ', Nat.succ_eq_add_one, Nat.sub_add_cancel (Nat.pos_of_ne_zero hw)]
  rw [BitVec.toInt_eq_toNat_cond, BitVec.toNat_setWidth, signedOf]
  simp only [show 2 * (x.toNat % 2 ^ w) < 2 ^ w ↔ x.toNat % 2 ^ w < 2 ^ (w - 1) by omega, Nat.cast_pow, Nat.cast_ofNat]
theorem getLsbD_sextLow (hw : w ≤ 64) (hk : k < 64) : (sextLow x w).getLsbD k = (decide (w ≠ 0) && x.getLsbD (min k (w - 1))) := by
  unfold sextLow
  split
  next h => simp [h]
  next h =>
    have hext : BitVec.ofInt 64 (signedOf w x.toNat) = (x.setWidth w).signExtend 64 := by rw [signedOf_toNat x h, BitVec.signExtend]
    have hlast : w - 1 < w := by omega
    rw [hext, BitVec.getLsbD_signExtend, decide_eq_true hk, Bool.true_and, decide_eq_true h, Bool.true_and]
    split
    next hkw => rw [BitVec.getLsbD_setWidth, decide_eq_true hkw, Bool.true_and, min_eq_left (by omega)]
    next hkw => rw [BitVec.msb_eq_getLsbD_last, BitVec.getLsbD_setWidth, decide_eq_true hlast, Bool.true_and, min_eq_right (by omega)]
theorem getLsbD_zextLow (hk : k < 64) : (zextLow x w).getLsbD k = (decide (k < w) && x.getLsbD k) := by
  rw [zextLow, BitVec.getLsbD_ofNat, decide_eq_true hk, Bool.true_and, Nat.testBit_mod_two_pow, BitVec.getLsbD]

variable (b : Word)
theorem bfLen_le : bfLen b ≤ 64 := Nat.min_le_right _ _
/-- The `l` bits from bit `p` up. -/
theorem getLsbD_fieldMask (l p : Nat) (hk : k < 64) :
    (BitVec.ofNat 64 (2 ^ l - 1) <<< p : Word).getLsbD k = decide (p ≤ k ∧ k < p + l) := by
  rw [BitVec.getLsbD_shiftLeft, BitVec.getLsbD_ofNat, Nat.testBit_two_pow_sub_one]
  by_cases h : p ≤ k
  · have h1 : k - p < 64 := by omega
    have h2 : k - p < l ↔ k < p + l := by omega
    simp [hk, h, h1, h2, Nat.not_lt.mpr h]
  · simp [h, Nat.lt_of_not_le h]
theorem getLsbD_bfInsert (a : Word) (hk : k < 64) : (bfInsert x a b).getLsbD k =
    if bfPos b ≤ k ∧ k < bfPos b + bfLen b then a.getLsbD (k - bfPos b) else x.getLsbD k := by
  simp only [bfInsert, BitVec.getLsbD_or, BitVec.getLsbD_and, BitVec.getLsbD_not, getLsbD_fieldMask _ _ hk, decide_eq_true hk, Bool.true_and]
  split
  next h =>
    rw [BitVec.getLsbD_shiftLeft, decide_eq_true hk, decide_eq_false (Nat.not_lt.mpr h.1), decide_eq_true h]
    simp
  next h => simp [h]
end

end Sys2Proof.Machine

open Sys2Proof Sys2Proof.Machine

/-- Settles O19: shifts and extremes by the numbers they stand for, the counts by induction on the bits looked at, fields bit by bit. -/
theorem scalarShiftsCountsFields : Obligations.ScalarShiftsCountsFields := by
  refine ⟨fun s d a b => ⟨?sll, ?srl, ?sra, ?min, ?max, ?minn, ?maxn⟩,
    fun s d a b w => ⟨?clz, ?ctz, ?popc, ?sext, ?zext, ?bfxn, ?bfxs, ?bfi⟩⟩
  case sll => exact done_putS_of_eq 1 (shiftLeft_bits _ _)
  case srl => exact done_putS_of_eq 1 (ushiftRight_bits _ _)
  case sra => exact done_putS_of_eq 1 (sshiftRight_bits _ _)
  case min => exact done_putS_of_eq 1 (ite_slt_eq_min _ _)
  case max => exact done_putS_of_eq 1 (ite_slt_eq_max _ _)
  case minn => exact done_putS_of_eq 1 (ite_ult_eq_min _ _)
  case maxn => exact done_putS_of_eq 1 (ite_ult_eq_max _ _)
  case clz =>
    obtain ⟨hle, hzero, hone⟩ := clzFrom_spec (s.rs a) 64
    refine ⟨_, rfl, hle, fun k hk => ?_, hone⟩
    by_cases h : k < 64
    · exact hzero k hk h
    · exact BitVec.getLsbD_of_ge _ _ (not_lt.mp h)
  case ctz =>
    obtain ⟨hle, hzero, hone⟩ := ctzFrom_spec (s.rs a) 0 64
    rw [Nat.zero_add] at hzero hone
    exact ⟨_, rfl, hle, fun k hk => hzero k (Nat.zero_le k) hk, hone⟩
  case popc => exact done_putS_of_eq 1 (congrArg (BitVec.ofNat 64) (popcount_eq _ 64))
  case sext =>
    have hw : 2 ^ w.toNat ≤ 2 ^ 3 := Nat.pow_le_pow_right (by decide) (by omega)
    have h0 : 8 * 2 ^ w.toNat ≠ 0 := by positivity
    refine ⟨_, rfl, fun k hk => ?_⟩
    rw [getLsbD_sextLow _ (by omega) hk, decide_eq_true h0, Bool.true_and]
  case zext => exact ⟨_, rfl, fun k hk => getLsbD_zextLow _ hk⟩
  case bfxn =>
    refine ⟨_, rfl, fun k hk => ?_⟩
    show (zextLow _ _).getLsbD k = _
    rw [getLsbD_zextLow _ hk, BitVec.getLsbD_ushiftRight]
  case bfxs =>
    refine ⟨_, rfl, fun k hk => ?_⟩
    show (sextLow _ _).getLsbD k = _
    rw [getLsbD_sextLow _ (bfLen_le _) hk, BitVec.getLsbD_ushiftRight]
  case bfi => exact ⟨_, rfl, fun k hk => getLsbD_bfInsert _ _ _ hk⟩
end

-- ================================================================
-- Proofs, scope: Compares, predicates as a word
-- ================================================================

section
namespace Sys2Proof.Machine
open Sys2Proof

/-! ### Words equal as numbers, predicates as a word (R187, R188) -/

section
variable (x y : Word)
theorem beq_eq_decide_toInt : (x == y) = decide (x.toInt = y.toInt) := by
  rw [Bool.beq_eq_decide_eq, decide_eq_decide, BitVec.toInt_inj]
theorem bne_eq_decide_toInt : (x != y) = decide (x.toInt ≠ y.toInt) := by
  rw [bne, beq_eq_decide_toInt, ← decide_not]
end

theorem done_putP_of_eq {s : State} {d : BitVec 5} {x y : Bool} (h : x = y) : done (s.putP d x) = .next (s.putP d y) := by
  rw [h, done_eq]

theorem testBit_leNatBits (l : List Bool) (k : Nat) : (predBits.leNatBits l).testBit k = l.getD k false := by
  induction l generalizing k with
  | nil => simp [predBits.leNatBits]
  | cons b bs ih =>
    have hbit : predBits.leNatBits (b :: bs) = Nat.bit b (predBits.leNatBits bs) := by
      rw [predBits.leNatBits, Nat.bit_val, Nat.add_comm]
    rw [hbit]
    cases k with
    | zero => exact Nat.testBit_bit_zero ..
    | succ k => exact (Nat.testBit_bit_succ ..).trans (ih k)
theorem getLsbD_predBits (g : Regs) {k : Nat} (hk : k < 64) : (predBits g).getLsbD k = (decide (k < 16) && g.rp k) := by
  rw [predBits, BitVec.getLsbD_ofNat, testBit_leNatBits, decide_eq_true hk, Bool.true_and]
  by_cases h : k < 16 <;> simp [h]

/-- SPRED writes the selected predicates, and p0 stays true (R107, R188). -/
theorem Regs.rp_apply_preds (g : Regs) (m x : BitVec 16) {n : Nat} (hn : n < 16) :
    (g.apply (.preds m x)).rp n = if n ≠ 0 ∧ m.getLsbD n = true then x.getLsbD n else g.rp n := by
  by_cases h0 : n = 0
  · simp [Regs.rp, h0]
  · simp [Regs.rp, Regs.apply, h0, hn]

end Sys2Proof.Machine

open Sys2Proof Sys2Proof.Machine

/-- Settles O21: every compare by the numbers of its operands, PTOS bit by bit, SPRED by what its result does when written. -/
theorem scalarComparesAndPredicates : Obligations.ScalarComparesAndPredicates := by
  refine ⟨fun s d a b i => ⟨?eq, ?ne, rfl, rfl, rfl, rfl, ?eqi, ?nei, rfl, rfl, rfl, rfl⟩,
    fun s d a b v => ⟨rfl, rfl, rfl, rfl, rfl, rfl, ?pset, ⟨_, rfl, fun k hk => getLsbD_predBits _ hk⟩, ⟨_, rfl, fun n hn => ?spred⟩⟩⟩
  case eq => exact done_putP_of_eq (beq_eq_decide_toInt _ _)
  case ne => exact done_putP_of_eq (bne_eq_decide_toInt _ _)
  case eqi => exact done_putP_of_eq (beq_eq_decide_toInt _ _)
  case nei => exact done_putP_of_eq (bne_eq_decide_toInt _ _)
  case pset => exact done_putP_of_eq (Bool.beq_eq_decide_eq _ _)
  case spred =>
    rw [Regs.rp_apply_preds _ _ _ hn, BitVec.getLsbD_setWidth, BitVec.getLsbD_setWidth, decide_eq_true hn, Bool.true_and, Bool.true_and]
end

-- ================================================================
-- Proofs, scope: Redirections, yields and returns from the handler
-- ================================================================

section
namespace Sys2Proof.Machine
open Sys2Proof

/-! ### Redirection and yields (R202, R215) -/

section
variable {s : State}
/-- Outside slot X a redirection is always recorded (R202). -/
theorem State.redirect_of_ne_X (hslot : s.ctx.iss.slot ≠ .X) (t : Dpa) (mark : BundleEnd → BundleEnd) :
    s.redirect t mark = s.updEnd (fun e => mark { e with sBranch := some t }) := if_neg hslot

theorem exec_ppt_asked {r : BitVec 17} {till : Nat} (hy : s.ctx.yield_ = some till) (hage : s.core.age ≤ till)
    (hin : s.ctx.csr.inHandler = false) : exec (.ppt r) s = .next (s.updEnd (fun e => { e with ppt := some r.toNat })) := by
  show execPpt r s = _
  simp only [execPpt, hy, hage, hin, Bool.not_false, and_self, if_true, done_eq]
theorem exec_ppt_ignored {r : BitVec 17} (h : ∀ till, s.ctx.yield_ = some till → ¬ (s.core.age ≤ till ∧ s.ctx.csr.inHandler = false)) :
    exec (.ppt r) s = .next s := by
  show execPpt r s = _
  cases hy : s.ctx.yield_ with
  | none => simp only [execPpt, hy, done_eq]
  | some till => simp only [execPpt, hy, Bool.not_eq_true', if_neg (h till hy), done_eq]
theorem exec_rett_inside (hin : s.ctx.csr.inHandler = true) :
    exec .rett s = .next (s.redirect (s.ctx.csr.tpc.setWidth 48) (fun e => { e with rett := true })) :=
  congrArg (deliver s) (if_pos hin)
theorem exec_rett_outside (hin : s.ctx.csr.inHandler = false) : exec .rett s = .next (s.takeFault (s.faultRec 0x20 0)) :=
  congrArg (deliver s) (if_neg (by simp [hin]))
end

end Sys2Proof.Machine

open Sys2Proof Sys2Proof.Machine

/-- Settles O25: PPT by whether a yield is asked for, in its window and outside a handler, RETT by the handler. -/
theorem flowInstructions : Obligations.FlowInstructions := by
  intro s a b n r len
  refine ⟨rfl, rfl, rfl, rfl, rfl, fun t hy hage hin => exec_ppt_asked hy hage hin, fun h => exec_ppt_ignored fun till hy => ?_,
    fun hin hslot => ?_, exec_rett_outside⟩
  · rintro ⟨hage, hin⟩
    rcases h with hnone | hin' | ⟨t, ht, hlate⟩
    · exact absurd (hy.symm.trans hnone) (Option.some_ne_none till)
    · exact Bool.false_ne_true (hin.symm.trans hin')
    · obtain rfl : till = t := Option.some.inj (hy.symm.trans ht)
      omega
  · rw [exec_rett_inside hin, State.redirect_of_ne_X hslot]
end

-- ================================================================
-- Proofs, scope: The loop nest unit
-- ================================================================

section
namespace Sys2Proof.Machine
open Sys2Proof

/-! ### The levels of the loop nest unit -/

section
variable {u : Lnu} {l : Nat}
theorem Lnu.level_eq_none : u.level l = none ↔ ∀ x ∈ u.act, x.lvl ≠ l := by
  simp [Lnu.level]
theorem Lnu.level_of_unique {x : Level} (hx : x ∈ u.act) (hl : x.lvl = l) (hone : ∀ y ∈ u.act, y.lvl = x.lvl → y = x) :
    u.level l = some x := by
  cases h : u.level l with
  | none => exact absurd hl (Lnu.level_eq_none.mp h x hx)
  | some y =>
    have hy : y.lvl = l := by simpa using List.find?_some h
    rw [hone y (List.mem_of_find?_eq_some h) (hy.trans hl.symm)]
theorem Lnu.level_of_head {x : Level} {xs : List Level} (hact : u.act = x :: xs) (hl : x.lvl = l) : u.level l = some x := by
  simp [Lnu.level, hact, hl]
theorem Lnu.lastOf_of_level {x : Level} (h : u.level l = some x) : u.lastOf l = x.last := by
  rw [Lnu.lastOf, h]
  rfl
end

/-! ### LOOP, LSTRD and LBRK (R206–R209, R211) -/

section
variable {s : State} {l : BitVec 3} {a b : BitVec 5} {n : BitVec 7}

/-- The body of a LOOP of this bundle: its last bundle, and the one after it. -/
def State.loopBody (s : State) (n : BitVec 7) : Dpa × Dpa := s.pk.bodyEnd s.followPc n.toNat
/-- What LOOP raises the loop fault on (R207, R483). -/
def State.loopBarred (s : State) (l : BitVec 3) (n : BitVec 7) : Prop :=
  s.ctx.csr.inHandler = true ∨ s.ctx.iss.be.loopsBegun ≠ 0 ∨ (l.toNat > 0 ∧ (s.ctx.lnu.level (l.toNat - 1)).isNone = true) ∨
    s.ctx.lnu.act.any (fun x => l.toNat ≤ x.lvl) = true ∨
    (l.toNat > 0 ∧ (s.loopBody n).1.toNat > (s.ctx.lnu.lastOf (l.toNat - 1)).toNat)

theorem State.updEnd_firstLoop (h : s.ctx.iss.be.loopsBegun = 0) :
    s.updEnd (fun e => { e with loopsBegun := e.loopsBegun + 1 }) = s.updEnd (fun e => { e with loopsBegun := 1 }) := by
  simp only [State.updEnd, State.updIss, h]
theorem exec_loop_barred (h : s.loopBarred l n) : exec (.loop l a n) s = .next (s.takeFault (s.loopFault l.toNat)) := if_pos h
theorem exec_loop_begins (h : ¬ s.loopBarred l n) (ha : s.rs a ≠ 0) :
    exec (.loop l a n) s = .next ((s.updEnd (fun e => { e with loopsBegun := e.loopsBegun + 1 })).updCtx (fun c => { c with lnu :=
      ⟨⟨l.toNat, (s.rs a).toNat, 1, s.followPc, (s.loopBody n).1, (s.loopBody n).2,
        (s.ctx.lnu.wait.filter (fun w => w.1 == l.toNat)).map Prod.snd⟩ :: c.lnu.act, s.ctx.lnu.wait.filter (fun w => w.1 != l.toNat)⟩ })) :=
  (if_neg h).trans (if_neg ha)
/-- A trip count of 0: the way leads past the body (R207). -/
theorem exec_loop_skips (h : ¬ s.loopBarred l n) (ha : s.rs a = 0) (hslot : s.ctx.iss.slot ≠ .X) :
    exec (.loop l a n) s = .next (((s.updEnd (fun e => { e with loopsBegun := e.loopsBegun + 1 })).updCtx (fun c =>
      { c with lnu := { c.lnu with wait := s.ctx.lnu.wait.filter (fun w => w.1 != l.toNat) } })).updEnd
      (fun e => { e with sBranch := some (s.loopBody n).2, skip := some (s.loopBody n).1 })) := by
  have hkept (t : Dpa) : (s.updEnd (fun e => { e with loopsBegun := e.loopsBegun + 1 })).discards t = false := by
    simp [State.discards, hslot]
  refine (if_neg h).trans ((if_pos ha).trans ?_)
  simp only [hkept, if_false, Bool.false_eq_true, done_eq]
  exact congrArg Host.Outcome.next (State.redirect_of_ne_X (by exact hslot) _ _)
theorem not_loopBarred (hin : s.ctx.csr.inHandler = false) (hfirst : s.ctx.iss.be.loopsBegun = 0)
    (hinner : ∀ x ∈ s.ctx.lnu.act, x.lvl < l.toNat)
    (houter : l ≠ 0 → ∃ x ∈ s.ctx.lnu.act, x.lvl + 1 = l.toNat ∧ (∀ y ∈ s.ctx.lnu.act, y.lvl = x.lvl → y = x) ∧
      (s.loopBody n).1.toNat ≤ x.last.toNat) : ¬ s.loopBarred l n := by
  have hlevel (hl : 0 < l.toNat) : ∃ x, s.ctx.lnu.level (l.toNat - 1) = some x ∧ (s.loopBody n).1.toNat ≤ x.last.toNat := by
    obtain ⟨x, hx, hlvl, hone, hend⟩ := houter (by rintro rfl; exact absurd hl (by decide))
    exact ⟨x, Lnu.level_of_unique hx (by omega) hone, hend⟩
  rintro (h | h | ⟨hl, h⟩ | h | ⟨hl, h⟩)
  · exact Bool.false_ne_true (hin.symm.trans h)
  · exact h hfirst
  · obtain ⟨x, hx, -⟩ := hlevel hl
    simp [hx] at h
  · obtain ⟨x, hx, hle⟩ := List.any_eq_true.mp h
    exact absurd (hinner x hx) (Nat.not_lt.mpr (of_decide_eq_true hle))
  · obtain ⟨x, hx, hend⟩ := hlevel hl
    rw [Lnu.lastOf_of_level hx] at h
    exact absurd hend (Nat.not_le.mpr h)

/-- The strides that wait, but for one of the same register at the same level. -/
def Lnu.otherStrides (u : Lnu) (l : BitVec 3) (a : BitVec 5) : List (Nat × Nat × Word) :=
  u.wait.filter (fun w => !(w.1 == l.toNat && w.2.1 == a.toNat))
theorem Lnu.otherStrides_of_level (u : Lnu) (l : BitVec 3) (a : BitVec 5) :
    (u.otherStrides l a).filter (fun w => w.1 == l.toNat) = u.wait.filter (fun w => w.1 == l.toNat && w.2.1 != a.toNat) := by
  rw [Lnu.otherStrides, List.filter_filter]
  refine List.filter_congr fun w _ => ?_
  cases h : w.1 == l.toNat <;> simp [bne]
theorem exec_lstrd_barred (h : s.ctx.csr.inHandler = true ∨ (s.ctx.lnu.level l.toNat).isSome = true ∨
    ((s.ctx.lnu.otherStrides l a).filter (fun w => w.1 == l.toNat)).length ≥ 4) :
    exec (.lstrd l a b) s = .next (s.takeFault (s.loopFault l.toNat)) := if_pos h
theorem exec_lstrd_notes (hin : s.ctx.csr.inHandler = false) (hlevel : s.ctx.lnu.level l.toNat = none)
    (hroom : ((s.ctx.lnu.otherStrides l a).filter (fun w => w.1 == l.toNat)).length < 4) :
    exec (.lstrd l a b) s = .next (s.updCtx (fun c =>
      { c with lnu := { c.lnu with wait := s.ctx.lnu.otherStrides l a ++ [(l.toNat, a.toNat, s.rs b)] } })) := by
  refine if_neg ?_
  rintro (h | h | h)
  · exact Bool.false_ne_true (hin.symm.trans h)
  · exact Bool.false_ne_true ((congrArg Option.isSome hlevel).symm.trans h)
  · exact absurd hroom (Nat.not_lt.mpr h)

theorem exec_lbrk_barred (h : s.ctx.csr.inHandler = true ∨ s.ctx.lnu.level l.toNat = none) :
    exec (.lbrk l) s = .next (s.takeFault (s.loopFault l.toNat)) := by
  have hnone : (if s.ctx.csr.inHandler then none else s.ctx.lnu.level l.toNat) = none := by
    rcases h with h | h <;> simp [h]
  show execLbrk l s = _
  rw [execLbrk, hnone]
  rfl
theorem exec_lbrk_leaves {x : Level} (hin : s.ctx.csr.inHandler = false) (h : s.ctx.lnu.level l.toNat = some x) :
    exec (.lbrk l) s = .next (s.redirect x.after (fun e => { e with lbrk := some l.toNat })) := by
  show execLbrk l s = _
  simp only [execLbrk, hin, if_false, Bool.false_eq_true, h, done_eq]
end

/-! ### The decision at a body's last bundle (R208) -/

section
variable {last dflt : Dpa} {x : Level} {xs : List Level}
theorem lnuEnd_elsewhere (h : x.last ≠ last) : lnuEnd last dflt (x :: xs) = (dflt, x :: xs, []) := if_neg h
theorem lnuEnd_again (h : x.last = last) (hi : x.iter < x.trip) :
    lnuEnd last dflt (x :: xs) = (x.first, { x with iter := x.iter + 1 } :: xs, x.strides) := (if_pos h).trans (if_pos hi)
theorem lnuEnd_ends (h : x.last = last) (hi : x.trip ≤ x.iter) : lnuEnd last dflt (x :: xs) =
    ((lnuEnd last x.after xs).1, (lnuEnd last x.after xs).2.1, x.strides ++ (lnuEnd last x.after xs).2.2) :=
  (if_pos h).trans (if_neg (Nat.not_lt.mpr hi))
/-- Each end of a body that is to begin again counts one iteration. -/
theorem lnuEnd_repeat (h : x.last = last) (n : Nat) (hn : x.iter + n ≤ x.trip) :
    Nat.repeat (fun l => (lnuEnd last dflt l).2.1) n (x :: xs) = { x with iter := x.iter + n } :: xs := by
  induction n with
  | zero => rfl
  | succ n ih =>
    rw [Nat.repeat, ih (by omega), lnuEnd_again (x := { x with iter := x.iter + n }) h (Nat.lt_of_succ_le hn), Nat.add_assoc]
end

end Sys2Proof.Machine

open Sys2Proof Sys2Proof.Machine

/-- Settles O24: LOOP and LSTRD by what bars them, LBRK by whether its level is active, the body's end by `lnuEnd`'s cases. -/
theorem loops : Obligations.Loops := by
  refine ⟨fun s l a b n hin => ⟨fun hfirst hinner houter => ⟨fun ha => ?begins, fun ha hslot => ?skips⟩, fun hnew hroom => ?notes,
      fun x xs hact hl hslot => ?leaves⟩,
    fun s l a b n => ⟨fun h => ⟨exec_loop_barred (.inl h), exec_lstrd_barred (.inl h), exec_lbrk_barred (.inl h)⟩,
      fun h => exec_loop_barred (.inr (.inl h)), fun h => ?tooDeep, fun hl h => ?noOuter, fun x hl hx h => ?pastOuter,
      fun h => ?active, fun h => ?fifth,
      fun h => exec_lbrk_barred (.inr (Lnu.level_eq_none.mpr h))⟩,
    fun last dflt x xs => ⟨lnuEnd_elsewhere, lnuEnd_again, lnuEnd_ends, rfl, fun n h hi ht => ?repeats⟩⟩
  case begins =>
    rw [exec_loop_begins (not_loopBarred hin hfirst hinner houter) ha, State.updEnd_firstLoop hfirst]
    rfl
  case skips =>
    rw [exec_loop_skips (not_loopBarred hin hfirst hinner houter) ha hslot, State.updEnd_firstLoop hfirst]
    rfl
  case notes => exact exec_lstrd_notes hin (Lnu.level_eq_none.mpr hnew) hroom
  case leaves => rw [exec_lbrk_leaves hin (Lnu.level_of_head hact hl), State.redirect_of_ne_X hslot]
  case tooDeep => exact exec_loop_barred (.inr (.inr (.inr (.inl (by simpa using h)))))
  case noOuter =>
    have hpos : 0 < l.toNat := BitVec.toNat_pos_of_ne_zero hl
    have hnone : s.ctx.lnu.level (l.toNat - 1) = none := Lnu.level_eq_none.mpr fun x hx => by
      have := h x hx
      omega
    exact exec_loop_barred (.inr (.inr (.inl ⟨hpos, by rw [hnone, Option.isNone_none]⟩)))
  case pastOuter =>
    have hpos : 0 < l.toNat := BitVec.toNat_pos_of_ne_zero hl
    exact exec_loop_barred (.inr (.inr (.inr (.inr ⟨hpos, by rwa [Lnu.lastOf_of_level hx]⟩))))
  case active =>
    obtain ⟨x, hx, hlvl⟩ := h
    refine exec_lstrd_barred (.inr (.inl (Option.isSome_iff_ne_none.mpr fun hnone => ?_)))
    exact Lnu.level_eq_none.mp hnone x hx hlvl
  case fifth => exact exec_lstrd_barred (.inr (.inr (by rwa [Lnu.otherStrides_of_level])))
  case repeats => rw [lnuEnd_repeat h n (by omega), hi, Nat.add_comm]
end

-- ================================================================
-- Proofs, scope: Branches of slot X, the return store and its spill area
-- ================================================================

section
namespace Sys2Proof.Machine
open Sys2Proof

/-! ### BEMPTY's lanes, and branches of slot X (R200, R202) -/

/-- The low bits of a number are all 0 where their number is. -/
theorem toNat_mod_two_pow_eq_zero {w : Nat} (x : BitVec w) (m : Nat) : x.toNat % 2 ^ m = 0 ↔ ∀ k < m, x.getLsbD k = false := by
  have hbit (k : Nat) : (x.toNat % 2 ^ m).testBit k = (decide (k < m) && x.getLsbD k) := Nat.testBit_mod_two_pow ..
  refine ⟨fun h k hk => ?_, fun h => Nat.eq_of_testBit_eq fun k => ?_⟩
  · simpa [h, hk] using (hbit k).symm
  · rw [hbit, Nat.zero_testBit, Bool.and_eq_false_imp]
    exact fun hk => h k (of_decide_eq_true hk)

section
variable {s : State}

theorem exec_bempty_taken {o : BitVec 15} {w : BitVec 2} (h : ∀ k < 512 / 2 ^ w.toNat, s.ctx.regs.top.getLsbD k = false) :
    exec (.bempty o w) s = .next (s.redirect (s.target o) id) :=
  congrArg done (if_pos ((toNat_mod_two_pow_eq_zero _ _).mpr h))
theorem exec_bempty_idle {o : BitVec 15} {w : BitVec 2} {k : Nat} (hk : k < 512 / 2 ^ w.toNat) (hon : s.ctx.regs.top.getLsbD k = true) :
    exec (.bempty o w) s = .next s :=
  congrArg done (if_neg fun h => Bool.false_ne_true (((toNat_mod_two_pow_eq_zero _ _).mp h k hk).symm.trans hon))

/-- A branch of slot X that is dropped is counted (R202). -/
def State.countDrop (s : State) : State :=
  s.updCtx (fun c => { c with csr := { c.csr with brdrop := BitVec.ofNat 64 ((c.csr.brdrop.toNat + 1) % 2 ^ 32) } })
variable {t : Dpa} (hslot : s.ctx.iss.slot = .X) (mark : BundleEnd → BundleEnd)
include hslot
theorem State.redirect_X_dropped (h : s.ctx.iss.be.exit_ = true ∨ ∃ u, s.ctx.iss.be.sBranch = some u ∧ u ≠ t) :
    s.redirect t mark = s.countDrop := by
  have hdrop : s.discards t = true := by
    rcases h with h | ⟨u, hu, hne⟩
    · simp [State.discards, hslot, h]
    · simp [State.discards, hslot, hu, hne]
  exact (if_pos hslot).trans (if_pos hdrop)
theorem State.redirect_X_same (hexit : s.ctx.iss.be.exit_ = false) (hs : s.ctx.iss.be.sBranch = some t) : s.redirect t id =
    s.updEnd (fun e => { e with xBranch := some t, xlbrk := none, xskip := false }) := by
  have hkept : ¬ s.discards t = true := by simp [State.discards, hexit, hs]
  refine ((if_pos hslot).trans (if_neg hkept)).trans ((if_pos (by rw [hs]; rfl)).trans ?_)
  simp
theorem State.redirect_X_alone (hexit : s.ctx.iss.be.exit_ = false) (hs : s.ctx.iss.be.sBranch = none) : s.redirect t mark =
    s.updEnd (fun e => mark { e with xBranch := some t }) := by
  have hkept : ¬ s.discards t = true := by simp [State.discards, hexit, hs]
  exact ((if_pos hslot).trans (if_neg hkept)).trans (if_neg (by simp [hs]))
end

/-! ### The return store and its spill area (R204, R205) -/

section
variable {s : State} {ret t : Dpa} {n : Nat}

theorem State.keeps.sib {s t : State} (h : s.keeps t) : t.sib = s.sib := by
  obtain ⟨-, -, -, -, -, -, -, -, -, -, -, -, hsib, -, -⟩ := h
  exact hsib
theorem State.access_ok (reg : Nat) {h : Handle} {o : Int} {n need : Nat} {copy : Bool} (hm : s.mayReach (hIdx h) o n need copy) :
    s.access reg h o n need copy = .ok (entryRange (s.pk.entryAt (bits s.ctx.csr.btab 47 0) (hIdx h)) o.toNat n) := by
  rw [State.access, s.accessEntry_ok _ _ _ _ _ _ hm]
  rfl

/-- A core's own store is outstanding on the context's G timeline; the context and memory are as they were (R332, R394). -/
theorem State.storeG_facts (s : State) (dst : Range) (bytes : List Byte) (count : Nat) :
    s.hasIssued (s.storeG dst bytes count).2 (.store dst bytes count) 0x10 (s.homeLat dst) 0 [] ∧
    s.hasNumbered (s.storeG dst bytes count).2 s.tlG ∧ (s.storeG dst bytes count).2.sib = s.sib ∧ (s.storeG dst bytes count).2.ctx = s.ctx := by
  obtain ⟨-, hissued, hkeeps, hctx, -, hnum, -⟩ :=
    (s.updCore fun c => c.l1Store (s.pk.homeDev dst.via) (splitPieces dst.pieces bytes)).issueNumbered_facts s.tlG
      { id := 0, ctx := 0, kind := .store dst bytes count, cls := 0x10, lat := s.homeLat dst }
  exact ⟨hissued, hnum, hkeeps.sib, hctx⟩

/-- Offset of place `n` of the spill area in its buffer (R195). -/
def Csrs.spillOff (c : Csrs) (n : Nat) : Nat := 8 * (bits c.rsspill 31 3 + n)
/-- The bytes of that place. -/
def State.spillPlace (s : State) (n : Nat) : Range :=
  entryRange (s.pk.entryAt (bits s.ctx.csr.btab 47 0) (bits s.ctx.csr.rsspill 63 48)) (s.ctx.csr.spillOff n) 8
theorem State.access_spillAt {need : Nat} (hoff : s.ctx.csr.spillOff n < 2 ^ 56)
    (hm : s.mayReach (bits s.ctx.csr.rsspill 63 48) (s.ctx.csr.spillOff n) 8 need false) :
    s.access 0 (s.ctx.csr.spillAt n) (hOff (s.ctx.csr.spillAt n)) 8 need = .ok (s.spillPlace n) := by
  have hbuf : bits s.ctx.csr.rsspill 63 48 < 2 ^ 16 := bits_lt _ 63 48
  have hI : hIdx (s.ctx.csr.spillAt n) = bits s.ctx.csr.rsspill 63 48 := hIdx_mkHandle hbuf hoff
  have hO : hOff (s.ctx.csr.spillAt n) = s.ctx.csr.spillOff n := hOff_mkHandle hbuf hoff
  rw [hO, State.access_ok 0 (by rwa [hI]), hI]
  rfl

theorem exec_call (o : BitVec 17) : exec (.call o) s = deliver s (s.callTo (s.target o)) := rfl
theorem exec_callx (a : BitVec 5) : exec (.callx a) s = deliver s (s.callTo ((s.rs a).setWidth 48)) := rfl
theorem State.callTo_room (hroom : s.ctx.ras.length < 16) (t : Dpa) : s.callTo t =
    .ok ((s.updCtx (fun c => { c with ras := s.followPc :: c.ras })).redirect t (fun e => { e with call := true })) :=
  congrArg (Except.map _) (if_pos hroom)
/-- No spill area, or a full one (R204). -/
theorem State.callTo_full (hlen : 16 ≤ s.ctx.ras.length)
    (h : bits s.ctx.csr.rsspill 63 48 = 0 ∨ s.ctx.csr.spilled.toNat = bits s.ctx.csr.rsspill 47 32) (t : Dpa) :
    s.callTo t = failWith (s.faultRec 0x0B 0 0 (s.followPc.zeroExtend 64) s.ctx.csr.rsspill) :=
  congrArg (Except.map _) ((if_neg (Nat.not_lt.mpr hlen)).trans (if_pos h))

/-- The oldest entry goes to the next place of the spill area (R204). -/
theorem State.pushReturn_spills {last : Dpa} (hlen : 16 ≤ s.ctx.ras.length) (hbuf : bits s.ctx.csr.rsspill 63 48 ≠ 0)
    (hroom : s.ctx.csr.spilled.toNat ≠ bits s.ctx.csr.rsspill 47 32) (hoff : s.ctx.csr.spillOff s.ctx.csr.spilled.toNat < 2 ^ 56)
    (hm : s.mayReach (bits s.ctx.csr.rsspill 63 48) (s.ctx.csr.spillOff s.ctx.csr.spilled.toNat) 8 rWR false)
    (hlast : s.ctx.ras.getLast? = some last) : ∃ u, s.pushReturn ret = .ok u ∧
      u.ctx = { s.ctx with ras := ret :: s.ctx.ras.dropLast, csr := { s.ctx.csr with spilled := s.ctx.csr.spilled + 1 } } ∧
      u.pk.mem = s.pk.mem ∧ u.sib = s.sib ∧ s.hasNumbered u s.tlG ∧
      s.hasIssued u (.store (s.spillPlace s.ctx.csr.spilled.toNat) (leBytes 8 last.toNat) 0) 0x10
        (s.homeLat (s.spillPlace s.ctx.csr.spilled.toNat)) 0 [] := by
  obtain ⟨hissued, hnum, hsib, hctx⟩ := s.storeG_facts (s.spillPlace s.ctx.csr.spilled.toNat) (leBytes 8 last.toNat) 0
  have hfull : ¬ s.ctx.ras.length < 16 := Nat.not_lt.mpr hlen
  have harea : ¬ (bits s.ctx.csr.rsspill 63 48 = 0 ∨ s.ctx.csr.spilled.toNat = bits s.ctx.csr.rsspill 47 32) := not_or.mpr ⟨hbuf, hroom⟩
  simp only [State.pushReturn, if_neg hfull, if_neg harea, State.access_spillAt hoff hm, hlast, Option.getD_some]
  exact ⟨_, rfl, by rw [State.updCtx_ctx, hctx], s.storeG_mem _ _ _, hsib, hnum, hissued⟩
theorem State.callTo_spills {u : State} (h : s.pushReturn s.followPc = .ok u) (t : Dpa) :
    s.callTo t = .ok (u.redirect t (fun e => { e with call := true })) := congrArg (Except.map _) h

/-! ### RET -/

theorem exec_ret_pops {ts : List Dpa} (h : s.ctx.ras = t :: ts) :
    exec .ret s = .next ((s.updCtx (fun c => { c with ras := ts })).redirect t (fun e => { e with call := true })) := by
  show execRet s = _
  simp only [execRet, h, deliver_ok]
theorem exec_ret_empty (h : s.ctx.ras = []) (h0 : s.ctx.csr.spilled = 0) : exec .ret s = .next (s.takeFault (s.faultRec 0x0C 0)) := by
  show execRet s = _
  simp only [execRet, h, h0, if_true]
  rfl
theorem exec_ret_refills (h : s.ctx.ras = []) (h0 : s.ctx.csr.spilled ≠ 0) : exec .ret s = deliver s s.refillReturn := by
  show execRet s = _
  simp only [execRet, h, if_neg h0]

/-- The refill's load is outstanding, and the bundle waits for its data to the next cycle (R205, log 5). -/
theorem State.refillReturn_loads (hoff : s.ctx.csr.spillOff (s.ctx.csr.spilled.toNat - 1) < 2 ^ 56)
    (hm : s.mayReach (bits s.ctx.csr.rsspill 63 48) (s.ctx.csr.spillOff (s.ctx.csr.spilled.toNat - 1)) 8 rRD false) :
    ∃ u, s.refillReturn = .ok (u.redirect (BitVec.ofNat 48 (leNat (s.ownBytes (s.spillPlace (s.ctx.csr.spilled.toNat - 1)))))
        (fun e => { e with call := true, refill := true })) ∧
      u.ctx = { s.ctx with
        pend := s.ctx.pend ++ [{ due := s.core.cyc + 1, wr := .none, land := s.pk.opCtr, ready := false }]
        csr := { s.ctx.csr with spilled := s.ctx.csr.spilled - 1 } } ∧
      u.pk.mem = s.pk.mem ∧ u.sib = s.sib ∧
      s.hasIssued u (.load .none .scalar (s.spillPlace (s.ctx.csr.spilled.toNat - 1)) none) 0x20
        (s.homeLat (s.spillPlace (s.ctx.csr.spilled.toNat - 1))) 0 [] := by
  obtain ⟨hissued, hkeeps, hctx, -⟩ := s.issueOp_facts
    { id := 0, ctx := 0, kind := .load .none .scalar (s.spillPlace (s.ctx.csr.spilled.toNat - 1)) none, cls := 0x20
      lat := s.homeLat (s.spillPlace (s.ctx.csr.spilled.toNat - 1)) }
  simp only [State.refillReturn, State.access_spillAt hoff hm]
  refine ⟨_, rfl, ?_⟩
  split
  · exact ⟨by rw [State.updPk_ctx, State.updCtx_ctx, hctx], s.issueOp_mem _, hkeeps.sib, hissued⟩
  · exact ⟨by rw [State.updCtx_ctx, hctx], s.issueOp_mem _, hkeeps.sib, hissued⟩
end

end Sys2Proof.Machine

open Sys2Proof Sys2Proof.Machine

/-- Settles O23: branches by `State.redirect` in and outside slot X, calls by the room of the return store and of its spill area, RET
by what they hold. That a refill's data is due in the next cycle is the model's (log 5). -/
theorem branches : Obligations.Branches := by
  refine ⟨fun s o o' w a hslot => ⟨?b, ?bx, fun hoff => ?bempty, fun k hk hon => exec_bempty_idle hk hon, fun hroom => ?room,
      fun t ts hras => ?pops, fun hlen hbuf hroom hoff hm last hlast => ?spills, fun hras h0 hoff hm => ?refills⟩,
    fun s a o o' w i t hslot => ⟨fun k hk hon => exec_bempty_idle hk hon, fun hi => ?inX⟩,
    fun s o a => ⟨fun hlen h => ?full, fun hras h0 => exec_ret_empty hras h0⟩⟩
  case b => exact congrArg Host.Outcome.next (State.redirect_of_ne_X hslot _ _)
  case bx => exact congrArg Host.Outcome.next (State.redirect_of_ne_X hslot _ _)
  case bempty =>
    rw [exec_bempty_taken hoff, State.redirect_of_ne_X hslot]
    rfl
  case room =>
    have hcall (t : Dpa) := (State.callTo_room hroom t).trans (congrArg Except.ok (State.redirect_of_ne_X (by exact hslot) _ _))
    rw [exec_call, exec_callx, hcall, hcall]
    exact ⟨rfl, rfl⟩
  case pops =>
    rw [exec_ret_pops hras, State.redirect_of_ne_X (by exact hslot)]
  case spills =>
    obtain ⟨u, hu, hctx, hmem, hsib, hnum, hissued⟩ := State.pushReturn_spills (ret := s.followPc) hlen hbuf hroom hoff hm hlast
    have hiss : u.ctx.iss.slot ≠ .X := by rwa [hctx]
    have hregs : u.ctx.regs = s.ctx.regs := by rw [hctx]
    have hlnu : u.ctx.lnu = s.ctx.lnu := by rw [hctx]
    have hpend : u.ctx.pend = s.ctx.pend := by rw [hctx]
    intro spills
    have hspills (i : Instr) (t : Dpa) (hi : exec i s = deliver s (s.callTo t)) : spills i t := by
      rw [State.callTo_spills hu, State.redirect_of_ne_X hiss, deliver_ok] at hi
      exact ⟨_, hi, congrArg Ctx.ras hctx, congrArg Ctx.csr hctx, rfl, rfl, ⟨hregs, hlnu, hmem, hsib⟩, hpend, hnum, hissued⟩
    exact ⟨hspills _ _ (exec_call o), hspills _ _ (exec_callx a)⟩
  case refills =>
    obtain ⟨u, hu, hctx, hmem, hsib, hissued⟩ := State.refillReturn_loads hoff hm
    have hiss : u.ctx.iss.slot ≠ .X := by rwa [hctx]
    have hregs : u.ctx.regs = s.ctx.regs := by rw [hctx]
    have hlnu : u.ctx.lnu = s.ctx.lnu := by rw [hctx]
    have hspilled : s.ctx.csr.spilled ≠ 0 := fun h => h0 (congrArg BitVec.toNat h)
    rw [exec_ret_refills hras hspilled, hu, State.redirect_of_ne_X hiss, deliver_ok]
    exact ⟨_, rfl, (congrArg Ctx.ras hctx).trans hras, congrArg Ctx.csr hctx, rfl, rfl, rfl,
      ⟨hregs, hlnu, hmem, hsib⟩, congrArg Ctx.pend hctx, hissued⟩
  case inX =>
    have hexec : exec i s = .next (s.redirect t id) := by
      rcases hi with ⟨rfl, rfl⟩ | ⟨rfl, rfl⟩ | ⟨rfl, rfl, hoff⟩
      · rfl
      · rfl
      · exact exec_bempty_taken hoff
    rw [hexec]
    refine ⟨fun hexit => ?_, fun u hexit hs hne => ?_, fun hexit hs => ?_, fun hexit hs => ?_⟩
    · rw [State.redirect_X_dropped hslot _ (.inl hexit)]
      rfl
    · rw [State.redirect_X_dropped hslot _ (.inr ⟨u, hs, hne⟩)]
      rfl
    · rw [State.redirect_X_same hslot hexit hs]
    · rw [State.redirect_X_alone hslot _ hexit hs]
      rfl
  case full =>
    rw [exec_call, exec_callx, State.callTo_full hlen h, State.callTo_full hlen h]
    exact ⟨rfl, rfl⟩
end
